-- ==== Sys2Proof/Word.lean ====
section
/-! DEFINITION. The word types of the model and their plainest arithmetic: nothing here is a rule of
the spec, only the names the other files use. -/
namespace Sys2Proof

/-- A byte of a memory. -/
abbrev Byte := BitVec 8
/-- A 64-bit value: a scalar or uniform register, a system register, a device register. -/
abbrev Word := BitVec 64
/-- A 32-bit value: a lane register of one lane, a 32-bit device register. -/
abbrev Half := BitVec 32
/-- A 128-byte line of any space (R33), byte `k` in bits `[8k+7:8k]`. -/
abbrev Line := BitVec 1024
/-- A byte mask of a line. -/
abbrev Mask := BitVec 128

/-- `1` for true and `0` for false. -/
def bit (b : Bool) : Nat := if b then 1 else 0

/-- Ceiling of a quotient. -/
def ceilDiv (a b : Nat) : Nat := (a + b - 1) / b

/-- Addition of natural numbers that stops at `top`. -/
def satAdd (top a b : Nat) : Nat := min top (a + b)

end Sys2Proof
end

