-- ==== Sys2Proof/Syntax.lean ====
section
/-! DEFINITION. The commands of the GH-880 as one inductive type, one constructor per row of the
opcode table. The table gives the rows no bits and no operands: an instruction of Svetlu carries the
agent that executes it and the fields of its word (Tables 3.4 and 3.5), a protocol message or an event
carries what the spec says it brings with it from outside. -/
namespace Sys2Proof

/-- Which of the three cores of a cluster (Table 3.2, CORE). -/
inductive CoreSel where
  | s | v0 | v1
  deriving DecidableEq, Repr, Inhabited

/-- What executes an instruction: the S-core of a cluster, or the thread group resident in a slot of
one of its two V-cores (R257). The cluster is its logical number (R18). -/
inductive Agent where
  | sCore (n : Nat)
  | group (n : Nat) (v1 : Bool) (slot : Nat)
  deriving DecidableEq, Repr, Inhabited

/-! The operand fields of the formats of Tables 3.4 and 3.5, as the instruction word holds them. The
selector fields (OP, FUNCT7, SUB, COND, FN4, FN3, FN, AOP) are fixed by the row. -/

/-- Format RR. -/
structure FmtRR where
  rd : BitVec 6
  rs1 : BitVec 6
  rs2 : BitVec 6
  deriving DecidableEq, Repr, Inhabited
/-- Format RI. -/
structure FmtRI where
  rd : BitVec 6
  rs1 : BitVec 6
  imm : BitVec 13
  deriving DecidableEq, Repr, Inhabited
/-- Format UI. -/
structure FmtUI where
  rd : BitVec 6
  imm : BitVec 19
  deriving DecidableEq, Repr, Inhabited
/-- Format MB: `rd` is RD of a load and RS2 of a store. -/
structure FmtMB where
  rd : BitVec 6
  rs1 : BitVec 6
  size : BitVec 3
  imm : BitVec 10
  deriving DecidableEq, Repr, Inhabited
/-- Format MA. -/
structure FmtMA where
  rd : BitVec 6
  rs1 : BitVec 6
  rs2 : BitVec 6
  sz : BitVec 1
  mark : BitVec 2
  scope : BitVec 2
  deriving DecidableEq, Repr, Inhabited
/-- Format BR. -/
structure FmtBR where
  rs1 : BitVec 6
  rs2 : BitVec 6
  off : BitVec 10
  deriving DecidableEq, Repr, Inhabited
/-- Format JL. -/
structure FmtJL where
  rd : BitVec 6
  off : BitVec 19
  deriving DecidableEq, Repr, Inhabited
/-- Format SY. -/
structure FmtSY where
  rd : BitVec 6
  rs1 : BitVec 6
  sys : BitVec 9
  deriving DecidableEq, Repr, Inhabited
/-- Format TK, its reserved field included. -/
structure FmtTK where
  ra : BitVec 6
  tok : BitVec 6
  rsv : BitVec 10
  deriving DecidableEq, Repr, Inhabited
/-- Format GL, its reserved field included. -/
structure FmtGL where
  vd : BitVec 8
  va : BitVec 8
  vb : BitVec 8
  vc : BitVec 8
  ty : BitVec 4
  rnd : BitVec 3
  ub : BitVec 1
  gd : BitVec 1
  pred : BitVec 3
  neg : BitVec 1
  rsv : BitVec 4
  deriving DecidableEq, Repr, Inhabited
/-- Format GM. `aop` is the AOP field: the row fixes it for `v.atom`, elsewhere it must be zero. -/
structure FmtGM where
  vd : BitVec 8
  va : BitVec 8
  ubase : BitVec 6
  imm : BitVec 19
  size : BitVec 3
  mark : BitVec 2
  scope : BitVec 2
  aop : BitVec 4
  gd : BitVec 1
  pred : BitVec 3
  neg : BitVec 1
  deriving DecidableEq, Repr, Inhabited
/-- Format GC, its reserved field included. -/
structure FmtGC where
  off : BitVec 32
  gd : BitVec 1
  pred : BitVec 3
  neg : BitVec 1
  rsv : BitVec 16
  deriving DecidableEq, Repr, Inhabited

/-- Which issue instruction a token claim comes from (R157). -/
inductive IssueKind where
  | mx | cp | gt | grp
  deriving DecidableEq, Repr, Inhabited
/-- One claim gathered by an arbitration cycle (R160): the agent and its issue instruction. -/
structure Claim where
  a : Agent
  kind : IssueKind
  f : FmtTK
  deriving DecidableEq, Repr, Inhabited

/-- Names one coherence message in flight inside the device (R241): the die it left, the die it goes
to, its line index (Commons address shifted right by 7) and the cluster it serves (0 where none). -/
structure MsgSel where
  src : Nat
  dst : Nat
  line : Nat
  cl : Nat
  deriving DecidableEq, Repr, Inhabited

/-- What a master that is no cluster (Table 7.8) was given at a partition's slices of a die in a window, in bytes, and how many
of its requests were served after their deadline (R233). -/
structure RegTally where
  master : BitVec 9
  served : Nat
  delivered : Nat
  late : Nat
  deriving DecidableEq, Repr, Inhabited

/-- The two kinds of copy engine (R282). -/
inductive Engine where
  | porter | gather
  deriving DecidableEq, Repr, Inhabited

/-- A link message: the header of Table 11.3 and the data that DLEN says follows it. -/
structure LinkMsg where
  kind : BitVec 4
  aop : BitVec 4
  srcDie : BitVec 3
  dlen : BitVec 3
  chan : BitVec 8
  dst : BitVec 12
  src : BitVec 12
  addr : BitVec 48
  req : BitVec 16
  depth : BitVec 12
  rsv : BitVec 6
  mask : Mask
  data : Line
  deriving DecidableEq, Repr, Inhabited

/-- A received frame (Table 11.2): `coded` says that the code reports it correctable and `crc` that the CRC matches (R308);
`corrected` is the number of symbols the code corrected. `msgs` are the messages that begin in it; with `cont` the last of
them continues into the next data frame. -/
structure Frame where
  coded : Bool
  crc : Bool
  seq : BitVec 12
  ack : BitVec 12
  lv0 : BitVec 10
  lv1 : BitVec 10
  lv2 : BitVec 10
  corrected : Nat
  msgs : List LinkMsg
  cont : Bool
  deriving DecidableEq, Repr, Inhabited

/-- A frame is good when the code reports it correctable and the CRC matches (R308). -/
def Frame.good (f : Frame) : Bool := f.coded && f.crc

/-- What a training frame carries and finds (R307, R317). -/
structure Training where
  peer : BitVec 12
  peerLink : BitVec 6
  rateMax : BitVec 2
  switch : Bool
  working : BitVec 4
  deriving DecidableEq, Repr, Inhabited

/-- The fields of a collective that every member must agree on (R334). -/
structure CollKey where
  seq : BitVec 32
  op : BitVec 8
  redop : BitVec 8
  efmt : BitVec 8
  order : BitVec 8
  count : BitVec 32
  root : BitVec 16
  deriving DecidableEq, Repr, Inhabited

/-- How a write reached a command window (R350). -/
structure WinWrite where
  port : Nat
  func : Nat
  win : Nat
  slot : Nat
  len : Nat
  aligned : Bool
  single : Bool
  deriving DecidableEq, Repr, Inhabited

/-- A host command (Table 12.6), OP included: the device goes by that byte, whichever row brings the write (log entry 109). -/
structure HostCmd where
  op : BitVec 8
  flags : BitVec 8
  tag : BitVec 16
  cluster : BitVec 16
  rsv0 : BitVec 16
  maxDur : BitVec 32
  rsv1 : BitVec 32
  entry : BitVec 64
  args : BitVec 320
  deriving DecidableEq, Repr, Inhabited

/-- Why a regulator asserts its ALERT wire (R64). -/
inductive AlertCause where
  | overcurrent | overtemperature | phaseFault
  deriving DecidableEq, Repr, Inhabited

/-- Who drives ALERT (R64, R476). -/
inductive AlertSource where
  | regulator (die : Nat) (cause : AlertCause)
  | chassis
  deriving DecidableEq, Repr, Inhabited

/-- The three registers of a refetch entry (Table 10.5). -/
inductive RfsReg where
  | base | size | src
  deriving DecidableEq, Repr, Inhabited

/-- The key of an error record (R400). -/
structure ErrKey where
  origin : BitVec 32
  kind : BitVec 8
  sub : BitVec 8
  deriving DecidableEq, Repr, Inhabited

/-- A report to the error aggregator (R400). `wit` is the WITNESS_MAP bit of the die or link on which
it arose or arrived (Table 14.8). -/
structure Report where
  key : ErrKey
  reporter : BitVec 32
  rep : Nat
  wit : Nat
  addr : BitVec 64
  detail : BitVec 64
  deriving DecidableEq, Repr, Inhabited

/-- The three paths between twins (R414). -/
inductive TwinPath where
  | t0 | t1 | sideband
  deriving DecidableEq, Repr, Inhabited

/-- What one compute die shows at order 6 of Table 16.1 (R447, R449): its strap byte, which pads read
alike under both pulls, whether its sideband port answers, and what discovery heard on edges B, C
and D (the strap byte of the die that answered and the logical edge it answered on, or silence),
and which edges had a sub-channel fail every attempt. -/
structure DieStrap where
  strap : BitVec 8
  padsOk : BitVec 8
  answers : Bool
  heard : List (Option (BitVec 8 × Nat))
  subFail : BitVec 3
  deriving DecidableEq, Repr, Inhabited

/-- One failing bit found by memory self-test (R465), in the fields of BIST_MEM_LOG. -/
structure MemFail where
  bitIdx : Nat
  isLocal : Bool
  unit : Nat
  row : Nat
  inSpare : Bool
  deriving DecidableEq, Repr, Inhabited

/-- A firmware image offered to flash: whether its signature and chain verify, its security version
and an identity of its contents (R439, R440). -/
structure FlashImage where
  verifies : Bool
  svn : BitVec 8
  digest : BitVec 64
  deriving DecidableEq, Repr, Inhabited

/-- The configuration record but its signature (Table 16.4). -/
structure CfgRecord where
  format : BitVec 32
  revision : BitVec 32
  serial : BitVec 64
  code : BitVec 8
  dies : BitVec 8
  units : BitVec 8
  floor : BitVec 8
  /-- DEV_KEY_HASH. -/
  keyHash : BitVec 384
  /-- TRIMS, 952 bytes. -/
  trims : BitVec 7616
  deriving DecidableEq, Repr, Inhabited

/-- Everything the Lantern and the self-test find at a start (R434 to R450, R464, R465): the images of flash, slot A first;
the configuration record, and whether its signature and chain verify; whether the seed rebuilt from the PUF block agrees with
the helper data, that seed, and the SHA-384 of the public identity key that it derives (R443); the first sample of each sensor,
that of LTN_SENS index k in bits [16k + 15 : 16k]; and the dips of the input that fall within orders 5 to 8, each with the
STAGE that it meets, 4 to 7, and its lowest level in mV (R438). -/
structure PowerOn where
  lantern : List FlashImage
  keeper : List FlashImage
  recordOk : Bool
  record : CfgRecord
  keyOk : Bool
  seed : BitVec 384
  idHash : BitVec 384
  hostDomainOk : Bool
  railsOk : Bool
  sensors : BitVec 1040
  dips : List (Nat × BitVec 16)
  bstEn : Bool
  dies : List DieStrap
  failedPos : List Nat
  memFails : List MemFail
  structFail : Option Nat
  edgeWireFail : Option Nat
  deriving DecidableEq, Repr, Inhabited

/-- What a slice found at order 6 and 7 of Table 17.2. -/
structure SliceResult where
  signature : BitVec 64
  sigOk : Bool
  marchOk : Bool
  arrayIdx : Nat
  saveOk : Bool
  deriving DecidableEq, Repr, Inhabited

/-- The path by which a register access arrives (R485): the manager's BAR2, BAR0 of a function through a host port, or
the Keeper of a cluster. -/
inductive RegPath where
  | bar2
  | vf (f port : Nat)
  | keeper (n : Nat)
  deriving DecidableEq, Repr, Inhabited

/-- The SPDM requests the device answers (R445), and any other. -/
inductive SpdmReq where
  | getVersion | getCapabilities | negotiateAlgorithms | getDigests
  | getCertificate (slot : Nat)
  | challenge (slot : Nat)
  | getMeasurements (index : Nat)
  | keyExchange (slot : Nat)
  | finish | endSession
  | other (code : BitVec 8)
  deriving DecidableEq, Repr, Inhabited

/-- The TAP instructions of R469, and any other. -/
inductive TapInstr where
  | bypass | idcode | samplePreload | extest | extestPulse | extestTrain | clamp | highz
  deriving DecidableEq, Repr, Inhabited

/-- What the partner sends in the identity exchange (R413). -/
structure TwinProof where
  id : BitVec 12
  peerId : BitVec 12
  code : BitVec 4
  proofOk : Bool
  deriving DecidableEq, Repr, Inhabited

/-- What trips the input switch (R479). -/
inductive SwitchFault where
  | overcurrent | railShort | reverseCurrent
  deriving DecidableEq, Repr, Inhabited

/-- The two ends of the command mirror (R418): this module's own command acknowledged by the partner,
or the partner's command received here with its window's SEQ, credits, ring position and phase. -/
inductive MirrorMsg where
  | acked (func win : Nat) (seq : BitVec 32)
  | received (func win : Nat) (seq : BitVec 32) (slot : BitVec 8) (credits ringPos : Nat) (phase : Bool) (c : HostCmd)
  deriving DecidableEq, Repr, Inhabited

/-- The two ends of the record mirror (R419): the next record of a window here, or the partner's record
for a ring entry, with the SEQ of the command it completes. -/
inductive MirrorRec where
  | acked (func win : Nat)
  | received (func win entry : Nat) (seq : BitVec 32) (irq : Bool) (rec : BitVec 512)
  deriving DecidableEq, Repr, Inhabited

/-- A shadow copy of a page sent to the partner (with whether its target lay in a store partition of
the standby function), or a line of a shadowed page received from it (R421). -/
inductive ShadowMsg where
  | sent (page : Nat) (ok : Bool)
  | received (line : Nat) (data : Line)
  deriving DecidableEq, Repr, Inhabited

/-- A shadow point acknowledged by the partner, or announced by it (R422). -/
inductive ShadowPoint where
  | acked (point : BitVec 24)
  | received (point : BitVec 24)
  deriving DecidableEq, Repr, Inhabited

/-- The rows of the opcode table. Each docstring is the row's rule and summary. -/
inductive Instr where
  /-- R88: Scalar add of two registers, wrapping, with no flags. -/
  | add (a : Agent) (f : FmtRR)
  /-- R106: Scalar subtract of two registers, wrapping. -/
  | sub (a : Agent) (f : FmtRR)
  /-- R106: Bitwise AND of two scalar registers. -/
  | and (a : Agent) (f : FmtRR)
  /-- R106: Bitwise OR of two scalar registers. -/
  | or (a : Agent) (f : FmtRR)
  /-- R106: Bitwise exclusive OR of two scalar registers. -/
  | xor (a : Agent) (f : FmtRR)
  /-- R106: Shift left logical by rs2[6:0]; a shift of 64 or more gives 0. -/
  | sll (a : Agent) (f : FmtRR)
  /-- R106: Shift right logical by rs2[6:0]; a shift of 64 or more gives 0. -/
  | srl (a : Agent) (f : FmtRR)
  /-- R106: Shift right arithmetic by rs2[6:0]; a shift of 64 or more gives copies of bit 63. -/
  | sra (a : Agent) (f : FmtRR)
  /-- R106: Set rd to 1 when rs1 is less than rs2 as signed values, else 0. -/
  | slt (a : Agent) (f : FmtRR)
  /-- R106: Set rd to 1 when rs1 is less than rs2 as unsigned values, else 0. -/
  | sltu (a : Agent) (f : FmtRR)
  /-- R106: Low 64 bits of the product of two registers. -/
  | mul (a : Agent) (f : FmtRR)
  /-- R106: High 64 bits of the signed 128-bit product. -/
  | mulh (a : Agent) (f : FmtRR)
  /-- R106: High 64 bits of the unsigned 128-bit product. -/
  | mulhu (a : Agent) (f : FmtRR)
  /-- R87: Signed division that never traps; division by zero and overflow saturate. -/
  | div (a : Agent) (f : FmtRR)
  /-- R87: Unsigned division; division by zero returns all ones. -/
  | divu (a : Agent) (f : FmtRR)
  /-- R87: Signed remainder; division by zero returns zero. -/
  | rem (a : Agent) (f : FmtRR)
  /-- R87: Unsigned remainder; division by zero returns zero. -/
  | remu (a : Agent) (f : FmtRR)
  /-- R106: Lesser of two registers compared as signed values. -/
  | min (a : Agent) (f : FmtRR)
  /-- R106: Greater of two registers compared as signed values. -/
  | max (a : Agent) (f : FmtRR)
  /-- R106: Lesser of two registers compared as unsigned values. -/
  | minu (a : Agent) (f : FmtRR)
  /-- R106: Greater of two registers compared as unsigned values. -/
  | maxu (a : Agent) (f : FmtRR)
  /-- R106: Add the sign-extended IMM13 to rs1. -/
  | addi (a : Agent) (f : FmtRI)
  /-- R106: Bitwise AND of rs1 with the zero-extended IMM13. -/
  | andi (a : Agent) (f : FmtRI)
  /-- R106: Bitwise OR of rs1 with the zero-extended IMM13. -/
  | ori (a : Agent) (f : FmtRI)
  /-- R106: Bitwise exclusive OR of rs1 with the zero-extended IMM13. -/
  | xori (a : Agent) (f : FmtRI)
  /-- R106: Signed compare of rs1 with the sign-extended IMM13. -/
  | slti (a : Agent) (f : FmtRI)
  /-- R106: Unsigned compare of rs1 with the zero-extended IMM13. -/
  | sltiu (a : Agent) (f : FmtRI)
  /-- R106: Shift left logical by IMM13[5:0]. -/
  | slli (a : Agent) (f : FmtRI)
  /-- R106: Shift right logical by IMM13[5:0]. -/
  | srli (a : Agent) (f : FmtRI)
  /-- R106: Shift right arithmetic by IMM13[5:0]. -/
  | srai (a : Agent) (f : FmtRI)
  /-- R78: Set RD to sext(IMM19) << 13. -/
  | cstM (a : Agent) (f : FmtUI)
  /-- R78: Set RD to sext(IMM19) << 32. -/
  | cstH (a : Agent) (f : FmtUI)
  /-- R78: Set RD to the instruction address plus (sext(IMM19) << 13). -/
  | cstPc (a : Agent) (f : FmtUI)
  /-- R89: MB-format sized load from Local, the Commons or the device register space. -/
  | ld (a : Agent) (f : FmtMB) (parity : Bool)
  /-- R106: MB-format sized store of the low bytes of rs2. -/
  | st (a : Agent) (f : FmtMB)
  /-- R218: Read-only load through the L1R. -/
  | ldRo (a : Agent) (f : FmtMB)
  /-- R263: MA-format load with an optional acquire mark and a scope. -/
  | ldAcq (a : Agent) (f : FmtMA)
  /-- R263: MA-format store with an optional release mark and a scope. -/
  | stRel (a : Agent) (f : FmtMA)
  /-- R274: Load that sets the agent's reservation on its granule. -/
  | ldResv (a : Agent) (f : FmtMA)
  /-- R274: Conditional store that succeeds only while the reservation holds; it writes 0 or 1 to RD. -/
  | stCond (a : Agent) (f : FmtMA)
  /-- R106: Indivisible add at the Local bank or the home slice, returning the old value. -/
  | amoAdd (a : Agent) (f : FmtMA)
  /-- R106: Indivisible AND, returning the old value. -/
  | amoAnd (a : Agent) (f : FmtMA)
  /-- R106: Indivisible OR, returning the old value. -/
  | amoOr (a : Agent) (f : FmtMA)
  /-- R106: Indivisible exclusive OR, returning the old value. -/
  | amoXor (a : Agent) (f : FmtMA)
  /-- R106: Indivisible signed minimum, returning the old value. -/
  | amoMin (a : Agent) (f : FmtMA)
  /-- R106: Indivisible signed maximum, returning the old value. -/
  | amoMax (a : Agent) (f : FmtMA)
  /-- R106: Indivisible unsigned minimum, returning the old value. -/
  | amoMinu (a : Agent) (f : FmtMA)
  /-- R106: Indivisible unsigned maximum, returning the old value. -/
  | amoMaxu (a : Agent) (f : FmtMA)
  /-- R106: Indivisible swap of memory with rs2. -/
  | amoSwap (a : Agent) (f : FmtMA)
  /-- R90: Indivisible compare-and-swap of 4 or 8 bytes. -/
  | amoCas (a : Agent) (f : FmtMA)
  /-- R106: Indivisible FP32 or FP64 add rounded to nearest-even, returning the old bits. -/
  | amoFadd (a : Agent) (f : FmtMA)
  /-- R91: Branch when the two registers are equal. -/
  | beq (a : Agent) (f : FmtBR)
  /-- R106: Branch when the two registers are not equal. -/
  | bne (a : Agent) (f : FmtBR)
  /-- R106: Branch on a signed less-than compare. -/
  | blt (a : Agent) (f : FmtBR)
  /-- R106: Branch on a signed greater-or-equal compare. -/
  | bge (a : Agent) (f : FmtBR)
  /-- R106: Branch on an unsigned less-than compare. -/
  | bltu (a : Agent) (f : FmtBR)
  /-- R106: Branch on an unsigned greater-or-equal compare. -/
  | bgeu (a : Agent) (f : FmtBR)
  /-- R106: Jump to a PC-relative target and link the return address. -/
  | jal (a : Agent) (f : FmtJL)
  /-- R106: Jump to rs1 plus IMM13 and link the return address. -/
  | jalr (a : Agent) (f : FmtRI)
  /-- R74: Read a system register. -/
  | csrr (a : Agent) (f : FmtSY)
  /-- R74: Write a system register, returning its old value. -/
  | csrw (a : Agent) (f : FmtSY)
  /-- R74: Set bits of a system register, returning its old value. -/
  | csrs (a : Agent) (f : FmtSY)
  /-- R74: Clear bits of a system register, returning its old value. -/
  | csrc (a : Agent) (f : FmtSY)
  /-- R297: Keeper service selected by ecall with s10 = 0x0101; clears a halt on a Porter channel of the context's function. -/
  | clearPorterChannel (a : Agent) (f : FmtSY)
  /-- R297: Keeper service selected by ecall with s10 = 0x0102; clears a halt on a gather channel. -/
  | clearGatherChannel (a : Agent) (f : FmtSY)
  /-- R333: Keeper service selected by ecall with s10 = 0x0201; accepts or refuses a collective record. -/
  | startCollective (a : Agent) (f : FmtSY)
  /-- R84: ecall with an unassigned s10 value; returns all ones in s10 and performs no service. -/
  | ecallUnassignedService (a : Agent) (f : FmtSY)
  /-- R82: Return from a trap to TPC at the level held in TSTATUS.PPRIV. -/
  | eret (a : Agent) (f : FmtSY)
  /-- R85: Takes BREAKPOINT, or halts the target when HALT_ON_BREAK is set. -/
  | ebreak (a : Agent) (f : FmtSY) (parity : Bool)
  /-- R267: Core-scope fence. -/
  | fenceCo (a : Agent) (f : FmtSY)
  /-- R267: Cluster-scope fence. -/
  | fenceCl (a : Agent) (f : FmtSY)
  /-- R267: System-scope fence that waits until buffered stores have been performed at system scope. -/
  | fenceSy (a : Agent) (f : FmtSY)
  /-- R267: A waiting fence completes once its ordering conditions have been met. -/
  | fenceComplete (a : Agent)
  /-- R73: Invalidates the L1R and discards every instruction that the cluster's cores had fetched ahead. -/
  | fenceI (a : Agent) (f : FmtSY)
  /-- R93: Keeper waits for and dequeues the next command of the cluster. -/
  | wfc (a : Agent) (f : FmtSY)
  /-- R94: Ends the command after its tokens and groups are done and its stores are fenced; enters the Keeper command-end entry. -/
  | cmdDone (a : Agent) (f : FmtSY)
  /-- R283: Copies a 64-byte Porter descriptor and queues it against a token. -/
  | cpIssue (a : Agent) (f : FmtTK)
  /-- R283: Copies a 64-byte gather descriptor and queues it against a token. -/
  | gtIssue (a : Agent) (f : FmtTK)
  /-- R107: Copies a launch record and queues a launch of thread groups against a token. -/
  | grpStart (a : Agent) (f : FmtTK)
  /-- R95: Copies a 64-byte waybill into the M-core queue against a token. -/
  | mxIssue (a : Agent) (f : FmtTK) (parity : Bool)
  /-- R161: Waits while a token is pending, then returns its token word. -/
  | tokWait (a : Agent) (f : FmtTK)
  /-- R162: Returns a token word without waiting. -/
  | tokTest (a : Agent) (f : FmtTK)
  /-- R163: Sets a token that is not pending to FREE. -/
  | tokClr (a : Agent) (f : FmtTK)
  /-- R119: Lane integer add. -/
  | vAdd (a : Agent) (f : FmtGL)
  /-- R119: Lane integer subtract. -/
  | vSub (a : Agent) (f : FmtGL)
  /-- R119: Lane integer multiply. -/
  | vMul (a : Agent) (f : FmtGL)
  /-- R119: Lane bitwise AND. -/
  | vAnd (a : Agent) (f : FmtGL)
  /-- R119: Lane bitwise OR. -/
  | vOr (a : Agent) (f : FmtGL)
  /-- R119: Lane bitwise exclusive OR. -/
  | vXor (a : Agent) (f : FmtGL)
  /-- R490: Lane shift left by b[5:0]. -/
  | vShl (a : Agent) (f : FmtGL)
  /-- R490: Lane logical shift right by b[5:0]. -/
  | vShr (a : Agent) (f : FmtGL)
  /-- R490: Lane arithmetic shift right by b[5:0]. -/
  | vSra (a : Agent) (f : FmtGL)
  /-- R181: Lane minimum, signed or unsigned as TYPE selects. -/
  | vMin (a : Agent) (f : FmtGL)
  /-- R181: Lane maximum, signed or unsigned as TYPE selects. -/
  | vMax (a : Agent) (f : FmtGL)
  /-- R119: Sets a predicate from a lane integer compare. -/
  | vSetp (a : Agent) (f : FmtGL)
  /-- R119: Selects VA or VB in each lane by a predicate. -/
  | vSel (a : Agent) (f : FmtGL)
  /-- R119: Moves a lane register. -/
  | vMov (a : Agent) (f : FmtGL)
  /-- R181: Lane floating-point add. -/
  | vFadd (a : Agent) (f : FmtGL)
  /-- R181: Lane floating-point multiply. -/
  | vFmul (a : Agent) (f : FmtGL)
  /-- R96: Lane fused multiply-add. -/
  | vFma (a : Agent) (f : FmtGL)
  /-- R185: Lane floating-point minimum under the NaN and signed-zero rules. -/
  | vFmin (a : Agent) (f : FmtGL)
  /-- R185: Lane floating-point maximum under the NaN and signed-zero rules. -/
  | vFmax (a : Agent) (f : FmtGL)
  /-- R182: Lane conversion between types. -/
  | vCvt (a : Agent) (f : FmtGL)
  /-- R192: Lane FP32 reciprocal in the SFU. -/
  | vRcp (a : Agent) (f : FmtGL)
  /-- R192: Lane FP32 reciprocal square root in the SFU. -/
  | vRsqrt (a : Agent) (f : FmtGL)
  /-- R192: Lane FP32 base-2 exponential in the SFU. -/
  | vExp2 (a : Agent) (f : FmtGL)
  /-- R192: Lane FP32 base-2 logarithm in the SFU. -/
  | vLog2 (a : Agent) (f : FmtGL)
  /-- R184: Sets a predicate from a lane floating-point compare. -/
  | vFsetp (a : Agent) (f : FmtGL)
  /-- R125: Shuffle from a lane chosen by b & 31, with a fill operand. -/
  | xchPick (a : Agent) (f : FmtGL)
  /-- R125: Shuffle from lane l - delta, with a fill operand. -/
  | xchLo (a : Agent) (f : FmtGL)
  /-- R125: Shuffle from lane l + delta, with a fill operand. -/
  | xchHi (a : Agent) (f : FmtGL)
  /-- R125: Shuffle from lane l XOR mask, with a fill operand. -/
  | xchSwz (a : Agent) (f : FmtGL)
  /-- R126: Vote that is true when any participating lane is non-zero. -/
  | pollAny (a : Agent) (f : FmtGL)
  /-- R126: Vote that is true when every participating lane is non-zero. -/
  | pollAll (a : Agent) (f : FmtGL)
  /-- R126: Writes the mask of participating non-zero lanes. -/
  | pollMask (a : Agent) (f : FmtGL)
  /-- R173: Loads a fragment tile into lane registers. -/
  | fragLd (a : Agent) (f : FmtGL)
  /-- R173: Stores a fragment tile from lane registers. -/
  | fragSt (a : Agent) (f : FmtGL)
  /-- R174: Fragment multiply-accumulate through the M-core. -/
  | fragMma (a : Agent) (f : FmtGL)
  /-- R173: Fills a C fragment with a uniform value. -/
  | fragFill (a : Agent) (f : FmtGL)
  /-- R127: Per-lane load, optionally marked acquire. -/
  | vLd (a : Agent) (f : FmtGM)
  /-- R127: Per-lane store, optionally marked release. -/
  | vSt (a : Agent) (f : FmtGM)
  /-- R127: Per-lane read-only load through the L1R. -/
  | vLdRo (a : Agent) (f : FmtGM)
  /-- R131: Coalesced lane atomic add. -/
  | vAtomAdd (a : Agent) (f : FmtGM)
  /-- R131: Coalesced lane atomic AND. -/
  | vAtomAnd (a : Agent) (f : FmtGM)
  /-- R131: Coalesced lane atomic OR. -/
  | vAtomOr (a : Agent) (f : FmtGM)
  /-- R131: Coalesced lane atomic exclusive OR. -/
  | vAtomXor (a : Agent) (f : FmtGM)
  /-- R131: Coalesced lane atomic signed minimum. -/
  | vAtomMin (a : Agent) (f : FmtGM)
  /-- R131: Coalesced lane atomic signed maximum. -/
  | vAtomMax (a : Agent) (f : FmtGM)
  /-- R131: Coalesced lane atomic unsigned minimum. -/
  | vAtomMinu (a : Agent) (f : FmtGM)
  /-- R131: Coalesced lane atomic unsigned maximum. -/
  | vAtomMaxu (a : Agent) (f : FmtGM)
  /-- R133: Coalesced lane atomic swap in ascending lane order. -/
  | vAtomSwap (a : Agent) (f : FmtGM)
  /-- R133: Coalesced lane compare-and-swap in ascending lane order. -/
  | vAtomCas (a : Agent) (f : FmtGM)
  /-- R132: Coalesced floating-point atomic add combined through a fixed tree, or exactly. -/
  | vAtomFadd (a : Agent) (f : FmtGM)
  /-- R121: Group branch that moves the PCs of the active or guarded threads. -/
  | vBra (a : Agent) (f : FmtGC)
  /-- R122: Makes threads wait at the join; the waiting set is released when every live thread waits. -/
  | vJoin (a : Agent) (f : FmtGC)
  /-- R121: Makes the active threads exited; the group ends when its last live thread exits. -/
  | vExit (a : Agent) (f : FmtGC)
  /-- R110: The device starts the next waiting group of a launch on a V-core that has a free slot and free registers. -/
  | groupLaunch (n : Nat)
  /-- R145: The M-core takes a waybill D = A × B + C at the head of its queue, checks it and starts it. -/
  | mma (n : Nat)
  /-- R145: The M-core takes a waybill D = A × B at the head of its queue, checks it and starts it. -/
  | mmaZ (n : Nat)
  /-- R148: The M-core takes a waybill that rounds an XP operand into CFMT, checks it and starts it. -/
  | xpFin (n : Nat)
  /-- R146: The M-core takes a waybill that adds two XP operands exactly, checks it and starts it. -/
  | xpSum (n : Nat)
  /-- R164: The token named by WAIT leaves PENDING, and the waiting waybill proceeds or fails. -/
  | waybillWaitResolved (n : Nat)
  /-- R155: The last D line is written and the waybill's token becomes DONE. -/
  | waybillComplete (n : Nat) (parity : Bool)
  /-- R95: An entry of a full waybill queue frees, and a waiting mx.issue proceeds. -/
  | waybillQueueRoom (n : Nat)
  /-- R160: One arbitration cycle decides the token claims and queue arrivals gathered since the previous cycle. -/
  | tokenArbitration (n : Nat) (claims : List Claim)
  /-- R161: A token that a tok.wait waits on leaves PENDING, and the wait returns the token word. -/
  | tokWaitRelease (a : Agent)
  /-- R223: A Commons line or completion reaches the cluster, frees its miss register and satisfies the merged loads. -/
  | missReturn (n line : Nat)
  /-- R259: A committed store leaves the core's store queue, within 64 steps of commit. -/
  | storeQueueDrain (n : Nat) (core : CoreSel)
  /-- R259: A line leaves the cluster store buffer to be performed, within 4,096 steps. -/
  | storeBufferPerform (n line : Nat)
  /-- R221: 4,096 steps without a store to the stream disengage the tracker. -/
  | streamTrackerTimeout (n k : Nat)
  /-- R222: A prefetch that is not served within 1,024 steps is dropped. -/
  | prefetchDrop (die line : Nat)
  /-- R243: The home receives a read miss and grants S or E or forwards to the owner. -/
  | rds (m : MsgSel)
  /-- R243: The home receives a store miss that allocates and grants M. -/
  | rdx (m : MsgSel)
  /-- R243: The home receives an upgrade from S or O to M. -/
  | upg (m : MsgSel)
  /-- R243: The home receives a read without allocation. -/
  | rdu (m : MsgSel)
  /-- R243: The home receives a write-through store and applies it. -/
  | wrt (m : MsgSel)
  /-- R249: The home receives an atomic or reduction and applies it after recall and invalidation. -/
  | atm (m : MsgSel)
  /-- R244: The home accepts the eviction of an E line at once. -/
  | pute (m : MsgSel)
  /-- R244: The home accepts the eviction of an M line with its data at once. -/
  | putm (m : MsgSel)
  /-- R244: The home accepts the eviction of an O line with its data at once. -/
  | puto (m : MsgSel)
  /-- R242: The owner receives a forward for a read and supplies the requester. -/
  | fwds (m : MsgSel)
  /-- R242: The owner receives a forward for ownership, supplies the data and invalidates its copy. -/
  | fwdx (m : MsgSel)
  /-- R242: The owner receives a forward for a read without allocation. -/
  | fwdu (m : MsgSel)
  /-- R242: The owner receives a recall and returns the data to the home. -/
  | recall (m : MsgSel)
  /-- R242: A sharer receives an invalidation and acknowledges it. -/
  | inv (m : MsgSel)
  /-- R243: The home receives an invalidation acknowledgement. -/
  | invack (m : MsgSel)
  /-- R243: The home receives a forward confirmation with the owner's prior state. -/
  | fwdack (m : MsgSel)
  /-- R242: The requester receives line data with its grant. -/
  | data (m : MsgSel)
  /-- R243: The home receives recalled data and writes it. -/
  | recalldata (m : MsgSel)
  /-- R245: The home learns that the line has already left the owner's cache and waits for the Put. -/
  | wbpending (m : MsgSel)
  /-- R247: The requester receives a refusal, with or without a ticket. -/
  | retry (m : MsgSel)
  /-- R247: A request refused without a ticket is sent again once a reserved buffer frees and BACKOFF has elapsed. -/
  | retryResend (m : MsgSel)
  /-- R247: The requester receives Wake for its ticket and sends the request again. -/
  | cohWake (m : MsgSel)
  /-- R242: The evicting die receives acceptance of its Put and frees the buffer entry. -/
  | wback (m : MsgSel)
  /-- R243: The requester receives the completion of a WrT or an Atm. -/
  | comp (m : MsgSel)
  /-- R253: A reserving cluster receives notice that its Commons reservation has ended. -/
  | killNotice (m : MsgSel)
  /-- R233: At the end of each 1,024-step window the regulator judges missed guarantees and renews credit. `tally` is what the
  masters were given whose requests do not travel as messages. -/
  | regulatorWindowEnd (p die : Nat) (tally : List RegTally)
  /-- R287: The Porter reaches a COPY descriptor, checks it and copies its rows. -/
  | copy (ch : Nat)
  /-- R287: The Porter reaches a FILL descriptor and writes the pattern. -/
  | fill (ch : Nat)
  /-- R287: The Porter reaches a WRITE_IMM descriptor and writes 8 bytes, as a milestone when flagged. -/
  | writeImm (ch : Nat)
  /-- R288: The Porter reaches a REDUCE descriptor and sends the contributions as Atm requests. -/
  | reduce (ch : Nat)
  /-- R287: A stream fence descriptor holds later descriptors until every earlier write of the channel has completed. -/
  | fence (ch : Nat)
  /-- R283: An engine command leaves the cluster's outbound queue when its channel queue has room. -/
  | engineCommandDequeue (n k : Nat)
  /-- R292: Every descriptor of a Porter command has completed, and its token becomes DONE with the first failing status. -/
  | porterCommandComplete (ch k : Nat)
  /-- R294: A write of PTR_CH_CTL.CLEAR or GTH_CH_CTL.CLEAR ends a channel halt. -/
  | clear (eng : Engine) (ch : Nat)
  /-- R295: The engine command of a timed-out command stops at a line boundary, and ABANDONED is recorded after its writes drain. -/
  | engineAbandon (eng : Engine) (ch k : Nat)
  /-- R301: The gather engine starts a gather command and checks it. -/
  | gather (ch : Nat)
  /-- R303: A row fetched by the gather engine arrives and is pooled into its bag. -/
  | rowFetchReturn (ch k i : Nat) (row : List (BitVec 8)) (failed : Bool)
  /-- R305: Every output row has been written, and the gather token becomes DONE. -/
  | gatherComplete (ch k : Nat)
  /-- R296: A source read stalled on healing proceeds or fails after at most 1 ms. -/
  | sourceHealWaitEnd (eng : Engine) (ch k : Nat) (healed : Bool)
  /-- R312: A link receiver takes a data frame, accepting it in order or discarding it. -/
  | dataFrame (l : Nat) (f : Frame)
  /-- R308: A link receiver takes an idle frame carrying SEQ, ACK and credits. -/
  | idleFrame (l : Nat) (f : Frame)
  /-- R312: A link sender receives a NAK frame and replays from the frame after ACK. -/
  | nakFrame (l : Nat) (f : Frame)
  /-- R317: A link receives a training frame that exchanges identifiers and logical link numbers. -/
  | trainingFrame (l : Nat) (t : Training)
  /-- R322: A target link agent receives a remote write and performs it at the home slice. -/
  | wr (l : Nat) (m : LinkMsg)
  /-- R310: A target receives a remote reduction or atomic and performs it as an Atm. -/
  | linkAtm (l : Nat) (m : LinkMsg)
  /-- R322: A target receives a remote read of one line. -/
  | rd (l : Nat) (m : LinkMsg)
  /-- R323: A target receives a milestone and holds it until the earlier requests of its channel have been performed. -/
  | milestone (l : Nat) (m : LinkMsg)
  /-- R323: A target receives the end of a source stream and frees the tally entry. -/
  | close (l : Nat) (m : LinkMsg)
  /-- R324: A target drops the held milestones of a channel whose request failed. -/
  | abort (l : Nat) (m : LinkMsg)
  /-- R322: The source receives remote read data or an error indication. -/
  | rdData (l : Nat) (m : LinkMsg)
  /-- R323: The source receives acknowledgement that requests have been performed at the target. -/
  | wack (l : Nat) (m : LinkMsg)
  /-- R319: The source learns that a request is undelivered and sends it on the next route. -/
  | nakUndeliv (l : Nat) (m : LinkMsg)
  /-- R323: The source learns that a request was refused for want of a tally entry. -/
  | nakBusy (l : Nat) (m : LinkMsg)
  /-- R323: A request refused with NAK_BUSY is sent again after 2 µs. -/
  | nakBusyResend (chan dst req : Nat)
  /-- R319: A request of unknown fate completes with LINK_ERROR at its attempt timeout. -/
  | attemptTimeout (chan dst req : Nat)
  /-- R309: A lane loses symbol lock for 2 µs or exceeds the correction ratio over 1 ms, and the link retrains. -/
  | laneFailed (l lane : Nat)
  /-- R314: Frame lock lost for 2 µs starts a retrain. -/
  | frameLockLost (l : Nat)
  /-- R314: A retrain ends on the largest working lane set and replay resumes. -/
  | retrainComplete (l : Nat) (working : BitVec 4)
  /-- R315: A new training of a down link is attempted every 10 ms while EN is 1. -/
  | trainingRetry (l : Nat)
  /-- R325: Every path to a peer has failed for the time of Table 11.6, and the peer is declared lost. -/
  | peerLost (dev : Nat)
  /-- R334: The head receives READY from a member for a collective SEQ. -/
  | collReady (g member : Nat) (r : CollKey)
  /-- R334: A member receives GO with the schedule and begins the collective. -/
  | collGo (g seq : Nat)
  /-- R335: Collective: reduce-scatter followed by all-gather. -/
  | allReduce (g : Nat) (inputs : List (List (BitVec 8)))
  /-- R335: Collective: each member reduces its own shard. -/
  | reduceScatter (g : Nat) (inputs : List (List (BitVec 8)))
  /-- R335: Collective: every member receives every shard. -/
  | allGather (g : Nat) (inputs : List (List (BitVec 8)))
  /-- R335: Collective: the ROOT member's input is copied to every member. -/
  | broadcast (g : Nat) (inputs : List (List (BitVec 8)))
  /-- R334: Collective: completes on each member when GO arrives. -/
  | barrier (g : Nat)
  /-- R337: All writes of a collective to DST are performed, and the done word is written. -/
  | collectiveComplete (g : Nat) (status : BitVec 8)
  /-- R349: A RUN command accepted in a window runs Guest code on a cluster of its context. -/
  | run (w : WinWrite) (c : HostCmd)
  /-- R349: A NOP command completes once every earlier command of its window has completed. -/
  | nop (w : WinWrite) (c : HostCmd)
  /-- R368: Management operation that sets QUIESCE and completes when QUIESCED is 1. -/
  | fnQuiesce (w : WinWrite) (c : HostCmd)
  /-- R368: Management operation that copies the listed Commons pages to the target device. -/
  | fnCopy (w : WinWrite) (c : HostCmd)
  /-- R368: Management operation that copies the Local shares and writes the state image. -/
  | fnExport (w : WinWrite) (c : HostCmd)
  /-- R368: Management operation that installs a function's state image with incremented epochs. -/
  | fnImport (w : WinWrite) (c : HostCmd)
  /-- R368: Management operation that clears QUIESCE. -/
  | fnResume (w : WinWrite) (c : HostCmd)
  /-- R374: A waiting command starts on a cluster that is free for its context. -/
  | commandPlacement (func win : Nat) (seq : BitVec 32)
  /-- R97: A command reaches the cluster's Local slot, and a waiting wfc returns. -/
  | commandDelivery (n : Nat)
  /-- R356: After GO of every host write, the completion record is written to the window's ring and returns a credit. -/
  | completionRecord (func win : Nat)
  /-- R360: An MSI-X message is sent after a record or event, or when HOLDOFF ends. -/
  | msixMessage (func vec : Nat)
  /-- R357: An event entry is written to a function's event ring, or held when the ring is full. -/
  | eventWrite (func : Nat)
  /-- R342: A host read through CXL.mem of a HOST_MEM partition. -/
  | hostMemRead (port addr size : Nat)
  /-- R342: A host write through CXL.mem, performed in arrival order per port. -/
  | hostMemWrite (port addr size : Nat) (data : BitVec 512)
  /-- R342: The host responds to a back-invalidation, and the held device access proceeds. -/
  | bisnpinvResponse (port line : Nat) (dirty : Option (BitVec 512))
  /-- R341: The host returns GO for an engine write to host memory. -/
  | hostGo (k : Nat)
  /-- R410: A host port leaves its trained state, and its functions are moved to the other port. -/
  | portDown (p : Nat)
  /-- R474: PERSTn_N holds one host port and its CXL link state in reset. -/
  | perstAssert (p : Nat)
  /-- R363: Every request of an old placement has completed, and its forwarding alias is released. -/
  | aliasRelease (k : Nat)
  /-- R375: A context's turn on a cluster expires, and YIELD is set. -/
  | sliceExpiry (n : Nat)
  /-- R377: A check every 1 µs terminates a command whose elapsed time exceeds MAX_DUR × TOL/16. -/
  | timeoutCheck (n : Nat)
  /-- R378: Manager clears a context's ERROR mark. -/
  | clearErr (c : Nat)
  /-- R381: Manager requests real-time admission, and the admission test runs. -/
  | rtReq (c : Nat)
  /-- R371: Manager returns a context to the normal class. -/
  | rtDrop (c : Nat)
  /-- R373: Manager starts a move of a context from one cluster to another. -/
  | schMoveGo (v : BitVec 32)
  /-- R373: The share copy finishes, the epoch increments, the alias is installed and the mask bits are exchanged. -/
  | moveComplete
  /-- R372: A write to a context's configuration, checked when it sets EN. -/
  | schCtxCfgWrite (c : Nat) (v : BitVec 32)
  /-- R372: A change of a context's cluster mask, checked like an enabling write. -/
  | schCtxCluWrite (c w : Nat) (v : BitVec 32)
  /-- R407: The scheduler's VC0 probe, sent every 100 µs, finds a cluster that does not answer within 20 µs. -/
  | clusterProbe (n : Nat) (answered : Bool)
  /-- R21: The row's spare takes over a failed slot, or the slot becomes absent. -/
  | spareTakeover (n : Nat) (banksDead : Bool)
  /-- R407: The spare's Keeper clears BLOCK and enters the command loop. -/
  | spareTakeoverComplete (n : Nat)
  /-- R49: Manager requests a step, or enables paced mode. -/
  | pwrStepCtlWrite (v : BitVec 32)
  /-- R41: Every die reaches the new step, and the step is reported. -/
  | stepChangeComplete
  /-- R59: Every 10 ms the sustained-power governor lowers or raises the step. Where no PEAK_MEASUREMENT has brought samples of
  these 10 ms, `meanW` is their mean and `msW` that of the last 1 ms; `fits` is whether the next step fits, where the manual's
  arithmetic does not say (R57). -/
  | sustainedEvaluation (meanW msW : Nat) (fits : Bool)
  /-- R60: Every 1 µs the peak limiter measures power, here in W, and acts on the rolling 1 ms mean. -/
  | peakMeasurement (inputW : Nat)
  /-- R62: A filtered junction reading drives the thermal governor. -/
  | junctionSample (die sensor : Nat) (t : BitVec 16)
  /-- R62: A reading of 108 °C held for 1 ms causes an orderly drain and power-down. -/
  | thermalTrip
  /-- R54: A paced-rate window ends and sets PACE_SHORT when the paced rate was not met. -/
  | paceWindow (met : Bool)
  /-- R64: A regulator or the chassis asserts ALERT, and step 0 is forced in hardware. -/
  | alert (src : AlertSource)
  /-- R64: ALERT stays deasserted for 100 µs, and the step returns under R49. -/
  | alertRelease
  /-- R65: The input falls below 44.0 V; step 0 is commanded and starts are blocked. -/
  | inputBelowWarning (mv : BitVec 16)
  /-- R65: The input rises above 46.0 V, and the recovery interval starts. -/
  | inputRecovered (mv : BitVec 16)
  /-- R65: The 100 µs recovery interval completes, and the rail rises. -/
  | recoveryIntervalEnd
  /-- R67: The input falls below 38.0 V, and an orderly drain starts. -/
  | inputBelowReset (mv : BitVec 16)
  /-- R48: A rail reading below 0.45 V for more than 10 µs is treated as input below the reset level. -/
  | railMonitorLow (die : Nat) (mv : BitVec 16)
  /-- R67: The drain completes, and the compute dies take a warm reset that keeps memory. -/
  | warmReset
  /-- R69: A write of PWR_VIN_MIN.REARM sets MIN_MV to 0xFFFF. -/
  | rearm
  /-- R61: Manager lowers a power limit; a larger value is clamped to the reset value. -/
  | pwrLimitCfgWrite (v : BitVec 32)
  /-- R102: Debug request to halt the selected target. -/
  | halt
  /-- R102: The target halts at its next instruction boundary. -/
  | haltTakesEffect (a : Agent)
  /-- R102: Debug request to resume the selected target. -/
  | resume
  /-- R103: Debug request to execute one instruction or one group issue, then halt. -/
  | step
  /-- R140: Debug read of target state into DBG_DATA. -/
  | dbgAccRead (v : BitVec 32)
  /-- R140: Debug write of target state from DBG_DATA. -/
  | dbgAccWrite (v : BitVec 32)
  /-- R213: A partition configuration write, checked when it sets EN; clearing EN disables the partition. -/
  | cmnPartCfgWrite (p : Nat) (v : BitVec 32)
  /-- R215: The write-back of a disabled replica cache finishes, and ACTIVE and BUSY fall. -/
  | replicaDisableComplete (p : Nat)
  /-- R216: A larger LOCK_WAYS writes back and invalidates the newly locked ways. -/
  | lockWaysWrite (p : Nat) (v : BitVec 32)
  /-- R220: A window class or quota change turns the excess persistent lines into normal lines. -/
  | cmnWinCfgWrite (n : Nat) (v : BitVec 32)
  /-- R231: A regulator entry write, refused with OVERCOMMIT when the guarantees would exceed the limit. -/
  | cmnRegEntWrite (p e : Nat) (v : BitVec 32)
  /-- R225: Keeper write of BLOCK enters or leaves blocking mode. -/
  | cluMissCtlWrite (n : Nat) (v : BitVec 32)
  /-- R255: Starts a directory lookup, which completes within 2 µs. -/
  | cohPeekAddrWrite (v : BitVec 64)
  /-- R298: A refetch table entry write, refused when it breaks the rules. -/
  | ptrRfsWrite (k : Nat) (which : RfsReg) (v : BitVec 64)
  /-- R307: Enables a link and starts its training. -/
  | lnkCfgEnWrite (l : Nat) (v : BitVec 32)
  /-- R314: Manager retrains a link and tests every lane. -/
  | retrain (l : Nat)
  /-- R328: Sets the device identity, taking effect only while every link is disabled. -/
  | lnkDevIdWrite (v : BitVec 32)
  /-- R329: Sets a group's KIND, refused with CFG_ERR when the member list breaks the rules. -/
  | lnkGrpCfgWrite (g : Nat) (v : BitVec 32)
  /-- R346: A function table write, checked for the window pool; a PORT change rebinds the function. -/
  | hifVfTblWrite (f : Nat) (v : BitVec 32)
  /-- R350: Enables or disables a command window and its completion ring. -/
  | hifFnRingCfgWrite (f n : Nat) (v : BitVec 32)
  /-- R357: Enables a function's event ring and resets its count. -/
  | hifFnEvtCfgWrite (f : Nat) (v : BitVec 32)
  /-- R357: Host software reports event entries read, which lets held events be written. -/
  | hifFnEvtHeadWrite (f : Nat) (v : BitVec 32)
  /-- R367: Enables or restarts the Ledger ring. -/
  | hifLdgCfgWrite (v : BitVec 32)
  /-- R364: Clears the written bits of every Commons page of a function. -/
  | ledgerRearm (f : Nat)
  /-- R366: Queues a marker entry for a function. -/
  | ledgerMark (f : Nat)
  /-- R405: Manager frees an error record. -/
  | free (k : Nat)
  /-- R400: The aggregator receives a report and creates a record or adds a witness. -/
  | errorReport (r : Report)
  /-- R404: A reporter's 100 µs fold period ends, and one report with the REPEAT count is sent. -/
  | reportFoldEnd (reporter : BitVec 32) (key : ErrKey)
  /-- R391: The scrubber reads its next line at the configured rate. -/
  | scrubRead (die : Nat)
  /-- R392: Manager starts, stops or re-paces a die's scrubber. -/
  | scrCtlWrite (d : Nat) (v : BitVec 32)
  /-- R386: Every 10 ms each triplicated word is read and voted. -/
  | triplicateCheck (off : Nat) (c0 c1 c2 : BitVec 64)
  /-- R396: A request meets a poisoned word in a page with a refetch source, and healing starts. -/
  | healRequest (line : Nat)
  /-- R299: The healed line is written whole, and the held requests are served. -/
  | healComplete (line : Nat) (data : BitVec 1024)
  /-- R396: A line not healed within 1 ms gives each consumer its outcome. -/
  | healTimeout (line : Nat) (sourceFailed : Bool)
  /-- R411: A permanent edge or die-structure fault stops every die without a drain. -/
  | dieOut (edge : Option Nat) (die : Nat)
  /-- R413: Manager enables pairing, and the Lanterns exchange and prove their identities. -/
  | twnCfgWrite (v : BitVec 32)
  /-- R414: A twin heartbeat arrives on T0, T1 or the sideband. -/
  | heartbeat (path : TwinPath)
  /-- R414: A 50 µs heartbeat interval ends; after four missed intervals the partner is declared lost. -/
  | heartbeatIntervalEnd
  /-- R414: A notice from the partner's Lantern before drain or power-down; the partner is declared lost. -/
  | sidebandNotice (cause : BitVec 8)
  /-- R424: The twin takes over its standby contexts from the mirror store and shadowed pages. -/
  | takeover
  /-- R418: A command of a twinned window is written to the partner's mirror store and acknowledged. -/
  | mirrorCommand (x : MirrorMsg)
  /-- R419: A completion record of a twinned window is sent to the partner's ring copy. -/
  | mirrorRecord (x : MirrorRec)
  /-- R421: The shadow engine copies a written page to the partner. -/
  | shadowPageCopy (x : ShadowMsg)
  /-- R422: Manager starts a shadow point. -/
  | shadowMark
  /-- R422: The partner acknowledges a shadow point, and POINT_DONE is set. -/
  | shadowPointDone (x : ShadowPoint)
  /-- R428: Manager hands every twinned context to the partner without loss. -/
  | handover
  /-- R416: Manager restarts pairing from solo or conflict. -/
  | rejoin
  /-- R434: The input switch is fully on, and the staged start begins. -/
  | powerOn (p : PowerOn)
  /-- R477: PRESENT_N goes low, and the hot-swap controller qualifies the input and closes the switch. -/
  | insertion
  /-- R453: Manager takes the module to the rest state. -/
  | rest
  /-- R455: Manager wakes the module from rest. -/
  | wake (p : PowerOn)
  /-- R436: Manager restarts from order 2 out of SAFE_FAULT. -/
  | restart (p : PowerOn)
  /-- R451: The Lantern die exceeds 115 °C, and an orderly power-down with notice follows. -/
  | lanternOvertemperature
  /-- R480: The Lantern opens the input switch, bleeds the stored energy and lights the removal indicator. -/
  | removalDischarge
  /-- R460: The controller takes the oldest present position for a periodic self-test slice. -/
  | periodicSlice (die : Nat)
  /-- R461: A self-test slice runs after INTERNAL_ERROR or INTERNAL at the next command boundary. -/
  | recoverySlice (n : Nat)
  /-- R458: A slice compares its signature and march result, then passes, retries or fails. -/
  | sliceComplete (die : Nat) (r : SliceResult)
  /-- R462: An intervening event abandons a slice and restores the position. -/
  | sliceAbandoned (die : Nat)
  /-- R463: Manager requests a self-test slice at a chosen position. -/
  | go (v : BitVec 32)
  /-- R14: A write to a register field without behaviour of its own, including W1C clears. -/
  | registerWrite (path : RegPath) (off size : Nat) (v : BitVec 64)
  /-- R338: A host port completes CXL training, for example after PERSTn_N is released, and HIF_PORT_STS.UP rises at its width. -/
  | portLinkTrained (p width pbr : Nat)
  /-- R67: The input falls below 34 V or is lost, cutting a drain short or ending retention in rest. -/
  | suddenInputLoss
  /-- R67: After a warm reset or a reset-level event during start, the input has stayed above 46.0 V for 100 ms and the device re-enters at the rail-sequencing stage. -/
  | railSequencingRestart
  /-- R477: PRESENT_N goes high, or the input leaves 40–60 V during qualification, and the input switch opens with the sequence restarting at order 2. -/
  | presentNHigh
  /-- R277: A power-down requested by the manager drains every buffer and writes back replica caches before the core rail is removed. -/
  | orderlyPowerDown
  /-- R358: A warm reset requested through the host interface discards buffered stores and writes DEVICE_RESET with cause 3. -/
  | warmResetWithoutDrain
  /-- R445: An SPDM request arriving on a DOE mailbox or over MCTP is answered, including challenge, measurements and key exchange. -/
  | spdmRequest (port : Option Nat) (r : SpdmReq)
  /-- R339: A CXL.cache snoop from the host is answered from the port's host-line cache. -/
  | hostSnoop (port line : Nat) (inval : Bool)
  /-- R344: A PCIe configuration write to VF Enable or NumVFs makes virtual functions appear on or leave the host fabric. -/
  | vfEnableWrite (enable : Bool) (numVfs : Nat)
  /-- R469: An IEEE 1149.1 instruction such as EXTEST or CLAMP is shifted in through the TAP, and in board-test mode it drives the boundary cells. -/
  | tapInstruction (i : TapInstr)
  /-- R440: A new Lantern or Keeper image is written to the slot of flash that is not running, which takes effect at the next start. -/
  | flashUpdateWrite (keeper : Bool) (slot : Bool) (image : FlashImage)
  /-- R413: The partner's identity and alias-key proof arrive over the sideband, and STATE becomes PAIRED or REFUSED is set. -/
  | twinIdentityExchange (x : TwinProof)
  /-- R216: The write-back and invalidation of newly locked ways finishes, BUSY clears and the ways pass to the locked store. -/
  | lockWaysWritebackDone (p : Nat)
  /-- R360: The host unmasks an MSI-X vector whose pending bit is set, and the pending message is sent. -/
  | msixVectorUnmask (func vec : Nat)
  /-- R479: The input current exceeds 80 A, a rail fails short, or reverse current starts, and the input switch blocks or opens within its bound. -/
  | inputSwitchOvercurrent (kind : SwitchFault)
  deriving DecidableEq, Repr

end Sys2Proof
end

