-- ==== Sys2Proof/Config.lean ====
section
/-! DEFINITION. What the manual leaves open: free values, each an opaque constant that nothing can
evaluate. A statement that mentions one holds for every value of it. The first argument of most is the
state's own counter of free values taken (Dev.free), so that two uses are unrelated. -/
namespace Sys2Proof.Config

/-- A free 64-bit value: what an RSV or WO field reads (R14, R15), an undefined result, what the host
or a peer supplies. Log entry 1. -/
opaque freeWord : Nat → BitVec 64
/-- A free choice among alternatives the manual allows, to be reduced to the number of them. Log entry 1. -/
opaque freeChoice : Nat → Nat
/-- What a word of a memory reads as before it is written (R390): `none` is an uncorrectable code,
`some v` a readable one. Arguments: the memory, the word index, how often the memory was lost and how
often the word was touched by partial stores. Log entry 2. -/
opaque unwritten : Nat → Nat → Nat → Nat → Option (BitVec 64)
/-- The last-bit freedom of an SFU result (R192): same input, same result. Arguments: function
number 0 to 3, input bits. Log entry 3. -/
opaque sfu : Nat → BitVec 32 → BitVec 32

/-- What `v.cvt` to E8M0 gives where Table 6.5 states no result: a magnitude of 2^128 or more, and a normal
FP64 magnitude below 2^-126 (log entry 18). Arguments: the TYPE code of the source and its bits. -/
opaque e8m0 : Nat → BitVec 64 → BitVec 8

/-- A SHA-384 digest, and a key or certificate that the Lantern derives with it (R443 to R446), as one word: what it is is not
stated, and the same input gives the same value (log entry 108). The first argument says which function. -/
opaque digest : Nat → List (BitVec 64) → BitVec 64

/-- Where the state image of FN_EXPORT keeps an item (R368), as a word of its 64 KiB: the layout is not stated (log entry 46). -/
opaque imageSlot : Nat → Nat

end Sys2Proof.Config
end

