-- ==== Sys2Proof/Machine/Bits.lean ====
section
/-! DEFINITION. Bit fields, sign extension, byte order and the sparse maps that hold arrays of state:
a list of numbered entries in strictly rising order, where an index that is not listed holds the
array's reset value. In a memory no listed entry equals it. -/
namespace Sys2Proof.Machine

/-- Bits `[hi:lo]` of `v` as a natural number. -/
def fld {w : Nat} (v : BitVec w) (hi lo : Nat) : Nat := (v.toNat >>> lo) % 2 ^ (hi + 1 - lo)
/-- Bit `k` of `v`. -/
def bitAt {w : Nat} (v : BitVec w) (k : Nat) : Bool := v.getLsbD k
/-- `v` with bits `[hi:lo]` replaced by `x`. -/
def setFld {w : Nat} (v : BitVec w) (hi lo x : Nat) : BitVec w :=
  (v &&& ~~~ (BitVec.ofNat w ((2 ^ (hi + 1 - lo) - 1) <<< lo)))
    ||| BitVec.ofNat w ((x % 2 ^ (hi + 1 - lo)) <<< lo)
/-- `v` with bit `k` set to `b`. -/
def setBit {w : Nat} (v : BitVec w) (k : Nat) (b : Bool) : BitVec w := setFld v k k (bit b)
/-- Ones in bits `[hi:lo]`. -/
def ones (w hi lo : Nat) : BitVec w := BitVec.ofNat w ((2 ^ (hi + 1 - lo) - 1) <<< lo)

/-- Sign extension of a field to 64 bits. -/
def sext {w : Nat} (v : BitVec w) : Word := v.signExtend 64
/-- Zero extension of a field to 64 bits. -/
def zext {w : Nat} (v : BitVec w) : Word := v.setWidth 64

/-- The bytes of a value, lowest first: the device is little-endian in every space (R72). -/
def toBytes (n : Nat) {w : Nat} (v : BitVec w) : List Byte :=
  (List.range n).map fun k => BitVec.ofNat 8 (v.toNat >>> (8 * k))
/-- The value of bytes given lowest first. -/
def natOfBytes : List Byte → Nat
  | [] => 0
  | b :: bs => b.toNat + 256 * natOfBytes bs
/-- Bytes `[k .. k+n)` of a value, as a natural number: a field of a descriptor given in bytes. -/
def bytesAt {w : Nat} (v : BitVec w) (k n : Nat) : Nat := (v.toNat >>> (8 * k)) % 256 ^ n
/-- `v` with bytes `[k .. k+n)` replaced. -/
def setBytes {w : Nat} (v : BitVec w) (k n x : Nat) : BitVec w := setFld v (8 * (k + n) - 1) (8 * k) x

/-- An array of state, sparse. -/
abbrev NMap (α : Type) := List (Nat × α)

/-- The entry at an index; an unlisted index holds the default. -/
def NMap.get {α : Type} (m : NMap α) (d : α) (k : Nat) : α :=
  match m with
  | [] => d
  | (i, v) :: rest => if i = k then v else NMap.get rest d k
/-- The entry at an index, if one is listed. -/
def NMap.find {α : Type} (m : NMap α) (k : Nat) : Option α :=
  match m with
  | [] => none
  | (i, v) :: rest => if i = k then some v else NMap.find rest k
/-- Insert in order, replacing an entry at the same index. -/
def NMap.put {α : Type} (m : NMap α) (k : Nat) (v : α) : NMap α :=
  match m with
  | [] => [(k, v)]
  | (i, w) :: rest =>
    if k < i then (k, v) :: (i, w) :: rest
    else if k = i then (k, v) :: rest
    else (i, w) :: NMap.put rest k v
/-- Remove every entry at an index. -/
def NMap.del {α : Type} (m : NMap α) (k : Nat) : NMap α :=
  match m with
  | [] => []
  | (i, w) :: rest => if k = i then NMap.del rest k else (i, w) :: NMap.del rest k
/-- Write an entry and keep the canonical form: the default is never listed. -/
def NMap.set {α : Type} [DecidableEq α] (m : NMap α) (d : α) (k : Nat) (v : α) : NMap α :=
  if v = d then NMap.del m k else NMap.put m k v
/-- Strictly rising indices. -/
def NMap.rising {α : Type} : NMap α → Bool
  | [] => true
  | [_] => true
  | (i, _) :: (j, w) :: rest => decide (i < j) && NMap.rising ((j, w) :: rest)
/-- The canonical form of an array with default `d`. -/
def NMap.wf {α : Type} [DecidableEq α] (m : NMap α) (d : α) : Bool :=
  NMap.rising m && m.all fun e => decide (e.2 ≠ d)

/-- Replace the first element that satisfies a test. -/
def updFirst {α : Type} (l : List α) (p : α → Bool) (f : α → α) : List α :=
  match l with
  | [] => []
  | x :: xs => if p x then f x :: xs else x :: updFirst xs p f
/-- Remove the first element that satisfies a test. -/
def eraseFirst {α : Type} (l : List α) (p : α → Bool) : List α :=
  match l with
  | [] => []
  | x :: xs => if p x then xs else x :: eraseFirst xs p

end Sys2Proof.Machine
end

