-- ==== Sys2Proof/Machine/Flags.lean ====
section
/-! DEFINITION. The floating-point flags (R195, Table 6.6) and how they gather in CLU_FPFLAGS. The
scalar instructions set no flag at all (R106). -/
namespace Sys2Proof.Machine

/-- A 7-bit flag field in the bit order of Table 6.6. -/
abbrev FFlags := BitVec 7

/-- INVALID. -/
def fINVALID : FFlags := 0x01
/-- DIVZERO. -/
def fDIVZERO : FFlags := 0x02
/-- OVERFLOW. -/
def fOVERFLOW : FFlags := 0x04
/-- UNDERFLOW. -/
def fUNDERFLOW : FFlags := 0x08
/-- SATURATED. -/
def fSATURATED : FFlags := 0x10
/-- MX_NAN. -/
def fMXNAN : FFlags := 0x20
/-- XP_RANGE. -/
def fXPRANGE : FFlags := 0x40

/-- `f` when the condition holds, no flag otherwise. -/
def fIf (c : Bool) (f : FFlags) : FFlags := if c then f else 0

/-- Bit of CLU_FPFLAGS at which the field of a source begins: the M-core (waybills and fragments),
V-core 0, V-core 1. -/
def flagShift (core : Nat) : Nat := 8 * core

/-- CLU_FPFLAGS with further flags of a source set: setting is cumulative (R195). Source 0 is the
M-core, 1 and 2 the V-cores. -/
def gatherFlags (reg : Word) (source : Nat) (f : FFlags) : Word :=
  reg ||| (f.setWidth 64 <<< flagShift source)

end Sys2Proof.Machine
end

