-- ==== Sys2Proof/Machine/Fp.lean ====
section
/-! DEFINITION. Floating-point values, exact, and their rounding into the formats of Table 6.1
(R176 to R188, R192 to R194). A finite value is a sign, a magnitude and a power of two; every sum and
product is formed exactly and rounded once. -/
namespace Sys2Proof.Machine

/-- A value: NaN, an infinity, or the dyadic number `(-1)^neg * m * 2^e` (with `m = 0` a signed zero). -/
inductive Num where
  | nan
  | inf (neg : Bool)
  | fin (neg : Bool) (m : Nat) (e : Int)
  deriving DecidableEq, Repr, Inhabited

/-- How a format spends its top exponent (Table 6.1): Inf and NaN, NaN only at all ones, or neither. -/
inductive FmtKind where
  | ieee | e4m3 | finite
  deriving DecidableEq, Repr

/-- A floating-point format (Table 6.1). -/
structure Fmt where
  eb : Nat
  mb : Nat
  bias : Int
  kind : FmtKind
  deriving DecidableEq, Repr

/-- FP64. -/
def fp64 : Fmt := ⟨11, 52, 1023, .ieee⟩
/-- FP32. -/
def fp32 : Fmt := ⟨8, 23, 127, .ieee⟩
/-- TF32, without the 13 low bits of the word that holds it (R178). -/
def tf32 : Fmt := ⟨8, 10, 127, .ieee⟩
/-- BF16. -/
def bf16 : Fmt := ⟨8, 7, 127, .ieee⟩
/-- FP16. -/
def fp16 : Fmt := ⟨5, 10, 15, .ieee⟩
/-- FP8 E4M3. -/
def e4m3 : Fmt := ⟨4, 3, 7, .e4m3⟩
/-- FP8 E5M2. -/
def e5m2 : Fmt := ⟨5, 2, 15, .ieee⟩
/-- FP6 E2M3. -/
def e2m3 : Fmt := ⟨2, 3, 1, .finite⟩
/-- FP6 E3M2. -/
def e3m2 : Fmt := ⟨3, 2, 3, .finite⟩
/-- FP4 E2M1. -/
def e2m1 : Fmt := ⟨2, 1, 1, .finite⟩

/-- Bits of a format. -/
def Fmt.width (f : Fmt) : Nat := 1 + f.eb + f.mb
/-- The encoding of the largest finite magnitude. -/
def Fmt.maxEnc (f : Fmt) : Nat :=
  match f.kind with
  | .ieee => (2 ^ f.eb - 1) * 2 ^ f.mb - 1
  | .e4m3 => 2 ^ (f.eb + f.mb) - 2
  | .finite => 2 ^ (f.eb + f.mb) - 1
/-- The encoding of the infinite magnitude, where the format has one. -/
def Fmt.infEnc (f : Fmt) : Nat := (2 ^ f.eb - 1) * 2 ^ f.mb
/-- The canonical NaN (R177). FP6 and FP4 have none: zero (Table 6.5). -/
def Fmt.nanEnc (f : Fmt) : Nat :=
  match f.kind with
  | .ieee => (2 ^ f.eb - 1) * 2 ^ f.mb + 2 ^ (f.mb - 1)
  | .e4m3 => 2 ^ (f.eb + f.mb) - 1
  | .finite => 0
/-- Exponent of the unit of the subnormals. -/
def Fmt.qmin (f : Fmt) : Int := 1 - f.bias - f.mb
/-- An encoding with a sign. -/
def Fmt.withSign (f : Fmt) (neg : Bool) (enc : Nat) : Nat :=
  if neg then 2 ^ (f.eb + f.mb) + enc else enc

/-- The value of an encoding (R176). -/
def Fmt.decode (f : Fmt) (bits : Nat) : Num :=
  let neg := bits.testBit (f.eb + f.mb)
  let mag := bits % 2 ^ (f.eb + f.mb)
  let ex := mag / 2 ^ f.mb
  let man := mag % 2 ^ f.mb
  let special := match f.kind with
    | .ieee => decide (ex = 2 ^ f.eb - 1)
    | .e4m3 => decide (mag = 2 ^ (f.eb + f.mb) - 1)
    | .finite => false
  if special then (if decide (f.kind = .ieee) && decide (man = 0) then .inf neg else .nan)
  else if ex = 0 then .fin neg man f.qmin
  else .fin neg (2 ^ f.mb + man) (f.qmin + (ex - 1 : Int))

/-- Rounding modes, the codes of R183. -/
inductive Rnd where
  | ne | tz | up | down | sr
  deriving DecidableEq, Repr

/-- The mode of a RND or ROUND code; the values 101 to 111 are refused where the field is checked. -/
def Rnd.ofCode (n : Nat) : Rnd :=
  if n = 0 then .ne else if n = 1 then .tz else if n = 2 then .up else if n = 3 then .down else .sr

/-- Bits in a natural number. -/
def nbits (n : Nat) : Nat := if n = 0 then 0 else Nat.log2 n + 1

/-- Whether the magnitude `lo + rem / 2^d` rounds up (R186, R187); `r` are the 16 random bits. -/
def roundsUp (rnd : Rnd) (r : Nat) (neg : Bool) (lo rem d : Nat) : Bool :=
  match rnd with
  | .ne => decide (2 * rem > 2 ^ d) || (decide (2 * rem = 2 ^ d) && decide (lo % 2 = 1))
  | .tz => false
  | .up => !neg && decide (rem > 0)
  | .down => neg && decide (rem > 0)
  | .sr => decide (rem * 65536 / 2 ^ d + r ≥ 65536)

/-- A finite magnitude as an integer count of units `2^q`, rounded; the last component says whether
bits were lost. -/
def roundInt (rnd : Rnd) (r : Nat) (neg : Bool) (m : Nat) (e q : Int) : Nat × Bool :=
  if q ≤ e then (m * 2 ^ (e - q).toNat, false)
  else
    let d := (q - e).toNat
    let lo := m / 2 ^ d
    let rem := m % 2 ^ d
    (if roundsUp rnd r neg lo rem d then lo + 1 else lo, decide (rem ≠ 0))

/-- What an overflow gives (Table 6.4 and the replacements of R186), with its flags. -/
def Fmt.overflow (f : Fmt) (rnd : Rnd) (sat neg : Bool) : Nat × FFlags :=
  if sat then (f.withSign neg f.maxEnc, fOVERFLOW ||| fSATURATED)
  else
    let toLargest := match rnd with
      | .tz => true
      | .up => neg
      | .down => !neg
      | _ => false
    if toLargest then (f.withSign neg f.maxEnc, fOVERFLOW)
    else match f.kind with
      | .ieee => (f.withSign neg f.infEnc, fOVERFLOW)
      | .e4m3 => (f.nanEnc, fOVERFLOW)
      | .finite => (f.withSign neg f.maxEnc, fOVERFLOW ||| fSATURATED)

/-- Round a value into a format: the encoding and the flags of Table 6.5. A NaN or an infinity goes to
the format's own, or to what Table 6.5 gives where it has none. For an infinity that `v.cvt` puts into FP8 E4M3 the table has no row:
the canonical NaN with OVERFLOW, as the final conversion gives (DESIGN CHOICE, log entry 115). -/
def Fmt.round (f : Fmt) (rnd : Rnd) (sat : Bool) (r : Nat) (x : Num) : Nat × FFlags :=
  match x with
  | .nan => (f.nanEnc, fIf (decide (f.kind = .finite)) fINVALID)
  | .inf neg =>
    match f.kind with
    | .ieee => (f.withSign neg f.infEnc, 0)
    | .e4m3 => (f.nanEnc, fOVERFLOW)
    | .finite => (f.withSign neg f.maxEnc, fINVALID ||| fSATURATED)
  | .fin neg m e =>
    if m = 0 then (f.withSign neg 0, 0)
    else
      let top := e + (nbits m : Int) - 1
      let q := max (top - f.mb) f.qmin
      let (n, lost) := roundInt rnd r neg m e q
      let enc := (q - f.qmin).toNat * 2 ^ f.mb + n
      if enc > f.maxEnc then f.overflow rnd sat neg
      else
        let tiny := decide (top < f.qmin + f.mb)
        (f.withSign neg enc, fIf (tiny && lost) fUNDERFLOW)

/-- Whether a value is a NaN. -/
def Num.isNaN : Num → Bool
  | .nan => true
  | _ => false
/-- Whether a value is zero. -/
def Num.isZero : Num → Bool
  | .fin _ 0 _ => true
  | _ => false
/-- The sign of a value; a NaN is positive (R177). -/
def Num.neg : Num → Bool
  | .nan => false
  | .inf n => n
  | .fin n _ _ => n

/-- A product (Table 6.5): exact, with INVALID for zero times infinity. -/
def Num.mul (a b : Num) : Num × FFlags :=
  match a, b with
  | .nan, _ => (.nan, 0)
  | _, .nan => (.nan, 0)
  | .inf s, y => if y.isZero then (.nan, fINVALID) else (.inf (s != y.neg), 0)
  | x, .inf s => if x.isZero then (.nan, fINVALID) else (.inf (x.neg != s), 0)
  | .fin s m e, .fin t n g => (.fin (s != t) (m * n) (e + g), 0)

/-- The least exponent among finite values. -/
def minExp : List Num → Int
  | [] => 0
  | [.fin _ _ e] => e
  | .fin _ _ e :: rest => min e (minExp rest)
  | _ :: rest => minExp rest
/-- Finite values as integers in units of `2^q`. -/
def scaled (q : Int) : List Num → Int
  | [] => 0
  | .fin s m e :: rest =>
    (if s then - ((m * 2 ^ (e - q).toNat : Nat) : Int) else ((m * 2 ^ (e - q).toNat : Nat) : Int)) + scaled q rest
  | _ :: rest => scaled q rest
/-- An integer count of units `2^q` as a value; `zneg` is the sign of zero. -/
def Num.ofScaled (n : Int) (q : Int) (zneg : Bool) : Num :=
  if n = 0 then .fin zneg 0 q else .fin (decide (n < 0)) n.natAbs q

/-- The exact sum of terms (Table 6.5, R194). An exactly zero sum is −0 when every term is −0, +0 when
none is negative, and otherwise what the rounding mode says: −0 under "down" only. -/
def Num.sum (down : Bool) (ts : List Num) : Num × FFlags :=
  if ts.any Num.isNaN then (.nan, 0)
  else
    let pinf := ts.any fun t => decide (t = .inf false)
    let ninf := ts.any fun t => decide (t = .inf true)
    if pinf && ninf then (.nan, fINVALID)
    else if pinf then (.inf false, 0)
    else if ninf then (.inf true, 0)
    else
      let q := minExp ts
      let zneg := if ts.all Num.neg then true else if ts.any Num.neg then down else false
      (Num.ofScaled (scaled q ts) q zneg, 0)

/-- Compare finite or infinite values: is `a < b`. −0 equals +0. -/
def Num.lt (a b : Num) : Bool :=
  match a, b with
  | .nan, _ => false
  | _, .nan => false
  | .inf s, .inf t => s && !t
  | .inf s, .fin .. => s
  | .fin .., .inf t => !t
  | .fin s m e, .fin t n g =>
    let q := min e g
    decide (scaled q [.fin s m e] < scaled q [.fin t n g])
/-- Equality of values (R184): −0 equals +0, a NaN equals nothing. -/
def Num.eqv (a b : Num) : Bool := !a.isNaN && !b.isNaN && !a.lt b && !b.lt a

/-- The conditions of `v.fsetp` (Table 6.3). -/
def fcond (c : Nat) (a b : Num) : Bool :=
  let un := a.isNaN || b.isNaN
  if c = 0 then a.eqv b
  else if c = 1 then !a.eqv b
  else if c = 2 then a.lt b
  else if c = 3 then !un && !a.lt b
  else if c = 4 then !un && !b.lt a
  else if c = 5 then b.lt a
  else if c = 6 then un
  else !un

/-- The lesser, or the greater, of two values (R185): −0 is less than +0; one NaN gives the other
operand. -/
def Num.minMax (wantMax : Bool) (a b : Num) : Num :=
  if a.isNaN && b.isNaN then .nan
  else if a.isNaN then b
  else if b.isNaN then a
  else
    let aLess := a.lt b || (a.eqv b && a.neg && !b.neg)
    if wantMax then (if aLess then b else a) else (if aLess then a else b)

/-- The 16 random bits of stochastic rounding (R188). -/
def srBits (seed : Word) (ofs : Half) (i n : Nat) : Nat :=
  let x0 := seed ^^^ (ofs.setWidth 64 <<< 32) ^^^ BitVec.ofNat 64 ((i % 65536) * 65536)
    ^^^ BitVec.ofNat 64 (n % 65536)
  let x1 := (x0 ^^^ (x0 >>> 31)) * 0x7FB5D329728EA185#64
  let x2 := (x1 ^^^ (x1 >>> 27)) * 0x81DADEF4BC2DD44D#64
  let x3 := x2 ^^^ (x2 >>> 33)
  (x3 >>> 48).toNat

/-! ## The SFU functions (R192)

The manual bounds their results and says that the same input gives the same result; within the bound
the result is a free value (`Config.sfu`, log entry 3). -/

/-- Integer square root, one bit per unit of fuel. -/
def isqrtGo : Nat → Nat → Nat → Nat
  | 0, _, r => r
  | k + 1, n, r => if (r + 2 ^ k) * (r + 2 ^ k) ≤ n then isqrtGo k n (r + 2 ^ k) else isqrtGo k n r
/-- Integer square root of a number below `2^(2k)`. -/
def isqrt (k n : Nat) : Nat := isqrtGo k n 0

/-- Pick the FP32 magnitude encoding `base + (choice mod span) - back`, flushing what lies below the
smallest normal to zero with UNDERFLOW (R192). -/
def sfuPick (fn : Nat) (x : Half) (neg : Bool) (base back span : Nat) : Half × FFlags :=
  let enc := base + (Config.sfu fn x).toNat % span - back
  if enc < 0x800000 then (BitVec.ofNat 32 (fp32.withSign neg 0), fUNDERFLOW)
  else (BitVec.ofNat 32 (fp32.withSign neg (min enc fp32.infEnc)), 0)

/-- The FP32 encoding just below or at `m * 2^e` (`m` positive), and whether it is exact. -/
def fp32Floor (m : Nat) (e : Int) : Nat × Bool :=
  let top := e + (nbits m : Int) - 1
  let q := max (top - 23) fp32.qmin
  let (n, lost) := roundInt .tz 0 false m e q
  ((q - fp32.qmin).toNat * 2 ^ 23 + n, !lost)

/-- An SFU operand: a subnormal counts as a zero of its sign. -/
def sfuArg (x : Half) : Num :=
  match fp32.decode x.toNat with
  | .fin s m e => if m < 2 ^ 23 then .fin s 0 e else .fin s m e
  | y => y

/-- `v.rcp`: within 1 unit in the last place of 1/x. -/
def sfuRcp (x : Half) : Half × FFlags :=
  match sfuArg x with
  | .nan => (0x7FC00000, 0)
  | .inf s => (BitVec.ofNat 32 (fp32.withSign s 0), 0)
  | .fin s m e =>
    if m = 0 then (BitVec.ofNat 32 (fp32.withSign s fp32.infEnc), fDIVZERO)
    else
      let q := 2 ^ 80 / m
      let exact := decide (2 ^ 80 % m = 0)
      -- below the smallest normal the quotient is flushed whatever its last place
      if (-80 : Int) - e + (nbits q : Int) - 1 < -127 then
        (BitVec.ofNat 32 (fp32.withSign s 0), fUNDERFLOW)
      else
        let (b, ex) := fp32Floor q (-80 - e)
        if exact && ex then sfuPick 0 x s b 1 3 else sfuPick 0 x s b 0 2

/-- `v.rsqrt`: within 1 unit in the last place of 1/√x. -/
def sfuRsqrt (x : Half) : Half × FFlags :=
  match sfuArg x with
  | .nan => (0x7FC00000, 0)
  | .inf s => if s then (0x7FC00000, fINVALID) else (0, 0)
  | .fin s m e =>
    if m = 0 then (BitVec.ofNat 32 (fp32.withSign s fp32.infEnc), fDIVZERO)
    else if s then (0x7FC00000, fINVALID)
    else
      -- x = m * 2^e with e made even: 1/√x = √(2^160 / m) * 2^(-80 - e/2)
      let (m', e') := if e % 2 = 0 then (m, e) else (2 * m, e - 1)
      let n := 2 ^ 160 / m'
      let r := isqrt 80 n
      let exact := decide (2 ^ 160 % m' = 0) && decide (r * r = n)
      let (b, ex) := fp32Floor r (-80 - e' / 2)
      if exact && ex then sfuPick 1 x false b 1 3 else sfuPick 1 x false b 0 2

/-- `2^(2^-k)` scaled by `2^62`, for `k` from 1 on, by repeated square roots. -/
def rootOf2 : Nat → Nat
  | 0 => 2 ^ 63
  | k + 1 => isqrt 64 (rootOf2 k * 2 ^ 62)
/-- `2^f` scaled by `2^62`, where `f` is a fraction of `k` bits. -/
def pow2Frac : Nat → Nat → Nat
  | 0, _ => 2 ^ 62
  | k + 1, f =>
    let p := pow2Frac k (f / 2)
    if f % 2 = 1 then p * rootOf2 (k + 1) / 2 ^ 62 else p

/-- Pick a result within 2 units in the last place of a magnitude, from the encodings just below or at a lower and an upper bound
of it: where they differ, the magnitude lies at the upper one. A unit in the last place is a step between neighbouring encodings, on
either side of a power of two as well: R192 does not say which side's unit counts there (DESIGN CHOICE, log entry 115). -/
def sfuNear (fn : Nat) (x : Half) (neg exact : Bool) (lo hi : Nat) : Half × FFlags :=
  if exact then sfuPick fn x neg lo 2 5 else if lo = hi then sfuPick fn x neg lo 1 4 else sfuPick fn x neg hi 1 3

/-- `v.exp2`: within 2 units in the last place of 2^x. -/
def sfuExp2 (x : Half) : Half × FFlags :=
  match sfuArg x with
  | .nan => (0x7FC00000, 0)
  | .inf s => if s then (0, 0) else (0x7F800000, 0)
  | .fin s m e =>
    let v := Num.fin s m e
    if !(v.lt (.fin false 128 0)) then (0x7F800000, fOVERFLOW)
    else if v.lt (.fin true 126 0) then (0, fUNDERFLOW)
    else
      -- x in units of 2^-32, rounded down
      let t : Int := Int.fdiv (scaled (min e (-32)) [v]) (2 ^ ((-32 : Int) - min e (-32)).toNat)
      let ip := Int.fdiv t (2 ^ 32)
      let fr := (t - ip * 2 ^ 32).toNat
      let p := pow2Frac 32 fr
      -- cutting x to 2^-32, and the roots, lose less than 2^-30 of the value
      let whole := decide (0 ≤ e) || decide (m % 2 ^ (-e).toNat = 0)
      sfuNear 2 x false whole (fp32Floor p (ip - 62)).1 (fp32Floor (p + 2 ^ 32) (ip - 62)).1

/-- Binary digits of log2 of `y / 2^120` in [1, 2), by repeated squaring. -/
def log2Frac : Nat → Nat → Nat → Nat
  | 0, _, acc => acc
  | k + 1, y, acc =>
    let z := y * y / 2 ^ 120
    if z ≥ 2 ^ 121 then log2Frac k (z / 2) (2 * acc + 1) else log2Frac k z (2 * acc)

/-- `v.log2`: within 2 units in the last place of log2 x. -/
def sfuLog2 (x : Half) : Half × FFlags :=
  match sfuArg x with
  | .nan => (0x7FC00000, 0)
  | .inf s => if s then (0x7FC00000, fINVALID) else (0x7F800000, 0)
  | .fin s m e =>
    if m = 0 then (0xFF800000, fDIVZERO)
    else if s then (0x7FC00000, fINVALID)
    else
      let top := e + (nbits m : Int) - 1
      let fr := log2Frac 64 (m * 2 ^ (121 - nbits m)) 0
      let t : Int := top * 2 ^ 64 + fr
      if t = 0 then (0, 0)
      else
        -- the digits lose less than two units; a power of two loses nothing
        let power := decide (m = 2 ^ (nbits m - 1))
        let (lo, hi) := if t < 0 then (t.natAbs - 2, t.natAbs) else (t.natAbs, t.natAbs + 2)
        if power then sfuNear 3 x (decide (t < 0)) true (fp32Floor t.natAbs (-64)).1 0
        else sfuNear 3 x (decide (t < 0)) false (fp32Floor lo (-64)).1 (fp32Floor hi (-64)).1

end Sys2Proof.Machine
end

