-- ==== Sys2Proof/Machine/State.lean ====
section
/-! DEFINITION. Everything the spec gives the device, as plain data, the queue of waiting commands, and
the state right after reset. Arrays are sparse (`NMap`): an index that is not listed holds the array's
reset value. -/
namespace Sys2Proof.Machine

/-- Why a step stops with a fault: for no reason. Every command has its effect, and one that names a unit which
no ordering code has reaches nothing and changes nothing (log entry 7). Nobody raises a fault, which is safe. -/
inductive Fault where
  deriving DecidableEq, Repr

/-- Why a step refuses. -/
inductive Refusal where
  /-- Raised by `exec` for a row of the opcode table that has no meaning yet. Safe. -/
  | notModelled (mnemonic : String)
  deriving DecidableEq, Repr

/-- The ordering codes (Table 0.1): GH-880-S, GH-880-M and GH-840-M. -/
inductive Code where
  | gh880s | gh880m | gh840m
  deriving DecidableEq, Repr

/-- What the configuration record last accepted says the part is (Table 16.4): its ordering code, and UNITS, bit 0 the
FP64 matrix extension and bit 1 the twin bridge. -/
structure Part where
  code : Code
  units : BitVec 8
  deriving DecidableEq, Repr

/-! ## Memory -/

/-- State of an 8-byte word of Local or the Commons (R387, R390). An unlisted word is `touched 0`. -/
inductive Mark where
  /-- Not written since power-on or loss; the number of partial stores it has met since. -/
  | touched (n : Nat)
  | written
  | poisoned
  /-- Two or more of its symbols are bad, and no read has met them yet (R387). -/
  | damaged
  deriving DecidableEq, Repr

/-- A memory: bytes in canonical form (rising addresses, no zero listed; an unlisted byte of a written
word is zero), a mark for each 8-byte word, and how often the contents were lost. -/
structure Mem where
  cells : List Host.Cell
  marks : NMap Mark
  gen : Nat
  deriving DecidableEq, Repr

/-- 128 bytes with one poison mark for each 8-byte word. -/
structure LineData where
  v : Line
  poison : BitVec 16
  deriving DecidableEq, Repr

/-! ## Cores -/

/-- Privilege level (R79). -/
inductive Level where
  | guest | keeper
  deriving DecidableEq, Repr

/-- The trap registers of a core or of a group (Tables 3.2 and 4.3). -/
structure TrapRegs where
  tcause : Word
  tpc : Word
  tval : Word
  tstatus : Word
  gtvec : Word
  gscratch : Word
  gdeleg : Word
  deriving DecidableEq, Repr

/-- What a reservation holds (R274): address, size in bytes, and whether it lies in the Commons. -/
structure Resv where
  addr : Nat
  n : Nat
  commons : Bool
  deriving DecidableEq, Repr

/-- One part of a load: `n` bytes at `addr` go, sign-extended or not, to bits `[sh + w - 1 : sh]` of a
register; lane 32 names a scalar or uniform register, lanes 0 to 31 a lane register. -/
structure Piece where
  addr : Nat
  n : Nat
  reg : Nat
  lane : Nat
  sh : Nat
  w : Nat
  signed : Bool
  /-- The address that a trap reports. -/
  trapAddr : Nat
  deriving DecidableEq, Repr

/-- How a load reads (R89, R218, R260). -/
structure LoadKind where
  /-- Through the L1R: `ld.ro`, `v.ld.ro`. -/
  ro : Bool
  /-- Carries no mark: it goes through the L1R in a read-only window. -/
  plain : Bool
  /-- Marked `.acq.sy`. -/
  acqSy : Bool
  /-- Length of the instruction, 4 or 8. -/
  len : Nat
  deriving DecidableEq, Repr

/-- Functions of an atomic (Table 3.11, R131 to R133). -/
inductive AmoFn where
  | add | and | or | xor | min | max | minu | maxu | swap | cas | fadd
  deriving DecidableEq, Repr

/-- An atomic at one address: each contributing lane with its operand and, for `cas`, its compare
value (R130). Lane 32 is a scalar agent. -/
structure Atm where
  by_ : Agent
  fn : AmoFn
  addr : Nat
  n : Nat
  lanes : List (Nat × Word × Word)
  /-- EXACT_ATOM of the group's launch (R132). -/
  exact : Bool
  deriving DecidableEq, Repr

/-- What an agent that has not finished its instruction waits for. -/
inductive Wait where
  | none
  /-- `tok.wait` on a PENDING token (R161). -/
  | token (rd tok : Nat)
  /-- `mx.issue` on a full queue (R95). -/
  | queueRoom (f : FmtTK)
  /-- A fence of scope 0 to 2, or 3 for `fence.i`, and the number of stores before it (R267). -/
  | fence (scope mark : Nat)
  /-- `wfc` on an empty queue (R93). -/
  | wfc (rd : Nat)
  /-- `cmd.done`, while tokens, groups or stores are outstanding (R94). -/
  | cmdDone
  /-- A load whose lines `need` have not arrived; `got` have (R223). -/
  | load (k : LoadKind) (ps : List Piece) (need : List Nat) (got : List (Nat × LineData))
  /-- An atomic: requests not sent yet, addresses whose requests are at their homes, and the values
  returned so far. -/
  | atom (rd : Nat) (n : Nat) (len : Nat) (unsent : List Atm) (todo : List Nat) (res : List (Nat × Word))
  deriving DecidableEq, Repr

/-- What the debug block holds for one target (R101 to R103). -/
structure Dbg where
  onBreak : Bool
  onTrap : Bool
  /-- A HALT waits for the next instruction boundary. -/
  haltReq : Bool
  /-- One instruction runs, then the target halts. -/
  stepping : Bool
  halted : Bool
  /-- REASON: 0 none, 1 HALT, 2 STEP, 3 `ebreak`, 4 trap. -/
  reason : Nat
  cause : Nat
  accErr : Bool
  deriving DecidableEq, Repr

/-- The state of a target the debug block has never touched. -/
def Dbg.none : Dbg :=
  { onBreak := false, onTrap := false, haltReq := false, stepping := false, halted := false,
    reason := 0, cause := 0, accErr := false }

/-- The S-core (R71 to R74). -/
structure SCore where
  regs : NMap Word
  pc : BitVec 48
  level : Level
  ctx : Word
  func : Word
  epoch : Word
  tr : TrapRegs
  ktvec : Word
  kscratch : Word
  cmd : Word
  retired : Word
  yield : Bool
  wait : Wait
  /-- The trap registers as they were before the `ecall` that the Keeper has still to serve (R84). -/
  ecallTr : Option TrapRegs
  resv : Option Resv
  /-- The latest `st.cond` failed for no reason visible to software: the next does not (R276). -/
  stFail : Bool
  deriving DecidableEq, Repr

/-- A resident thread group (R111, Table 4.3). -/
structure Group where
  launch : Nat
  tok : Nat
  vregs : Nat
  regs : NMap Half
  u : NMap Word
  p : NMap (BitVec 32)
  pcs : List (BitVec 48)
  live : BitVec 32
  waiting : BitVec 32
  tr : TrapRegs
  exact : Bool
  wait : Wait
  resv : Option Resv
  /-- As for the S-core (R276). -/
  stFail : Bool
  deriving DecidableEq, Repr

/-- The first group trap of a command (R137). -/
structure GroupTrap where
  core : Nat
  cause : Nat
  pc : Word
  val : Word
  mask : BitVec 32
  deriving DecidableEq, Repr

/-- A launch that has not ended (R107 to R112). -/
structure Launch where
  id : Nat
  tok : Nat
  record : BitVec 512
  gtvec : Word
  gdeleg : Word
  /-- The record has been checked and found good. -/
  checked : Bool
  next : Nat
  resident : Nat
  trapped : Bool
  /-- No further group starts: INTERNAL_ERROR (R138). -/
  stopped : Bool
  /-- The command (`RunCmd.cid`) that issued it. -/
  cid : Nat
  deriving DecidableEq, Repr

/-- State of a token (R157). -/
inductive TokSt where
  | free | pending | done
  deriving DecidableEq, Repr

/-- A token (Table 5.6) and the command that claimed it (R159). -/
structure Token where
  st : TokSt
  status : BitVec 8
  tag : BitVec 16
  source : Nat
  issuer : Nat
  group : Nat
  epoch : Word
  cid : Nat
  deriving DecidableEq, Repr

/-- A FREE token. -/
def Token.free : Token :=
  { st := .free, status := 0, tag := 0, source := 0, issuer := 0, group := 0, epoch := 0, cid := 0 }

/-- A waybill in the queue or running (R153): its 64 bytes, its token, the seed in force at issue
(R190), the issuing context and command, and the stores that met its regions in flight (R165). -/
structure Waybill where
  w : BitVec 512
  tok : Nat
  seed : Word
  ctx : Nat
  cid : Nat
  /-- It ends with this status and no effect: found by a check, or after INTERNAL (R169). -/
  fail : Option Nat
  /-- Local ranges, as address and length, that stores have met in its regions while it was in flight. -/
  touched : List (Nat × Nat)
  deriving DecidableEq, Repr

/-! ## Stores and Commons requests of a cluster -/

/-- The placement that a request leaves its cluster with (R361): the physical position, the context and its epoch, and the
identity of the command it serves; context 64 where no command runs. -/
structure Place where
  pos : Nat
  ctx : Nat
  epoch : BitVec 24
  cid : Nat
  deriving DecidableEq, Repr

/-- One contiguous store of 1 to 8 bytes. -/
structure ByteRun where
  addr : Nat
  n : Nat
  val : Word
  deriving DecidableEq, Repr

/-- A committed store in a core's queue (R259). -/
structure StoreEntry where
  seq : Nat
  by_ : Agent
  runs : List ByteRun
  /-- Marked `.rel.sy`: leaves the queue only when the store buffer is empty (R263). -/
  relSy : Bool
  deriving DecidableEq, Repr

/-- A line of the cluster store buffer (R259). -/
structure BufLine where
  line : Nat
  data : Line
  mask : Mask
  by_ : List Agent
  seq : Nat
  issued : Bool
  deriving DecidableEq, Repr

/-- What a miss register waits for (R223). -/
inductive MissKind where
  /-- A read, with the agents that merged into it; `l1r` fills the L1R. -/
  | read (l1r : Bool)
  /-- RdX or Upg for a store. -/
  | own
  /-- A store that goes through. -/
  | through
  /-- An atomic. -/
  | atom (t : Atm)
  deriving DecidableEq, Repr

/-- A miss register in use. -/
structure Miss where
  line : Nat
  kind : MissKind
  agents : List Agent
  /-- Held from the S-core's reserve. -/
  forS : Bool
  /-- Its request fills the replica cache of its die. -/
  alloc : Bool
  /-- The line, once it has arrived. -/
  data : Option LineData
  /-- Agents of the cluster that have performed an acquire or a fence since the request was made: data taken at the home
  before that may not satisfy their later loads (R265). -/
  stale : List Agent
  place : Place
  deriving DecidableEq, Repr

/-- A stream tracker (R221): the next line expected, how many lines it has seen in order, the
partition. -/
structure Tracker where
  next : Nat
  count : Nat
  part : Nat
  deriving DecidableEq, Repr

/-- A copy or gather command in the cluster's outbound queue (R283): what it carries with it. -/
structure OutCmd where
  gather : Bool
  tok : Nat
  record : BitVec 512
  /-- Local address of the descriptor that was copied. -/
  addr : Nat
  ctx : Nat
  func : Nat
  epoch : BitVec 24
  /-- Physical position of the cluster (R361). -/
  pos : Nat
  seed : Word
  cid : Nat
  deriving DecidableEq, Repr

/-- A command as the host interface accepted it (Tables 12.6 and 12.7). -/
structure CmdRec where
  op : Nat
  c : HostCmd
  func : Nat
  win : Nat
  slot : Nat
  port : Nat
  seq : BitVec 32
  ctx : Nat
  /-- Queue waiting time, in ns (R379). -/
  waitNs : Nat
  /-- Reissued by the twin (Table 12.8). -/
  reissued : Bool
  /-- Reading of the host interface's duration counter at acceptance (R379, R380). -/
  acc : Word
  /-- Its mirroring has been acknowledged, or is not needed (R418, R420). -/
  mirrored : Bool
  /-- The present partner's mirror store holds it. -/
  atTwin : Bool
  deriving DecidableEq, Repr

/-- How the running command is ending, while its tokens, groups or stores are still outstanding. -/
inductive Ending where
  /-- `cmd.done` with its operand (R94). -/
  | done (status : Word)
  /-- An undelegated trap (R83): cause, TPC, TVAL and the core it arose on. -/
  | trapped (cause : Nat) (tpc tval : Word) (core : Nat)
  deriving DecidableEq, Repr

/-- The command running on a cluster (R377, R379). -/
structure RunCmd where
  /-- The identity a completion carries (R159): no two commands share one. -/
  cid : Nat
  q : CmdRec
  epoch : BitVec 24
  cluster : Nat
  /-- Elapsed and run time, step-5-equivalent, debug halts excluded, in units of `equivNs`. -/
  ns : Nat
  wbFailed : Nat
  wbToken : Word
  trap : Option GroupTrap
  ending : Option Ending
  /-- INTERNAL or INTERNAL_ERROR met by its waybills or groups (R138, R169). -/
  internal : Bool
  /-- Its placement moved while it ran (R362). -/
  moved : Bool
  deriving DecidableEq, Repr

/-- The turn in force on a cluster (R375): its context and what is left of it, in units of `equivNs`. -/
structure Turn where
  ctx : Nat
  left : Nat
  /-- Time since the turn expired (R376). -/
  past : Nat
  expired : Bool
  deriving DecidableEq, Repr

/-- An entry of the late-response log (R362). -/
structure LateEntry where
  /-- 0 token completion, 1 line data, 2 atomic result, 3 store completion. -/
  kind : Nat
  epoch : BitVec 24
  val : Word
  /-- The context of the old placement, and the cluster whose log takes the entry. -/
  ctx : Nat
  to_ : Nat
  deriving DecidableEq, Repr

/-- A cluster (Table 1.1). -/
structure Cluster where
  s : SCore
  /-- Resident groups: index 0 to 15 the slots of V-core 0, 16 to 31 those of V-core 1. -/
  groups : NMap Group
  srSeed : Word
  v0Retired : Word
  v1Retired : Word
  /-- INTERNAL_ERROR: no group starts until a slice is passed (R138). -/
  v0Dead : Bool
  v1Dead : Bool
  /-- INTERNAL: no waybill runs until a slice is passed (R169). -/
  mDead : Bool
  tokens : NMap Token
  wbq : List Waybill
  wbRun : Option Waybill
  launches : List Launch
  dbg : NMap Dbg
  qS : List StoreEntry
  q0 : List StoreEntry
  q1 : List StoreEntry
  /-- Number of the next store. -/
  sseq : Nat
  buf : List BufLine
  misses : List Miss
  /-- Requests made before BLOCK was last set are outstanding: blocking mode is not in force yet (R225). -/
  preBlock : Bool
  /-- Requests of issued atomics of groups that have ended since (R113), not sent yet. -/
  orphans : List Atm
  /-- L1R lines, most recently used first. -/
  l1r : List (Nat × LineData)
  /-- Lines the L1R prefetches (R222), and whether they enter it when they come: one asked for before the L1R was last
  invalidated does not. -/
  l1rPf : List (Nat × Bool)
  trackers : List Tracker
  outq : List OutCmd
  /-- Commands delivered to the cluster and not yet taken by `wfc` (R93). -/
  cmdq : List CmdRec
  run : Option RunCmd
  /-- `wfc` has returned with the command that runs, and the Keeper's loop has not come to its Guest entry yet (R93). -/
  entering : Bool
  turn : Option Turn
  /-- Debt of each context on this cluster, in units of `equivNs` (R376). -/
  debt : NMap Nat
  /-- The contexts' own seeds, kept in the Keeper area (R189). -/
  seeds : NMap Word
  late : List LateEntry
  /-- Requests of an old placement whose responses have not come (R362). -/
  lost : List LateEntry
  /-- A self-test slice or a takeover holds the cluster: nothing executes on it (R457, R407). -/
  held : Bool
  deriving DecidableEq, Repr

/-! ## Coherence (R235 to R253) -/

/-- States of a replica line but I, which is absence (Table 8.1). -/
inductive RepSt where
  | m | o | e | s
  deriving DecidableEq, Repr

/-- A line of a replica cache (R217, R220). -/
structure RepLine where
  line : Nat
  st : RepSt
  d : LineData
  /-- 0 streaming, 1 normal, 2 persistent. -/
  cls : Nat
  hit : Bool
  deriving DecidableEq, Repr

/-- A die's replica cache, lines most recently used first, and its write-back buffer (R242). -/
structure Replica where
  lines : List RepLine
  wb : List RepLine
  /-- Lines of the write-back buffer whose Put has been sent (R244). -/
  sent : List Nat
  /-- Lines that the cache prefetches (R222). -/
  pf : List Nat
  deriving DecidableEq, Repr

/-- Kinds of request to a home slice (Table 8.3). -/
inductive ReqKind where
  | rdS | rdX | upg | rdU | wrT | atm | putE | putM | putO
  deriving DecidableEq, Repr

/-- What a request carries. -/
inductive Pay where
  | none
  | write (mask : Mask) (data : Line)
  | atm (a : Atm)
  | put (d : LineData)
  deriving DecidableEq, Repr

/-- A request to a home slice: which die asks, for which cluster, and its history of refusals. -/
structure Req where
  kind : ReqKind
  src : Nat
  cl : Nat
  /-- The physical position of the cluster and the epoch that it carries (R361). -/
  pos : Nat
  epoch : BitVec 24
  line : Nat
  pay : Pay
  prefetch : Bool
  /-- Its relative deadline in ns, where it carries one (R226, R232). -/
  rt : Option Nat
  refusals : Nat
  /-- It was promised a reserved buffer and has been called to re-send (R247). -/
  ticket : Bool
  deriving DecidableEq, Repr

/-- Grants of a Data message. -/
inductive Grant where
  | s | e | m | none
  deriving DecidableEq, Repr

/-- The coherence messages (Table 8.3). -/
inductive MsgBody where
  | req (r : Req)
  /-- FwdS, FwdX or FwdU (by the request's kind rdS, rdX, rdU): supply die `to_` for cluster `cl`. -/
  | fwd (k : ReqKind) (to_ cl : Nat) (prefetch : Bool)
  | recallMsg
  | inv
  | invAck
  | fwdAck (st : RepSt)
  | data (g : Grant) (withData : Bool) (d : LineData) (prefetch : Bool)
  | recallData (d : LineData) (dirty : Bool)
  | wbPending
  | retry (ticket : Bool) (r : Req)
  | wake (r : Req)
  | wbAck
  | comp (r : Req) (res : List (Nat × Word)) (bad : Bool)
  | kill (a : Agent)
  deriving DecidableEq, Repr

/-- A message in the fabric: the dies it goes between, its source and destination ports on their crossbars, how many hops it
has made (one more than its route has: its destination has taken it in and holds it), and its deadline on the home die's
duration counter (R232). -/
structure Msg where
  src : Nat
  dst : Nat
  line : Nat
  cl : Nat
  sp : Nat
  dp : Nat
  hop : Nat
  due : Option Nat
  /-- How often in succession it has failed the check of the stage after the one it stands in (R385, R411). -/
  fails : Nat
  body : MsgBody
  deriving DecidableEq, Repr

/-- States of a directory entry but UNC, which is absence (Table 8.2). -/
inductive DirSt where
  | unc | shr | exc | own
  deriving DecidableEq, Repr

/-- A transaction that keeps an entry BUSY (R240). -/
structure Txn where
  /-- The request served; `none` for a directory eviction. -/
  req : Option Req
  /-- Dies whose InvAck is awaited. -/
  acks : List Nat
  /-- A forward goes to the owner once every InvAck has come (R243). -/
  fwdDue : Bool
  /-- The owner's answer to a forward is awaited. -/
  fwd : Bool
  /-- The owner's answer to a Recall is awaited. -/
  recl : Bool
  /-- WbPending came: the owner's Put is awaited (R245). -/
  wb : Bool
  /-- The owner's Put has been accepted during the transaction. -/
  putSeen : Bool
  /-- The requester is granted without data (R243). -/
  noData : Bool
  /-- For a request that waits on the eviction of another line of the set (R239): that line. -/
  victim : Option Nat
  deriving DecidableEq, Repr

/-- A directory entry (R238). -/
structure DirEntry where
  st : DirSt
  owner : Nat
  ptrs : List Nat
  bcast : Bool
  txn : Option Txn
  deriving DecidableEq, Repr

/-- A reservation recorded at a home (R252): who, and the line. -/
structure HomeResv where
  a : Agent
  line : Nat
  deriving DecidableEq, Repr

/-- A ticket that waits at a home (R247). -/
structure Ticket where
  r : Req
  woken : Bool
  deriving DecidableEq, Repr

/-- The coherence fabric of the device. -/
structure Coh where
  reps : NMap Replica
  /-- Entries by line index; a line with no entry is UNC. -/
  dir : NMap DirEntry
  /-- Lines of `dir`, most recently used first (R239). -/
  lru : List Nat
  net : List Msg
  tickets : List Ticket
  /-- Requests refused without a ticket, held by their requester, oldest first. -/
  retryq : List Req
  resv : List HomeResv
  /-- Consecutive VC0 grants of each crossbar output port and edge port (R35). -/
  run0 : NMap Nat
  /-- The master that each slice, by 64 × die + slice, served last (R232). -/
  turn : NMap Nat
  /-- Bytes served in the current window and bytes that waited at its start, by 512 × (8 × partition + die) + master (R233). -/
  tally : NMap (Nat × Nat)
  deriving DecidableEq, Repr

/-! ## Engines and links (R282 to R337) -/

/-- A descriptor that has failed (R294): its place in the chain, its status and TAG, and the address, ID and
space that the channel's error registers take. -/
structure Fail where
  pos : Nat
  status : Nat
  tag : BitVec 16
  addr : Nat
  id : Nat
  space : Nat
  deriving DecidableEq, Repr

/-- A descriptor that has started and is not performed yet (R284), or a row of a gather command that a peer holds: the lines
asked of the peer (R322), those that have arrived, and the source line that heals (R296). -/
structure Flight where
  pos : Nat
  desc : BitVec 512
  need : List Nat
  got : List (Nat × LineData)
  heal : Option Nat
  deriving DecidableEq, Repr

/-- A command in an engine channel (R283, R286, R301). -/
structure EngCmd where
  /-- The channel's own number of the command. -/
  k : Nat
  cluster : Nat
  tok : Nat
  record : BitVec 512
  addr : Nat
  ctx : Nat
  func : Nat
  epoch : BitVec 24
  /-- Physical position of the issuing cluster (R361). -/
  pos : Nat
  seed : Word
  cid : Nat
  started : Bool
  /-- Local address of the descriptor the engine reaches next; `none` at the end. -/
  next : Option Nat
  /-- Descriptors reached so far. -/
  count : Nat
  /-- TAG of the last descriptor read whole. -/
  lastTag : BitVec 16
  fails : List Fail
  flights : List Flight
  abandoned : Bool
  /-- A FENCE descriptor waits for earlier writes of the channel. -/
  fencing : Bool
  /-- A source line heals (R296): the line. -/
  healing : Option Nat
  /-- Row fetches of a gather command not issued yet, and those in flight, by place in the index list (R300). -/
  todo : List Nat
  fetch : List Nat
  /-- Rows that have arrived, in order of arrival. -/
  rows : List (Nat × List (BitVec 8))
  /-- What a gather command has read of its lists: indices (`none` padding or skipped), bag offsets, weights. -/
  idx : List (Option Nat)
  ofs : List Nat
  wgt : List Half
  deriving DecidableEq, Repr

/-- A remote request (R318, R319, R323) of channel `chan` of an engine (0 Porter, 1 gather, 2 collective). -/
structure RemReq where
  chan : Nat
  dst : Nat
  /-- Its request number. -/
  req : Nat
  eng : Nat
  ch : Nat
  /-- Command, descriptor and function it serves. -/
  k : Nat
  pos : Nat
  func : Nat
  /-- For a contribution of REDUCE, its number, and whether it is sent only after the earlier ones of its line
  have been performed (R288). -/
  j : Nat
  canon : Bool
  /-- TAG of its descriptor. -/
  tag : BitVec 16
  msg : LinkMsg
  sends : Nat
  tried : List Nat
  relayed : Bool
  /-- The link that holds it, until the far end has acknowledged its frame. -/
  link : Option Nat
  /-- Refused with NAK_BUSY: it is sent again after 2 µs. -/
  refused : Bool
  deriving DecidableEq, Repr

/-- A channel of a Porter or gather engine: its commands, oldest first; requests not sent yet (R285); the targets
to which an earlier write completed with error (R290). -/
structure Channel where
  cmds : List EngCmd
  nextK : Nat
  unsent : List RemReq
  bad : List Nat
  deriving DecidableEq, Repr

/-- An engine write to a line of host memory whose GO has not come (R341). -/
structure HostWr where
  id : Nat
  port : Nat
  func : Nat
  addr : Nat
  bytes : List (BitVec 8)
  eng : Nat
  ch : Nat
  k : Nat
  deriving DecidableEq, Repr

/-- A frame as it is sent (Table 11.2): its type, 0 data, 1 idle, 3 NAK, the credits it returns in units of 16 B, and its
messages. -/
structure TxFrame where
  ftype : Nat
  seq : BitVec 12
  ack : BitVec 12
  lv0 : Nat
  lv1 : Nat
  lv2 : Nat
  msgs : List LinkMsg
  deriving DecidableEq, Repr

/-- A link (R308 to R314). -/
structure Link where
  /-- Messages that wait for credit. -/
  sendq : List LinkMsg
  replay : List TxFrame
  txSeq : BitVec 12
  /-- Highest SEQ received good and in order. -/
  rxSeq : BitVec 12
  /-- Frames are discarded until the missing one arrives. -/
  discarding : Bool
  /-- ACK of the latest NAK received, and how many in a row named it. -/
  nakAck : BitVec 12
  nakRun : Nat
  /-- Credits held on LV0, LV1 and LV2, in units of 16 B. -/
  cr0 : Nat
  cr1 : Nat
  cr2 : Nat
  /-- Consecutive LV0 messages sent. -/
  lv0run : Nat
  /-- LV1 units that each function has sent in the round under way (R346). -/
  share : NMap Nat
  /-- The frame sent last. -/
  last : Option TxFrame
  /-- Messages received and not yet taken by the link agent: the receive buffer (R311). -/
  rxq : List LinkMsg
  /-- A message that continues into the next data frame. -/
  part : Option LinkMsg
  /-- Credits to be returned on LV0, LV1 and LV2, in units of 16 B. -/
  ret0 : Nat
  ret1 : Nat
  ret2 : Nat
  /-- Units of the receive buffer that messages from before the latest fresh training fill beyond its shared space: as much of
  them returns no credit (R311). -/
  owe : Nat
  /-- Lanes that failed and have not been tested since. -/
  badLanes : BitVec 4
  /-- RATE_MAX of the far end, once a training frame of the training under way has told it. -/
  farRate : Option Nat
  /-- A training has reported the far end before. -/
  trained : Bool
  deriving DecidableEq, Repr

/-- A tally entry (R323): a source device and channel, the request numbers performed, latest first, and the
milestones held. -/
structure Tally where
  src : Nat
  chan : Nat
  performed : List Nat
  held : List (Nat × LinkMsg)
  deriving DecidableEq, Repr

/-- A collective that has been accepted and not completed (R333). -/
structure Coll where
  record : BitVec 512
  ctx : Nat
  cid : Nat
  /-- GO has come (R334). -/
  going : Bool
  /-- Its data have moved, or it has ended. -/
  status : Option Nat
  deriving DecidableEq, Repr

/-- What a device holds for a group (R330 to R334): its collectives in SEQ order, and, as the head, the READY
messages and the next SEQ; the members declared lost. -/
structure GrpRt where
  colls : List Coll
  ready : List (Nat × CollKey)
  nextSeq : Nat
  lost : List Nat
  /-- The member list as the latest write of KIND found it (R329). -/
  members : List Nat
  deriving DecidableEq, Repr

/-- The link block. -/
structure Links where
  links : NMap Link
  /-- Next request number, by 256 × target + channel. -/
  reqNo : NMap Nat
  rem : List RemReq
  tallies : List Tally
  grps : NMap GrpRt
  /-- Peers declared lost (R325). -/
  lost : List Nat
  deriving DecidableEq, Repr

/-! ## Errors (R400 to R406) -/

/-- A valid error record (Table 14.8). -/
structure ErrRec where
  key : ErrKey
  witness : Nat
  reporter : BitVec 32
  seq : BitVec 32
  arrival : BitVec 32
  map : BitVec 128
  addr : Word
  detail : Word
  deriving DecidableEq, Repr

/-- A reporter's 100 µs for a key (R404): the report as last seen and how many sightings are folded. -/
structure Fold where
  r : Report
  folded : Nat
  deriving DecidableEq, Repr

/-- The error aggregator. -/
structure Errs where
  /-- Records by index; an index that is not listed holds no valid record. -/
  recs : NMap ErrRec
  folds : List Fold
  /-- Reports sent so far by each source (R406). -/
  seqs : NMap Nat
  /-- The next ARRIVAL number. -/
  arrival : BitVec 32
  deriving DecidableEq, Repr

/-! ## Host interface (R338 to R369) -/

/-- An event waiting to be written (R357): its kind, COUNT and detail, bytes 8 to 63. -/
structure Event where
  kind : Nat
  count : Nat
  detail : BitVec 448
  deriving DecidableEq, Repr

/-- A function's page and event ring (Table 12.5, R357). -/
structure Fn where
  evtBase : Word
  evtEn : Bool
  evtVec : Nat
  head : Nat
  /-- Entries written, modulo 128. -/
  count : Nat
  evSeq : BitVec 32
  /-- Events for which the ring has room. -/
  pend : List Event
  /-- Events held while the ring is full or off: at most one of each kind. -/
  held : List Event
  deriving DecidableEq, Repr

/-- A command window (R350, R356). -/
structure Window where
  ringBase : Word
  /-- RING_CFG as last written. -/
  ringCfg : Half
  /-- ENABLED: accepts commands or still has records to write. -/
  enabled : Bool
  /-- CREDITS of HIF_FN_WIN_STS. -/
  credits : Nat
  ringPos : Nat
  phase : Bool
  seq : BitVec 32
  drop : Nat
  /-- Accepted commands that have not started, oldest first. -/
  waiting : List CmdRec
  deriving DecidableEq, Repr

/-- A completion record to be written (Table 12.8). -/
structure Rec where
  func : Nat
  win : Nat
  cid : Nat
  status : Nat
  reissued : Bool
  moved : Bool
  tag : BitVec 16
  slot : Nat
  gstatus : BitVec 16
  seq : BitVec 32
  epoch : BitVec 24
  cluster : BitVec 16
  wbFailed : Nat
  fpflags : Half
  wbToken : Word
  tcause : Nat
  tpc : Word
  tval : Word
  /-- Run time from start to now, until the record is written, in units of `equivNs` (R379). -/
  run : Nat
  waitNs : Nat
  irq : Bool
  ctx : Nat
  /-- It runs on no cluster and completes when every earlier command of its window has (R349). -/
  afterEarlier : Bool
  /-- A management operation of function `func`'s window that waits: for QUIESCED of a function, or for the engine
  command with this identity (R368). -/
  quiesce : Option Nat
  engine : Option Nat
  /-- The twin has acknowledged the record (R419). -/
  mirrored : Bool
  deriving DecidableEq, Repr

/-- An MSI-X vector (R360). -/
structure Vec where
  addr : Word
  data : Half
  masked : Bool
  pend : Bool
  /-- Messages sent. -/
  sent : Nat
  /-- A message waits to be sent, for HOLDOFF to end where it runs (R360). -/
  due : Bool
  deriving DecidableEq, Repr

/-- Run-time state of a context (R361, R378, R380). -/
structure CtxRt where
  epoch : BitVec 24
  /-- What the Keeper loads into GTVEC and GDELEG at each command start. -/
  gtvec : Word
  gdeleg : Word
  deriving DecidableEq, Repr

/-- A forwarding alias (R362). -/
structure Fwd where
  ctx : Nat
  oldCl : Nat
  oldPos : Nat
  oldEpoch : BitVec 24
  newCl : Nat
  /-- Commands of the old placement have identities below this one, whatever epoch they carry. -/
  upTo : Nat
  deriving DecidableEq, Repr

/-- A move under SCH_MOVE (R373). -/
structure Move where
  from_ : Nat
  to_ : Nat
  ctx : Nat
  deriving DecidableEq, Repr

/-- A 64-byte line, by Commons offset divided by 64, that a port's host may hold; `snoop` while a
BISnpInv for it is unanswered (R342). -/
structure HostTrk where
  port : Nat
  line : Nat
  snoop : Bool
  deriving DecidableEq, Repr

/-- A host write through CXL.mem that its port has not performed yet (R273): a store of the host, or the modified data with
which it answers a back-invalidation (R342). -/
structure HostPend where
  resp : Bool
  port : Nat
  /-- Commons address. -/
  addr : Nat
  size : Nat
  data : BitVec 512
  deriving DecidableEq, Repr

/-- What a host port answered last: the bytes of a read through CXL.mem, `none` where they are poisoned (R342), or whether
a snoop met the line in the port's host-line cache, and met it modified (R339). -/
inductive HostAns where
  | memRead (port : Nat) (bytes : List (Option Byte))
  | snoop (port : Nat) (hit dirty : Bool)
  deriving DecidableEq, Repr

/-! ## Power, twin, Lantern, self-test (R44 to R69, R412 to R470) -/

/-- The power controller's own state (R47 to R67). -/
structure Pwr where
  /-- Steps that the sustained-power governor, the peak limiter and the thermal governor allow; 7 is no limit. -/
  sus : Nat
  peak : Nat
  therm : Nat
  /-- Consecutive 10 ms evaluations below 95% of the sustained limit (R59). -/
  susOk : Nat
  /-- Microseconds since the peak limiter last lowered the step while the mean stayed above 97%; and of mean below 85%. -/
  peakHot : Nat
  peakOk : Nat
  /-- Junction readings since the step was last lowered at 100 °C or more; and below 95 °C (R62). -/
  thermHot : Nat
  thermOk : Nat
  /-- The supply dip (Table 2.10): 0 none, 1 below the warning level, 2 recovery interval, 3 rail rising. -/
  dip : Nat
  /-- ALERT asserted, or within its release interval. -/
  alert : Bool
  /-- The effective step as a dip began: the rail rises no higher than to it before the dip is over (Table 2.10). -/
  before : Nat
  /-- Samples of the input power of the last 1 ms, in W, latest first, at most 1,000 (R60). -/
  ms : List Nat
  /-- Sum and number of the samples since the latest evaluation of the sustained governor. -/
  acc : Nat × Nat
  /-- The same of the evaluations that lie within the last 1 s, latest first, at most 100 (R59). -/
  slots : List (Nat × Nat)
  /-- The step the rail moves to. -/
  target : Nat
  /-- An orderly drain is in progress, with its cause: 1 reset level, 2 thermal trip, 3 a power-down that
  the Lantern begins (R432, R451), 4 one that the manager requests (R277), 5 entry to rest (R453). -/
  drain : Option Nat
  /-- Every die has stopped without a drain (R411), or has been powered down. -/
  stopped : Bool
  /-- The Lantern's log of ALERT, latest first (R64, R476). -/
  alerts : List AlertSource
  deriving DecidableEq, Repr

/-- A mirrored command in the mirror store (R418). -/
structure MirCmd where
  seq : BitVec 32
  slot : BitVec 8
  c : HostCmd
  deriving DecidableEq, Repr

/-- What the mirror store holds of a twinned window of the partner (R418, R419): its SEQ, credits, ring position and
phase, the commands without a record, and the ring entries filled, with their IRQ. -/
structure MirWin where
  func : Nat
  win : Nat
  seq : BitVec 32
  credits : Nat
  ringPos : Nat
  phase : Bool
  cmds : List MirCmd
  ring : NMap (BitVec 512 × Bool)
  deriving DecidableEq, Repr

/-- A shadow point under way (R422): its number and the pages still to be copied. -/
structure ShadowRun where
  point : BitVec 24
  pages : List Nat
  deriving DecidableEq, Repr

/-- The twin bridge. -/
structure Twin where
  /-- Paths on which a heartbeat has arrived in this interval: bit 0 T0, 1 T1, 2 the sideband. -/
  heard : BitVec 3
  /-- Cause of the loss: 0 silence, 1 notice, 2 handover. -/
  cause : Nat
  /-- The partner's contexts have been taken over since the loss. -/
  took : Bool
  /-- A handover waits for running commands and its shadow point. -/
  handing : Bool
  /-- The shadow point that the handover waits for, once it has started. -/
  handPoint : Option (BitVec 24)
  mirror : List MirWin
  /-- Shadow bits of pages, and the latest point started. -/
  shadow : NMap Bool
  point : BitVec 24
  runs : List ShadowRun
  deriving DecidableEq, Repr

/-- The Lantern (R434 to R455) and what the module shows of itself. -/
structure Lantern where
  /-- What the latest start found. -/
  found : Option PowerOn
  /-- The configuration record that the latest start accepted (R441). -/
  record : Option CfgRecord
  /-- The seed that the ROM rebuilt from the PUF block at power-on, which it then overwrote, and the SHA-384 of the public
  identity key: `none` where the check failed (R443). They never leave the Lantern. -/
  seed : Option (BitVec 384)
  idHash : BitVec 384
  /-- The images that run, of the Lantern and of the Keepers (R440). -/
  lanternImg : Option FlashImage
  keeperImg : Option FlashImage
  /-- The host-interface domains have not come up (CAUSE 0x0A, R436). -/
  hostDown : Bool
  /-- Orders 5 to 8 have stopped for a dip of the input: the STAGE at which they go on, and whether the Commons is kept (R438,
  R455). -/
  starting : Option (Nat × Bool)
  /-- Falls below the reset level during orders 5 to 8 of this start. -/
  falls : Nat
  /-- Links whose lane equalisation is stored, T0 and T1 at 64 and 65 (Table 16.1, order 8). -/
  equalised : List Nat
  /-- Images written to flash since: 0 and 1 Lantern slots A and B, 2 and 3 Keeper slots. -/
  flash : NMap FlashImage
  /-- A register of the debug block has been written since start (Table 16.5). -/
  dbgWritten : Bool
  /-- BST_EN was low at power-on (R470). -/
  boardTest : Bool
  /-- PRESENT_N is low; the input switch is on; the removal indicator is lit (R477, R480). -/
  present : Bool
  switchOn : Bool
  indicator : Bool
  /-- Retention is kept in rest (R454). -/
  retained : Bool
  /-- SPDM: GET_VERSION and the algorithms have been agreed, a session is open, and the latest answer (R445). -/
  spdmVer : Bool
  spdmAlg : Bool
  session : Bool
  answer : Option (Nat × List Word)
  /-- The TAP instruction in force and the value its data register shows (R469). -/
  tap : TapInstr
  tapOut : List Word
  /-- An SPDM-visible notice to the twin has been sent (R414). -/
  notice : Option Nat
  deriving DecidableEq, Repr

/-- A self-test slice in progress on a die (R457): the position index, the cluster it serves, who asked (0 periodic,
1 recovery, 2 manager), whether it repeats after a failing run, and CLU_MISS_CTL as saved (order 2 of Table 17.2). -/
structure Slice where
  pos : Nat
  cl : Option Nat
  kind : Nat
  again : Bool
  saved : Word
  deriving DecidableEq, Repr

/-- The self-test controllers. -/
structure Bist where
  slices : NMap Slice
  /-- The position that GO named, while its slice is pending or runs. -/
  want : Option Nat
  /-- Clusters found to have failed, until a takeover fences their position (R407). -/
  failed : List Nat
  /-- Positions with an intermittent result since their latest passing slice (R458). -/
  inter : List Nat
  deriving DecidableEq, Repr

/-! ## The device -/

/-- Who waits at a home for a line that heals, with an access that is performed there at once (R396): an agent with
`ld.resv` or `st.cond`, a host port, or a link. -/
inductive Holder where
  | agent (a : Agent)
  | host (port : Nat)
  | link (l : Nat)
  deriving DecidableEq, Repr

/-- A line under healing (R299, R396): whether the healing has failed, and where its data come from, KIND 1 an address of the
host, 2 a Commons address of the twin; for the twin, the number of the request and the line once it has come (R326). -/
structure Heal where
  failed : Bool
  kind : Nat
  src : Nat
  req : Nat
  got : Option Line
  deriving DecidableEq, Repr

/-- A part of what a scrub pass covers on a die (DESIGN CHOICE, log entry 53): a partition of the mask and its lines, the valid
lines of the replica cache, the Local of a present cluster. -/
inductive ScrubUnit where
  | store (p n : Nat)
  | replica (lines : List Nat)
  | loc (n : Nat)
  deriving DecidableEq, Repr

/-- Everything of the device but the queue of waiting commands. -/
structure Dev where
  part : Part
  /-- The model's own field: how many free values have been taken. -/
  free : Nat
  /-- Device registers by offset in the register space; an unlisted one holds its reset value. -/
  regs : NMap Word
  clusters : NMap Cluster
  /-- Local of each cluster. -/
  loc : NMap Mem
  commons : Mem
  coh : Coh
  /-- Porter channels at their global number, gather channels at 1,000 above theirs. -/
  chans : NMap Channel
  hostWr : List HostWr
  /-- The host-line cache of each port, most recent first: port, 64-byte line of a function's addresses (`hostKey`), dirty
  (R339). -/
  hostCache : List (Nat × Nat × Bool)
  /-- The address translation cache of each port, most recent first: port, and the 4 KiB page of a function's addresses
  (R339, R341). -/
  ats : List (Nat × Nat)
  links : Links
  /-- The latest reading of each die's duration counter (R42). -/
  dur : NMap Word
  /-- The identity the next command takes. -/
  nextCid : Nat
  errs : Errs
  fns : NMap Fn
  /-- Windows at 8 × function + number. -/
  wins : NMap Window
  /-- Vectors at 32 × function + number. -/
  vecs : NMap Vec
  /-- Completion records not yet written, in completion order. -/
  recs : List Rec
  ctxs : NMap CtxRt
  aliases : List Fwd
  move : Option Move
  /-- Host memory as far as the device has written it, by function and its I/O virtual address (`hostKey`, R341). -/
  host : NMap Byte
  /-- Commons lines under healing. -/
  heals : NMap Heal
  /-- Lines that heal, or whose healing has failed, and who waits for their outcome. -/
  heldBy : List (Nat × Holder)
  /-- Counter snapshots: 4 × partition + class for CMN_CNT_EBR (R228), 1,000 + die for
  COH_CNT_DIREVICT (Table 8.7). -/
  snaps : NMap Nat
  /-- LOCK_WAYS of a replica cache before a larger value was written, until BUSY clears (R216). -/
  oldWays : NMap Nat
  /-- 64-byte lines the host may hold, by port (R342). -/
  hostTrk : List HostTrk
  /-- Writes that have arrived at the host ports and wait, oldest first (R273). -/
  hostQ : List HostPend
  /-- Written bits of the Commons pages of 64 KiB (R366). -/
  dirty : NMap Bool
  /-- Logging has stopped after an overflow (R367). -/
  ldgStopped : Bool
  /-- Ledger entries queued and not written yet: the port that carries the ring is down (R364, R366). -/
  ldgQ : List Word
  /-- Host pages most recently logged, for each function (R366). -/
  ldgRecent : NMap (List Nat)
  pwr : Pwr
  twin : Twin
  ltn : Lantern
  bist : Bist
  /-- Lines read in the present scrub pass of each die, and by 100 + die its MASK and LOCAL (R391). -/
  scrub : NMap Nat
  /-- What the present scrub pass of each die covers, in the order in which it is read. -/
  scrubPass : NMap (List ScrubUnit)
  /-- Spare rows used, by slice (64 × die + slice) or bank (100,000 + 32 × position index + bank) (R389). -/
  rowsUsed : NMap Nat
  /-- Healing episodes (R399): per page, lines healed, lines not healed, and the outcome so far. -/
  episodes : NMap (Nat × Nat × Nat)
  /-- VF Enable, and NumVFs (R344). -/
  vfEnable : Bool
  numVfs : Nat
  hostAns : Option HostAns
  deriving DecidableEq, Repr

/-- The machine: the device and its queue of waiting commands, first in, first out. -/
structure State where
  pending : List Instr
  dev : Dev
  deriving DecidableEq, Repr

/-- Trap registers after reset and at a group's start. -/
def TrapRegs.zero : TrapRegs :=
  { tcause := 0, tpc := 0, tval := 0, tstatus := 0, gtvec := 0, gscratch := 0, gdeleg := 0 }

/-- An S-core after reset (R79: Keeper level). The manual gives no reset value for the scalar
registers, the pc and most system registers: zero (DESIGN CHOICE, log entry 4). -/
def SCore.reset : SCore :=
  { regs := [], pc := 0, level := .keeper, ctx := 0, func := 0, epoch := 0, tr := TrapRegs.zero,
    ktvec := 0, kscratch := 0, cmd := 0, retired := 0, yield := false, wait := .none, ecallTr := none, resv := none, stFail := false }

/-- A cluster after reset: its S-core at Keeper level, no group, every token FREE, queues empty. -/
def Cluster.reset : Cluster :=
  { s := SCore.reset, groups := [], srSeed := 0, v0Retired := 0, v1Retired := 0, v0Dead := false,
    v1Dead := false, mDead := false, tokens := [], wbq := [], wbRun := none, launches := [], dbg := [],
    qS := [], q0 := [], q1 := [], sseq := 0, buf := [], misses := [], preBlock := false, orphans := [], l1r := [], l1rPf := [], trackers := [],
    outq := [], cmdq := [], run := none, entering := false, turn := none, debt := [], seeds := [], late := [], lost := [],
    held := false }

/-- A memory in which nothing has been written. -/
def Mem.empty : Mem := { cells := [], marks := [], gen := 0 }

/-- A replica cache that holds nothing. -/
def Replica.empty : Replica := { lines := [], wb := [], sent := [], pf := [] }

/-- A coherence fabric in which no line is held anywhere. -/
def Coh.empty : Coh :=
  { reps := [], dir := [], lru := [], net := [], tickets := [], retryq := [], resv := [], run0 := [], turn := [], tally := [] }

/-- A channel with no command. -/
def Channel.empty : Channel := { cmds := [], nextK := 0, unsent := [], bad := [] }

/-- A link that has not trained. -/
def Link.reset : Link :=
  { sendq := [], replay := [], txSeq := 0, rxSeq := 0xFFF, discarding := false, nakAck := 0, nakRun := 0,
    cr0 := 0, cr1 := 0, cr2 := 0, lv0run := 0, share := [], last := none, rxq := [], part := none, ret0 := 0, ret1 := 0, ret2 := 0, owe := 0, badLanes := 0, farRate := none, trained := false }
/-- A group that has done nothing. -/
def GrpRt.reset : GrpRt := { colls := [], ready := [], nextSeq := 1, lost := [], members := [] }
/-- The link block after reset. -/
def Links.reset : Links := { links := [], reqNo := [], rem := [], tallies := [], grps := [], lost := [] }

/-- A function page after reset. -/
def Fn.reset : Fn :=
  { evtBase := 0, evtEn := false, evtVec := 0, head := 0, count := 0, evSeq := 0, pend := [], held := [] }
/-- A window after reset: not enabled. -/
def Window.reset : Window :=
  { ringBase := 0, ringCfg := 0, enabled := false, credits := 0, ringPos := 0, phase := true, seq := 0,
    drop := 0, waiting := [] }
/-- A vector after reset: masked, as PCIe sets it (PRESUMED, log entry 5). -/
def Vec.reset : Vec :=
  { addr := 0, data := 0, masked := true, pend := false, sent := 0, due := false }
/-- A context that has never been enabled. -/
def CtxRt.reset : CtxRt := { epoch := 0, gtvec := 0, gdeleg := 0 }
/-- An empty error log. -/
def Errs.reset : Errs := { recs := [], folds := [], seqs := [], arrival := 1 }

/-- The power controller after reset: no governor limits the step, and the rail is at step 0. -/
def Pwr.reset : Pwr :=
  { sus := 7, peak := 7, therm := 7, susOk := 0, peakHot := 0, peakOk := 0, thermHot := 0, thermOk := 0, dip := 0,
    alert := false, before := 0, ms := [], acc := (0, 0), slots := [], target := 0, drain := none, stopped := false, alerts := [] }
/-- The twin bridge after reset: pairing off. -/
def Twin.reset : Twin :=
  { heard := 0, cause := 0, took := false, handing := false, handPoint := none, mirror := [], shadow := [], point := 0,
    runs := [] }
/-- The Lantern before power-on. -/
def Lantern.reset : Lantern :=
  { found := none, record := none, seed := none, idHash := 0, lanternImg := none, keeperImg := none, hostDown := false, starting := none,
    falls := 0, equalised := [], flash := [], dbgWritten := false, boardTest := false, present := false, switchOn := false,
    indicator := false, retained := false, spdmVer := false, spdmAlg := false, session := false, answer := none,
    tap := .bypass, tapOut := [], notice := none }
/-- The self-test controllers after reset. -/
def Bist.reset : Bist := { slices := [], want := none, failed := [], inter := [] }

/-- The device right after reset. No configuration record has been read yet: that the part is a GH-880-S with its
units enabled until one has is a DESIGN CHOICE (log entry 70). -/
def Dev.reset : Dev :=
  { part := { code := .gh880s, units := 3 }, free := 0, regs := [], clusters := [], loc := [], commons := Mem.empty,
    coh := Coh.empty, chans := [], hostWr := [], hostCache := [], ats := [], links := Links.reset, dur := [], nextCid := 1, errs := Errs.reset,
    fns := [], wins := [], vecs := [], recs := [], ctxs := [], aliases := [], move := none, host := [], heals := [], heldBy := [], snaps := [], oldWays := [], hostTrk := [], hostQ := [], dirty := [], ldgStopped := false, ldgQ := [], ldgRecent := [],
    pwr := Pwr.reset, twin := Twin.reset, ltn := Lantern.reset, bist := Bist.reset, scrub := [], scrubPass := [], rowsUsed := [], episodes := [],
    vfEnable := false, numVfs := 0, hostAns := none }

/-- The machine right after reset, as the spec says: no command waits. -/
def State.reset : State := { pending := [], dev := Dev.reset }

end Sys2Proof.Machine
end

