-- ==== Sys2Proof/Machine/Atomic.lean ====
section
/-! DEFINITION. What an atomic does to one memory word (Table 3.11, R90, R130 to R133, R249). -/
namespace Sys2Proof.Machine

/-- A value of `n` bytes as a signed integer. -/
def signedOf (n : Nat) (v : Word) : Int := (BitVec.ofNat (8 * n) v.toNat).toInt
/-- The low `n` bytes of a value. -/
def lowBytes (n : Nat) (v : Word) : Word := BitVec.ofNat 64 (v.toNat % 256 ^ n)
/-- The floating format of an atomic of `n` bytes: FP32 or FP64. -/
def fpOf (n : Nat) : Fmt := if n = 8 then fp64 else fp32
/-- `round(a + b)`, nearest-even, with its flags; special values follow Table 6.5. -/
def faddF (n : Nat) (a b : Word) : Word × FFlags :=
  let f := fpOf n
  let x := Num.sum false [f.decode (lowBytes n a).toNat, f.decode (lowBytes n b).toNat]
  let r := f.round .ne false 0 x.1
  (BitVec.ofNat 64 r.1, x.2 ||| r.2)
/-- `round(a + b)`. -/
def fadd (n : Nat) (a b : Word) : Word := (faddF n a b).1

/-- One lane's integer operation on the memory value. -/
def amoInt (fn : AmoFn) (n : Nat) (old v cmp : Word) : Word :=
  match fn with
  | .add => lowBytes n (old + v)
  | .and => old &&& lowBytes n v
  | .or => old ||| lowBytes n v
  | .xor => old ^^^ lowBytes n v
  | .min => if signedOf n old ≤ signedOf n v then old else lowBytes n v
  | .max => if signedOf n old ≤ signedOf n v then lowBytes n v else old
  | .minu => if old.toNat ≤ (lowBytes n v).toNat then old else lowBytes n v
  | .maxu => if old.toNat ≤ (lowBytes n v).toNat then lowBytes n v else old
  | .swap => lowBytes n v
  | .cas => if old = lowBytes n cmp then lowBytes n v else old
  | .fadd => fadd n old v

/-- One level of the coalescer's tree (R132): neighbours are added in order, an absent position lets its
partner through. -/
def treeLevel (n : Nat) : List (Option (Word × FFlags)) → List (Option (Word × FFlags))
  | a :: b :: rest =>
    (match a, b with
      | some x, some y => let r := faddF n x.1 y.1; some (r.1, x.2 ||| y.2 ||| r.2)
      | some x, none => some x
      | none, y => y) :: treeLevel n rest
  | l => l
/-- The fixed tree of five levels over the 32 lane positions (R132). -/
def faddTree (n : Nat) (lanes : List (Nat × Word)) : Option (Word × FFlags) :=
  let l0 : List (Option (Word × FFlags)) :=
    (List.range 32).map fun k => (lanes.find? fun x => decide (x.1 = k)).map fun x => (x.2, 0)
  match treeLevel n (treeLevel n (treeLevel n (treeLevel n (treeLevel n l0)))) with
  | x :: _ => x
  | [] => none

/-- The memory word after a floating-point atomic (R132), and the flags of its additions. -/
def Atm.addF (t : Atm) (old : Word) : Word × FFlags :=
  let n := t.n
  let vals := t.lanes.map fun x => (x.1, x.2.1)
  let f := fpOf n
  if t.exact then
    let x := Num.sum false (f.decode old.toNat :: vals.map fun x => f.decode (lowBytes n x.2).toNat)
    let r := f.round .ne false 0 x.1
    (BitVec.ofNat 64 r.1, x.2 ||| r.2)
  else match vals with
    | [(32, v)] => faddF n old v
    | _ => match faddTree n vals with
      | some x => let r := faddF n old x.1; (r.1, x.2 ||| r.2)
      | none => (old, 0)

/-- The effect of an atomic on one word: its new value, and what each lane receives. Integer lanes act in
ascending order (R131, R133); `fadd` sums in the fixed tree, or exactly (R132). A scalar agent is lane 32. -/
def Atm.apply (t : Atm) (old : Word) : Word × List (Nat × Word) :=
  match t.fn with
  | .fadd => ((t.addF old).1, t.lanes.map fun x => (x.1, old))
  | fn => t.lanes.foldl (fun acc x => (amoInt fn t.n acc.1 x.2.1 x.2.2, acc.2 ++ [(x.1, acc.1)])) (old, [])

/-- The flags of an atomic that found `old`: only `v.atom.fadd` records any (R195, Table 3.11). -/
def Atm.flags (t : Atm) (old : Word) : FFlags :=
  match t.fn with
  | .fadd => if t.lanes.all fun x => decide (x.1 < 32) then (t.addF old).2 else 0
  | _ => 0

end Sys2Proof.Machine
end

