-- ==== Sys2Proof/Machine/RegMap.lean ====
section
/-! DEFINITION. The register list of the device register space (R485, R486, Table 19.2) with the access
type of every field (R14): for each offset the register that lies there, its width, its reset value and
which of its bits are RW, RO, W1C and WO. Bits in none of these are RSV. -/
namespace Sys2Proof.Machine

/-- A register: its own offset, whether it is 64 bits wide, its reset value and its fields. -/
structure RegInfo where
  base : Nat
  wide : Bool
  reset : Word
  rw : Word
  ro : Word
  w1c : Word
  wo : Word
  deriving DecidableEq, Repr

/-- A mask of bit ranges. -/
def msk : List (Nat × Nat) → Word
  | [] => 0
  | (hi, lo) :: rest => ones 64 hi lo ||| msk rest

/-- A 32-bit register. -/
def r32 (base reset : Nat) (rw ro w1c wo : List (Nat × Nat)) : Option RegInfo :=
  some ⟨base, false, BitVec.ofNat 64 reset, msk rw, msk ro, msk w1c, msk wo⟩
/-- A 64-bit register. -/
def r64 (base reset : Nat) (rw ro w1c wo : List (Nat × Nat)) : Option RegInfo :=
  some ⟨base, true, BitVec.ofNat 64 reset, msk rw, msk ro, msk w1c, msk wo⟩

/-- Compute dies of an ordering code. -/
def Code.dies : Code → Nat
  | .gh840m => 4
  | _ => 8
/-- Compute dies. -/
def Part.dies (k : Part) : Nat := k.code.dies
/-- Logical cluster numbers. -/
def Part.clusters (k : Part) : Nat := 48 * k.dies
/-- The FP64 matrix extension is fitted (Table 0.1) and enabled (R441). -/
def Part.fp64 (k : Part) : Bool := decide (k.code = .gh880s) && k.units.getLsbD 0
/-- The twin bridge is fitted (Table 0.1) and enabled (R441). -/
def Part.twin (k : Part) : Bool := decide (k.code ≠ .gh840m) && k.units.getLsbD 1
/-- Links: 8 for each die, and the two of the twin bridge. -/
def Part.links (k : Part) : Nat := 8 * k.dies + 2 * bit k.twin
/-- log2 of the Commons reservation granule (R251). -/
def Part.granLog (k : Part) : Nat := if k.code = .gh840m then 7 else 9
/-- Bytes of the Commons. -/
def Part.commonsBytes (k : Part) : Nat := if k.code = .gh840m then 0x400000000 else 0x800000000

/-- Capabilities, die identity, row maps. -/
def regTop (k : Part) (o : Nat) : Option RegInfo :=
  if o < 0x20 then
    let b := o / 8 * 8
    if b = 0 then r64 b 0 [] [(21, 0), (30, 24), (33, 32)] [] []
    else if b = 8 then r64 b 0 [] [(17, 0), (29, 24), (55, 32)] [] []
    else if b = 16 then r64 b 0 [] [(11, 0), (20, 16), (47, 32)] [] []
    else r64 b 0 [] [(7, 0), (63, 32)] [] []
  else if 0x300 ≤ o ∧ o < 0x300 + 4 * k.dies then r32 (o / 4 * 4) 0 [] [(31, 0)] [] []
  else if 0x400 ≤ o ∧ o < 0x400 + 24 * k.dies then r32 (o / 4 * 4) 0xF [] [(4, 0), (16, 8)] [] []
  else none

/-- Partitions and windows (Tables 7.2 to 7.9). -/
def regCommons (o : Nat) : Option RegInfo :=
  if o < 0x104000 then
    let b := o / 4 * 4
    let q := o % 0x100 / 4 * 4
    if q = 0 then r32 b 0 [(28, 0), (29, 29)] [] [] []
    else if q = 4 then r32 b 0 [(10, 0), (24, 16)] [] [] []
    else if q = 8 then r32 b 0 [] [(1, 0), (5, 3)] [(2, 2), (8, 6)] []
    else if q = 0x10 then r32 b 0 [(1, 0)] [] [] []
    else if q = 0x14 then r32 b 0 [] [(12, 4)] [(0, 0), (13, 13)] []
    else if q = 0x18 then r32 b 0 [(31, 0)] [] [] []
    else if 0x40 ≤ q ∧ q < 0x80 then r32 b 0 [(20, 0)] [] [] []
    else if 0x80 ≤ q ∧ q < 0xE0 then
      if q % 0x20 < 0x18 then r64 (o / 8 * 8) 0 [] [(63, 0)] [] []
      else if q % 0x20 = 0x18 then r32 b 0 [(23, 0)] [] [] []
      else none
    else none
  else if 0x108000 ≤ o ∧ o < 0x109000 then
    let b := o / 4 * 4
    let q := o % 0x10 / 4 * 4
    if q = 0 then r32 b 0 [(18, 0)] [] [] []
    else if q = 4 then r32 b 0 [(19, 0)] [] [] []
    else if q = 8 then r32 b 1 [(9, 0)] [] [] []
    else none
  else none

/-- Coherence directory (Table 8.7). -/
def regCoh (k : Part) (o : Nat) : Option RegInfo :=
  if o < 0x200000 + 0x1000 * k.dies then
    let q := o % 0x1000 / 4 * 4
    let b := o / 4 * 4
    if q = 0 then r32 b 0x110 [(8, 0)] [] [] []
    else if q = 4 then r32 b 0 [] [] [(1, 0)] []
    else if q = 8 then r32 b 0 [(23, 0)] [] [] []
    else if 0x100 ≤ q ∧ q < 0x138 then r64 (o / 8 * 8) 0 [] [(63, 0)] [] []
    else none
  else if 0x208000 ≤ o ∧ o < 0x208008 then r64 0x208000 0 [(47, 0)] [] [] []
  else if 0x208008 ≤ o ∧ o < 0x208010 then r64 0x208008 0 [] [(36, 0), (63, 63)] [] []
  else none

/-- Porter and gather channels and the refetch table (Tables 10.4 and 10.5). -/
def regEng (k : Part) (o : Nat) : Option RegInfo :=
  if o < 0x300000 + 0x10000 * k.dies then
    let q := o % 0x10000
    if q < 0x2000 ∨ (0x4000 ≤ q ∧ q < 0x5000) then
      let c := o % 0x100 / 4 * 4
      let b := o / 4 * 4
      if c = 0 then r32 b 0x10000 [(0, 0), (19, 8)] [] [] []
      else if c = 4 then r32 b 0 [] [(1, 0), (22, 8)] [] []
      else if c = 8 then r32 b 0 [] [] [] [(0, 0)]
      else if c = 0xC then r32 b 0 [] [(24, 0)] [] []
      -- a 64-bit register at an offset that is a multiple of 16
      else if 0x10 ≤ o % 0x100 ∧ o % 0x100 < 0x18 then r64 (o / 8 * 8) 0 [] [(62, 0)] [] []
      else none
    else none
  else if 0x380000 ≤ o ∧ o < 0x380400 then
    let q := o % 0x10
    if q < 4 then r32 (o / 4 * 4) 0 [(18, 0)] [] [] []
    else if q < 8 then r32 (o / 4 * 4) 0 [(21, 0)] [(22, 22)] [] []
    else r64 (o / 8 * 8) 0 [(47, 0)] [] [] []
  else none

/-- Links, identity, routes and groups (Tables 11.9 to 11.11). -/
def regLink (k : Part) (o : Nat) : Option RegInfo :=
  let b := o / 4 * 4
  if o < 0x400000 + 0x1000 * k.links then
    let q := o % 0x1000 / 4 * 4
    if q = 0 then r32 b 6 [(3, 0)] [] [] [(4, 4)]
    else if q = 4 then r32 b 0 [] [(29, 0)] [] []
    else if q = 8 then r32 b 0 [] [] [(3, 0)] []
    else if 0x10 ≤ q ∧ q < 0x20 then r64 (o / 8 * 8) 0 [] [(63, 0)] [] []
    else none
  else if b = 0x480000 then r32 b 0 [(25, 0)] [] [] []
  else if b = 0x480004 then r32 b 0 [] [(12, 1)] [(0, 0)] []
  else if 0x490000 ≤ o ∧ o < 0x494000 then r32 b 0 [(27, 0)] [] [] []
  else if 0x4C0000 ≤ o ∧ o < 0x4C0800 then
    let q := o % 0x20 / 4 * 4
    if q = 0 then r32 b 0 [(1, 0), (15, 8), (28, 16)] [] [] []
    else if q = 4 then r32 b 0 [(12, 0)] [(25, 13)] [] []
    else if q = 8 ∨ q = 0xC then r64 (o / 8 * 8) 0 [(47, 0)] [] [] []
    else if q = 0x10 then r32 b 0 [] [(14, 2)] [(1, 0), (15, 15)] []
    else none
  else none

/-- Functions, Ledger, aliases, host ports (Tables 12.3 and 12.12). -/
def regHif (o : Nat) : Option RegInfo :=
  let b := o / 4 * 4
  if o < 0x510000 then
    let q := o % 0x100 / 4 * 4
    if q = 0 then
      if o < 0x500100 then r32 b 0xF411 [(17, 1)] [(0, 0)] [] [] else r32 b 0 [(17, 0)] [] [] []
    else if q = 4 then r32 b 0 [] [(10, 1)] [(0, 0)] []
    else if q = 8 then r32 b 0 [] [(31, 0)] [] []
    else if 0x40 ≤ q ∧ q < 0x60 then r32 b 0 [(6, 0)] [] [] []
    else none
  else if o < 0x510004 then r32 b 0x18 [(6, 0)] [] [] []
  else if 0x510008 ≤ o ∧ o < 0x510010 then r64 0x510008 0 [(63, 0)] [] [] []
  else if b = 0x510010 then r32 b 0 [] [(24, 0)] [] []
  else if b = 0x510014 then r32 b 0 [(24, 0)] [] [] []
  else if b = 0x510018 then r32 b 0 [(7, 0)] [] [] [(9, 8)]
  else if b = 0x51001C then r32 b 0 [] [(19, 1)] [(0, 0)] []
  else if b = 0x518000 then r32 b 0 [] [(7, 0)] [] []
  else if b = 0x520000 ∨ b = 0x520100 then r32 b 0 [(0, 0)] [] [] []
  else if b = 0x520004 ∨ b = 0x520104 then r32 b 0 [] [(17, 0)] [] []
  else none

/-- Contexts and scheduler (Table 13.1). -/
def regSch (o : Nat) : Option RegInfo :=
  let b := o / 4 * 4
  if o < 0x604000 then
    let q := o % 0x100 / 4 * 4
    if q = 0 then r32 b 0x07D00000 [(8, 0), (31, 16)] [] [] []
    else if q = 4 then r32 b 0 [(6, 0), (14, 8)] [] [] []
    else if q = 8 then r32 b 0 [(31, 0)] [] [] []
    else if q = 0xC then r32 b 0 [] [] [] [(2, 0)]
    else if q = 0x10 then r32 b 0 [] [(5, 0), (10, 8)] [(7, 6)] []
    else if 0x20 ≤ q ∧ q < 0x50 then r32 b 0 [(31, 0)] [] [] []
    else if q = 0x50 then r32 b 0 [(31, 0)] [] [] []
    else if q = 0x58 ∨ q = 0x5C then r64 (o / 8 * 8) 0 [(51, 0)] [] [] []
    else if 0x80 ≤ q ∧ q < 0xA8 then r64 (o / 8 * 8) 0 [] [(63, 0)] [] []
    else none
  else if b = 0x608000 then r32 b 0x520 [(10, 0)] [] [] []
  else if b = 0x608004 then r32 b 0 [] [] [(0, 0)] []
  else if b = 0x608008 ∨ b = 0x60800C then r64 0x608008 0 [] [(63, 0)] [] []
  else if b = 0x608010 then r32 b 0 [(23, 0)] [(25, 25)] [(26, 26)] [(24, 24)]
  else none

/-- Debug block (Table 3.9). -/
def regDbg (o : Nat) : Option RegInfo :=
  let b := o / 4 * 4
  if b = 0x900000 then r32 b 0 [(14, 0)] [] [] []
  else if b = 0x900004 then r32 b 0 [(4, 3)] [] [] [(2, 0)]
  else if b = 0x900008 then r32 b 0 [] [(3, 0), (5, 5), (15, 8)] [(4, 4)] []
  else if b = 0x90000C then r32 b 0 [(16, 0)] [] [] [(18, 17)]
  else if b = 0x900010 ∨ b = 0x900014 then r64 0x900010 0 [(63, 0)] [] [] []
  else none

/-- Clusters (Tables 1.2, 6.6 and 7.6). -/
def regClu (k : Part) (o : Nat) : Option RegInfo :=
  if o < 0x1000000 + 0x1000 * k.clusters then
    let b := o / 4 * 4
    let q := o % 0x1000 / 4 * 4
    if q = 0 then r32 b 0 [] [(20, 0)] [] []
    else if q = 0x20 then r32 b 0 [] [] [(6, 0), (14, 8), (22, 16)] []
    else if q = 0x40 then r32 b 1 [(1, 0), (28, 16)] [] [] []
    else if q = 0x44 then r32 b 0 [] [(11, 0)] [] []
    else none
  else none

/-- Lantern, twin bridge and power (Tables 2.6, 2.11, 15.1, 16.1). -/
def regLow (k : Part) (o : Nat) : Option RegInfo :=
  let b := o / 4 * 4
  if b = 0x10000 then r32 b 0 [] [(15, 0)] [] []
  else if b = 0x10004 then r32 b 0 [] [] [(3, 3)] [(2, 0)]
  else if b = 0x10008 then r32 b 0 [] [(1, 0), (31, 8)] [] []
  else if 0x11000 ≤ o ∧ o < 0x11104 then
    let i := (b - 0x11000) / 4
    if i < 6 ∨ (8 ≤ i ∧ i < 8 + 6 * k.dies) ∨ (56 ≤ i ∧ i < 56 + k.dies) ∨ i = 64 then
      r32 b 0 [] [(15, 0), (31, 31)] [] []
    else none
  else if 0x14000 ≤ o ∧ o < 0x15000 then
    if !k.twin then none
    else if b = 0x14000 then r32 b 0 [(18, 0)] [] [] []
    else if b = 0x14004 then r32 b 0 [] [(8, 0)] [] []
    else if b = 0x14008 then r32 b 0 [] [] [] [(1, 0)]
    else if b = 0x1400C then r32 b 0 [] [] [(5, 0)] []
    else if 0x14010 ≤ o ∧ o < 0x14020 then r64 (o / 8 * 8) 0 [(63, 0)] [] [] []
    else if b = 0x14020 then r32 b 0 [] [] [] [(0, 0)]
    else if b = 0x14028 ∨ b = 0x1402C then r64 0x14028 0 [] [(23, 0), (55, 32)] [] []
    else if b = 0x14030 then r32 b 0 [] [(23, 0)] [] []
    else if 0x14100 ≤ o ∧ o < 0x14200 then
      if o % 16 < 4 then r32 b 0 [(18, 0)] [] [] []
      else if o % 16 < 8 then r32 b 0 [(19, 0)] [] [] []
      else none
    else none
  else if b = 0x20000 then r32 b 5 [(2, 0), (4, 4)] [] [] []
  else if b = 0x20004 then r32 b 0 [] [(11, 0)] [] []
  else if b = 0x20008 then r32 b 0xF852 [(15, 0)] [] [] []
  else if b = 0x2000C then r32 b (if k.code = .gh840m then 0x05AA047E else 0x0AF00898) [(11, 0), (27, 16)] [] [] []
  else if b = 0x20010 then r32 b 0 [] [] [(6, 0)] []
  else if b = 0x20014 then r32 b 0xFFFF [] [(15, 0)] [] [(31, 31)]
  else if b = 0x20018 then r32 b 0 [] [(15, 0)] [] []
  else none

/-- Error records, counters and scrubbers (Tables 14.3, 14.8 and 14.9). -/
def regErr (k : Part) (o : Nat) : Option RegInfo :=
  let b := o / 4 * 4
  if o < 0x704000 then r64 (o / 8 * 8) 0 [] [(63, 0)] [] []
  else if b = 0x708000 then r32 b 0 [(7, 0)] [] [] [(8, 8)]
  else if b = 0x708004 then r32 b 0 [] [(8, 0)] [(9, 9)] []
  else if b = 0x708008 then r32 b 0 [] [(31, 0)] [] []
  else if 0x709000 ≤ o ∧ o < 0x709000 + 0x20 * k.dies then
    if o % 0x20 < 0x10 then r64 (o / 8 * 8) 0 [] [(63, 0)] [] [] else none
  else if 0x70A000 ≤ o ∧ o < 0x70A000 + 0x40 * k.dies then
    let q := o % 0x40 / 4 * 4
    if q = 0 then r32 b 0x60 [(9, 0)] [] [] []
    else if q = 8 ∨ q = 0xC then r64 (o / 8 * 8) 0 [(63, 0)] [] [] []
    else if q = 0x10 ∨ q = 0x14 then r64 (o / 8 * 8) 0 [] [(0, 0), (31, 16)] [] []
    else if q = 0x18 then r32 b 0 [] [(31, 0)] [] []
    else none
  else none

/-- Self-test (Tables 17.2 to 17.5). -/
def regBist (k : Part) (o : Nat) : Option RegInfo :=
  let b := o / 4 * 4
  if b = 0x800000 then r32 b 0x231 [(9, 0)] [] [] []
  else if b = 0x800004 then r32 b 0 [(9, 0)] [] [] [(10, 10)]
  else if b = 0x800008 then r32 b 0 [] [(2, 0), (31, 16)] [(3, 3)] []
  else if b = 0x80000C then r32 b 0 [] [(9, 0)] [] []
  else if b = 0x800010 then r32 b 0 [] [(23, 0)] [] []
  else if 0x800100 ≤ o ∧ o < 0x800100 + 4 * (54 * k.dies) then r32 b 0xFF00 [] [(0, 0), (15, 8)] [(1, 1)] []
  else if 0x801000 ≤ o ∧ o < 0x802000 then r64 (o / 8 * 8) 0 [] [(39, 0)] [] []
  else none

/-- The register at an offset, if the offset holds one on this ordering code. -/
def regInfo (k : Part) (o : Nat) : Option RegInfo :=
  if o < 0x10000 then regTop k o
  else if o < 0x100000 then regLow k o
  else if o < 0x200000 then regCommons o
  else if o < 0x300000 then regCoh k o
  else if o < 0x400000 then regEng k o
  else if o < 0x500000 then regLink k o
  else if o < 0x600000 then regHif o
  else if o < 0x700000 then regSch o
  else if o < 0x800000 then regErr k o
  else if o < 0x900000 then regBist k o
  else if o < 0x1000000 then regDbg o
  else if o < 0x2000000 then regClu k o
  else none

/-- Reset value of the register at an offset. -/
def regReset (k : Part) (o : Nat) : Word :=
  match regInfo k o with
  | some r => r.reset
  | none => 0

end Sys2Proof.Machine
end

