-- ==== Sys2Proof/Machine/Ops.lean ====
section
/-! DEFINITION. The named operations over the device: registers, free values, events, error reports,
clusters and their cores, traps and the return from one. -/
namespace Sys2Proof

/-- The cluster of an agent. -/
def Agent.cluster : Agent → Nat
  | .sCore n => n
  | .group n _ _ => n
/-- CORE of Table 3.2: 0 the S-core, 1 and 2 the V-cores. -/
def Agent.core : Agent → Nat
  | .sCore _ => 0
  | .group _ v1 _ => if v1 then 2 else 1
/-- The group slot, 0 for the S-core (Table 5.6). -/
def Agent.slot : Agent → Nat
  | .sCore _ => 0
  | .group _ _ k => k
/-- Whether the agent is a thread group. -/
def Agent.isGroup : Agent → Bool
  | .sCore _ => false
  | .group _ _ _ => true
/-- Index of the agent among the cluster's debug targets. -/
def Agent.dbgIdx : Agent → Nat
  | .sCore _ => 0
  | .group _ v1 k => 1 + 16 * bit v1 + k
/-- Index of the agent among the cluster's groups. -/
def Agent.groupIdx : Agent → Nat
  | .sCore _ => 0
  | .group _ v1 k => 16 * bit v1 + k

end Sys2Proof

namespace Sys2Proof.Machine

/-! ## Registers and free values -/

/-- What the register at an offset holds. -/
def Dev.reg (d : Dev) (o : Nat) : Word := NMap.get d.regs (regReset d.part o) o
/-- Put a value into a register. -/
def Dev.setReg (d : Dev) (o : Nat) (v : Word) : Dev := { d with regs := NMap.put d.regs o v }
/-- A field of a register. -/
def Dev.rf (d : Dev) (o hi lo : Nat) : Nat := fld (d.reg o) hi lo
/-- A bit of a register. -/
def Dev.rb (d : Dev) (o k : Nat) : Bool := bitAt (d.reg o) k
/-- Write a field of a register. -/
def Dev.setRf (d : Dev) (o hi lo x : Nat) : Dev := d.setReg o (setFld (d.reg o) hi lo x)
/-- Write a bit of a register. -/
def Dev.setRb (d : Dev) (o k : Nat) (b : Bool) : Dev := d.setRf o k k (bit b)
/-- Add to a 32-bit or 64-bit counter that saturates at `top`. -/
def Dev.bump (d : Dev) (o top x : Nat) : Dev := d.setReg o (BitVec.ofNat 64 (satAdd top (d.reg o).toNat x))
/-- Add to a field that saturates. -/
def Dev.bumpRf (d : Dev) (o hi lo x : Nat) : Dev :=
  d.setRf o hi lo (satAdd (2 ^ (hi + 1 - lo) - 1) (d.rf o hi lo) x)

/-- A free value, and the device that has taken it. -/
def Dev.fresh (d : Dev) : Word × Dev := (Config.freeWord d.free, { d with free := d.free + 1 })
/-- A free choice among `n` alternatives, and the device that has made it. -/
def Dev.choose (d : Dev) (n : Nat) : Nat × Dev :=
  (Config.freeChoice d.free % max n 1, { d with free := d.free + 1 })

/-- Offset of CLU_ID[n]; CLU_FPFLAGS, CLU_MISS_CTL and CLU_MISS_STS lie at +0x20, +0x40 and +0x44. -/
def oClu (n : Nat) : Nat := 0x1000000 + n * 0x1000
/-- Offset of partition descriptor p. -/
def oPart (p : Nat) : Nat := 0x100000 + p * 0x100
/-- Offset of window n. -/
def oWin (n : Nat) : Nat := 0x108000 + n * 0x10
/-- Offset of the coherence registers of die d. -/
def oCoh (d : Nat) : Nat := 0x200000 + d * 0x1000
/-- Offset of Porter channel `ch`, by global number (R282). -/
def oPorter (ch : Nat) : Nat := 0x300000 + ch / 32 * 0x10000 + ch % 32 * 0x100
/-- Offset of gather channel `ch`, by global number (R282). -/
def oGather (ch : Nat) : Nat := 0x304000 + ch / 16 * 0x10000 + ch % 16 * 0x100
/-- Offset of the function table entry of f. -/
def oFunc (f : Nat) : Nat := 0x500000 + f * 0x100
/-- Offset of the registers of context c. -/
def oCtx (c : Nat) : Nat := 0x600000 + c * 0x100

/-- STAGE of LTN_STAGE (Table 16.1): 8 is full function. -/
def Dev.stage (d : Dev) : Nat := d.rf 0x10000 3 0
/-- Full function. -/
def Dev.full (d : Dev) : Bool := decide (d.stage = 8)

/-- Engine channels stop at a descriptor boundary: an orderly drain on the reset level or a thermal trip is under way, or
the dies have stopped (R67, R411, Table 9.4). -/
def Dev.stopping (d : Dev) : Bool := d.pwr.stopped || decide (d.pwr.drain = some 1) || decide (d.pwr.drain = some 2)

/-- Stages in which the host-interface domains are powered and work (Table 16.1, R436, R454). -/
def Dev.hostAlive (d : Dev) : Bool :=
  let g := d.stage
  decide (4 ≤ g ∧ g ≤ 9) || (decide (g = 3) && d.ltn.found.isSome) ||
    (decide (g = 11) && decide (d.rf 0x10000 15 8 ≠ 0x0A) && !d.ltn.hostDown)
/-- A write of the manager to a block that acts in every stage of Table 16.1 in which the host is answered (R437). -/
def Dev.mgr (d : Dev) (f : Dev → Dev) : Dev := if d.hostAlive then f d else d
/-- A write of the manager to a block that acts in full function only (R437). -/
def Dev.mgrFull (d : Dev) (f : Dev → Dev) : Dev := if d.full then f d else d

/-! ## Events (R357) -/

/-- A function's page. -/
def Dev.fn (d : Dev) (f : Nat) : Fn := NMap.get d.fns Fn.reset f
/-- Replace a function's page. -/
def Dev.setFn (d : Dev) (f : Nat) (x : Fn) : Dev := { d with fns := NMap.put d.fns f x }

/-- Merge an event into those held: one of each kind, repeats counted (R357). -/
def holdEvent (held : List Event) (e : Event) : List Event :=
  if held.any fun h => decide (h.kind = e.kind) then
    updFirst held (fun h => decide (h.kind = e.kind)) fun h => {h with count := satAdd 65535 h.count 1 }
  else held ++ [e]

/-- Raise an event to a function: it waits to be written when the ring has room for it, and is held
otherwise (R357). -/
def Dev.raise (d : Dev) (f kind : Nat) (detail : BitVec 448) : Dev :=
  let x := d.fn f
  let e : Event := { kind := kind, count := 1, detail := detail }
  let unread := (x.count + 128 - x.head) % 128 + x.pend.length
  if x.evtEn && decide (unread < 64) && x.held.isEmpty then d.setFn f { x with pend := x.pend ++ [e] }
  else d.setFn f { x with held := holdEvent x.held e }

/-- Event detail from byte fields given at their offsets in the entry (8 to 63). -/
def detail (fs : List (Nat × Nat × Nat)) : BitVec 448 :=
  fs.foldl (fun acc p => setBytes acc (p.1 - 8) p.2.1 p.2.2) 0

/-! ## Error reports (R400 to R406) -/

/-- The error aggregator. -/
def Dev.onErrs (d : Dev) (f : Errs → Errs) : Dev := { d with errs := f d.errs }

/-- An ORIGIN (Table 14.6). -/
def origin (cls index : Nat) : BitVec 32 := BitVec.ofNat 32 (cls * 2 ^ 28 + index)

/-- Index of the valid record that satisfies a test. -/
def Errs.findKey (e : Errs) (p : ErrRec → Bool) : Option Nat := (e.recs.find? fun x => p x.2).map Prod.fst
/-- The lowest index from 0 to 254 that holds no valid record. -/
def Errs.freeIdx (e : Errs) : Option Nat :=
  (List.range 255).find? fun k => (NMap.find e.recs k).isNone

/-- Create a record at index k: its event goes to the manager (R402, R403). -/
def Dev.newRec (d : Dev) (k : Nat) (key : ErrKey) (r : Report) (addr det : Word) : Dev :=
  let e := d.errs
  let sq := NMap.get e.seqs 0 r.reporter.toNat
  let x : ErrRec :=
    { key := key, witness := min 65535 r.rep, reporter := r.reporter, seq := BitVec.ofNat 32 sq,
      arrival := e.arrival, map := setBit 0 r.wit true, addr := addr, detail := det }
  let next : BitVec 32 := if e.arrival = 0xFFFFFFFF then 1 else e.arrival + 1
  ({ d with errs := { e with recs := NMap.put e.recs k x, arrival := next } }).raise 0 4
    (detail [(8, 1, k), (9, 1, key.kind.toNat), (10, 1, key.sub.toNat), (12, 4, key.origin.toNat),
      (16, 8, addr.toNat)])

/-- Add a report to record k as a witness; `cnt` adds to DETAIL of RATE_LIMITED and OVERFLOW. -/
def Dev.witness (d : Dev) (k : Nat) (r : Report) (cnt : Nat) : Dev :=
  d.onErrs fun e =>
    match NMap.find e.recs k with
    | none => e
    | some x =>
      let y := { x with witness := satAdd 65535 x.witness r.rep, map := setBit x.map r.wit true,
                        detail := x.detail + BitVec.ofNat 64 cnt }
      { e with recs := NMap.put e.recs k y }

/-- A report of a new key when records 0 to 254 are all valid (R404). -/
def Dev.overflowReport (d : Dev) (r : Report) : Dev :=
  let d := (d.bump 0x708008 0xFFFFFFFF 1).setRb 0x708004 9 true
  match NMap.find d.errs.recs 255 with
  | some _ => d.witness 255 r 1
  | none => d.newRec 255 ⟨origin 0 0, 0xFF, 0⟩ r 0 1

/-- FULL is set once records 0 to 254 are all valid (Table 14.9). -/
def Dev.markFull (d : Dev) : Dev :=
  if d.errs.freeIdx.isNone then d.setRb 0x708004 9 true else d

/-- A report reaches the aggregator (R400, R404). -/
def Dev.aggregate (d : Dev) (r : Report) : Dev :=
  let d := d.onErrs fun e =>
    { e with seqs := NMap.put e.seqs r.reporter.toNat (NMap.get e.seqs 0 r.reporter.toNat + 1) }
  match d.errs.findKey fun x => decide (x.key = r.key) with
  | some k => d.witness k r 0
  | none =>
    let sameOrigin := (d.errs.recs.filter fun x =>
      decide (x.2.key.origin = r.key.origin) && decide (x.2.key.kind ≠ 0xFE) && decide (x.2.key.kind ≠ 0xFF)).length
    match d.errs.freeIdx with
    | none => d.overflowReport r
    | some k =>
      if sameOrigin < 8 then (d.newRec k r.key r r.addr r.detail).markFull
      else match d.errs.findKey fun x => decide (x.key = ⟨r.key.origin, 0xFE, 0⟩) with
        | some k => d.witness k r 1
        | none => (d.newRec k ⟨r.key.origin, 0xFE, 0⟩ r 0 1).markFull

/-- A source sees a fault: one report of a key in each 100 µs, further sightings are folded (R404). -/
def Dev.report (d : Dev) (r : Report) : Dev :=
  if d.errs.folds.any fun x => decide (x.r.reporter = r.reporter) && decide (x.r.key = r.key) then
    d.onErrs fun e =>
      let same := fun x : Fold => decide (x.r.reporter = r.reporter) && decide (x.r.key = r.key)
      { e with folds := updFirst e.folds same fun x => { r := r, folded := x.folded + r.rep } }
  else (d.onErrs fun e => { e with folds := e.folds ++ [{ r := r, folded := 0 }] }).aggregate r

/-- A report of one sighting. -/
def Dev.fault (d : Dev) (org : BitVec 32) (kind sub : Nat) (reporter : BitVec 32) (wit : Nat)
    (addr det : Word) : Dev :=
  d.report { key := ⟨org, BitVec.ofNat 8 kind, BitVec.ofNat 8 sub⟩, reporter := reporter, rep := 1,
             wit := wit, addr := addr, detail := det }

/-! ## Clusters, cores and groups -/

/-- A cluster by logical number. -/
def Dev.cl (d : Dev) (n : Nat) : Cluster := NMap.get d.clusters Cluster.reset n
/-- Replace a cluster. -/
def Dev.setCl (d : Dev) (n : Nat) (c : Cluster) : Dev := { d with clusters := NMap.put d.clusters n c }
/-- Change a cluster. -/
def Dev.onCl (d : Dev) (n : Nat) (f : Cluster → Cluster) : Dev := d.setCl n (f (d.cl n))
/-- CLU_ID[n].PRESENT (Table 1.2). -/
def Dev.present (d : Dev) (n : Nat) : Bool := d.rb (oClu n) 20
/-- The die of a logical cluster (R18). -/
def dieOf (n : Nat) : Nat := n / 48

/-- The group an agent names, if its slot holds one. -/
def Dev.grp (d : Dev) (a : Agent) : Option Group :=
  match a with
  | .sCore _ => none
  | .group n _ _ => NMap.find (d.cl n).groups a.groupIdx
/-- Replace the group an agent names. -/
def Dev.setGrp (d : Dev) (a : Agent) (g : Group) : Dev :=
  d.onCl a.cluster fun c => { c with groups := NMap.put c.groups a.groupIdx g }
/-- Change the group an agent names. -/
def Dev.onGrp (d : Dev) (a : Agent) (f : Group → Group) : Dev :=
  match d.grp a with
  | some g => d.setGrp a (f g)
  | none => d
/-- Change the S-core of a cluster. -/
def Dev.onS (d : Dev) (n : Nat) (f : SCore → SCore) : Dev := d.onCl n fun c => { c with s := f c.s }

/-- PC of a thread. -/
def Group.pcOf (g : Group) (l : Nat) : BitVec 48 := g.pcs.getD l 0
/-- The lowest PC held by any live thread (R120). -/
def Group.lowPc (g : Group) : Option Nat :=
  (List.range 32).foldl (fun acc l =>
    if g.live.getLsbD l then
      match acc with
      | none => some (g.pcOf l).toNat
      | some p => some (min p (g.pcOf l).toNat)
    else acc) none
/-- The mask of lanes that satisfy a test. -/
def maskOf (p : Nat → Bool) : BitVec 32 :=
  BitVec.ofNat 32 ((List.range 32).foldl (fun acc l => if p l then acc + 2 ^ l else acc) 0)
/-- The active mask (R120): the live threads whose PC is the lowest. -/
def Group.active (g : Group) : BitVec 32 :=
  match g.lowPc with
  | none => 0
  | some p => maskOf fun l => g.live.getLsbD l && decide ((g.pcOf l).toNat = p)

/-- The instruction address of an agent. -/
def Dev.pc (d : Dev) (a : Agent) : Nat :=
  match a with
  | .sCore n => (d.cl n).s.pc.toNat
  | .group _ _ _ => match d.grp a with
    | some g => g.lowPc.getD 0
    | none => 0
/-- The active mask of a group, zero for an S-core. -/
def Dev.activeMask (d : Dev) (a : Agent) : BitVec 32 :=
  match d.grp a with
  | some g => g.active
  | none => 0
/-- The privilege level: V-cores run only at Guest level (R79). -/
def Dev.level (d : Dev) (a : Agent) : Level :=
  match a with
  | .sCore n => (d.cl n).s.level
  | .group _ _ _ => .guest

/-- Set the PC of the threads in a mask. -/
def Group.setPcs (g : Group) (m : BitVec 32) (pc : Nat) : Group :=
  { g with pcs := (List.range 32).map fun l => if m.getLsbD l then BitVec.ofNat 48 pc else g.pcOf l }
/-- Move the agent to an address: the S-core, or the active threads of a group (R123). -/
def Dev.setPc (d : Dev) (a : Agent) (pc : Nat) : Dev :=
  match a with
  | .sCore n => d.onS n fun s => { s with pc := BitVec.ofNat 48 pc }
  | .group _ _ _ => d.onGrp a fun g => g.setPcs g.active pc

/-- Read a scalar or uniform register; register 0 reads zero (R71). -/
def Dev.rd (d : Dev) (a : Agent) (r : Nat) : Word :=
  if r = 0 then 0
  else match a with
    | .sCore n => NMap.get (d.cl n).s.regs 0 r
    | .group _ _ _ => match d.grp a with
      | some g => NMap.get g.u 0 r
      | none => 0
/-- Write a scalar or uniform register; a write to register 0 is discarded (R71). -/
def Dev.wr (d : Dev) (a : Agent) (r : Nat) (v : Word) : Dev :=
  if r = 0 then d
  else match a with
    | .sCore n => d.onS n fun s => { s with regs := NMap.set s.regs 0 r v }
    | .group _ _ _ => d.onGrp a fun g => { g with u := NMap.set g.u 0 r v }

/-- A lane register of one lane. -/
def Group.v (g : Group) (r l : Nat) : Half := NMap.get g.regs 0 (r * 32 + l)
/-- Write a lane register of one lane. -/
def Group.setV (g : Group) (r l : Nat) (x : Half) : Group := { g with regs := NMap.set g.regs 0 (r * 32 + l) x }
/-- A predicate. -/
def Group.pred (g : Group) (k : Nat) : BitVec 32 := NMap.get g.p 0 k
/-- Write a predicate. -/
def Group.setPred (g : Group) (k : Nat) (m : BitVec 32) : Group := { g with p := NMap.set g.p 0 k m }

/-- What an agent waits for. -/
def Dev.waitOf (d : Dev) (a : Agent) : Wait :=
  match a with
  | .sCore n => (d.cl n).s.wait
  | .group _ _ _ => match d.grp a with
    | some g => g.wait
    | none => .none
/-- Make an agent wait, or release it. -/
def Dev.setWait (d : Dev) (a : Agent) (w : Wait) : Dev :=
  match a with
  | .sCore n => d.onS n fun s => { s with wait := w }
  | .group _ _ _ => d.onGrp a fun g => { g with wait := w }

/-- The reservation of an agent. -/
def Dev.resvOf (d : Dev) (a : Agent) : Option Resv :=
  match a with
  | .sCore n => (d.cl n).s.resv
  | .group _ _ _ => match d.grp a with
    | some g => g.resv
    | none => none
/-- Set or end the reservation of an agent. -/
def Dev.setResv (d : Dev) (a : Agent) (r : Option Resv) : Dev :=
  match a with
  | .sCore n => d.onS n fun s => { s with resv := r }
  | .group _ _ _ => d.onGrp a fun g => { g with resv := r }
/-- End an agent's reservation and its record at the homes (R251, R275). -/
def Dev.endResv (d : Dev) (a : Agent) : Dev :=
  { d.setResv a none with coh := { d.coh with resv := d.coh.resv.filter fun r => decide (r.a ≠ a) } }

/-- The trap registers of an agent. -/
def Dev.tr (d : Dev) (a : Agent) : TrapRegs :=
  match a with
  | .sCore n => (d.cl n).s.tr
  | .group _ _ _ => match d.grp a with
    | some g => g.tr
    | none => TrapRegs.zero
/-- Replace the trap registers of an agent. -/
def Dev.setTr (d : Dev) (a : Agent) (t : TrapRegs) : Dev :=
  match a with
  | .sCore n => d.onS n fun s => { s with tr := t }
  | .group _ _ _ => d.onGrp a fun g => { g with tr := t }

/-- What the debug block holds for a target. -/
def Dev.dbg (d : Dev) (a : Agent) : Dbg := NMap.get (d.cl a.cluster).dbg Dbg.none a.dbgIdx
/-- Change what the debug block holds for a target. -/
def Dev.onDbg (d : Dev) (a : Agent) (f : Dbg → Dbg) : Dev :=
  d.onCl a.cluster fun c => { c with dbg := NMap.put c.dbg a.dbgIdx (f (NMap.get c.dbg Dbg.none a.dbgIdx)) }

/-- Count one retired instruction (R74, R114). -/
def Dev.retire (d : Dev) (a : Agent) : Dev :=
  match a with
  | .sCore n => d.onS n fun s => { s with retired := s.retired + 1 }
  | .group n v1 _ => d.onCl n fun c =>
      if v1 then { c with v1Retired := c.v1Retired + 1 } else { c with v0Retired := c.v0Retired + 1 }

/-- A cluster can execute: full function, present, and no slice or takeover holds it. -/
def Dev.running (d : Dev) (n : Nat) : Bool := d.full && d.present n && !(d.cl n).held

/-- In blocking mode the core that has the cluster's one request outstanding stalls until it is complete (R225). -/
def Dev.stalled (d : Dev) (a : Agent) : Bool :=
  let c := d.cl a.cluster
  d.rb (oClu a.cluster + 0x40) 0 && !c.preBlock && c.misses.any fun m => m.agents.any fun b => decide (b.core = a.core)
/-- An agent can issue an instruction: its cluster runs, it is resident with a live thread, waits for
nothing, its core does not stall and it is not halted by the debug block. -/
def Dev.ready (d : Dev) (a : Agent) : Bool :=
  d.running a.cluster && decide (d.waitOf a = .none) && !(d.dbg a).halted && !(d.stalled a) &&
  (match a with
    | .sCore _ => true
    | .group _ _ _ => match d.grp a with
      | some g => decide (g.live ≠ 0)
      | none => false)

/-! ## Traps (R81 to R85) -/

/-- ILLEGAL_INSTRUCTION. -/
def cILLEGAL : Nat := 0x01
/-- PRIVILEGE. -/
def cPRIVILEGE : Nat := 0x02
/-- UNIT_ABSENT. -/
def cABSENT : Nat := 0x03
/-- ADDRESS_UNMAPPED. -/
def cUNMAPPED : Nat := 0x04
/-- MISALIGNED. -/
def cMISALIGNED : Nat := 0x05
/-- REGION_TYPE. -/
def cREGION : Nat := 0x06
/-- OPERAND_SPACE. -/
def cOPERAND : Nat := 0x07
/-- TOKEN_BUSY. -/
def cBUSY : Nat := 0x08
/-- FETCH_UNCORRECTABLE. -/
def cFETCH : Nat := 0x09
/-- LOAD_UNCORRECTABLE. -/
def cLOAD : Nat := 0x0A
/-- GROUP_DIVERGED. -/
def cDIVERGED : Nat := 0x0B
/-- ENVIRONMENT_CALL. -/
def cECALL : Nat := 0x0C
/-- BREAKPOINT. -/
def cBREAK : Nat := 0x0D
/-- INTERNAL_ERROR. -/
def cINTERNAL : Nat := 0x0E

/-- Priority of a cause: the lower number is taken (Table 3.7). -/
def trapPriority (cause : Nat) : Nat :=
  if cause = cINTERNAL then 0 else if cause = cFETCH then 1 else if cause = cILLEGAL then 2
  else if cause = cPRIVILEGE then 3 else if cause = cABSENT then 4 else if cause = cDIVERGED then 5
  else if cause = cMISALIGNED then 6 else if cause = cUNMAPPED then 7 else if cause = cREGION then 8
  else if cause = cOPERAND then 9 else if cause = cBUSY then 10 else if cause = cLOAD then 11 else 12

/-- Whether a cause can be delegated (Table 3.7). -/
def delegable (cause : Nat) : Bool :=
  decide (cause ≠ cFETCH) && decide (cause ≠ cECALL) && decide (cause ≠ cINTERNAL)

/-- The trap registers after a trap (R82): what is saved, and whether it is delivered to Guest. -/
def TrapRegs.take (t : TrapRegs) (lvl : Level) (pc : Nat) (cause : Nat) (val : Word) : TrapRegs × Bool :=
  let deleg := decide (lvl = .guest) && delegable cause && bitAt t.gdeleg cause
  let st := setBit (setBit (setBit t.tstatus 0 (decide (lvl = .keeper))) 1 (decide (cause = cINTERNAL))) 2 deleg
  ({ t with tpc := BitVec.ofNat 64 pc, tcause := BitVec.ofNat 64 cause, tval := val, tstatus := st }, deleg)

/-- The running command of a cluster. -/
def Dev.onRun (d : Dev) (n : Nat) (f : RunCmd → RunCmd) : Dev :=
  d.onCl n fun c => { c with run := c.run.map f }

/-- An undelegated trap from Guest level: the shipped Keeper ends the running command as TRAPPED (R83). -/
def RunCmd.trapEnd (r : RunCmd) (cause : Nat) (tpc tval : Word) (core : Nat) : RunCmd :=
  match r.ending with
  | some _ => r
  | none => { r with ending := some (.trapped cause tpc tval core) }

/-- Trap entry of an S-core (R82), and the end of the running command when it reaches the Keeper
undelegated from Guest level (R83). The pc takes bits [47:0] of GTVEC or KTVEC: what bits [63:48] do the spec leaves open
(DESIGN CHOICE, log entry 98). -/
def Dev.trapS (d : Dev) (n : Nat) (cause : Nat) (val : Word) : Dev :=
  let s := (d.cl n).s
  let (t, deleg) := s.tr.take s.level s.pc.toNat cause val
  let d := d.endResv (.sCore n)
  if deleg then
    d.onS n fun s => { s with tr := t, pc := BitVec.ofNat 48 t.gtvec.toNat }
  else
    let d := d.onS n fun x => { x with tr := t, level := .keeper, pc := BitVec.ofNat 48 x.ktvec.toNat
                                       ecallTr := if s.level = .guest ∧ cause = cECALL then some s.tr else none }
    if s.level = .guest ∧ cause ≠ cECALL then d.onRun n fun r => r.trapEnd cause t.tpc t.tval 0 else d

/-- Count a group's end in its launch (R112); the launch's token is completed by `settle`. Lines and atomics that it
still awaits are discarded when they return, an atomic that it has issued is performed at every address (R113), and the debug
block holds it no longer (R141). -/
def Cluster.groupEnd (c : Cluster) (idx : Nat) (trapped : Bool) : Cluster :=
  match NMap.find c.groups idx with
  | none => c
  | some g =>
    { c with
      groups := NMap.del c.groups idx
      orphans := match g.wait with
        | .atom _ _ _ unsent _ _ => c.orphans ++ unsent
        | _ => c.orphans
      misses := c.misses.map fun m => { m with agents := m.agents.filter fun a => !(a.isGroup && decide (a.groupIdx = idx)) }
      dbg := c.dbg.map fun x => if x.1 = 1 + idx then
        (x.1, { Dbg.none with onBreak := x.2.onBreak, onTrap := x.2.onTrap, accErr := x.2.accErr }) else x
      launches := updFirst c.launches (fun l => decide (l.id = g.launch)) fun l =>
        { l with resident := l.resident - 1, trapped := l.trapped || trapped } }

/-- A trap of a group (R135 to R137): delegated, the trapping threads go to GTVEC, of which bits [47:0] count (DESIGN CHOICE, log
entry 98); undelegated, the group ends and the command keeps its first group trap. -/
def Dev.trapG (d : Dev) (a : Agent) (g : Group) (cause : Nat) (val : Word) : Dev :=
  let pc := g.lowPc.getD 0
  let (t, deleg) := g.tr.take .guest pc cause val
  let d := d.endResv a
  if deleg then
    d.setGrp a ({ g with tr := t, resv := none }.setPcs g.active t.gtvec.toNat)
  else
    let tr : GroupTrap := { core := a.core, cause := cause, pc := t.tpc, val := val, mask := g.active }
    -- HALT_ON_TRAP halts the group instead of ending it (R137). The spec names no place where it then stands: it stays at
    -- the trapping instruction, which RESUME issues again (DESIGN CHOICE, log entry 99)
    if (d.dbg a).onTrap then
      (d.setGrp a { g with tr := t, resv := none }).onDbg a fun x => { x with halted := true, reason := 4, cause := cause }
    else
      (d.onCl a.cluster fun c => c.groupEnd a.groupIdx true).onRun a.cluster fun r =>
        { r with trap := match r.trap with
          | some x => some x
          | none => some tr }

/-- Take a trap (R82), then let the debug block halt at the handler's first instruction (R101, R103): for a halt request that
meets it with REASON 1, else for STEP or HALT_ON_TRAP with REASON 4. A group that has ended has no handler. -/
def Dev.trap (d : Dev) (a : Agent) (cause : Nat) (val : Word) : Dev :=
  let x := d.dbg a
  let d := match a with
    | .sCore n => d.trapS n cause val
    | .group _ _ _ => match d.grp a with
      | some g => d.trapG a g cause val
      | none => d
  let there := match a with
    | .sCore _ => true
    | .group _ _ _ => (d.grp a).isSome
  if there && (x.haltReq || x.stepping || x.onTrap) then
    d.onDbg a fun y =>
      { y with haltReq := false, stepping := false, halted := true, reason := if x.haltReq then 1 else 4, cause := if x.haltReq then 0 else cause }
  else d

/-- Return from a trap (R82): the PC becomes TPC, the level PPRIV, DELEGATED is cleared. -/
def TrapRegs.ret (t : TrapRegs) : TrapRegs := { t with tstatus := setBit t.tstatus 2 false }

end Sys2Proof.Machine
end

