-- ==== Sys2Proof/Machine/Memory.lean ====
section
/-! DEFINITION. Local and the Commons as memories of 8-byte words (R205, R386 to R390), the layout of the
Commons (R33, R209 to R219) and which addresses a core, a context and an engine may reach (R29 to R31,
R78 to R80, R206, R214). -/
namespace Sys2Proof.Machine

/-! ## Words -/

/-- The canonical form of a memory: rising addresses, no zero byte and no mark of an untouched word listed. -/
def Mem.wf (m : Mem) : Bool := NMap.wf m.cells 0 && NMap.wf m.marks (.touched 0)

/-- What reading a word finds. `first` says that an uncorrectable code is met for the first time. -/
inductive WordRead where
  | ok (v : Word)
  | bad (first : Bool)
  deriving DecidableEq, Repr

/-- Two or more symbols of a written word go bad (R387): the next read of it finds that. -/
def Mem.damage (m : Mem) (w : Nat) : Mem :=
  if NMap.get m.marks (.touched 0) w = .written then { m with marks := NMap.set m.marks (.touched 0) w .damaged } else m
/-- The mark of a word. -/
def Mem.mark (m : Mem) (w : Nat) : Mark := NMap.get m.marks (.touched 0) w
/-- One byte as stored. -/
def Mem.byte (m : Mem) (a : Nat) : Byte := NMap.get m.cells 0 a
/-- Replace one byte, keeping the canonical form. -/
def Mem.setByte (m : Mem) (a : Nat) (b : Byte) : Mem := { m with cells := NMap.set m.cells 0 a b }
/-- The eight bytes of a word as stored. -/
def Mem.word (m : Mem) (w : Nat) : Word :=
  BitVec.ofNat 64 (natOfBytes ((List.range 8).map fun k => m.byte (8 * w + k)))
/-- Store eight bytes. -/
def Mem.setBytes8 (m : Mem) (w : Nat) (v : Word) : Mem :=
  (List.range 8).foldl (fun m k => m.setByte (8 * w + k) (BitVec.ofNat 8 (v.toNat >>> (8 * k)))) m
/-- A whole-word write: the word counts as written, and a poison mark is cleared (R86, R390). -/
def Mem.putWord (m : Mem) (w : Nat) (v : Word) : Mem :=
  let m := m.setBytes8 w v
  { m with marks := NMap.set m.marks (.touched 0) w .written }
/-- Write the poison pattern into a word (R387). -/
def Mem.poison (m : Mem) (w : Nat) : Mem :=
  let m := m.setBytes8 w 0
  { m with marks := NMap.set m.marks (.touched 0) w .poisoned }
/-- Read a word. What a word that has not been written holds is a free value (R390, log entry 2). -/
def Mem.readW (m : Mem) (id w : Nat) : WordRead :=
  match m.mark w with
  | .written => .ok (m.word w)
  | .poisoned => .bad false
  | .damaged => .bad true
  | .touched k => match Config.unwritten id m.gen w k with
    | some v => .ok v
    | none => .bad true
/-- The bytes of `new` that a byte mask selects, over `old`. -/
def mergeBytes (mask : BitVec 8) (old new : Word) : Word :=
  (List.range 8).foldl (fun v k =>
    if mask.getLsbD k then setFld v (8 * k + 7) (8 * k) (fld new (8 * k + 7) (8 * k)) else v) old
/-- Store the bytes that a mask selects (R86, R390): the whole word is replaced, or the word is read and
merged. The second component is `some first` when the merge meets an uncorrectable word and is
discarded. A partial store into an unwritten word leaves it unwritten. -/
def Mem.mergeW (m : Mem) (id w : Nat) (mask : BitVec 8) (v : Word) : Mem × Option Bool :=
  if mask = 0xFF then (m.putWord w v, none)
  else if mask = 0 then (m, none)
  else match m.readW id w with
    | .bad first => (if first then m.poison w else m, some first)
    | .ok old => match m.mark w with
      | .touched k => ({ m with marks := NMap.set m.marks (.touched 0) w (.touched (k + 1)) }, none)
      | _ => (m.putWord w (mergeBytes mask old v), none)
/-- The contents of words `[lo, hi)` are lost (R215): they count as unwritten. -/
def Mem.lose (m : Mem) (lo hi : Nat) : Mem :=
  { cells := m.cells.filter fun c => decide (c.1 / 8 < lo ∨ hi ≤ c.1 / 8),
    marks := m.marks.filter fun c => decide (c.1 < lo ∨ hi ≤ c.1),
    gen := m.gen + 1 }
/-- Every word is lost. -/
def Mem.loseAll (m : Mem) : Mem := { cells := [], marks := [], gen := m.gen + 1 }

/-- A memory of the device: the Local of a cluster, or the Commons. Words are numbered by core address
divided by 8. -/
inductive MSpace where
  | loc (n : Nat)
  | com
  deriving DecidableEq, Repr

/-- The number a memory has in `Config.unwritten`. -/
def MSpace.id : MSpace → Nat
  | .loc n => n
  | .com => 1000
/-- A memory of the device. -/
def Dev.mem (d : Dev) (sp : MSpace) : Mem :=
  match sp with
  | .loc n => NMap.get d.loc Mem.empty n
  | .com => d.commons
/-- Replace a memory of the device. -/
def Dev.setMem (d : Dev) (sp : MSpace) (m : Mem) : Dev :=
  match sp with
  | .loc n => { d with loc := NMap.put d.loc n m }
  | .com => { d with commons := m }

/-! ## The Commons: partitions, homes, windows -/

/-- First address of the Commons (R29). -/
def commonsBase : Nat := 0x1000000000
/-- First address of the device register space. -/
def devBase : Nat := 0x7F00000000
/-- Bytes of the device register space. -/
def devSize : Nat := 0x2000000
/-- First address of the Keeper area of Local (R206). -/
def keeperArea : Nat := 0x740000
/-- Bytes of Local. -/
def localSize : Nat := 0x800000

/-- TYPE of a partition. -/
def Dev.partType (d : Dev) (p : Nat) : Nat := d.rf (oPart p) 2 0
/-- ACTIVE of a partition. -/
def Dev.partActive (d : Dev) (p : Nat) : Bool := d.rb (oPart p + 8) 0
/-- FUNC of a partition. -/
def Dev.partFunc (d : Dev) (p : Nat) : Nat := d.rf (oPart p + 4) 23 16
/-- SHARED_RO of a partition. -/
def Dev.partRo (d : Dev) (p : Nat) : Bool := d.rb (oPart p + 4) 24
/-- Whether a configuration word describes a store partition. -/
def isStoreType (t : Nat) : Bool := decide (t = 1) || decide (t = 2) || decide (t = 4)
/-- Ways of a replica cache that belong to a locked store: LOCK_WAYS, of which those newly locked pass to it only when BUSY
clears (R216). -/
def Dev.lockWays (d : Dev) (q : Nat) : Nat := (NMap.find d.oldWays q).getD (d.rf (oPart q) 28 25)
/-- Size in bytes that a configuration gives a store partition (R213). -/
def Dev.cfgSize (d : Dev) (cfg : Word) : Nat :=
  let t := fld cfg 2 0
  if t = 1 then fld cfg 24 16 * 0x1000000
  else if t = 2 then fld cfg 24 16 * 0x1000000 * d.part.dies
  else if t = 4 then
    let q := fld cfg 13 8
    d.rf (oPart q) 24 16 * d.lockWays q * 0x100000
  else 0
/-- First address of a store partition. -/
def Dev.partBase (d : Dev) (p : Nat) : Nat := commonsBase + d.rf (oPart p + 4) 10 0 * 0x1000000
/-- The active store partition that holds an address (R214). -/
def Dev.partAt (d : Dev) (addr : Nat) : Option Nat :=
  (List.range 64).find? fun p =>
    d.partActive p && isStoreType (d.partType p) && decide (d.partBase p ≤ addr)
      && decide (addr < d.partBase p + d.cfgSize (d.reg (oPart p)))

/-- The slice of a line index (R33). -/
def sliceOf (j : Nat) : Nat := (j % 64) ^^^ (j / 64 % 64)
/-- Home die and slice of a Commons address (R33); die and slice 0 for an address in no partition. -/
def Dev.home (d : Dev) (addr : Nat) : Nat × Nat :=
  match d.partAt addr with
  | none => (0, 0)
  | some p =>
    let i := (addr - d.partBase p) / 128
    if d.partType p = 2 then (i % d.part.dies, sliceOf (i / d.part.dies))
    else (d.rf (oPart p) 5 3, sliceOf i)
/-- First address of a line, given as Commons address shifted right by 7 relative to the first Commons
address: the numbering of `MsgSel.line`. -/
def lineAddr (line : Nat) : Nat := commonsBase + line * 128
/-- The line of a Commons address. -/
def lineOf (addr : Nat) : Nat := (addr - commonsBase) / 128
/-- Home die of a line. -/
def Dev.homeDie (d : Dev) (line : Nat) : Nat := (d.home (lineAddr line)).1

/-- The replica cache partition of a die that is active, be it under its last write-back (R215). -/
def Dev.repPart (d : Dev) (die : Nat) : Option Nat :=
  (List.range 64).find? fun p => d.partActive p && decide (d.partType p = 3) && decide (d.rf (oPart p) 5 3 = die)
/-- The active replica cache of a die (R210, R217). -/
def Dev.replicaOf (d : Dev) (die : Nat) : Option Nat :=
  (List.range 64).find? fun p =>
    d.partActive p && decide (d.partType p = 3) && decide (d.rf (oPart p) 5 3 = die) && d.rb (oPart p) 6

/-- The window that covers an address, the lowest-numbered of them (R219). -/
def Dev.winAt (d : Dev) (addr : Nat) : Option Nat :=
  let page := (addr - commonsBase) / 0x10000
  (List.range 256).find? fun n =>
    let first := d.rf (oWin n) 18 0
    decide (first ≤ page) && decide (page < first + d.rf (oWin n + 4) 19 0)
/-- Class of an address: 0 streaming, 1 normal, 2 persistent (Table 7.4). -/
def Dev.classAt (d : Dev) (addr : Nat) : Nat :=
  match d.winAt addr with
  | none => 1
  | some n => let c := d.rf (oWin n + 8) 1 0; if c = 3 then 1 else c
/-- Whether an address lies in a read-only window. -/
def Dev.winRo (d : Dev) (addr : Nat) : Bool :=
  match d.winAt addr with
  | none => false
  | some n => d.rb (oWin n + 8) 2
/-- Whether next-line prefetch is disabled for an address (R222). -/
def Dev.nopf (d : Dev) (addr : Nat) : Bool :=
  (match d.winAt addr with
    | none => false
    | some n => d.rb (oWin n + 8) 3) ||
  (match d.partAt addr with
    | none => false
    | some p => d.rb (oPart p) 29)

/-- The refetch entry that can heal an address (R298): its page must still be read-only. -/
def Dev.refetch (d : Dev) (addr : Nat) : Option Nat :=
  let page := (addr - commonsBase) / 0x10000
  let ro := d.winRo addr || (match d.partAt addr with
    | none => false
    | some p => d.partRo p)
  if !ro then none
  else (List.range 64).find? fun k =>
    let o := 0x380000 + k * 0x10
    let kind := d.rf (o + 4) 21 20
    (decide (kind = 1) || decide (kind = 2)) && decide (d.rf o 18 0 ≤ page)
      && decide (page < d.rf o 18 0 + d.rf (o + 4) 19 0)

/-! ## Reading and writing words, with the outcomes of an uncorrectable word -/

/-- Die of a word, for WITNESS_MAP. -/
def Dev.wordDie (d : Dev) (sp : MSpace) (w : Nat) : Nat :=
  match sp with
  | .loc n => dieOf n
  | .com => (d.home (8 * w)).1
/-- ORIGIN of a memory fault (Table 14.6). -/
def Dev.wordOrigin (d : Dev) (sp : MSpace) (w : Nat) : BitVec 32 :=
  match sp with
  | .loc n => origin 3 (32 * n + 8 * w / 64 % 32)
  | .com => let h := d.home (8 * w); origin 2 (64 * h.1 + h.2)
/-- Raise MEM_UNCORRECTABLE for a word (Table 14.7). The source that reports is the slice or bank itself
(DEDUCED, log entry 6). -/
def Dev.memFault (d : Dev) (sp : MSpace) (w sub : Nat) : Dev :=
  let det : Nat := match sp with
    | .loc _ => 0x80
    | .com => match d.refetch (8 * w) with
      | some k => k
      | none => 0x80
  d.fault (d.wordOrigin sp w) 1 sub (d.wordOrigin sp w) (d.wordDie sp w) (BitVec.ofNat 64 (8 * w))
    (BitVec.ofNat 64 det)

/-- Read a word: an uncorrectable word is poisoned and reported once (R387). `sub` is the SUBKIND. -/
def Dev.readW (d : Dev) (sp : MSpace) (w sub : Nat) : Option Word × Dev :=
  match (d.mem sp).readW sp.id w with
  | .ok v => (some v, d)
  | .bad first =>
    (none, if first then (d.setMem sp ((d.mem sp).poison w)).memFault sp w sub else d)
/-- Store bytes of a word (R86): a merge that meets an uncorrectable word is discarded and recorded. -/
def Dev.mergeW (d : Dev) (sp : MSpace) (w : Nat) (mask : BitVec 8) (v : Word) : Dev :=
  match (d.mem sp).mergeW sp.id w mask v with
  | (m, none) => d.setMem sp m
  | (m, some first) => let d := d.setMem sp m; if first then d.memFault sp w 2 else d
/-- Read the 16 words of a line. -/
def Dev.readLine (d : Dev) (sp : MSpace) (addr : Nat) : LineData × Dev :=
  (List.range 16).foldl (fun acc k =>
    match acc.2.readW sp (addr / 8 + k) 0 with
    | (some v, d) => ({ acc.1 with v := setFld acc.1.v (64 * k + 63) (64 * k) v.toNat }, d)
    | (none, d) => ({ acc.1 with poison := setBit acc.1.poison k true }, d)) ({ v := 0, poison := 0 }, d)
/-- Write the bytes of a line that a mask selects. -/
def Dev.writeLine (d : Dev) (sp : MSpace) (addr : Nat) (mask : Mask) (data : Line) : Dev :=
  (List.range 16).foldl (fun d k =>
    d.mergeW sp (addr / 8 + k) (BitVec.ofNat 8 (fld mask (8 * k + 7) (8 * k)))
      (BitVec.ofNat 64 (fld data (64 * k + 63) (64 * k)))) d
/-- Write a whole line with its poison marks: a word copied from a poisoned source is poisoned (R387). -/
def Dev.putLine (d : Dev) (sp : MSpace) (addr : Nat) (x : LineData) : Dev :=
  (List.range 16).foldl (fun d k =>
    if x.poison.getLsbD k then d.setMem sp ((d.mem sp).poison (addr / 8 + k))
    else d.setMem sp ((d.mem sp).putWord (addr / 8 + k) (BitVec.ofNat 64 (fld x.v (64 * k + 63) (64 * k))))) d
/-- Store 1 to 8 bytes that lie within one word. -/
def Dev.storeRun (d : Dev) (sp : MSpace) (r : ByteRun) : Dev :=
  let o := r.addr % 8
  d.mergeW sp (r.addr / 8) (BitVec.ofNat 8 ((2 ^ r.n - 1) <<< o)) (r.val <<< (8 * o))

/-! ## Who may reach what -/

/-- A context's Local share: first byte and end (Table 13.1). -/
def Dev.share (d : Dev) (ctx : Nat) : Nat × Nat :=
  let o := oCtx ctx + 4
  (d.rf o 6 0 * 0x10000, (d.rf o 6 0 + d.rf o 14 8) * 0x10000)
/-- Whether a Local range lies in a context's share and outside the Keeper area (R206). -/
def Dev.inShare (d : Dev) (ctx lo n : Nat) : Bool :=
  let s := d.share ctx
  decide (s.1 ≤ lo) && decide (lo + n ≤ s.2) && decide (lo + n ≤ keeperArea)
/-- Whether a Commons range lies in one active store partition that a function may reach (R214). -/
def Dev.commonsMapped (d : Dev) (func addr n : Nat) : Option Nat :=
  match d.partAt addr with
  | none => none
  | some p =>
    if (decide (d.partFunc p = func) || d.partRo p) && decide (d.partAt (addr + n - 1) = some p) then some p
    else none

/-- Kinds of core access. -/
inductive Acc where
  | load | loadRo | store | atomic | fetch
  deriving DecidableEq, Repr

/-- The trap a core access takes before it is performed, by priority (R30, R78 to R80, R129, R206, R214,
R218). `marked` is any access but a plain MB load or store of 4 or 8 bytes. `lane` is an access of a GM or
fragment instruction. A uniform SV-S access of a group to the device register space takes PRIVILEGE by R79: R129's
REGION_TYPE for a group instruction is taken to mean SV-G (DESIGN CHOICE, log entry 100). -/
def Dev.accessTrap (d : Dev) (a : Agent) (k : Acc) (marked lane : Bool) (addr n : Nat) : Option Nat :=
  let s := (d.cl a.cluster).s
  let guest := decide (d.level a = .guest)
  if devBase ≤ addr ∧ addr < devBase + devSize then
    if guest && !lane then some cPRIVILEGE
    else if addr % n ≠ 0 then some cMISALIGNED
    else if lane || marked || decide (k ≠ .load ∧ k ≠ .store) then some cREGION
    else none
  else if addr % n ≠ 0 then some cMISALIGNED
  else if addr < localSize then
    if !guest || d.inShare s.ctx.toNat addr n then none
    else if (decide (k = .load) || decide (k = .loadRo)) && decide (s.cmd.toNat ≤ addr)
      && decide (addr + n ≤ s.cmd.toNat + 64) && decide ((d.cl a.cluster).run ≠ none) then none
    else some cUNMAPPED
  else if commonsBase ≤ addr ∧ addr < commonsBase + d.part.commonsBytes then
    match d.partAt addr with
    | none => some cUNMAPPED
    | some p =>
      if guest && decide (d.partFunc p ≠ s.func.toNat) && !d.partRo p then some cUNMAPPED
      else if decide (k = .store ∨ k = .atomic) && (d.partRo p || d.winRo addr) then some cREGION
      else none
  else some cUNMAPPED

/-! ## Instruction fetch -/

/-- Whether a line is held while it heals (R396). -/
def Dev.healing (d : Dev) (line : Nat) : Bool :=
  match NMap.find d.heals line with
  | some h => !h.failed
  | none => false
/-- A line's healing has failed, and something that waited for it has not had its outcome yet. -/
def Dev.healFailed (d : Dev) (line : Nat) : Bool := (NMap.find d.heals line).any Heal.failed
/-- A failed healing is over once every request that it held has had its outcome. -/
def Dev.healOver (d : Dev) (line : Nat) : Dev :=
  let held := d.coh.net.any fun m => decide (m.line = line) && (match m.body with
    | .req r => decide (r.kind ≠ .putE ∧ r.kind ≠ .putM ∧ r.kind ≠ .putO)
    | _ => false)
  let waits := d.heldBy.any fun x => decide (x.1 = line)
  if d.healFailed line ∧ held = false ∧ waits = false then { d with heals := NMap.del d.heals line } else d
/-- An access that waited for a line has had its outcome. -/
def Dev.healServed (d : Dev) (w : Holder) (line : Nat) : Dev :=
  Dev.healOver { d with heldBy := d.heldBy.filter fun x => decide (x ≠ (line, w)) } line

/-- Look a line up in the L1R. -/
def Cluster.l1rFind (c : Cluster) (line : Nat) : Option LineData := (c.l1r.find? fun y => decide (y.1 = line)).map Prod.snd
/-- The trap that the fetch of the parcel at an address takes (R78 to R80, R85): its cause. A word of Local is read in its bank
and one of the Commons in the L1R (R72); one that is uncorrectable there takes FETCH_UNCORRECTABLE (R394). A row says which
instruction its agent has fetched, so a word that has never been written, and decodes, gave those bits (R390; log entry 103). -/
def Dev.parcelTrap (d : Dev) (a : Agent) (pc : Nat) : Option Nat :=
  let guest := decide (d.level a = .guest)
  if guest && decide (devBase ≤ pc ∧ pc < devBase + devSize) then some cPRIVILEGE
  else if pc % 4 ≠ 0 then some cMISALIGNED
  else if devBase ≤ pc ∧ pc < devBase + devSize then some cREGION
  else if pc < localSize then
    if guest && !d.inShare (d.cl a.cluster).s.ctx.toNat pc 4 then some cUNMAPPED
    else match (d.mem (.loc a.cluster)).readW (MSpace.id (.loc a.cluster)) (pc / 8) with
      | .ok _ => none
      | .bad _ => some cFETCH
  else match d.accessTrap a .fetch false false pc 4 with
    | some c => some c
    | none => if ((d.cl a.cluster).l1rFind (lineOf pc)).any fun x => x.poison.getLsbD (pc % 128 / 8) then some cFETCH else none
/-- The trap that the fetch of an instruction of `len` bytes takes. -/
def Dev.fetchTrap (d : Dev) (a : Agent) (len : Nat) : Option Nat :=
  match d.parcelTrap a (d.pc a) with
  | some c => some c
  | none => if len = 8 then d.parcelTrap a (d.pc a + 4) else none
/-- The line of the Commons that the fetch of an instruction of `len` bytes waits for: the L1R does not hold it (R72, R218). -/
def Dev.fetchMiss (d : Dev) (a : Agent) (len : Nat) : Option Nat :=
  ([d.pc a, d.pc a + len - 4].find? fun p => decide (commonsBase ≤ p) && ((d.cl a.cluster).l1rFind (lineOf p)).isNone).map lineOf
/-- A fetch that traps has read its words of Local: one found uncorrectable for the first time is poisoned and reported (R387). -/
def Dev.fetchRead (d : Dev) (a : Agent) (len : Nat) : Dev :=
  [d.pc a, d.pc a + len - 4].foldl (fun (d : Dev) p =>
    if p < localSize ∧ d.parcelTrap a p = some cFETCH then (d.readW (.loc a.cluster) (p / 8) 0).2 else d) d

end Sys2Proof.Machine
end

