-- ==== Sys2Proof/Machine/Fabric.lean ====
section
/-! DEFINITION. The fabric (R25, R26, R34, R35, R37, R38): the grid of dies, the routes between them, the four virtual channels
with their buffers and credits, and the grants of crossbar outputs and edge ports. Messages advance by one grant of every
sub-channel of every edge on a step that finds no command waiting (DESIGN CHOICE, log entry 86); a message that has reached
its destination die waits there for the row that receives it. -/
namespace Sys2Proof.Machine

/-! ## The grid and its routes (R25, R26) -/

/-- Columns of the die grid (R25). -/
def Part.columns (k : Part) : Nat := if k.code = .gh840m then 2 else 4
/-- The grid neighbour of a die across a logical edge, N 0, E 1, S 2, W 3 (R25). -/
def neighbour (k : Part) (die e : Nat) : Option Nat :=
  let w := k.columns
  if e = 0 then (if w ≤ die then some (die - w) else none)
  else if e = 1 then (if die % w + 1 < w then some (die + 1) else none)
  else if e = 2 then (if die < w then some (die + w) else none)
  else if 0 < die % w then some (die - 1) else none
/-- Hops between two dies (R26). -/
def Part.hops (k : Part) (a b : Nat) : Nat :=
  let w := k.columns
  (a / w - b / w) + (b / w - a / w) + ((a % w - b % w) + (b % w - a % w))
/-- The edge by which a message leaves a die towards another (R26): along its column to the destination's row first, then along
the row (DEDUCED, log entry 85). `none` at the destination. -/
def Part.exit (k : Part) (at_ dst : Nat) : Option Nat :=
  let w := k.columns
  if dst / w < at_ / w then some 0
  else if at_ / w < dst / w then some 2
  else if at_ % w < dst % w then some 1
  else if dst % w < at_ % w then some 3
  else none
/-- The die that a message has reached after `h` hops. -/
def Part.after (k : Part) (src dst : Nat) : Nat → Nat
  | 0 => src
  | h + 1 =>
    let x := k.after src dst h
    match k.exit x dst with
    | none => x
    | some e => (neighbour k x e).getD x

/-! ## Channels, ports and sizes (R34, R38) -/

/-- Virtual channel of a message (Tables 1.6 and 8.3). -/
def MsgBody.vc : MsgBody → Nat
  | .req _ => 1
  | .fwd _ _ _ _ => 2
  | .recallMsg => 2
  | .inv => 0
  | .invAck => 0
  | .fwdAck _ => 0
  | .kill _ => 0
  | _ => 3
/-- Bytes of a message (Table 1.6): data messages carry 128 B and a header of 16 B; a message without data is taken as 16 B, and
one on VC0 as the 32 B that it has at most (DESIGN CHOICE, log entry 86). -/
def MsgBody.size : MsgBody → Nat
  | .req r => match r.pay with
    | .none => 16
    | _ => 144
  | .data _ true _ _ => 144
  | .recallData _ _ => 144
  | .comp _ _ _ => 144
  | b => if b.vc = 0 then 32 else 16
/-- The crossbar port of a cluster of a die. -/
def clusterPort (n : Nat) : Nat := n % 48
/-- The crossbar port of a slice. -/
def slicePort (s : Nat) : Nat := 64 + s
/-- The crossbar port at which a die's replica cache takes part for a line: the manual does not say which slice's ways hold
it, and the model takes slice_of of the line (DESIGN CHOICE, log entry 86). -/
def replicaPort (line : Nat) : Nat := slicePort (sliceOf line)
/-- The port of a requester (R241): the replica cache, or for a request without allocation the cluster's own. -/
def requesterPort (r : Req) : Nat :=
  if r.kind = .rdU ∨ r.kind = .wrT ∨ r.kind = .atm then clusterPort r.cl else replicaPort r.line
/-- Source and destination port of a message. -/
def Dev.ports (d : Dev) (src line cl : Nat) (b : MsgBody) : Nat × Nat :=
  let h := d.home (lineAddr line)
  let home := slicePort h.2
  let rep := replicaPort line
  match b with
  | .req r => (requesterPort r, home)
  | .invAck => (rep, home)
  | .fwdAck _ => (rep, home)
  | .recallData _ _ => (rep, home)
  | .wbPending => (rep, home)
  | .data g _ _ _ => (if src = h.1 then home else rep, if g = .none then clusterPort cl else rep)
  | .retry _ r => (home, requesterPort r)
  | .wake r => (home, requesterPort r)
  | .comp r _ _ => (home, requesterPort r)
  | .kill a => (home, clusterPort a.cluster)
  | _ => (home, rep)

/-- A reading of the duration counter of a die (R42): it has advanced by an amount the model leaves open since the last
reading. -/
def Dev.readDur (d : Dev) (die : Nat) : Word × Dev :=
  let (x, d) := d.fresh
  let v := NMap.get d.dur 0 die + x
  (v, { d with dur := NMap.put d.dur die v })
/-- The deadline that a message has at its destination: on arrival of a request that carries one, the duration counter there
plus the relative deadline, less 40 ns for each hop (R232). -/
def Dev.stamp (d : Dev) (x : Msg) : Msg × Dev :=
  match x.body with
  | .req r => match r.rt with
    | some t =>
      let (now, d) := d.readDur x.dst
      ({ x with due := some (now.toNat + t - 40 * d.part.hops x.src x.dst) }, d)
    | none => (x, d)
  | _ => (x, d)

/-- Change the coherence fabric. -/
def Dev.onCoh (d : Dev) (f : Coh → Coh) : Dev := { d with coh := f d.coh }
/-- Send a coherence message: it joins those of its source port. -/
def Dev.send (d : Dev) (src dst line cl : Nat) (b : MsgBody) : Dev :=
  let p := d.ports src line cl b
  let x : Msg := { src := src, dst := dst, line := line, cl := cl, sp := p.1, dp := p.2, hop := 0, due := none, fails := 0, body := b }
  let (x, d) := if src = dst then d.stamp x else (x, d)
  d.onCoh fun c => { c with net := c.net ++ [x] }

/-! ## Where a message stands -/

/-- Hops of its route. -/
def Dev.route (d : Dev) (x : Msg) : Nat := d.part.hops x.src x.dst
/-- Its destination has taken it in and holds it: it is in the fabric no longer. -/
def Dev.taken (d : Dev) (x : Msg) : Bool := decide (d.route x < x.hop)
/-- Two messages between the same ports on one virtual channel, which arrive in the order they were sent (R37). -/
def sameFlow (x y : Msg) : Bool :=
  decide (x.src = y.src) && decide (x.dst = y.dst) && decide (x.sp = y.sp) && decide (x.dp = y.dp) && decide (x.body.vc = y.body.vc)
/-- The messages sent before one. -/
def Dev.before (d : Dev) (x : Msg) : List Msg := d.coh.net.takeWhile fun y => decide (y ≠ x)
/-- No message of its flow that was sent before it is still in the fabric. -/
def Dev.inOrder (d : Dev) (x : Msg) : Bool := (d.before x).all fun y => d.taken y || !(sameFlow x y)
/-- Bytes of a list of messages. -/
def msgBytes (l : List Msg) : Nat := l.foldl (fun n x => n + x.body.size) 0
/-- A message that has not left its die has room in the buffer of its source port: 8 lines for each channel (Table 1.7). -/
def Dev.inPort (d : Dev) (x : Msg) : Bool :=
  decide (x.hop ≠ 0) ||
  decide (msgBytes ((d.before x).filter fun y => decide (y.hop = 0) && !(d.taken y) && decide (y.src = x.src) && decide (y.sp = x.sp) &&
    decide (y.body.vc = x.body.vc)) + x.body.size ≤ 1024)
/-- It stands at the output port of its destination. -/
def Dev.arrived (d : Dev) (x : Msg) : Bool := decide (x.hop = d.route x) && d.inPort x && d.inOrder x

/-! ## Edges (R35, R38) -/

/-- The sub-channel of an edge that a message uses: one for all of a flow, so that its order is kept (DESIGN CHOICE, log entry 86). -/
def Msg.sub (x : Msg) : Nat := x.dp % 4
/-- The edge that a message came in by: the die it left, and the direction. -/
def Dev.cameBy (d : Dev) (x : Msg) : Option (Nat × Nat) :=
  match x.hop with
  | 0 => none
  | h + 1 =>
    let at_ := d.part.after x.src x.dst h
    (d.part.exit at_ x.dst).map fun e => (at_, e)
/-- Credits, in bytes, left for a sub-channel of an edge on a virtual channel: its buffer holds 24 KiB (Table 1.7). -/
def Dev.edgeCredit (d : Dev) (die e sub vc : Nat) : Nat :=
  24576 - msgBytes (d.coh.net.filter fun y => !(d.taken y) && decide (y.sub = sub) && decide (y.body.vc = vc) && decide (d.cameBy y = some (die, e)))
/-- A message may cross an edge by one of some sub-channels: it stands on the die with that way before it, in its order, and has
credit. -/
def Dev.mayCross (d : Dev) (die e : Nat) (subs : List Nat) (x : Msg) : Bool :=
  decide (x.hop < d.route x) && decide (d.part.after x.src x.dst x.hop = die) && decide (d.part.exit die x.dst = some e) &&
  subs.contains x.sub && d.inPort x && decide (x.body.size ≤ d.edgeCredit die e x.sub x.body.vc)
/-- VC0 goes first, but after 7 grants in a row a waiting message of another channel (R35). -/
def grant (run0 : Nat) (zero other : Option Msg) : Option Msg :=
  match zero, other with
  | some x, some y => if run0 < 7 then some x else some y
  | some x, none => some x
  | none, y => y
/-- The count of consecutive VC0 grants after one. -/
def nextRun (n vc : Nat) : Nat := if vc = 0 then n + 1 else 0
/-- A port has granted a message of a channel. -/
def Dev.granted (d : Dev) (port vc : Nat) : Dev :=
  d.onCoh fun c => { c with run0 := NMap.set c.run0 0 port (nextRun (NMap.get c.run0 0 port) vc) }
/-- Number of an edge port in `run0`. -/
def edgePort (die e : Nat) : Nat := 1024 * die + 512 + e
/-- Number of a crossbar output port in `run0`. -/
def outPort (die port : Nat) : Nat := 1024 * die + port
/-- A granted message crosses. One that fails the check of the next stage is sent again from the stage that keeps it, and its
order stands (R385): which message does is open. -/
def Dev.crossMsg (d : Dev) (x : Msg) : Dev :=
  let (fails, d) := d.choose 2
  let y := if fails = 1 then { x with fails := x.fails + 1 } else { x with hop := x.hop + 1, fails := 0 }
  let (y, d) := if fails = 0 ∧ y.hop = d.route y then d.stamp y else (y, d)
  d.onCoh fun c => { c with net := updFirst c.net (fun z => decide (z = x)) fun _ => y }
/-- An edge port grants one waiting message for each sub-channel: of those that it still may send by a free sub-channel, one of VC0
first (R35). -/
def Dev.crossEdge (die e : Nat) : Nat → List Nat → Dev → Dev
  | 0, _, d => d
  | n + 1, subs, d =>
    let zero := d.coh.net.find? fun x => decide (x.body.vc = 0) && d.mayCross die e subs x
    let other := d.coh.net.find? fun x => decide (x.body.vc ≠ 0) && d.mayCross die e subs x
    match grant (NMap.get d.coh.run0 0 (edgePort die e)) zero other with
    | none => d
    | some x => Dev.crossEdge die e n (subs.filter fun k => decide (k ≠ x.sub)) ((d.crossMsg x).granted (edgePort die e) x.body.vc)
/-- Every edge port grants once for each of its four sub-channels. -/
def Dev.fabricTick (d : Dev) : Dev :=
  if d.coh.net.all fun x => decide (d.route x ≤ x.hop) then d
  else (List.range d.part.dies).foldl (fun (d : Dev) die => (List.range 4).foldl (fun (d : Dev) e =>
    Dev.crossEdge die e 4 [0, 1, 2, 3] d) d) d
/-- An edge that is permanently faulty (R411): the die and the edge by which a message has failed its check 16 times in
succession. -/
def Dev.edgeOut (d : Dev) : Option (Nat × Nat) :=
  (d.coh.net.find? fun x => decide (16 ≤ x.fails)).bind fun x =>
    let at_ := d.part.after x.src x.dst x.hop
    (d.part.exit at_ x.dst).map fun e => (at_, e)

/-! ## Arrival (R35, R37) -/

/-- The crossbar output port of a message's destination lets it through now (R35). -/
def Dev.outputGrants (d : Dev) (x : Msg) : Bool :=
  let here (y : Msg) : Bool := decide (y.dst = x.dst) && decide (y.dp = x.dp) && d.arrived y
  let run := NMap.get d.coh.run0 0 (outPort x.dst x.dp)
  if x.body.vc = 0 then decide (run < 7) || !(d.coh.net.any fun y => decide (y.body.vc ≠ 0) && here y)
  else decide (7 ≤ run) || !(d.coh.net.any fun y => decide (y.body.vc = 0) && here y)
/-- The message that a selector names on a channel, if it can be received now: its destination holds it, or it stands at the
output port there and is granted. -/
def Dev.msgAt (d : Dev) (m : MsgSel) (vc : Nat) : Option Msg :=
  match d.coh.net.find? fun x : Msg => decide (x.src = m.src) && decide (x.dst = m.dst) && decide (x.line = m.line) && decide (x.cl = m.cl) &&
    decide (x.body.vc = vc) with
  | none => none
  | some x => if d.taken x || (d.arrived x && d.outputGrants x) then some x else none
/-- Count the grant of a message that leaves the fabric. -/
def Dev.leaveFabric (d : Dev) (x : Msg) : Dev := if d.taken x then d else d.granted (outPort x.dst x.dp) x.body.vc
/-- A message is received. -/
def Dev.receive (d : Dev) (x : Msg) : Dev :=
  (d.leaveFabric x).onCoh fun c => { c with net := eraseFirst c.net fun y => decide (y = x) }
/-- Its destination takes a message in and holds it: those it holds stand first, in the order in which it took them (R396). -/
def Dev.holdMsg (d : Dev) (x : Msg) : Dev :=
  if d.taken x then d
  else
    let rest := eraseFirst d.coh.net fun y => decide (y = x)
    (d.leaveFabric x).onCoh fun c => { c with
      net := (rest.filter fun y => d.taken y) ++ [{ x with hop := d.route x + 1 }] ++ rest.filter fun y => !(d.taken y) }

end Sys2Proof.Machine
end

