-- ==== Sys2Proof/Machine/CmdEnd.lean ====
section
/-! DEFINITION. Tokens, launches and the end of a command: what completes a token (R157 to R159), when a
launch completes (R112), when a command ends (R83, R94) and what the shipped Keeper and the scheduler do
at its end (R171, R189, R375, R376, R378). -/
namespace Sys2Proof.Machine

/-! ## Tokens -/

/-- A token of a cluster. -/
def Cluster.tok (c : Cluster) (k : Nat) : Token := NMap.get c.tokens Token.free k
/-- Replace a token. -/
def Cluster.setTok (c : Cluster) (k : Nat) (t : Token) : Cluster := { c with tokens := NMap.set c.tokens Token.free k t }
/-- The token word (Table 5.6): a FREE token returns zero (R161). -/
def Token.word (t : Token) : Word :=
  match t.st with
  | .free => 0
  | .pending =>
    setFld (setFld (setFld (setFld (setFld (1 : Word) 31 16 t.tag.toNat) 33 32 t.source) 35 34 t.issuer)
      39 36 t.group) 63 40 t.epoch.toNat
  | .done =>
    setFld (setFld (setFld (setFld (setFld (setFld (2 : Word) 15 8 t.status.toNat) 31 16 t.tag.toNat)
      33 32 t.source) 35 34 t.issuer) 39 36 t.group) 63 40 t.epoch.toNat

/-- Physical position of a logical cluster (CLU_ID, Table 1.2). -/
def Dev.posOf (d : Dev) (n : Nat) : Nat := d.rf (oClu n) 18 15
/-- The placement of the command that runs on a cluster (R361). -/
def Dev.placeOf (d : Dev) (n : Nat) : Place :=
  match (d.cl n).run with
  | some r => { pos := d.posOf n, ctx := r.q.ctx, epoch := r.epoch, cid := r.cid }
  | none => { pos := d.posOf n, ctx := 64, epoch := 0, cid := 0 }

/-- The identity of the command running on a cluster, 0 when none does. -/
def Cluster.cid (c : Cluster) : Nat :=
  match c.run with
  | some r => r.cid
  | none => 0

/-- A completion reaches the token file (R157): it makes the token DONE when the command that claimed it
still owns it, and is not applied otherwise (R159). -/
def Cluster.complete (c : Cluster) (k cid status : Nat) : Cluster :=
  let t := c.tok k
  if t.st = .pending ∧ t.cid = cid then
    c.setTok k { t with st := .done, status := BitVec.ofNat 8 status }
  else c

/-- A claim of a token (R157). -/
def Cluster.claim (c : Cluster) (k : Nat) (a : Agent) (source : Nat) (tag : BitVec 16) (epoch : Word) : Cluster :=
  c.setTok k { st := .pending, status := 0, tag := tag, source := source, issuer := a.core, group := a.slot,
               epoch := setFld 0 23 0 epoch.toNat, cid := c.cid }

/-! ## Contexts and turns (R370 to R378) -/

/-- STARTS_BLOCKED (R65, R67). -/
def Dev.blocked (d : Dev) : Bool := d.rb 0x20004 11
/-- Whether a context's mask holds a cluster. -/
def Dev.maskHas (d : Dev) (ctx n : Nat) : Bool := d.rb (oCtx ctx + 0x20 + 4 * (n / 32)) (n % 32)
/-- Units of step-5-equivalent time in 1 ns: a common multiple of 100 and of the factors of Table 2.3 in hundredths,
so that the time spent at any step is a whole number of units (R68). -/
def equivNs : Nat := 97363429800
/-- Slice of a context in units: 0 acts as 2,000 µs. -/
def Dev.sliceLen (d : Dev) (ctx : Nat) : Nat :=
  let s := d.rf (oCtx ctx) 31 16
  (if s = 0 then 2000 else s) * 1000 * equivNs
/-- RT_ADMITTED. -/
def Dev.rtAdmitted (d : Dev) (ctx : Nat) : Bool := d.rb (oCtx ctx + 0x10) 5
/-- Whether a waiting command may run on a cluster: in its context's mask, and not required elsewhere. -/
def Dev.fits (d : Dev) (q : CmdRec) (n : Nat) : Bool :=
  d.maskHas q.ctx n && (!(bitAt q.c.cluster 15) || decide (fld q.c.cluster 8 0 = n))
/-- Every accepted command that has not started. -/
def Dev.allWaiting (d : Dev) : List CmdRec := (d.wins.map fun w => w.2.waiting).flatten
/-- Whether SEQ `a` comes before `b` in a window, whose commands in flight are at most 64. -/
def seqBefore (a b : BitVec 32) : Bool := decide (a ≠ b) && decide ((b - a).toNat < 2 ^ 31)
/-- Whether an earlier command of a window has not completed: it waits, runs, or its record is not written. -/
def Dev.earlierOpen (d : Dev) (f w : Nat) (seq : BitVec 32) : Bool :=
  d.allWaiting.any (fun q => decide (q.func = f ∧ q.win = w) && seqBefore q.seq seq) ||
  d.recs.any (fun r => decide (r.func = f ∧ r.win = w) && seqBefore r.seq seq) ||
  d.clusters.any (fun c =>
    c.2.cmdq.any (fun q => decide (q.func = f ∧ q.win = w) && seqBefore q.seq seq) ||
    (match c.2.run with
      | some r => decide (r.q.func = f ∧ r.q.win = w) && seqBefore r.q.seq seq
      | none => false))
/-- Whether an accepted command may start under R352: it is the first of its window that waits, QUIESCE is 0, a
BARRIER command has no earlier command open, and the twin has acknowledged its mirroring (R418). -/
def Dev.mayStart (d : Dev) (q : CmdRec) : Bool :=
  !(d.allWaiting.any fun x => decide (x.func = q.func ∧ x.win = q.win) && seqBefore x.seq q.seq) &&
  !(d.rb (oFunc q.func) 16) && (!(q.c.flags.getLsbD 1) || !(d.earlierOpen q.func q.win q.seq)) && q.mirrored
/-- Whether a context has a waiting command for a cluster: one that may start, is not turned away, and fits. -/
def Dev.waitsOn (d : Dev) (ctx n : Nat) : Bool :=
  d.rb (oCtx ctx) 0 && !(d.rb (oCtx ctx + 0x10) 1) &&
  d.allWaiting.any fun q => decide (q.op = 1) && decide (q.ctx = ctx) && d.fits q n && d.mayStart q

/-- Give the turn of a cluster to the next normal context, in ascending order after `from_`, that has a
waiting command for it; a turn whose whole length is debt is skipped (R375, R376). -/
def nextTurn : Nat → Nat → Nat → Dev → Dev
  | 0, _, n, d => d.onCl n fun c => { c with turn := none }
  | fuel + 1, k, n, d =>
    let ctx := k % 64
    if d.waitsOn ctx n && !d.rtAdmitted ctx then
      let debt := NMap.get (d.cl n).debt 0 ctx
      let len := d.sliceLen ctx
      if debt ≥ len then
        nextTurn fuel (k + 1) n (d.onCl n fun c => { c with debt := NMap.set c.debt 0 ctx (debt - len) })
      else
        d.onCl n fun c => { c with
          turn := some { ctx := ctx, left := len - debt, past := 0, expired := false },
          debt := NMap.set c.debt 0 ctx 0 }
    else nextTurn fuel (k + 1) n d

/-- Enough rounds for every context that waits to pay its debt. -/
def Dev.turnRounds (d : Dev) (n : Nat) : Nat :=
  ((List.range 64).filter fun c => d.waitsOn c n && !d.rtAdmitted c).foldl
    (fun (m : Nat) (c : Nat) => max m (64 * (NMap.get (d.cl n).debt 0 c / d.sliceLen c + 2))) 0
/-- Give a cluster's turn to the next context after `from_` that has a waiting command for it; to none when
no context has one. -/
def Dev.giveTurn (d : Dev) (from_ n : Nat) : Dev := nextTurn (d.turnRounds n) from_ n d

/-- The end of a turn with its command (R376): overrun becomes debt, and the turn passes on; a context
that loses it with a command still waiting counts one preemption. -/
def Dev.passTurn (d : Dev) (n : Nat) : Dev :=
  match (d.cl n).turn with
  | none => d
  | some t =>
    if !t.expired && decide (t.left ≠ 0) then d
    else
      let d := d.onCl n fun c => { c with debt := NMap.set c.debt 0 t.ctx (NMap.get c.debt 0 t.ctx + t.past) }
      let d := d.setReg (oCtx t.ctx + 0x98) (d.reg (oCtx t.ctx + 0x98) + BitVec.ofNat 64 (t.past / equivNs))
      let others := (List.range 64).any fun c => decide (c ≠ t.ctx) && d.waitsOn c n && !d.rtAdmitted c
      let d := if others && d.waitsOn t.ctx n then
        d.setReg (oCtx t.ctx + 0x90) (d.reg (oCtx t.ctx + 0x90) + 1) else d
      d.giveTurn (t.ctx + 1) n

/-- A window of a function. -/
def Dev.win (d : Dev) (f n : Nat) : Window := NMap.get d.wins Window.reset (8 * f + n)
/-- Replace a window. -/
def Dev.setWin (d : Dev) (f n : Nat) (w : Window) : Dev := { d with wins := NMap.put d.wins (8 * f + n) w }
/-- Change a window. -/
def Dev.onWin (d : Dev) (f n : Nat) (g : Window → Window) : Dev := d.setWin f n (g (d.win f n))

/-- The record of a command that completes without running (R351). -/
def CmdRec.plainRec (q : CmdRec) (status : Nat) : Rec :=
  { func := q.func, win := q.win, cid := 0, status := status, reissued := q.reissued, moved := false,
    tag := q.c.tag, slot := q.slot, gstatus := 0, seq := q.seq, epoch := 0, cluster := 0, wbFailed := 0,
    fpflags := 0, wbToken := 0, tcause := 0, tpc := 0, tval := 0, run := 0, waitNs := q.waitNs,
    irq := q.c.flags.getLsbD 0, ctx := q.ctx, afterEarlier := false, quiesce := none, engine := none,
    mirrored := false }

/-- Commands delivered to clusters that have not started. -/
def Dev.delivered (d : Dev) : List CmdRec := (d.clusters.map fun x => x.2.cmdq).flatten
/-- Complete every accepted command that satisfies a test and has not started with a status: those that wait, and those
delivered to a cluster whose `wfc` has not returned with them. -/
def Dev.dropWaiting (d : Dev) (p : CmdRec → Bool) (status : Nat) : Dev :=
  { d with
    recs := d.recs ++ ((d.delivered ++ d.allWaiting).filter p).map fun q => q.plainRec status
    wins := d.wins.map fun w => (w.1, { w.2 with waiting := w.2.waiting.filter fun q => !p q })
    clusters := d.clusters.map fun x => (x.1, { x.2 with cmdq := x.2.cmdq.filter fun q => !p q }) }
/-- A command back in its window's queue, at its place in SEQ order. -/
def insertCmd (q : CmdRec) : List CmdRec → List CmdRec
  | [] => [q]
  | x :: xs => if seqBefore q.seq x.seq then q :: x :: xs else x :: insertCmd q xs
/-- Commands delivered to clusters that satisfy a test wait again: nothing of their context may start there now. -/
def Dev.recall (d : Dev) (p : Nat → CmdRec → Bool) : Dev :=
  let back := (d.clusters.map fun x => x.2.cmdq.filter (p x.1)).flatten
  back.foldl (fun (d : Dev) q => d.onWin q.func q.win fun w => { w with waiting := insertCmd q w.waiting })
    { d with clusters := d.clusters.map fun x => (x.1, { x.2 with cmdq := x.2.cmdq.filter fun q => !(p x.1 q) }) }

/-- Mark a context in error (R378): ERROR and ERR_CAUSE, one CTX_ERROR event to the owner, and its
queued commands complete with CTX_ERROR. -/
def Dev.ctxError (d : Dev) (ctx cause win : Nat) (seq : BitVec 32) : Dev :=
  let d := (d.setRb (oCtx ctx + 0x10) 1 true).setRf (oCtx ctx + 0x10) 4 2 cause
  let d := d.raise (d.rf (oCtx ctx) 8 1) 2 (detail [(8, 1, ctx), (9, 1, cause), (10, 1, win), (12, 4, seq.toNat)])
  d.dropWaiting (fun q => decide (q.ctx = ctx)) 6

/-- The cause that marks a context in error, by trap cause (R83). -/
def errCause (cause : Nat) : Option Nat :=
  if cause = cINTERNAL then some 2 else if cause = cFETCH then some 3 else if cause = cLOAD then some 4 else none

/-! ## The end of a command -/

/-- The instruction that STEP ran has completed: the target halts (R101), which ends its reservation (R275). -/
def Dev.stepEnd (d : Dev) (a : Agent) : Dev :=
  if (d.dbg a).stepping then
    (d.endResv a).onDbg a fun x => { x with stepping := false, halted := true, reason := 2 }
  else d

/-- Nothing the command started is outstanding, and its stores have been performed (R94). -/
def Cluster.drained (c : Cluster) (cid : Nat) : Bool :=
  c.tokens.all (fun t => !(decide (t.2.st = .pending) && decide (t.2.cid = cid))) &&
  c.launches.all (fun l => decide (l.cid ≠ cid)) && c.groups.isEmpty &&
  c.qS.isEmpty && c.q0.isEmpty && c.q1.isEmpty && c.buf.isEmpty

/-- The record of a command that ran on cluster n (Table 12.8). -/
def Dev.runRec (d : Dev) (n : Nat) (r : RunCmd) (status : Nat) (g : BitVec 16) (core cause : Nat)
    (tpc tval : Word) : Rec :=
  { func := r.q.func, win := r.q.win, cid := r.cid, status := status, reissued := r.q.reissued,
    moved := r.moved, tag := r.q.c.tag, slot := r.q.slot, gstatus := g, seq := r.q.seq, epoch := r.epoch,
    cluster := BitVec.ofNat 16 (n + core * 512), wbFailed := min 65535 r.wbFailed,
    fpflags := BitVec.ofNat 32 (d.rf (oClu n + 0x20) 22 0), wbToken := r.wbToken, tcause := cause,
    tpc := tpc, tval := tval, run := r.ns, waitNs := r.q.waitNs, irq := r.q.c.flags.getLsbD 0,
    ctx := r.q.ctx, afterEarlier := false, quiesce := none, engine := none, mirrored := false }

/-- What the shipped Keeper does when the running command of a cluster ends: it stores the seed and the context's trap
registers back (R189), ends real-time marking of requests (R382), and the turn passes (R376). A completion that comes later
is not applied to the token file (R159). -/
def Dev.leaveCmd (d : Dev) (n : Nat) (r : RunCmd) : Dev :=
  let d := d.endResv (.sCore n)
  let t := (d.cl n).s.tr
  let x := NMap.get d.ctxs CtxRt.reset r.q.ctx
  -- A command that has not reached its Guest entry point has loaded neither the seed nor the trap registers
  let d := if (d.cl n).entering then d else
    { (d.onCl n fun c => { c with seeds := NMap.set c.seeds 0 r.q.ctx c.srSeed }) with
      ctxs := NMap.put d.ctxs r.q.ctx { x with gtvec := t.gtvec, gdeleg := t.gdeleg } }
  let d := d.onCl n fun c =>
    { c with run := none, entering := false, tokens := c.tokens.map fun t => (t.1, { t.2 with cid := 0 }) }
  let d := d.setRb (oClu n + 0x40) 28 false
  d.passTurn n

/-- The record, and the context's error mark, of an ending command. -/
def Dev.recordEnd (d : Dev) (n : Nat) (r : RunCmd) (e : Ending) : Dev :=
  let fin (d : Dev) (x : Rec) (err : Option Nat) : Dev :=
    let d := { d with recs := d.recs ++ [x] }
    match err with
    | some c => d.ctxError r.q.ctx c r.q.win r.q.seq
    | none => if r.internal then d.ctxError r.q.ctx 2 r.q.win r.q.seq else d
  match e with
  | .trapped cause tpc tval core => fin d (d.runRec n r 1 0 core cause tpc tval) (errCause cause)
  | .done st =>
    match r.trap with
    | some t => fin d (d.runRec n r 1 (BitVec.ofNat 16 st.toNat) t.core t.cause t.pc t.val) (errCause t.cause)
    | none => fin d (d.runRec n r 0 (BitVec.ofNat 16 st.toNat) 0 0 0 0) none

/-- End the running command once nothing it started is outstanding (R94), unless the debug block halts the S-core. A
waiting `cmd.done` retires and enters the Keeper's command end. -/
def Dev.tryEnd (d : Dev) (n : Nat) : Dev :=
  match (d.cl n).run with
  | none => d
  | some r =>
    match r.ending with
    | none => d
    | some e =>
      if (d.cl n).drained r.cid && !(d.dbg (.sCore n)).halted then
        let d := (d.recordEnd n r e).leaveCmd n r
        if (d.cl n).s.wait = .cmdDone then
          ((d.onS n fun s => { s with wait := .none, level := .keeper, pc := BitVec.ofNat 48 (s.ktvec.toNat + 0x40) }).retire
            (.sCore n)).stepEnd (.sCore n)
        else d
      else d

/-- Groups a launch asks for (COUNT of Table 4.1). -/
def Launch.count (l : Launch) : Nat := bytesAt l.record 8 2
/-- A launch has ended: none of its groups is resident and no further one starts (R112, R138). -/
def Launch.over (l : Launch) : Bool :=
  l.checked && decide (l.resident = 0) && (decide (l.next ≥ l.count) || l.stopped)

/-- Complete the tokens of launches that have ended (R112), then end the command if it can. -/
def Dev.settle (d : Dev) (n : Nat) : Dev :=
  let d := d.onCl n fun c =>
    (c.launches.filter Launch.over).foldl (fun c l => c.complete l.tok l.cid (if l.trapped then 0x21 else 0))
      { c with launches := c.launches.filter fun l => !l.over }
  d.tryEnd n

end Sys2Proof.Machine
end

