-- ==== Sys2Proof/Machine/Ledger.lean ====
section
/-! DEFINITION. Writes to host memory and the Ledger (R364 to R367): which pages a function has written. -/
namespace Sys2Proof.Machine

/-- A host address is an I/O virtual address of a function (R341): the two together name a byte of host memory. -/
def hostKey (f addr : Nat) : Nat := f * 2 ^ 64 + addr
/-- Put bytes into host memory. -/
def hostBytes (m : NMap Byte) (key : Nat) : List Byte → NMap Byte
  | [] => m
  | b :: bs => hostBytes (NMap.put m key b) (key + 1) bs
/-- A write of the device into the host memory of a function, which is not logged. -/
def Dev.hostPut (d : Dev) (f addr : Nat) (bs : List Byte) : Dev := { d with host := hostBytes d.host (hostKey f addr) bs }

/-- UP of a port. -/
def Dev.portUp (d : Dev) (p : Nat) : Bool := d.rb (0x520004 + 0x100 * p) 0
/-- The port of a function. -/
def Dev.portOf (d : Dev) (f : Nat) : Nat := d.rf (oFunc f) 11 11

/-- Write a Ledger entry (R365): when one free entry is left, an overflow entry is written there, logging
stops and a LEDGER event is raised (R367). A marker counts in MARKS. -/
def Dev.ledgerWrite (d : Dev) (entry : Word) : Dev :=
  if d.ldgStopped then d
  else
    let size := 2 ^ d.rf 0x510000 5 1
    let prod := d.rf 0x510010 24 0
    let used := (prod + 2 * size - d.rf 0x510014 24 0 % (2 * size)) % (2 * size)
    let at_ := (d.reg 0x510008).toNat + prod % size * 8
    let d' := d.setRf 0x510010 24 0 ((prod + 1) % (2 * size))
    if used + 1 ≥ size then
      let d' := (d'.hostPut 0 at_ (toBytes 8 (setFld (0 : Word) 63 62 3))).setRb 0x51001C 0 true
      ({ d' with ldgStopped := true, ldgQ := [] }).raise 0 8
        (detail [(8, 1, 1), (12, 4, prod), (16, 4, d.rf 0x51001C 19 1)])
    else
      let d' := d'.hostPut 0 at_ (toBytes 8 entry)
      if fld entry 63 62 = 2 then d'.setRf 0x51001C 19 1 (fld entry 18 0) else d'
/-- The queued entries leave through the port that carries the ring, while it is up (R364). -/
def Dev.ledgerFlush (d : Dev) : Dev :=
  if d.portUp (d.rf 0x510000 6 6) then d.ldgQ.foldl (fun d e => d.ledgerWrite e) { d with ldgQ := [] } else d
/-- Queue a Ledger entry while logging is on. What a port that is down does to them is not stated: they wait for it (DESIGN
CHOICE, log entry 110). -/
def Dev.ledgerPush (d : Dev) (entry : Word) : Dev :=
  if !(d.rb 0x510000 0) || d.ldgStopped then d else Dev.ledgerFlush { d with ldgQ := d.ldgQ ++ [entry] }

/-- A Ledger entry (Table 12.13). -/
def ledgerEntry (kind func page : Nat) : Word :=
  setFld (setFld (setFld (0 : Word) 51 0 page) 61 54 func) 63 62 kind

/-- LEDGER of a function. -/
def Dev.ledgerOn (d : Dev) (f : Nat) : Bool := d.rb (oFunc f) 17

/-- A page lies in a shadow range (R421). -/
def Dev.shadowed (d : Dev) (page : Nat) : Bool :=
  d.part.twin && (List.range 16).any fun k =>
    decide (d.rf (0x14100 + 16 * k) 18 0 ≤ page) && decide (page < d.rf (0x14100 + 16 * k) 18 0 + d.rf (0x14104 + 16 * k) 19 0)
/-- A Commons page of 64 KiB is written (R366, R421): its shadow bit, which counts while a shadow range holds the page, and its
written bit are set, and the first write after
the latest REARM is logged before it is performed. -/
def Dev.notePage (d : Dev) (line : Nat) : Dev :=
  let page := line / 512
  let d := if d.part.twin then { d with twin := { d.twin with shadow := NMap.set d.twin.shadow false page true } } else d
  if NMap.get d.dirty false page then d
  else
    let d := { d with dirty := NMap.put d.dirty page true }
    match d.partAt (commonsBase + page * 0x10000) with
    | none => d
    | some p => if d.ledgerOn (d.partFunc p) then d.ledgerPush (ledgerEntry 1 (d.partFunc p) page) else d

/-- A function's engine, record or event writes host memory (R366): each 4 KiB page is logged; a repeat of
one of the 4,096 pages most recently logged may be left out. -/
def Dev.hostWrite (d : Dev) (f addr : Nat) (bs : List Byte) : Dev :=
  let page := addr / 0x1000
  let d := if d.ledgerOn f then
    let recent := NMap.get d.ldgRecent [] f
    let (skip, d) := if recent.contains page then d.choose 2 else (0, d)
    if skip = 1 then d
    else (({ d with ldgRecent := NMap.put d.ldgRecent f ((page :: recent).take 4096) }).ledgerPush
      (ledgerEntry 0 f page))
    else d
  d.hostPut f addr bs

end Sys2Proof.Machine
end

