-- ==== Sys2Proof/Machine/LinkFrame.lean ====
section
/-! DEFINITION. Frames on the links (R308 to R312, R346): the registers of a link, framing under credit, the replay buffer and
the receive buffer. -/
namespace Sys2Proof.Machine

/-! ## Registers -/

/-- Offset of the registers of link l. -/
def oLink (l : Nat) : Nat := 0x400000 + l * 0x1000
/-- Offset of LNK_DEV_ID. -/
def oDevId : Nat := 0x480000
/-- Offset of LNK_ROUTE[dst]. -/
def oRoute (dst : Nat) : Nat := 0x490000 + 4 * dst
/-- Offset of the registers of group g. -/
def oGrp (g : Nat) : Nat := 0x4C0000 + g * 0x20
/-- The die of a link (R317, R326). -/
def linkDie (l : Nat) : Nat := if l = 64 then 2 else if l = 65 then 5 else l / 8

/-- A link. -/
def Dev.link (d : Dev) (l : Nat) : Link := NMap.get d.links.links Link.reset l
/-- Change the link block. -/
def Dev.onLinks (d : Dev) (f : Links → Links) : Dev := { d with links := f d.links }
/-- Replace a link. -/
def Dev.setLink (d : Dev) (l : Nat) (x : Link) : Dev := d.onLinks fun b => { b with links := NMap.put b.links l x }
/-- Change a link. -/
def Dev.onLink (d : Dev) (l : Nat) (f : Link → Link) : Dev := d.setLink l (f (d.link l))
/-- LNK_STS[l].UP. -/
def Dev.linkUp (d : Dev) (l : Nat) : Bool := d.rb (oLink l + 4) 0
/-- LNK_STS[l].TRAINING. -/
def Dev.linkTraining (d : Dev) (l : Nat) : Bool := d.rb (oLink l + 4) 29
/-- A bit of LNK_EVT becomes set: one error record (Tables 11.9 and 14.7). -/
def Dev.linkEvent (d : Dev) (l k : Nat) : Dev :=
  if d.rb (oLink l + 8) k then d
  else (d.setRb (oLink l + 8) k true).fault (origin 6 l) 8 k (origin 6 l) (linkDie l) 0 (d.reg (oLink l + 4))

/-- This device's identifier (R316). -/
def Dev.ownId (d : Dev) : Nat := d.rf oDevId 11 0
/-- LNK_DEV_ID.VALID. -/
def Dev.idValid (d : Dev) : Bool := d.rb oDevId 12

/-! ## Framing (R308 to R312) -/

/-- Link virtual channel of a message (Table 11.4). -/
def msgLv (m : LinkMsg) : Nat :=
  let k := m.kind.toNat
  if 1 ≤ k ∧ k ≤ 4 then 1 else if k = 7 then 2 else 0
/-- Size of a message in units of 16 B. -/
def msgSize (m : LinkMsg) : Nat :=
  let n := m.dlen.toNat
  1 + (if n = 1 then 1 else if n = 2 then 8 else if n = 3 then 9 else 0)
/-- Whether a message breaks the protocol (R310): an unassigned kind, or a reserved field that is not zero. -/
def msgBad (m : LinkMsg) : Bool :=
  decide (m.kind = 0) || decide (m.kind.toNat > 0xB) || decide (m.rsv ≠ 0) || decide (m.dlen.toNat > 3)

/-- Credit of a link on a channel. -/
def Link.credit (x : Link) (lv : Nat) : Nat := if lv = 0 then x.cr0 else if lv = 1 then x.cr1 else x.cr2
/-- Use or gain credit. -/
def Link.setCredit (x : Link) (lv v : Nat) : Link :=
  if lv = 0 then { x with cr0 := v } else if lv = 1 then { x with cr1 := v } else { x with cr2 := v }
/-- The function of an LV1 message and its LINK_WEIGHT, as the sender of a link counts it. -/
abbrev Sharer := LinkMsg → Nat × Nat
/-- Whether a function may still send in this round: its share is 9 units, the longest message, for each unit of its weight. -/
def Link.mayShare (x : Link) (w : Sharer) (m : LinkMsg) : Bool :=
  decide (NMap.get x.share 0 (w m).1 < 9 * max 1 (w m).2)
/-- The LV1 message whose turn it is (R346): the oldest of a function that may still send in this round; when none may, a round
begins. The order within a round is the model's (DESIGN CHOICE, log entry 113). -/
def Link.turn1 (x : Link) (w : Sharer) : Option LinkMsg :=
  match x.sendq.find? fun m => decide (msgLv m = 1) && x.mayShare w m with
  | some m => some m
  | none => x.sendq.find? fun m => decide (msgLv m = 1)
/-- The waiting message of a channel whose turn it is, if the credit for the whole of it is held (R311). -/
def Link.ready (x : Link) (w : Sharer) (lv : Nat) : Option LinkMsg :=
  match (if lv = 1 then x.turn1 w else x.sendq.find? fun m => decide (msgLv m = lv)) with
  | some m => if msgSize m ≤ x.credit lv then some m else none
  | none => none
/-- The message that is sent next (R311): LV0 before the others, but after 7 LV0 messages one of another channel. -/
def Link.pick (x : Link) (w : Sharer) : Option LinkMsg :=
  let other := match x.ready w 1 with
    | some m => some m
    | none => x.ready w 2
  match x.ready w 0, other with
  | some m, some o => if x.lv0run ≥ 7 then some o else some m
  | some m, none => some m
  | none, o => o
/-- Form a frame with what every frame carries: ACK and the credits to be returned, at most 1,023 units on a channel (Table
11.2). -/
def Link.form (x : Link) (ftype : Nat) (ms : List LinkMsg) : TxFrame × Link :=
  ({ ftype := ftype, seq := x.txSeq, ack := x.rxSeq, lv0 := min x.ret0 1023, lv1 := min x.ret1 1023, lv2 := min x.ret2 1023, msgs := ms },
   { x with ret0 := x.ret0 - 1023, ret1 := x.ret1 - 1023, ret2 := x.ret2 - 1023 })
/-- Send a data or NAK frame: it enters the replay buffer until ACK covers it (R312). -/
def Link.keep (x : Link) (ftype : Nat) (ms : List LinkMsg) : Link :=
  let (f, x) := x.form ftype ms
  { x with replay := x.replay ++ [f], txSeq := x.txSeq + 1, last := some f }
/-- Send an idle frame: it stays in no buffer (R308). The manual does not say which SEQ it carries: the model gives the next
data frame's (DESIGN CHOICE, log entry 94). -/
def Link.idle (x : Link) : Link :=
  let (f, x) := x.form 1 []
  { x with last := some f }
/-- What a function has sent in the round, with one more message. -/
def Link.shared (x : Link) (w : Sharer) (m : LinkMsg) : Link :=
  if msgLv m ≠ 1 then x
  else
    let s := if x.mayShare w m then x.share else []
    { x with share := NMap.set s 0 (w m).1 (NMap.get s 0 (w m).1 + msgSize m) }
/-- Send one message in a data frame of its own. -/
def Link.frame (x : Link) (w : Sharer) (m : LinkMsg) : Link :=
  let x := (x.shared w m).setCredit (msgLv m) (x.credit (msgLv m) - msgSize m)
  ({ x with sendq := eraseFirst x.sendq fun y => decide (y = m)
            lv0run := if msgLv m = 0 then x.lv0run + 1 else 0 }).keep 0 [m]
/-- Send what credit and the replay buffer allow. -/
def Link.pump (w : Sharer) : Nat → Link → Link
  | 0, x => x
  | n + 1, x => if x.replay.length ≥ 256 then x else match x.pick w with
    | some m => Link.pump w n (x.frame w m)
    | none => x
/-- Send what waits, or an idle frame when nothing can be sent (R308). -/
def Link.run (w : Sharer) (x : Link) : Link :=
  let y := x.pump w x.sendq.length
  if y.txSeq = x.txSeq then y.idle else y
/-- The function that a message on a link serves, with its LINK_WEIGHT: that of its request; a message of another device shares as
the manager's (DESIGN CHOICE, log entry 113). -/
def Dev.sharer (d : Dev) (l : Nat) : Sharer := fun m =>
  let f := match d.links.rem.find? fun r => decide (r.link = some l) && decide (r.msg = m) with
    | some r => r.func
    | none => 0
  (f, d.rf (oFunc f) 15 12)
/-- Send what can be sent on a link that is up, not in training (R314) and not in standby (Table 11.1). -/
def Dev.pumpLink (d : Dev) (l : Nat) : Dev :=
  if d.linkUp l && !d.linkTraining l && decide (d.rf (oLink l + 4) 2 1 ≠ 0) then d.onLink l (Link.run (d.sharer l)) else d
/-- Space of the receive buffer is free again: its credit is returned (R311), but for what old messages owe. -/
def Link.giveBack (x : Link) (m : LinkMsg) : Link :=
  let n := msgSize m - x.owe
  let x := { x with owe := x.owe - msgSize m }
  if msgLv m = 0 then { x with ret0 := x.ret0 + n }
  else if msgLv m = 1 then { x with ret1 := x.ret1 + n } else { x with ret2 := x.ret2 + n }
/-- Units of the receive buffer that a channel's messages fill. -/
def Link.filled (x : Link) (lv : Nat) : Nat :=
  ((x.rxq ++ x.part.toList).filter fun m => decide (msgLv m = lv)).foldl (fun n m => n + msgSize m) 0
/-- The receive buffer has room for messages (R311): 8 KiB reserved for each channel and 72 KiB shared. -/
def Link.room (x : Link) (ms : List LinkMsg) : Bool :=
  let y := { x with rxq := x.rxq ++ ms }
  decide ((y.filled 0 - 512) + (y.filled 1 - 512) + (y.filled 2 - 512) ≤ 4608)
/-- Hand a message to a link. -/
def Dev.onWire (d : Dev) (l : Nat) (m : LinkMsg) : Dev :=
  (d.onLink l fun x => { x with sendq := x.sendq ++ [m] }).pumpLink l

/-- A message without data. -/
def plainMsg (kind chan dst src addr req : Nat) : LinkMsg :=
  { kind := BitVec.ofNat 4 kind, aop := 0, srcDie := 0, dlen := 0, chan := BitVec.ofNat 8 chan, dst := BitVec.ofNat 12 dst,
    src := BitVec.ofNat 12 src, addr := BitVec.ofNat 48 addr, req := BitVec.ofNat 16 req, depth := 0, rsv := 0, mask := 0,
    data := 0 }

end Sys2Proof.Machine
end

