-- ==== Sys2Proof/Machine/Coherence.lean ====
section
/-! DEFINITION. Coherence of the replica caches (R217, R220, R222, R227, R228, R235 to R253): the caches,
the directories, the messages between them, and the accesses that are performed at a home slice at once. -/
namespace Sys2Proof.Machine

/-! ## Replica caches -/

/-- The replica cache of a die. -/
def Dev.rep (d : Dev) (die : Nat) : Replica := NMap.get d.coh.reps Replica.empty die
/-- Replace the replica cache of a die. -/
def Dev.setRep (d : Dev) (die : Nat) (r : Replica) : Dev :=
  d.onCoh fun c => { c with reps := NMap.put c.reps die r }
/-- A line of a replica cache. -/
def Dev.repLine (d : Dev) (die line : Nat) : Option RepLine :=
  (d.rep die).lines.find? fun x => decide (x.line = line)
/-- Whether a line lies in a die's write-back buffer. -/
def Dev.inWb (d : Dev) (die line : Nat) : Bool := (d.rep die).wb.any fun x => decide (x.line = line)
/-- Change a line of a replica cache. -/
def Dev.onRepLine (d : Dev) (die line : Nat) (f : RepLine → RepLine) : Dev :=
  let r := d.rep die
  d.setRep die { r with lines := updFirst r.lines (fun x => decide (x.line = line)) f }
/-- Remove a line from a replica cache. -/
def Dev.dropRepLine (d : Dev) (die line : Nat) : Dev :=
  let r := d.rep die
  d.setRep die { r with lines := eraseFirst r.lines fun x => decide (x.line = line) }
/-- A use of a line: it becomes the most recently used (R220). -/
def Dev.touchLine (d : Dev) (die line : Nat) : Dev :=
  match d.repLine die line with
  | none => d
  | some x =>
    let r := d.rep die
    d.setRep die { r with lines := { x with hit := true } :: eraseFirst r.lines fun y => decide (y.line = line) }

/-- A count of evictions before reuse that exceeds its snapshot by THRESHOLD or more sets its EBR_EVT bit and raises one
event (R228). -/
def Dev.checkEbr (d : Dev) (p cls : Nat) : Dev :=
  let o := oPart p + 0x80 + 0x20 * cls
  let die := d.rf (oPart p) 5 3
  let thr := d.rf (o + 0x18) 23 0
  let cnt := (d.reg (o + 0x10)).toNat
  if thr ≠ 0 ∧ cnt - NMap.get d.snaps 0 (4 * p + cls) ≥ thr ∧ d.rb (oPart p + 8) (6 + cls) = false then
    (d.setRb (oPart p + 8) (6 + cls) true).fault (origin 8 (p + 64 * die)) 0x0B cls (origin 4 die) die 0
      (BitVec.ofNat 64 cnt)
  else d
/-- Count an event of a class in the replica partition of a die: 0 hits, 1 misses, 2 evictions before
reuse (R227, Table 7.7). -/
def Dev.countClass (d : Dev) (die cls which : Nat) : Dev :=
  match d.repPart die with
  | none => d
  | some p =>
    let o := oPart p + 0x80 + 0x20 * cls + 8 * which
    let d := d.setReg o (d.reg o + 1)
    if which = 2 then d.checkEbr p cls else d

/-- A line leaves the cache without having been hit since its fill: an eviction before reuse. -/
def Dev.countLeave (d : Dev) (die : Nat) (x : RepLine) : Dev :=
  if x.hit then d else d.countClass die x.cls 2

/-- Sets of a replica cache: 8,192 for each granule (R217). -/
def Dev.repSets (d : Dev) (p : Nat) : Nat := max 1 (8192 * d.rf (oPart p) 24 16)
/-- The Put of a line in the write-back buffer (Table 8.4). -/
def putOf (die : Nat) (x : RepLine) : Req :=
  { kind := match x.st with
      | .m => .putM
      | .o => .putO
      | _ => .putE
    src := die, cl := 0, pos := 0, epoch := 0, line := x.line, pay := if x.st = .m ∨ x.st = .o then .put x.d else .none, prefetch := false, rt := none
    refusals := 0, ticket := false }
/-- Send the Puts of a write-back buffer for which the die holds its credit: one at every home slice (R244). -/
def Dev.sendPuts (d : Dev) (die : Nat) : Dev :=
  (d.rep die).wb.foldl (fun (d : Dev) x =>
    let r := d.rep die
    if r.sent.any fun l => decide (l = x.line) || decide (d.home (lineAddr l) = d.home (lineAddr x.line)) then d
    else (d.setRep die { r with sent := r.sent ++ [x.line] }).send die (d.homeDie x.line) x.line 0 (.req (putOf die x))) d
/-- Evict a line (Table 8.4): S leaves silently, E, M and O go to the write-back buffer with a Put. -/
def Dev.evictLine (d : Dev) (die : Nat) (x : RepLine) : Dev :=
  let d := (d.dropRepLine die x.line).countLeave die x
  if x.st = .s then d
  else
    let r := d.rep die
    (d.setRep die { r with wb := r.wb ++ [x] }).sendPuts die

/-- The class in which a line is filled (R220): persistent only within the window's quota and the set's
limit. -/
def Dev.fillClass (d : Dev) (die p line : Nat) : Nat :=
  let a := lineAddr line
  let c := d.classAt a
  if c ≠ 2 then c
  else
    let w := d.winAt a
    let quota := match w with
      | some n => min 56 (d.rf (oWin n + 8) 9 4)
      | none => 0
    let sets := d.repSets p
    let lines := (d.rep die).lines
    let inWin := (lines.filter fun x => decide (x.cls = 2) && decide (d.winAt (lineAddr x.line) = w)).length
    let inSet := (lines.filter fun x => decide (x.cls = 2) && decide (x.line % sets = line % sets)).length
    if (inWin + 1) * 64 ≤ quota * sets * 16 ∧ inSet + 1 + d.rf (oPart p) 28 25 ≤ 14 then 2 else 1

/-- Whether a die has a request outstanding that needs its copy of a line. -/
def Dev.ownPending (d : Dev) (die line : Nat) : Bool :=
  d.clusters.any fun c => decide (dieOf c.1 = die) &&
    c.2.misses.any fun m => decide (m.line = line) && decide (m.kind = .own)

/-- What a fill finds in its set: a free way, a victim, or neither for now, since each line that could leave has a request
of its die outstanding; the data then wait (DESIGN CHOICE, log entry 87). -/
inductive Room where
  | free
  | victim (v : RepLine)
  | wait
  deriving DecidableEq, Repr
/-- The victim of a fill (R220): the least recently used streaming line of the set, else the least recently used normal
line. -/
def Dev.fillRoom (d : Dev) (die p line : Nat) : Room :=
  let sets := d.repSets p
  let mine := (d.rep die).lines.filter fun y => decide (y.line % sets = line % sets) && decide (y.line ≠ line)
  let out := (mine.filter fun y => !d.ownPending die y.line).reverse
  if mine.length < 16 - d.rf (oPart p) 28 25 then .free
  else match out.find? fun y => decide (y.cls = 0) with
    | some v => .victim v
    | none => match out.find? fun y => decide (y.cls = 1) with
      | some v => .victim v
      | none => .wait
/-- Fill a line (R220); a streaming fill enters at the least recently used position. A copy that the die holds in M or O
stays: it is the newer one. -/
def Dev.fillLine (d : Dev) (die line : Nat) (st : RepSt) (x : LineData) : Dev :=
  match d.replicaOf die with
  | none => d
  | some p =>
    if (d.repLine die line).any fun y => (decide (y.st = .m) || decide (y.st = .o)) && decide (st = .s) then d
    else
      let d := d.dropRepLine die line
      let cls := d.fillClass die p line
      let d := match d.fillRoom die p line with
        | .victim v => d.evictLine die v
        | _ => d
      let y : RepLine := { line := line, st := st, d := x, cls := cls, hit := false }
      let r := d.rep die
      d.setRep die { r with lines := if cls = 0 then r.lines ++ [y] else y :: r.lines }

/-! ## Directories -/

/-- The directory entry of a line. -/
def Dev.entry (d : Dev) (line : Nat) : Option DirEntry := NMap.find d.coh.dir line
/-- Write a directory entry; it becomes the most recently used of its set. -/
def Dev.setEntry (d : Dev) (line : Nat) (e : DirEntry) : Dev :=
  d.onCoh fun c => { c with dir := NMap.put c.dir line e, lru := line :: c.lru.filter fun x => decide (x ≠ line) }
/-- A line that no other die holds has no entry. -/
def Dev.dropEntry (d : Dev) (line : Nat) : Dev :=
  d.onCoh fun c => { c with dir := NMap.del c.dir line, lru := c.lru.filter fun x => decide (x ≠ line) }
/-- Whether an entry is BUSY (R240). -/
def Dev.busy (d : Dev) (line : Nat) : Bool :=
  match d.entry line with
  | some e => e.txn.isSome
  | none => false
/-- Tickets that wait for a line. -/
def Dev.ticketsFor (d : Dev) (line : Nat) : List Ticket := d.coh.tickets.filter fun t => decide (t.r.line = line)
/-- The dies that may hold a copy, but for one (R238). -/
def Dev.sharers (d : Dev) (line : Nat) (e : DirEntry) (but : Option Nat) : List Nat :=
  let all := if e.bcast then (List.range d.part.dies).filter fun x => decide (x ≠ d.homeDie line) else e.ptrs
  all.filter fun x => decide (some x ≠ but)
/-- Record a sharer (R238): a fifth sets BCAST. -/
def Dev.addSharer (d : Dev) (e : DirEntry) (die : Nat) : DirEntry :=
  if e.ptrs.contains die ∨ e.bcast then e
  else if e.ptrs.length < 4 then { e with ptrs := e.ptrs ++ [die] }
  else { e with bcast := decide (d.part.code ≠ .gh840m) }

/-- Send Inv to a list of dies and count them (R243, Table 8.7). -/
def Dev.sendInvs (d : Dev) (line : Nat) (bcast : Bool) (dies : List Nat) : Dev :=
  let h := d.homeDie line
  let d := dies.foldl (fun d x => d.send h x line 0 .inv) d
  let d := d.setReg (oCoh h + 0x108) (d.reg (oCoh h + 0x108) + BitVec.ofNat 64 dies.length)
  if bcast then d.setReg (oCoh h + 0x110) (d.reg (oCoh h + 0x110) + 1) else d
/-- Send a forward and count it. -/
def Dev.sendFwd (d : Dev) (line owner : Nat) (k : ReqKind) (r : Req) : Dev :=
  let h := d.homeDie line
  (d.send h owner line r.cl (.fwd k r.src r.cl r.prefetch)).setReg (oCoh h + 0x100) (d.reg (oCoh h + 0x100) + 1)

/-- The granule of a Commons reservation (R251), as a line number shifted. -/
def Dev.granule (d : Dev) (line : Nat) : Nat := line / 2 ^ (d.part.granLog - 7)
/-- End every reservation a home records for a line, with a kill notice to each holder (R253). -/
def Dev.killResv (d : Dev) (line : Nat) : Dev :=
  let h := d.homeDie line
  let hit := d.coh.resv.filter fun r => decide (r.line = line)
  let d := hit.foldl (fun d r => d.send h (dieOf r.a.cluster) line r.a.cluster (.kill r.a)) d
  d.onCoh fun c => { c with resv := c.resv.filter fun r => decide (r.line ≠ line) }

/-- The words of a line that are poisoned, or that a read finds uncorrectable. -/
def Dev.badWords (d : Dev) (line : Nat) : List Nat :=
  (List.range 16).filter fun k => match d.commons.readW MSpace.com.id (lineAddr line / 8 + k) with
    | .ok _ => false
    | .bad _ => true
/-- Whether a line has to heal before a request is served (R396): an uncorrectable word in a page with a refetch source,
whose healing has not just failed. A line that another die holds in EXC or OWN takes its owner's data instead (R395). -/
def Dev.needsHeal (d : Dev) (line : Nat) : Bool :=
  (d.refetch (lineAddr line)).isSome && (NMap.find d.heals line).isNone &&
  (match d.entry line with
    | some e => decide (e.st = .unc ∨ e.st = .shr)
    | none => true) && !(d.badWords line).isEmpty
/-- Where a line heals from: the same offset within the range of its entry; KIND 2 with SRC 0 is the same address (R299,
Table 10.5). -/
def Dev.healSource (d : Dev) (line : Nat) : Heal :=
  match d.refetch (lineAddr line) with
  | none => { failed := false, kind := 0, src := 0, req := 0, got := none }
  | some k =>
    let o := 0x380000 + k * 0x10
    let kind := d.rf (o + 4) 21 20
    let src := d.rf (o + 8) 47 0
    let first := commonsBase + 0x10000 * d.rf o 18 0
    { failed := false, kind := kind, req := 0, got := none, src := if kind = 2 ∧ src = 0 then lineAddr line else src + (lineAddr line - first) }
/-- The twin link that a refetch of KIND 2 uses: one that is up (R326). -/
def Dev.twinLink (d : Dev) : Option Nat := [64, 65].find? fun l => d.linkUp l
/-- The source read of a healing (R299): from the twin an RD goes over a twin link, with a number of its own and no channel's
(DESIGN CHOICE, log entry 114); with neither link up it never comes back. -/
def Dev.askTwin (d : Dev) (line : Nat) : Dev :=
  match NMap.find d.heals line, d.twinLink with
  | some h, some l =>
    if h.kind ≠ 2 then d
    else
      let key := 2 ^ 20
      let no := NMap.get d.links.reqNo 0 key
      let d := { d with
        heals := NMap.put d.heals line { h with req := no }
        links := { d.links with reqNo := NMap.put d.links.reqNo key ((no + 1) % 65536) } }
      d.onWire l (plainMsg 3 0 (d.rf 0x14000 12 1) d.ownId h.src no)
  | _, _ => d
/-- Hold a line and ask the Porter of its home die to heal it (Table 14.5, orders 1 and 2): its uncorrectable words are
poisoned, and MEM_UNCORRECTABLE with SUBKIND 0 is raised unless such a record exists. At most 64 lines heal at a time
at one Porter (R299); a further one waits. -/
def Dev.startHeal (d : Dev) (line : Nat) : Dev :=
  if (d.heals.filter fun h => !h.2.failed && decide (d.homeDie h.1 = d.homeDie line)).length ≥ 64 then d
  else
    let bad := d.badWords line
    let d := bad.foldl (fun (d : Dev) k => (d.readW .com (lineAddr line / 8 + k) 0).2) d
    let w := lineAddr line / 8 + bad.headD 0
    let known := d.errs.recs.any fun x => decide (x.2.key = ⟨d.wordOrigin .com w, 1, 0⟩)
    let d := if known then d else d.memFault .com w 0
    let page := line / 512
    Dev.askTwin { d with
      heals := NMap.put d.heals line (d.healSource line)
      episodes := if (NMap.find d.episodes page).isSome then d.episodes else NMap.put d.episodes page (0, 0, 0) } line
/-- An access performed at the home at once waits while its line heals, and starts the healing (R396). `none` when it may go
on: the line is good, or its healing has failed and the access takes its outcome. -/
def Dev.healHold (d : Dev) (w : Holder) (line : Nat) : Option Dev :=
  let mark (d : Dev) : Dev := { d with heldBy := (d.heldBy.filter fun x => decide (x ≠ (line, w))) ++ [(line, w)] }
  if d.healing line then some (mark d)
  else if d.needsHeal line then some (mark (d.startHeal line))
  else none
/-- Whether a host may hold part of a line (R342). -/
def Dev.hostHolds (d : Dev) (line : Nat) : Bool := d.hostTrk.any fun t => decide (t.line / 2 = line)
/-- Send BISnpInv for the parts of a line that a host may hold (R342). -/
def Dev.snoopHost (d : Dev) (line : Nat) : Dev :=
  { d with hostTrk := d.hostTrk.map fun t => if t.line / 2 = line then { t with snoop := true } else t }

/-- Read a line at its home; a word found uncorrectable for the first time is poisoned and reported. -/
def Dev.homeLine (d : Dev) (line : Nat) : LineData × Dev := d.readLine .com (lineAddr line)

/-- Perform an atomic on the home's own copy (R249): the new memory and what each lane receives, or that
the word is uncorrectable and the atomic is not applied (Table 14.4). -/
def Dev.homeAtm (d : Dev) (sp : MSpace) (t : Atm) : Dev × Option (List (Nat × Word)) :=
  let w := t.addr / 8
  let sh := t.addr % 8
  match d.readW sp w 0 with
  | (none, d) => (d, none)
  | (some v, d) =>
    let (new, res) := t.apply (lowBytes t.n (v >>> (8 * sh)))
    (d.storeRun sp { addr := t.addr, n := t.n, val := new }, some res)

/-- Count an Atm that is applied (Table 8.7). -/
def Dev.countAtm (d : Dev) (line : Nat) : Dev :=
  let o := oCoh (d.homeDie line) + 0x130
  d.setReg o (setFld (d.reg o) 31 0 (d.rf o 31 0 + 1))
/-- Apply an Atm to the home's own copy, and count it when its word is good. -/
def Dev.applyAtm (d : Dev) (t : Atm) : Dev × Option (List (Nat × Word)) :=
  match d.homeAtm .com t with
  | (d, some res) => (d.countAtm (lineOf t.addr), some res)
  | (d, none) => (d, none)
/-- Perform a WrT or Atm on the home's own copy and answer Comp (R243). A store to a line that no partition holds any more is
lost with the contents (R215). -/
def Dev.applyReq (d : Dev) (r : Req) : Dev :=
  let h := d.homeDie r.line
  let d := d.notePage r.line
  match r.pay with
  | .write mask data =>
    if (d.partAt (lineAddr r.line)).isNone then d.send h r.src r.line r.cl (.comp r [] false)
    else (d.writeLine .com (lineAddr r.line) mask data).send h r.src r.line r.cl (.comp r [] false)
  | .atm t =>
    match d.applyAtm t with
    | (d, some res) => d.send h r.src r.line r.cl (.comp r res false)
    | (d, none) => d.send h r.src r.line r.cl (.comp r [] true)
  | _ => d

/-- Count a recall that an Atm caused (Table 8.7). -/
def Dev.countRecall (d : Dev) (r : Req) : Dev :=
  if r.kind = .atm then
    let o := oCoh (d.homeDie r.line) + 0x130
    d.setReg o (setFld (d.reg o) 63 32 (d.rf o 63 32 + 1))
  else d

/-- A transaction with nothing awaited. -/
def Txn.start (r : Req) : Txn :=
  { req := some r, acks := [], fwdDue := false, fwd := false, recl := false, wb := false, putSeen := false, noData := false,
    victim := none }

/-- An entry with a state and its holders. -/
def DirEntry.mk' (st : DirSt) (owner : Nat) (ptrs : List Nat) (bcast : Bool) (t : Option Txn) : DirEntry :=
  { st := st, owner := owner, ptrs := ptrs, bcast := bcast, txn := t }

/-- Answer a request from the home's own copy, with every other copy gone or allowed to stay (Table 8.5,
R245): the line's next state follows from the request and the sharers that remain. -/
def Dev.serveHome (d : Dev) (r : Req) (ptrs : List Nat) (bcast noData : Bool) : Dev :=
  let h := d.homeDie r.line
  match r.kind with
  | .rdS =>
    let (x, d) := d.homeLine r.line
    if ptrs.isEmpty ∧ !bcast then
      if d.rb (oCoh h) 8 then
        (d.setEntry r.line (.mk' .exc r.src [] false none)).send h r.src r.line r.cl (.data .e true x r.prefetch)
      else
        (d.setEntry r.line (.mk' .shr 0 [r.src] false none)).send h r.src r.line r.cl (.data .s true x r.prefetch)
    else
      (d.setEntry r.line (d.addSharer (.mk' .shr 0 ptrs bcast none) r.src)).send h r.src r.line r.cl
        (.data .s true x r.prefetch)
  | .rdU =>
    let (x, d) := d.homeLine r.line
    let d := if ptrs.isEmpty ∧ !bcast then d.dropEntry r.line else d.setEntry r.line (.mk' .shr 0 ptrs bcast none)
    d.send h r.src r.line r.cl (.data .none true x false)
  | .rdX | .upg =>
    if noData then
      (d.setEntry r.line (.mk' .exc r.src [] false none)).send h r.src r.line r.cl
        (.data .m false { v := 0, poison := 0 } false)
    else
      let (x, d) := d.homeLine r.line
      (d.setEntry r.line (.mk' .exc r.src [] false none)).send h r.src r.line r.cl (.data .m true x false)
  | _ => (d.dropEntry r.line).applyReq r

/-- Set of a directory entry: its slice, and 8,192 sets indexed by line (R237). The row of the line in the partition's range of
the slice (R209) indexes the set (DESIGN CHOICE, log entry 8): lines of one slice then reach every set. -/
def Dev.dirSet (d : Dev) (line : Nat) : Nat × Nat × Nat :=
  let h := d.home (lineAddr line)
  let row := match d.partAt (lineAddr line) with
    | none => line / 64
    | some p =>
      let i := (lineAddr line - d.partBase p) / 128
      (if d.partType p = 2 then i / d.part.dies else i) / 64
  (h.1, h.2, row % 8192)
/-- Lines of the directory set of a line, most recently used first. -/
def Dev.setLines (d : Dev) (line : Nat) : List Nat :=
  let s := d.dirSet line
  d.coh.lru.filter fun x => decide (d.dirSet x = s)

/-- Accept a request whose entry is not BUSY (R243, Table 8.5). -/
def Dev.accept (d : Dev) (r : Req) : Dev :=
  let line := r.line
  let h := d.homeDie line
  let d := if r.kind = .rdX ∨ r.kind = .upg ∨ r.kind = .wrT ∨ r.kind = .atm then d.killResv line else d
  let apply := decide (r.kind = .wrT) || decide (r.kind = .atm)
  match d.entry line with
  | none => d.serveHome r [] false false
  | some e =>
    match e.st with
    | .unc => d.serveHome r [] false false
    | .shr =>
      if r.kind = .rdS ∨ r.kind = .rdU then d.serveHome r e.ptrs e.bcast false
      else
        let inv := d.sharers line e (if apply then none else some r.src)
        let noData := decide (r.kind = .upg) && e.ptrs.contains r.src && !e.bcast
        if inv.isEmpty then d.serveHome r [] false noData
        else (d.setEntry line { e with txn := some { Txn.start r with acks := inv, noData := noData } }).sendInvs
          line e.bcast inv
    | .exc =>
      if apply then
        (d.setEntry line { e with txn := some { Txn.start r with recl := true } }).countRecall r |>.send h e.owner line
          r.cl .recallMsg
      else
        let k : ReqKind := if r.kind = .rdS then .rdS else if r.kind = .rdU then .rdU else .rdX
        (d.setEntry line { e with txn := some { Txn.start r with fwd := true } }).sendFwd line e.owner k r
    | .own =>
      let others := d.sharers line e (some e.owner)
      if apply then
        let inv := others
        ((d.setEntry line { e with txn := some { Txn.start r with recl := true, acks := inv } }).sendInvs line
          e.bcast inv).countRecall r |>.send h e.owner line r.cl .recallMsg
      else if r.kind = .rdS ∨ r.kind = .rdU then
        (d.setEntry line { e with txn := some { Txn.start r with fwd := true } }).sendFwd line e.owner r.kind r
      else if r.kind = .upg ∧ r.src = e.owner then
        if others.isEmpty then d.serveHome r [] false true
        else (d.setEntry line { e with txn := some { Txn.start r with acks := others, noData := true } }).sendInvs
          line e.bcast others
      else if r.kind = .upg ∧ e.ptrs.contains r.src ∧ !e.bcast then
        let inv := e.owner :: others.filter fun x => decide (x ≠ r.src)
        (d.setEntry line { e with txn := some { Txn.start r with acks := inv, noData := true } }).sendInvs line
          e.bcast inv
      else
        -- RdX, or Upg from a die that is not a recorded sharer: the data come from the owner (log entry 9)
        let inv := others.filter fun x => decide (x ≠ r.src)
        if inv.isEmpty then
          (d.setEntry line { e with txn := some { Txn.start r with fwd := true } }).sendFwd line e.owner .rdX r
        else
          (d.setEntry line { e with txn := some { Txn.start r with fwdDue := true, acks := inv } }).sendInvs line
            e.bcast inv

/-- Directory evictions since the bit was last cleared that reach the threshold set DIR_PRESSURE
(Table 8.7). -/
def Dev.countDirEvict (d : Dev) (h : Nat) : Dev :=
  let d := d.setReg (oCoh h + 0x128) (d.reg (oCoh h + 0x128) + 1)
  let thr := d.rf (oCoh h + 8) 23 0
  let cnt := (d.reg (oCoh h + 0x128)).toNat
  if thr ≠ 0 ∧ cnt - NMap.get d.snaps 0 (1000 + h) ≥ thr ∧ d.rb (oCoh h + 4) 1 = false then
    (d.setRb (oCoh h + 4) 1 true).fault (origin 4 h) 0x0C 1 (origin 4 h) h 0 0
  else d

/-- Take a line back from every other die (R239, R395): Inv to its sharers and Recall to an owner. The entry is BUSY until all have
answered, and the line is then UNC. -/
def Dev.clearEntry (d : Dev) (line : Nat) (e : DirEntry) : Dev :=
  let inv := if e.st = .exc then [] else (d.sharers line e none).filter fun x => decide (e.st = .shr) || decide (x ≠ e.owner)
  let owned := decide (e.st = .exc) || decide (e.st = .own)
  let t : Txn := { req := none, acks := inv, fwdDue := false, fwd := false, recl := owned, wb := false, putSeen := false,
                   noData := false, victim := none }
  let d := (d.setEntry line { e with txn := some t }).sendInvs line e.bcast inv
  if owned then d.send (d.homeDie line) e.owner line 0 .recallMsg else d
/-- Accept a request, evicting a directory entry first when its set is full (R239): the least recently used that is not BUSY,
and whose line no requester has been called to (R247). `none` when there is no such entry: the request waits in its buffer
(DESIGN CHOICE, log entry 88). -/
def Dev.acceptOrEvict (d : Dev) (r : Req) : Option Dev :=
  let needs := decide (d.entry r.line = none) && (decide (r.kind = .rdS) || decide (r.kind = .rdX) || decide (r.kind = .upg))
  let ls := d.setLines r.line
  if needs && decide (ls.length ≥ 16) then
    match ls.reverse.find? fun x => !d.busy x && !((d.ticketsFor x).any fun u => u.woken) with
    | none => none
    | some v =>
      match d.entry v with
      | none => none
      | some e =>
        let d := (d.countDirEvict (d.homeDie v)).clearEntry v e
        some (d.setEntry r.line (.mk' .unc 0 [] false (some { Txn.start r with victim := some v })))
  else some (d.accept r)

/-- Wake the oldest ticket of a line, or of the line's slice, that can be served (R247). -/
def Dev.wakeTickets (d : Dev) (line : Nat) : Dev :=
  let s := d.home (lineAddr line)
  let cand := d.coh.tickets.filter fun t => decide (d.home (lineAddr t.r.line) = s)
  cand.foldl (fun d t =>
    if !t.woken && !d.busy t.r.line && !((d.ticketsFor t.r.line).any fun u => u.woken)
        && decide ((d.ticketsFor t.r.line).head? = some t) then
      (d.onCoh fun c => { c with tickets := updFirst c.tickets (fun u => decide (u = t)) fun u => { u with woken := true } }).send
        s.1 t.r.src t.r.line t.r.cl (.wake t.r)
    else d) d

/-- Requests that the home slice of a line works on, of a kind. -/
def Dev.underWay (d : Dev) (line : Nat) (p : Req → Bool) : Nat :=
  let s := d.home (lineAddr line)
  (d.coh.dir.filter fun e => decide (d.home (lineAddr e.1) = s) && (match e.2.txn.bind Txn.req with
    | some r => p r
    | none => false)).length
/-- Requests that the home slice of a line has taken in and holds. -/
def Dev.heldReqs (d : Dev) (line : Nat) : Nat :=
  let s := d.home (lineAddr line)
  (d.coh.net.filter fun m => d.taken m && (match m.body with
    | .req r => !r.ticket && decide (r.kind ≠ .putE ∧ r.kind ≠ .putM ∧ r.kind ≠ .putO) && decide (d.home (lineAddr r.line) = s)
    | _ => false)).length
/-- General request buffers in use at the home slice of a line: its requests that no ticket brought, those it holds among them
(R247). -/
def Dev.buffersUsed (d : Dev) (line : Nat) : Nat := (d.underWay line fun r => !r.ticket) + d.heldReqs line
/-- Reserved buffers that a requester holds at the home slice of a line: its tickets, and its requests that came by one. -/
def Dev.reservedUsed (d : Dev) (src line : Nat) : Nat :=
  let s := d.home (lineAddr line)
  (d.coh.tickets.filter fun t => decide (t.r.src = src) && decide (d.home (lineAddr t.r.line) = s)).length +
    d.underWay line fun r => r.ticket && decide (r.src = src)
/-- Requests of a requester refused without a ticket and on their way to the slice again: each has a reserved buffer freed
for it (R247). -/
def Dev.resent (d : Dev) (src line : Nat) : Nat :=
  let s := d.home (lineAddr line)
  (d.coh.net.filter fun m => match m.body with
    | .req r => decide (r.src = src) && decide (r.refusals ≠ 0) && !r.ticket && decide (d.home (lineAddr r.line) = s)
    | _ => false).length

/-- Refuse a request (R247, R248). A prefetch is never given a ticket. -/
def Dev.refuse (d : Dev) (r : Req) : Dev :=
  let h := d.homeDie r.line
  let d := d.setReg (oCoh h + 0x118) (d.reg (oCoh h + 0x118) + 1)
  if r.prefetch then d.send h r.src r.line r.cl (.retry false r)
  else
    let again := decide (r.refusals ≠ 0)
    let r := { r with refusals := r.refusals + 1 }
    let d := if r.refusals ≥ 3 then
      (d.setRb (oCoh h + 4) 0 true).fault (origin 4 h) 0x0C 0 (origin 4 h) h (BitVec.ofNat 64 (lineAddr r.line)) 0
      else d
    if d.reservedUsed r.src r.line + (if again then 0 else d.resent r.src r.line) < 8 then
      let d := d.setReg (oCoh h + 0x120) (d.reg (oCoh h + 0x120) + 1)
      (d.onCoh fun c => { c with tickets := c.tickets ++ [{ r := { r with ticket := true }, woken := false }] }).send
        h r.src r.line r.cl (.retry true r)
    else d.send h r.src r.line r.cl (.retry false r)

/-- A request arrives at its home slice: it is refused or accepted, or waits for a way of its directory set (`none`). One
that a ticket brings is accepted into its reserved buffer and started at once (R247). -/
def Dev.arrive (d : Dev) (r : Req) : Option Dev :=
  if r.ticket then
    if d.busy r.line then none
    else ((d.onCoh fun c => { c with
      tickets := eraseFirst c.tickets fun t => t.woken && decide (t.r.line = r.line) && decide (t.r.src = r.src) }).acceptOrEvict r).map
      fun x => if x.busy r.line then x else x.wakeTickets r.line
  else if d.busy r.line || !(d.ticketsFor r.line).isEmpty || decide (d.buffersUsed r.line ≥ 64) then some (d.refuse r)
  else (d.acceptOrEvict r).map fun x => if x.busy r.line then x else x.wakeTickets r.line

/-- Finish a transaction once nothing is awaited: the request is answered from the home's own copy when
its data came back or were never needed, and the entry takes its next state (Table 8.5, R245). -/
def Dev.finishTxn (d : Dev) (line : Nat) : Dev :=
  match d.entry line with
  | none => d
  | some e =>
    match e.txn with
    | none => d
    | some t =>
      if t.acks.isEmpty ∧ t.fwdDue then
        match t.req with
        | some r =>
          if t.putSeen then
            -- the owner's line has come home meanwhile: the home supplies it (R245)
            (d.serveHome r [] false false).wakeTickets line
          else
            (d.setEntry line { e with txn := some { t with fwdDue := false, fwd := true } }).sendFwd line e.owner .rdX r
        | none => d
      else if t.acks.isEmpty ∧ !t.fwd ∧ !t.recl ∧ !t.wb ∧ t.victim.isNone then
        match t.req with
        | none =>
          -- a directory eviction: the line is UNC, and the request that waits for its way goes on
          let d := d.dropEntry line
          match d.coh.dir.find? fun x => match x.2.txn with
              | some u => decide (u.victim = some line)
              | none => false with
          | some (l, x) =>
            (match x.txn.bind Txn.req with
              | some r => ((d.dropEntry l).accept r).wakeTickets l
              | none => d).wakeTickets line
          | none => d.wakeTickets line
        | some r =>
          let keep := decide (r.kind = .rdS) || decide (r.kind = .rdU)
          (d.serveHome r (if keep then e.ptrs else []) (keep && e.bcast) t.noData).wakeTickets line
      else d

/-- Change the transaction of a line and finish it if nothing is awaited any more. -/
def Dev.onTxn (d : Dev) (line : Nat) (f : Txn → Txn) : Dev :=
  match d.entry line with
  | none => d
  | some e => (d.setEntry line { e with txn := e.txn.map f }).finishTxn line

/-- The entry after its owner's Put (R243): the owner is removed, sharers that remain keep the line in
SHR. -/
def DirEntry.withoutOwner (e : DirEntry) : DirEntry :=
  if e.st = .own ∧ (!e.ptrs.isEmpty ∨ e.bcast) then { e with st := .shr, owner := 0 }
  else { e with st := .unc, owner := 0, ptrs := [], bcast := false }

/-- FwdAck reaches the home (R243): the requester has its data from the owner, and the entry takes its next
state by what the owner held before. A Put that overtook the answer has already brought the line home. -/
def Dev.fwdAcked (d : Dev) (line : Nat) (st : RepSt) : Dev :=
  match d.entry line with
  | none => d
  | some e =>
    match e.txn, e.txn.bind Txn.req with
    | some t, some r =>
      if !t.fwd then d
      else
        let clean := decide (st = .e)
        let shr := DirEntry.mk' .shr 0 e.ptrs e.bcast none
        let own := DirEntry.mk' .own e.owner e.ptrs e.bcast none
        let owner := match t.putSeen, e.st with
          | true, _ => none
          | false, .unc => none
          | false, .shr => none
          | false, _ => some e.owner
        let e' : Option DirEntry := match r.kind, owner with
          | .rdS, some o => some (if clean then d.addSharer (d.addSharer shr o) r.src else d.addSharer own r.src)
          | .rdS, none => some (d.addSharer shr r.src)
          | .rdU, some o => some (if clean then d.addSharer shr o else own)
          | .rdU, none => if e.ptrs.isEmpty ∧ !e.bcast then none else some shr
          | _, _ => some (.mk' .exc r.src [] false none)
        let d := match e' with
          | some x => d.setEntry line x
          | none => d.dropEntry line
        d.wakeTickets line
    | _, _ => d

/-- A Put reaches the home (R243 to R245): from the recorded owner its data are written, and a reservation of the line, which
the owner has stored into since, ends (R253); from any other die they are discarded. It is always answered WbAck. -/
def Dev.putArrives (d : Dev) (r : Req) : Dev :=
  let h := d.homeDie r.line
  let d := d.send h r.src r.line 0 .wbAck
  match d.entry r.line with
  | none => d
  | some e =>
    if (e.st = .exc ∨ e.st = .own) ∧ e.owner = r.src then
      let d := match r.kind, r.pay with
        | .putE, _ => d
        | _, .put x => (d.killResv r.line).putLine .com (lineAddr r.line) x
        | _, _ => d
      let e' := e.withoutOwner
      match e.txn with
      | none => if e'.st = .unc then d.dropEntry r.line else d.setEntry r.line e'
      | some t => (d.setEntry r.line { e' with txn := some { t with putSeen := true, wb := false } }).finishTxn r.line
    else d

/-! ## Accesses performed at the home slice at once

Engines, host ports, link agents, `ld.resv` and `st.cond` are served at the home slice; the model performs
them when no transaction of the line is under way (DESIGN CHOICE, log entry 10). -/

/-- No message, transaction, ticket, healing or host snoop concerns the line. -/
def Dev.quiet (d : Dev) (line : Nat) : Bool :=
  !d.busy line && (d.ticketsFor line).isEmpty && !d.healing line &&
  d.coh.net.all (fun m => !(decide (m.line = line) && (match m.body with
    | .kill _ => false
    | _ => true))) &&
  !(d.coh.reps.any fun r => r.2.wb.any fun x => decide (x.line = line)) && !d.hostHolds line

/-- The owner's data, when a die holds the line in M or O. -/
def Dev.dirtyCopy (d : Dev) (line : Nat) : Option LineData :=
  match d.entry line with
  | some e =>
    if e.st = .exc ∨ e.st = .own then
      match d.repLine e.owner line with
      | some x => if x.st = .m ∨ x.st = .o then some x.d else none
      | none => none
    else none
  | none => none

/-- Count the messages that recalling a line takes (Table 8.7): Inv to its sharers, and a Recall that an Atm caused. -/
def Dev.countAway (d : Dev) (line : Nat) (atm : Bool) : Dev :=
  match d.entry line with
  | none => d
  | some e =>
    let o := oCoh (d.homeDie line)
    let owned := decide (e.st = .exc ∨ e.st = .own)
    let invs := if e.st = .exc then 0 else (d.sharers line e (if owned then some e.owner else none)).length
    let d := d.setReg (o + 0x108) (d.reg (o + 0x108) + BitVec.ofNat 64 invs)
    let d := if e.bcast && decide (invs ≠ 0) then d.setReg (o + 0x110) (d.reg (o + 0x110) + 1) else d
    if owned && atm then d.setReg (o + 0x130) (setFld (d.reg (o + 0x130)) 63 32 (d.rf (o + 0x130) 63 32 + 1)) else d
/-- What an owner's copy gives the home when it is recalled: data that differ from home's, or replace a word that has failed there
(R395). -/
def Dev.ownerData (d : Dev) (line : Nat) : Option LineData :=
  match d.dirtyCopy line with
  | some x => some x
  | none => match d.entry line with
    | some e => if e.st = .exc ∧ !(d.badWords line).isEmpty then (d.repLine e.owner line).map RepLine.d else none
    | none => none
/-- Recall every copy of a line: dirty data are written home and every other die drops it. -/
def Dev.recallAll (d : Dev) (line : Nat) (atm : Bool) : Dev :=
  let d := d.countAway line atm
  let d := match d.ownerData line with
    | some x => d.putLine .com (lineAddr line) x
    | none => d
  let d := (List.range d.part.dies).foldl (fun d die =>
    match d.repLine die line with
    | some x => (d.dropRepLine die line).countLeave die x
    | none => d) d
  d.dropEntry line

/-- A read of a line at its home (RdU): an owner supplies the data and keeps the line (Table 8.4). -/
def Dev.syncRead (d : Dev) (line : Nat) : LineData × Dev :=
  match d.entry line with
  | some e =>
    if e.st = .exc ∨ e.st = .own then
      match d.repLine e.owner line with
      | some x =>
        let st : RepSt := if x.st = .e ∨ x.st = .s then .s else .o
        let o := oCoh (d.homeDie line) + 0x100
        let d := d.setReg o (d.reg o + 1)
        let d := d.onRepLine e.owner line fun y => { y with st := st }
        let d := d.setEntry line (if st = .s then .mk' .shr 0 (e.owner :: e.ptrs) e.bcast none else { e with st := .own })
        (x.d, d)
      | none => d.homeLine line
    else d.homeLine line
  | none => d.homeLine line

/-- A write of a line's bytes at its home (WrT): every copy is recalled, reservations end. -/
def Dev.syncWrite (d : Dev) (line : Nat) (mask : Mask) (data : Line) : Dev :=
  (((d.killResv line).recallAll line false).notePage line).writeLine .com (lineAddr line) mask data
/-- Store a run of bytes in the Commons at its home. -/
def Dev.syncStore (d : Dev) (r : ByteRun) : Dev :=
  let line := lineOf r.addr
  (((d.killResv line).recallAll line false).notePage line).storeRun .com r
/-- An atomic at its home. -/
def Dev.syncAtm (d : Dev) (t : Atm) : Dev × Option (List (Nat × Word)) :=
  let line := lineOf t.addr
  (((d.killResv line).recallAll line true).notePage line).applyAtm t

end Sys2Proof.Machine
end

