-- ==== Sys2Proof/Machine/Operands.lean ====
section
/-! DEFINITION. Operand forms: the low 32 bits of an instruction word by format (Tables 3.4, 3.5), which
TVAL of ILLEGAL_INSTRUCTION, PRIVILEGE and UNIT_ABSENT holds; the shared field encodings (R77); the
addresses and targets the formats form (R78); the operands of lane instructions (R119, R182). -/
namespace Sys2Proof.Machine

/-! ## Instruction bits [31:0] -/

/-- Format RR. -/
def encRR (op f7 : Nat) (f : FmtRR) : Word :=
  BitVec.ofNat 64 (f7 * 2 ^ 25 + f.rs2.toNat * 2 ^ 19 + f.rs1.toNat * 2 ^ 13 + f.rd.toNat * 2 ^ 7 + op)
/-- Format RI. -/
def encRI (op : Nat) (f : FmtRI) : Word :=
  BitVec.ofNat 64 (f.imm.toNat * 2 ^ 19 + f.rs1.toNat * 2 ^ 13 + f.rd.toNat * 2 ^ 7 + op)
/-- Format UI. -/
def encUI (op : Nat) (f : FmtUI) : Word := BitVec.ofNat 64 (f.imm.toNat * 2 ^ 13 + f.rd.toNat * 2 ^ 7 + op)
/-- Format MB. -/
def encMB (op : Nat) (f : FmtMB) : Word :=
  BitVec.ofNat 64 (f.imm.toNat * 2 ^ 22 + f.size.toNat * 2 ^ 19 + f.rs1.toNat * 2 ^ 13 + f.rd.toNat * 2 ^ 7 + op)
/-- Format MA. -/
def encMA (op sub : Nat) (f : FmtMA) : Word :=
  BitVec.ofNat 64 (sub * 2 ^ 30 + f.scope.toNat * 2 ^ 28 + f.mark.toNat * 2 ^ 26 + f.sz.toNat * 2 ^ 25
    + f.rs2.toNat * 2 ^ 19 + f.rs1.toNat * 2 ^ 13 + f.rd.toNat * 2 ^ 7 + op)
/-- Format BR. -/
def encBR (cond : Nat) (f : FmtBR) : Word :=
  BitVec.ofNat 64 (f.off.toNat * 2 ^ 22 + f.rs2.toNat * 2 ^ 16 + f.rs1.toNat * 2 ^ 10 + cond * 2 ^ 7 + 0x28)
/-- Format JL. -/
def encJL (f : FmtJL) : Word := BitVec.ofNat 64 (f.off.toNat * 2 ^ 13 + f.rd.toNat * 2 ^ 7 + 0x2A)
/-- Format SY. -/
def encSY (fn4 : Nat) (f : FmtSY) : Word :=
  BitVec.ofNat 64 (f.sys.toNat * 2 ^ 23 + fn4 * 2 ^ 19 + f.rs1.toNat * 2 ^ 13 + f.rd.toNat * 2 ^ 7 + 0x2E)
/-- Format TK. -/
def encTK (op fn3 : Nat) (f : FmtTK) : Word :=
  BitVec.ofNat 64 (f.rsv.toNat * 2 ^ 22 + fn3 * 2 ^ 19 + f.tok.toNat * 2 ^ 13 + f.ra.toNat * 2 ^ 7 + op)
/-- Bits [31:0] of format GL. -/
def encGL (op : Nat) (f : FmtGL) : Word :=
  BitVec.ofNat 64 (f.vb.toNat % 16 * 2 ^ 28 + f.va.toNat * 2 ^ 20 + f.vd.toNat * 2 ^ 12 + f.neg.toNat * 2 ^ 11
    + f.pred.toNat * 2 ^ 8 + f.gd.toNat * 2 ^ 7 + op)
/-- Bits [31:0] of format GM. -/
def encGM (op : Nat) (f : FmtGM) : Word :=
  BitVec.ofNat 64 (f.ubase.toNat % 16 * 2 ^ 28 + f.va.toNat * 2 ^ 20 + f.vd.toNat * 2 ^ 12 + f.neg.toNat * 2 ^ 11
    + f.pred.toNat * 2 ^ 8 + f.gd.toNat * 2 ^ 7 + op)
/-- Bits [31:0] of format GC. -/
def encGC (fn : Nat) (f : FmtGC) : Word :=
  BitVec.ofNat 64 (f.rsv.toNat * 2 ^ 16 + fn * 2 ^ 12 + f.neg.toNat * 2 ^ 11 + f.pred.toNat * 2 ^ 8
    + f.gd.toNat * 2 ^ 7 + 0x11)

/-! ## Shared fields (Table 3.6) -/

/-- Bytes of a SIZE code. -/
def sizeBytes (size : Nat) : Nat := 2 ^ (size % 4)
/-- Extension of a loaded value by SIZE: 000 to 011 sign-extend, 100 to 110 zero-extend. -/
def extend (size : Nat) (v : Nat) : Word :=
  let n := sizeBytes size
  if size < 4 then (BitVec.ofNat (8 * n) v).signExtend 64 else BitVec.ofNat 64 (v % 2 ^ (8 * n))
/-- Extension of a value of 4 or 8 bytes by SZ: 4 bytes sign-extend. -/
def extendSz (n : Nat) (v : Word) : Word := if n = 8 then v else (v.setWidth 32).signExtend 64
/-- Bytes of an SZ code. -/
def szBytes (sz : BitVec 1) : Nat := if sz = 1 then 8 else 4

/-- Whether MARK and SCOPE are legal (R264, Table 9.2): the marks allowed are given by two flags. -/
def marksOk (acqOk relOk : Bool) (mark scope : BitVec 2) : Bool :=
  if mark = 0 then decide (scope = 0)
  else decide (scope ≠ 3) &&
    (if mark = 1 then acqOk else if mark = 2 then relOk else acqOk && relOk)

/-- A comparison under COND of Table 3.6; codes 110 and 111 are reserved. -/
def condHolds {w : Nat} (c : Nat) (a b : BitVec w) : Bool :=
  if c = 0 then decide (a = b) else if c = 1 then decide (a ≠ b)
  else if c = 2 then decide (a.toInt < b.toInt) else if c = 3 then decide (a.toInt ≥ b.toInt)
  else if c = 4 then decide (a.toNat < b.toNat) else decide (a.toNat ≥ b.toNat)

/-! ## Addresses and targets (R78) -/

/-- MB: RS1 + sext(IMM10) × access size. -/
def Dev.addrMB (d : Dev) (a : Agent) (f : FmtMB) : Nat :=
  (d.rd a f.rs1.toNat + sext f.imm * BitVec.ofNat 64 (sizeBytes f.size.toNat)).toNat
/-- MA: RS1. -/
def Dev.addrMA (d : Dev) (a : Agent) (f : FmtMA) : Nat := (d.rd a f.rs1.toNat).toNat
/-- GM, per lane: u(UBASE) + zext(lane VA) + sext(IMM19). -/
def Dev.addrGM (d : Dev) (a : Agent) (g : Group) (f : FmtGM) (l : Nat) : Nat :=
  (d.rd a f.ubase.toNat + zext (g.v f.va.toNat l) + sext f.imm).toNat
/-- TK: the Local address in RA. -/
def Dev.addrTK (d : Dev) (a : Agent) (f : FmtTK) : Nat := (d.rd a f.ra.toNat).toNat

/-- A target formed in 64 bits: what it traps, if anything (R78). MISALIGNED has the higher priority. -/
def targetTrap (t : Word) : Option Nat :=
  if t.toNat % 4 ≠ 0 then some cMISALIGNED
  else if t.toNat ≥ 2 ^ 48 then some cUNMAPPED
  else none
/-- BR target. -/
def Dev.targetBR (d : Dev) (a : Agent) (f : FmtBR) : Word := BitVec.ofNat 64 (d.pc a) + sext f.off * 4
/-- JL target. -/
def Dev.targetJL (d : Dev) (a : Agent) (f : FmtJL) : Word := BitVec.ofNat 64 (d.pc a) + sext f.off * 4
/-- GC target. -/
def Dev.targetGC (d : Dev) (a : Agent) (f : FmtGC) : Word := BitVec.ofNat 64 (d.pc a) + sext f.off

/-! ## Lanes (R120, R125, R182) -/

/-- Participating lanes: active, and the guard true when GD = 1. -/
def Group.participating (g : Group) (gd neg : BitVec 1) (pred : BitVec 3) : BitVec 32 :=
  if gd = 0 then g.active
  else if neg = 0 then g.active &&& g.pred pred.toNat
  else g.active &&& ~~~ (g.pred pred.toNat)
/-- With GD = 0 the guard fields PRED and NEG are not used, and must be zero (R119; for GM and GC, DEDUCED, log entry 93). -/
def guardOk (gd neg : BitVec 1) (pred : BitVec 3) : Bool := decide (gd = 1) || (decide (neg = 0) && decide (pred = 0))
/-- The lanes of a mask, in ascending order. -/
def lanesOf (m : BitVec 32) : List Nat := (List.range 32).filter fun l => m.getLsbD l
/-- A 64-bit operand in a register pair, even register low. -/
def Group.v64 (g : Group) (r l : Nat) : Word :=
  BitVec.ofNat 64 ((g.v r l).toNat + (g.v (r + 1) l).toNat * 2 ^ 32)
/-- Write a register pair. -/
def Group.setV64 (g : Group) (r l : Nat) (x : Word) : Group :=
  (g.setV r l (x.setWidth 32)).setV (r + 1) l ((x >>> 32).setWidth 32)
/-- The VB operand of one lane: a lane register, or bits [31:0] of the uniform register when UB = 1. -/
def Dev.vb (d : Dev) (a : Agent) (g : Group) (f : FmtGL) (l : Nat) : Half :=
  if f.ub = 1 then (d.rd a (f.vb.toNat % 64)).setWidth 32 else g.v f.vb.toNat l
/-- The VB operand of one lane, 64 bits. -/
def Dev.vb64 (d : Dev) (a : Agent) (g : Group) (f : FmtGL) (l : Nat) : Word :=
  if f.ub = 1 then d.rd a (f.vb.toNat % 64) else g.v64 f.vb.toNat l
/-- Whether a run of lane registers lies within the group's allocation (R114). -/
def Group.has (g : Group) (r k : Nat) : Bool := decide (r + k ≤ 32 * g.vregs)
/-- UB = 1 makes VB name u(VB[5:0]); its bits [7:6] are a field the form does not use (R119). -/
def ubOk (g : Group) (f : FmtGL) (k : Nat) : Bool :=
  if f.ub = 1 then decide (f.vb.toNat < 64) else g.has f.vb.toNat k

end Sys2Proof.Machine
end

