-- ==== Sys2Proof/Machine/Instr.lean ====
section
/-! DEFINITION. How a command that is an instruction runs (R81, R102, R103): the agent must be able to
issue, its fetch is checked (Issue.lean), the instruction's effect follows, the pc moves and the instruction counts as
retired, or a trap is taken with nothing changed. -/
namespace Sys2Proof.Machine

/-- What an instruction does. -/
inductive Out where
  /-- It completed; the pc moves past it. -/
  | done (d : Dev)
  /-- It completed and moves the agent to a target. -/
  | goto (d : Dev) (target : Nat)
  /-- It completed and has already moved its threads. -/
  | moved (d : Dev)
  /-- It traps; nothing it does stands. -/
  | trap (cause : Nat) (val : Word)
  /-- It traps after an access that changed the device's own state (a word newly poisoned). -/
  | trapOn (d : Dev) (cause : Nat) (val : Word)
  /-- It has begun and the agent waits. -/
  | wait (d : Dev)
  /-- It cannot issue yet; nothing changes, and it may be presented again (log entry 7). -/
  | stall

/-- An instruction has completed: it counts as retired, a single step ends in a halt (R101), and launches and the running command
end if they can. -/
def Dev.complete (d : Dev) (a : Agent) : Dev := ((d.retire a).stepEnd a).settle a.cluster

/-- The effect of an instruction's outcome. -/
def Dev.conclude (d : Dev) (a : Agent) (len : Nat) (o : Out) : Dev :=
  match o with
  | .done x => (x.setPc a (x.pc a + len)).complete a
  | .goto x t => (x.setPc a t).complete a
  | .moved x => x.complete a
  | .trap c v => (d.trap a c v).settle a.cluster
  | .trapOn x c v => (x.trap a c v).settle a.cluster
  | .wait x => x
  | .stall => d

/-- Run a command: nothing but the device changes. What the part is changes only where a start accepts a configuration
record (R4, R441). A command that names a unit which no ordering code has (`ok` false) reaches nothing and changes nothing
(DESIGN CHOICE, log entry 7). -/
def run (ok : Bool) (s : State) (f : Dev → Dev) : Host.Outcome State Fault Refusal :=
  .next (if ok then { s with dev := { f s.dev with part := s.dev.part } } else s)
/-- Run a command of the dies, which have stopped for good after a permanent edge or die-structure fault (R411). -/
def runDie (ok : Bool) (s : State) (f : Dev → Dev) : Host.Outcome State Fault Refusal :=
  run ok s fun d => if d.pwr.stopped then d else f d
/-- Run a command that starts the device: the configuration record says what the part is (R441). -/
def runStart (s : State) (f : Dev → Dev) : Host.Outcome State Fault Refusal := .next { s with dev := f s.dev }

/-- An agent that some ordering code has (R18, R110). -/
def Agent.ok : Agent → Bool
  | .sCore n => decide (n < 384)
  | .group n _ k => decide (n < 384) && decide (k < 16)

/-- INTERNAL_ERROR (R85, R138): a parity block with more than one bad bit, of the core, the token file or the miss registers
(Table 14.7), which is open. It is imprecise, so TPC is a free value. In a V-core it ends every group resident there. -/
def Dev.internalError (d : Dev) (a : Agent) : Dev :=
  let n := a.cluster
  let (k, d) := d.choose 3
  let d := d.fault (origin 1 n) 4 (if k = 0 then a.core else 3 + k) (origin 1 n) (dieOf n) 0 0
  let (x, d) := d.fresh
  let tpc := BitVec.ofNat 64 (fld x 47 0)
  match a with
  | .sCore n =>
    let d := d.trap a cINTERNAL 0
    let d := d.onS n fun s => { s with tr := { s.tr with tpc := tpc } }
    (d.onRun n fun r => match r.ending with
      | some (.trapped c _ v k) => if c = cINTERNAL then { r with ending := some (.trapped c tpc v k) } else r
      | _ => r).settle n
  | .group n v1 _ =>
    let here := fun i : Nat => decide (i / 16 = bit v1)
    let c := d.cl n
    let hit := (c.groups.filter fun g => here g.1).map fun g => g.2.launch
    let mask := d.activeMask a
    let idxs := (c.groups.filter fun g => here g.1).map Prod.fst
    let d := d.onCl n fun c => idxs.foldl (fun c i => c.groupEnd i true) c
    let d := d.onCl n fun c => { c with
      launches := c.launches.map fun l => if hit.contains l.id then { l with stopped := true } else l
      v0Dead := c.v0Dead || !v1
      v1Dead := c.v1Dead || v1 }
    let tr : GroupTrap := { core := a.core, cause := cINTERNAL, pc := tpc, val := 0, mask := mask }
    (d.onRun n fun r => { r with internal := true, trap := match r.trap with
      | some x => some x
      | none => some tr }).settle n

end Sys2Proof.Machine
end

