-- ==== Sys2Proof/Machine/WaybillDesc.lean ====
section
/-! DEFINITION. The waybill as the M-core reads it (R142 to R151): its fields, its regions, its checks, and
the number of array steps (R144). -/
namespace Sys2Proof.Machine

/-- OP. -/
def wOP (w : BitVec 512) : Nat := bytesAt w 0 1
/-- AFMT. -/
def wAFMT (w : BitVec 512) : Nat := bytesAt w 1 1
/-- BFMT. -/
def wBFMT (w : BitVec 512) : Nat := bytesAt w 2 1
/-- CFMT. -/
def wCFMT (w : BitVec 512) : Nat := bytesAt w 3 1
/-- MODE. -/
def wMODE (w : BitVec 512) : Nat := bytesAt w 4 1
/-- ROUND. -/
def wROUND (w : BitVec 512) : Nat := wMODE w % 8
/-- EXACT. -/
def wEXACT (w : BitVec 512) : Bool := (wMODE w).testBit 3
/-- TA. -/
def wTA (w : BitVec 512) : Bool := (wMODE w).testBit 4
/-- TB. -/
def wTB (w : BitVec 512) : Bool := (wMODE w).testBit 5
/-- SAT. -/
def wSAT (w : BitVec 512) : Bool := (wMODE w).testBit 6
/-- WAIT. -/
def wWAIT (w : BitVec 512) : Nat := bytesAt w 5 1
/-- WAIT_EN. -/
def wWaitEn (w : BitVec 512) : Bool := (wWAIT w).testBit 7
/-- The token that WAIT names. -/
def wWaitTok (w : BitVec 512) : Nat := wWAIT w % 64
/-- TAG. -/
def wTAG (w : BitVec 512) : BitVec 16 := BitVec.ofNat 16 (bytesAt w 6 2)
/-- M. -/
def wM (w : BitVec 512) : Nat := bytesAt w 8 2
/-- N. -/
def wN (w : BitVec 512) : Nat := bytesAt w 10 2
/-- K. -/
def wK (w : BitVec 512) : Nat := bytesAt w 12 4
/-- An address field, bits [22:0]: 0 A, 1 B, 2 C, 3 D. -/
def wAddr (w : BitVec 512) (i : Nat) : Nat := bytesAt w (16 + 4 * i) 4 % 2 ^ 23
/-- An LD field: 0 A, 1 B, 2 C, 3 D. -/
def wLd (w : BitVec 512) (i : Nat) : Nat := bytesAt w (32 + 4 * i) 4
/-- SA_ADDR and SB_ADDR, bits [22:0]. -/
def wScale (w : BitVec 512) (i : Nat) : Nat := bytesAt w (48 + 4 * i) 4 % 2 ^ 23
/-- SR_OFS. -/
def wSROFS (w : BitVec 512) : Nat := bytesAt w 56 4

/-- Bits of one element of a format code (Tables 5.1, R143). -/
def fmtBits (c : Nat) : Nat :=
  if c = 0x05 ∨ c = 0x06 then 6
  else if c = 0x07 ∨ c = 0x0A then 4
  else if c = 0x10 ∨ c = 0x11 then 16
  else if c = 0x12 ∨ c = 0x13 ∨ c = 0x18 ∨ c = 0x19 ∨ c = 0x1A then 32
  else if c = 0x14 ∨ c = 0x1B then 64
  else if c = 0x1F then 640
  else 8
/-- Input format codes (Table 5.1). -/
def isInput (c : Nat) : Bool :=
  (decide (1 ≤ c) && decide (c ≤ 0x0A)) || [0x10, 0x11, 0x12, 0x14, 0x18, 0x19].contains c
/-- MX codes. -/
def isMX (c : Nat) : Bool := decide (3 ≤ c) && decide (c ≤ 8)
/-- Inputs that have an exact mode (Table 5.1). -/
def hasExact (c : Nat) : Bool := (decide (1 ≤ c) && decide (c ≤ 8)) || decide (c = 0x10) || decide (c = 0x11)
/-- "K multiple of" (Table 5.1). -/
def kMultiple (c : Nat) : Nat := if isMX c then 32 else if c = 0x0A then 2 else 1
/-- Depth k of the tile per step (Table 5.1); in exact mode it shrinks with the exact column. -/
def tileK (exact : Bool) (c : Nat) : Nat :=
  if 1 ≤ c ∧ c ≤ 6 then (if exact then 8 else 16)
  else if c = 7 ∨ c = 8 then (if exact then 16 else 32)
  else if c = 9 ∨ c = 0x0A then 32
  else if c = 0x10 ∨ c = 0x11 then (if exact then 2 else 8)
  else if c = 0x12 then 4
  else 1
/-- Columns n of the tile (Table 5.1). -/
def tileN (c : Nat) : Nat := if c = 0x14 then 32 else 64
/-- The depth in force: that of the code with the smaller figure (R143). -/
def wTileK (w : BitVec 512) : Nat := min (tileK (wEXACT w) (wAFMT w)) (tileK (wEXACT w) (wBFMT w))

/-- Compatible pairings (R143). -/
def pairOk (a b : Nat) : Bool :=
  decide (a = b) || ([1, 2].contains a && [1, 2].contains b) || ([3, 4, 5, 6, 7].contains a && [3, 4, 5, 6, 7].contains b)
    || ([9, 0x0A].contains a && [9, 0x0A].contains b)
/-- CFMT allowed with an input (Table 5.1). -/
def cfmtOk (a c : Nat) : Bool :=
  if 1 ≤ a ∧ a ≤ 7 then [1, 2, 0x10, 0x11, 0x13, 0x1F].contains c
  else if a = 8 then [0x10, 0x13, 0x1F].contains c
  else if a = 9 ∨ a = 0x0A then decide (c = 0x1A)
  else if a = 0x10 ∨ a = 0x11 then [0x10, 0x11, 0x13, 0x1F].contains c
  else if a = 0x12 then decide (c = 0x13)
  else if a = 0x14 then decide (c = 0x14)
  else decide (c = 0x1B)

/-- Whether the operation is MMA or MMA_Z. -/
def isMMA (w : BitVec 512) : Bool := decide (wOP w = 1) || decide (wOP w = 2)

/-- Array steps of a waybill (R144). -/
def waybillSteps (w : BitVec 512) : Nat :=
  if isMMA w then ceilDiv (wM w) 8 * ceilDiv (wN w) (tileN (wAFMT w)) * ceilDiv (wK w) (wTileK w)
  else if wOP w = 4 then ceilDiv (wM w * wN w) 6
  else ceilDiv (wM w * wN w) 16

/-- A matrix region: base, LD, rows, elements of a row, bits of an element. -/
structure WRegion where
  base : Nat
  ld : Nat
  rows : Nat
  cols : Nat
  bits : Nat
  deriving DecidableEq, Repr

/-- Bytes of a stored row. -/
def WRegion.rowBytes (r : WRegion) : Nat := ceilDiv (r.cols * r.bits) 8
/-- End of a region (R150). -/
def WRegion.stop (r : WRegion) : Nat := r.base + (r.rows - 1) * r.ld + r.rowBytes
/-- Whether two regions share a byte. -/
def WRegion.meets (r q : WRegion) : Bool := decide (r.base < q.stop) && decide (q.base < r.stop)

/-- A region. -/
def wRegA (w : BitVec 512) : WRegion :=
  if wOP w = 4 then ⟨wAddr w 0, wLd w 0, wM w, wN w, 640⟩
  else if wTA w then ⟨wAddr w 0, wLd w 0, wK w, wM w, fmtBits (wAFMT w)⟩
  else ⟨wAddr w 0, wLd w 0, wM w, wK w, fmtBits (wAFMT w)⟩
/-- B region. -/
def wRegB (w : BitVec 512) : WRegion :=
  if wTB w then ⟨wAddr w 1, wLd w 1, wN w, wK w, fmtBits (wBFMT w)⟩
  else ⟨wAddr w 1, wLd w 1, wK w, wN w, fmtBits (wBFMT w)⟩
/-- C region: XP for the XP operations. -/
def wRegC (w : BitVec 512) : WRegion :=
  ⟨wAddr w 2, wLd w 2, wM w, wN w, if wOP w = 3 then 640 else fmtBits (wCFMT w)⟩
/-- D region. -/
def wRegD (w : BitVec 512) : WRegion := ⟨wAddr w 3, wLd w 3, wM w, wN w, fmtBits (wCFMT w)⟩
/-- Scales of A and of B, as one row each (R151). -/
def wRegS (w : BitVec 512) (i : Nat) : WRegion :=
  let n := (if i = 0 then wM w else wN w) * (wK w / 32)
  ⟨wScale w i, 0, 1, n, 8⟩

/-- The matrix regions a waybill uses besides D, and whether each has an LD. -/
def wSources (w : BitVec 512) : List WRegion :=
  (if isMMA w then [wRegA w, wRegB w] else if wOP w = 4 then [wRegA w] else [])
    ++ (if wOP w = 2 then [] else [wRegC w])
/-- The scale regions a waybill uses. -/
def wScales (w : BitVec 512) : List WRegion :=
  if isMMA w then (if isMX (wAFMT w) then [wRegS w 0, wRegS w 1] else []) else []
/-- Every region of a waybill. -/
def wRegions (w : BitVec 512) : List WRegion := wSources w ++ wScales w ++ [wRegD w]

/-- Fields that Table 5.4 requires to be zero, K apart, and every reserved bit. -/
def wReservedSet (w : BitVec 512) : Bool :=
  let nz (k n : Nat) : Bool := decide (bytesAt w k n ≠ 0)
  (wMODE w).testBit 7 || (wWAIT w).testBit 6 || nz 60 4
  || [16, 20, 24, 28, 48, 52].any (fun k => decide (bytesAt w k 4 ≥ 2 ^ 23))
  || (decide (wOP w = 2) && (nz 24 4 || nz 40 4))
  || (decide (wOP w = 3) && (nz 1 2 || nz 16 4 || nz 32 4 || nz 20 4 || nz 36 4 || nz 48 8 || decide (wMODE w / 8 % 8 ≠ 0)))
  || (decide (wOP w = 4) && (nz 1 2 || nz 20 4 || nz 36 4 || nz 48 8 || decide (wMODE w % 128 ≠ 0)))
  || (isMMA w && !(isMX (wAFMT w)) && nz 48 4) || (isMMA w && !(isMX (wBFMT w)) && nz 52 4)

/-- Codes 0x01 to 0x09 of Table 5.7, tested in ascending order (R167): `inShare lo n` says whether a Local
range lies in the issuing context's share. -/
def waybillCheck (fp64 : Bool) (inShare : Nat → Nat → Bool) (w : BitVec 512) : Option Nat :=
  let mma := isMMA w
  let c := wCFMT w
  let badFormat :=
    if mma then !(isInput (wAFMT w) && isInput (wBFMT w) && pairOk (wAFMT w) (wBFMT w) && cfmtOk (wAFMT w) c)
    else if wOP w = 3 then !([1, 2, 0x10, 0x11, 0x13].contains c)
    else decide (c ≠ 0x1F)
  let badMode :=
    decide (wROUND w > 4) || (mma && wEXACT w && !(hasExact (wAFMT w) && hasExact (wBFMT w)))
    || (mma && decide (c = 0x1F) && !wEXACT w) || (wSAT w && [0x13, 0x1A, 0x1B, 0x1F].contains c)
    || (decide (wROUND w ≠ 0) && decide (c = 0x1A))
  let packed (r : WRegion) : Bool :=
    (decide (r.bits = 4) && decide (r.cols % 2 ≠ 0)) || (decide (r.bits = 6) && decide (r.cols % 4 ≠ 0))
  let badDim :=
    decide (wM w = 0 ∨ wM w > 256 ∨ wN w = 0 ∨ wN w > 256)
    || (if mma then decide (wK w = 0 ∨ wK w > 16384)
          || decide (wK w % kMultiple (wAFMT w) ≠ 0) || decide (wK w % kMultiple (wBFMT w) ≠ 0)
          || packed (wRegA w) || packed (wRegB w)
        else decide (wK w ≠ 0))
  let mats := wSources w ++ [wRegD w]
  let badAlign :=
    mats.any (fun r => decide (r.base % 64 ≠ 0) || decide (r.ld % 64 ≠ 0) || decide (r.ld < r.rowBytes))
    || (wScales w).any fun r => decide (r.base % 64 ≠ 0)
  let badRange := (wRegions w).any fun r => !inShare r.base (r.stop - r.base)
  let dd := wRegD w
  let cd := wRegC w
  let usesC := decide (wOP w ≠ 2)
  let others := (if mma then [wRegA w, wRegB w] else if wOP w = 4 then [wRegA w] else []) ++ wScales w
  let overlap := others.any (fun r => r.meets dd)
    || (usesC && cd.meets dd && !(decide (cd.base = dd.base) && decide (cd.ld = dd.ld) && decide (cd.bits = dd.bits)))
  if !(mma || decide (wOP w = 3) || decide (wOP w = 4)) then some 0x01
  else if badFormat then some 0x02
  else if mma && decide (wAFMT w = 0x14) && !fp64 then some 0x03
  else if badMode then some 0x04
  else if badDim then some 0x05
  else if badAlign then some 0x06
  else if badRange then some 0x07
  else if overlap then some 0x08
  else if wReservedSet w then some 0x09
  else none

end Sys2Proof.Machine
end

