-- ==== Sys2Proof/Machine/StorePath.lean ====
section
/-! DEFINITION. The path of a store (R221, R236, R259, R263, R275): the core store queues, the cluster store
buffer, the bank of Local, the stream trackers and the request that performs a line in the Commons. -/
namespace Sys2Proof.Machine

/-! ## Store queues -/

/-- The store queue of a core: 0 the S-core, 1 and 2 the V-cores. -/
def Cluster.q (c : Cluster) (core : Nat) : List StoreEntry :=
  if core = 0 then c.qS else if core = 1 then c.q0 else c.q1
/-- Replace the store queue of a core. -/
def Cluster.setQ (c : Cluster) (core : Nat) (q : List StoreEntry) : Cluster :=
  if core = 0 then { c with qS := q } else if core = 1 then { c with q0 := q } else { c with q1 := q }
/-- Entries of a core's store queue (R259). -/
def queueCap (core : Nat) : Nat := if core = 0 then 16 else 32

/-- Whether two byte ranges meet. -/
def rangesMeet (a n b m : Nat) : Bool := decide (a < b + m) && decide (b < a + n)

/-- The granule of a reservation (R275): 8 B in Local, R251 in the Commons. -/
def Dev.resvGranule (d : Dev) (r : Resv) : Nat × Nat :=
  if r.commons then let g := 2 ^ d.part.granLog; (r.addr / g * g, g) else (r.addr / 8 * 8, 8)
/-- A plain store or atomic of an agent ends its own reservation on the granule it writes (R275). -/
def Dev.ownStore (d : Dev) (a : Agent) (runs : List (Nat × Nat)) : Dev :=
  match d.resvOf a with
  | none => d
  | some r =>
    let g := d.resvGranule r
    if runs.any fun x => rangesMeet x.1 x.2 g.1 g.2 then d.endResv a else d
/-- The agents of a cluster. -/
def Cluster.agents (c : Cluster) (n : Nat) : List Agent :=
  .sCore n :: c.groups.map fun g => .group n (decide (g.1 ≥ 16)) (g.1 % 16)
/-- A write to Local by `by_` (`none`: an engine or the M-core) ends the other agents' reservations on the
granules it meets (R275). -/
def Dev.killLocal (d : Dev) (n : Nat) (by_ : Option Agent) (addr len : Nat) : Dev :=
  ((d.cl n).agents n).foldl (fun d a =>
    match d.resvOf a with
    | some r =>
      if !r.commons && decide (some a ≠ by_) && rangesMeet addr len (r.addr / 8 * 8) 8 then d.setResv a none else d
    | none => d) d

/-- A write to Local while a waybill that uses the bytes is queued or runs (R165): it is noted, and the
waybill's result is then open. -/
def Waybill.meets (w : Waybill) (addr len : Nat) : Bool :=
  w.fail.isNone && (wRegions w.w).any fun r => rangesMeet addr len r.base (r.stop - r.base)
/-- Note a Local write in the waybills of a cluster. A write of an engine command with token `tok` is not noted in a queued
waybill that waits for that token (R164): it comes before the waybill. -/
def Cluster.touch (c : Cluster) (tok : Option Nat) (addr len : Nat) : Cluster :=
  let f (w : Waybill) : Waybill := if w.meets addr len then { w with touched := w.touched ++ [(addr, len)] } else w
  let g (w : Waybill) : Waybill := if wWaitEn w.w && decide (tok = some (wWaitTok w.w)) then w else f w
  { c with wbq := c.wbq.map g, wbRun := c.wbRun.map f }

/-- Write a run of 1 to 8 bytes into the Local of a cluster: every observer of the cluster and every engine
sees it from then on (R259). -/
def Dev.localStore (d : Dev) (n : Nat) (by_ : Option Agent) (r : ByteRun) : Dev :=
  ((d.killLocal n by_ r.addr r.n).onCl n fun c => c.touch none r.addr r.n).storeRun (.loc n) r
/-- Write bytes into the Local of a cluster, as 8-byte words with byte masks. -/
def Dev.localPut (d : Dev) (n : Nat) (addr : Nat) (bs : List (BitVec 8)) : Dev :=
  let d := d.killLocal n none addr bs.length
  (List.range (ceilDiv (addr % 8 + bs.length) 8)).foldl (fun d k =>
    let w := addr / 8 + k
    let here := fun i : Nat => decide (addr ≤ 8 * w + i) && decide (8 * w + i < addr + bs.length)
    let m := (List.range 8).foldl (fun acc i => if here i then acc + 2 ^ i else acc) 0
    let v := natOfBytes ((List.range 8).map fun i => if here i then bs.getD (8 * w + i - addr) 0 else 0)
    d.mergeW (.loc n) w (BitVec.ofNat 8 m) (BitVec.ofNat 64 v)) d

/-- A write of an engine to the Local of a cluster, for the command with a token of that cluster. -/
def Dev.localWrite (d : Dev) (n : Nat) (tok : Option Nat) (addr : Nat) (bs : List (BitVec 8)) : Dev :=
  (d.onCl n fun c => c.touch tok addr bs.length).localPut n addr bs

/-- A store commits (R259): it enters its core's queue; `none` when the queue is full. -/
def Dev.commit (d : Dev) (a : Agent) (runs : List ByteRun) (relSy : Bool) : Option Dev :=
  let c := d.cl a.cluster
  let q := c.q a.core
  if runs.isEmpty then some d
  else if q.length ≥ queueCap a.core then none
  else
    let e : StoreEntry := { seq := c.sseq, by_ := a, runs := runs, relSy := relSy }
    let d := d.onCl a.cluster fun c => { c.setQ a.core (q ++ [e]) with sseq := c.sseq + 1 }
    some (d.ownStore a (runs.map fun r => (r.addr, r.n)))

/-- A line's mask and data for a run. -/
def ByteRun.mask (r : ByteRun) : Mask := BitVec.ofNat 128 ((2 ^ r.n - 1) <<< (r.addr % 128))
/-- Bytes of a line that a mask selects, from `new`, over `old`. -/
def mergeLine (mask : Mask) (old new : Line) : Line :=
  (List.range 16).foldl (fun v k =>
    let w := mergeBytes (BitVec.ofNat 8 (fld mask (8 * k + 7) (8 * k))) (BitVec.ofNat 64 (fld old (64 * k + 63) (64 * k)))
      (BitVec.ofNat 64 (fld new (64 * k + 63) (64 * k)))
    setFld v (64 * k + 63) (64 * k) w.toNat) old
/-- A run as a line's data. -/
def ByteRun.data (r : ByteRun) : Line :=
  BitVec.ofNat 1024 ((r.val.toNat % 256 ^ r.n) <<< (8 * (r.addr % 128)))

/-- Put a Commons run into the cluster store buffer, merging stores to one line (R259). -/
def Cluster.bufPut (c : Cluster) (a : Agent) (seq : Nat) (r : ByteRun) : Cluster :=
  let line := lineOf r.addr
  if c.buf.any fun b => decide (b.line = line) then
    { c with buf := updFirst c.buf (fun b => decide (b.line = line)) fun b =>
        { b with data := mergeLine r.mask b.data r.data, mask := b.mask ||| r.mask,
                 by_ := if b.by_.contains a then b.by_ else b.by_ ++ [a], seq := min b.seq seq } }
  else
    let b : BufLine := { line := line, data := r.data, mask := r.mask, by_ := [a], seq := seq, issued := false }
    { c with buf := c.buf ++ [b] }

/-- Whether an agent waits for a line with a load marked `.acq.sy` (R260). -/
def Dev.acqWaits (d : Dev) (n : Nat) (by_ : Agent) (line : Nat) : Bool :=
  ((d.cl n).agents n).any fun a => decide (a ≠ by_) && (match d.waitOf a with
    | .load k ps _ _ => k.acqSy && ps.any fun p => decide (p.addr ≥ commonsBase) && decide (lineOf p.addr = line)
    | _ => false)
/-- Whether an agent of the cluster waits with a load that reads bytes of a line: a store to it is performed only after that
load has its values, so that it finds its own earlier stores and no later ones (R262). -/
def Dev.loadWaits (d : Dev) (n line : Nat) : Bool :=
  ((d.cl n).agents n).any fun a => match d.waitOf a with
    | .load _ ps _ _ => ps.any fun p => decide (p.addr ≥ commonsBase) && decide (lineOf p.addr = line)
    | _ => false
/-- Blocking mode of a cluster (R225). -/
def Dev.blocking (d : Dev) (n : Nat) : Bool := d.rb (oClu n + 0x40) 0

/-- The oldest store of a core's queue leaves it (R259). One marked `.rel.sy` leaves only when the store
buffer is empty (R263). Nothing happens while the buffer has no room for it, while a line it names is
being performed, while an `.acq.sy` load of another agent waits for that line (R260), or in blocking mode while it would
merge (R225). -/
def Dev.drainOne (d : Dev) (n core : Nat) : Dev :=
  match (d.cl n).q core with
  | [] => d
  | e :: rest =>
    let c := d.cl n
    let (loc, com) := e.runs.partition fun r => decide (r.addr < localSize)
    let lines := (com.map fun r => lineOf r.addr).eraseDups
    let newLines := lines.filter fun l => !(c.buf.any fun b => decide (b.line = l))
    if e.relSy ∧ !c.buf.isEmpty then d
    else if c.buf.length + newLines.length > 64 then d
    else if lines.any (fun l => c.buf.any (fun b => decide (b.line = l) && (b.issued || d.blocking n)) || d.acqWaits n e.by_ l) then d
    else
      let d := d.onCl n fun c => c.setQ core rest
      let d := loc.foldl (fun d r => d.localStore n (some e.by_) r) d
      d.onCl n fun c => com.foldl (fun c r => c.bufPut e.by_ e.seq r) c

/-! ## Requests to home slices -/

/-- A request of a cluster, sent from its die to the home of a line. It carries CLU_MISS_CTL.DEADLINE while RT is 1 (R226). -/
def Dev.sendReq (d : Dev) (n line : Nat) (k : ReqKind) (pay : Pay) (prefetch : Bool) : Dev :=
  let die := dieOf n
  let rt := if d.rb (oClu n + 0x40) 28 then some (16 * d.rf (oClu n + 0x40) 27 16) else none
  d.send die (d.homeDie line) line n (.req { kind := k, src := die, cl := n, pos := d.posOf n, epoch := (d.placeOf n).epoch
                                             line := line, pay := pay, prefetch := prefetch
                                             rt := rt, refusals := 0, ticket := false })
/-- Whether a miss register is free (R223): 32 are reserved for the S-core, which may take any other too (DESIGN CHOICE, log entry
117), and in blocking mode the cluster holds at most one. -/
def Dev.missFree (d : Dev) (n k : Nat) (forS : Bool) : Bool :=
  let ms := (d.cl n).misses
  if d.blocking n then ms.isEmpty && decide (k ≤ 1)
  else if forS then decide (ms.length + k ≤ 1024)
  else decide (ms.length + k ≤ 1024) && decide ((ms.filter fun m => !m.forS).length + k ≤ 992)
/-- Take a miss register. -/
def Dev.addMiss (d : Dev) (n : Nat) (m : Miss) : Dev :=
  d.onCl n fun c => { c with misses := c.misses ++ [m], preBlock := c.preBlock && !c.misses.isEmpty }
/-- Free the first miss register that satisfies a test. -/
def Dev.freeMiss (d : Dev) (n : Nat) (p : Miss → Bool) : Dev := d.onCl n fun c => { c with misses := eraseFirst c.misses p }

/-- Whether a miss register is held for a read. -/
def Miss.isRead (m : Miss) : Bool :=
  match m.kind with
  | .read _ => true
  | _ => false
/-- Whether a cluster holds a register for a read of a line, until the read completes (R224). -/
def Cluster.readOut (c : Cluster) (line : Nat) : Bool := c.misses.any fun m => decide (m.line = line) && m.isRead
/-- Whether a die has a request outstanding that will fill its replica cache with a line. -/
def Dev.fillOut (d : Dev) (die line : Nat) : Bool :=
  (d.rep die).pf.contains line || d.clusters.any fun c => decide (dieOf c.1 = die) &&
    c.2.misses.any fun m => decide (m.line = line) && m.data.isNone && m.alloc
/-- A line of the Commons that is homed on another die and that this die may hold. -/
def Dev.cacheable (d : Dev) (die line : Nat) : Bool := decide (d.homeDie line ≠ die) && (d.replicaOf die).isSome

/-! ## Stream trackers (R221) -/

/-- A far line is stored: the trackers follow it. The first component says whether a tracker was engaged
and the line continued its sequence. -/
def Cluster.track (c : Cluster) (part line : Nat) (full : Bool) : Bool × Cluster :=
  match c.trackers.find? fun t => decide (t.next = line) && decide (t.part = part) with
  | some t =>
    let rest := eraseFirst c.trackers fun u => decide (u = t)
    if full then
      let t' : Tracker := { t with next := line + 1, count := t.count + 1 }
      (decide (t.count ≥ 16), { c with trackers := t' :: rest })
    else (false, { c with trackers := rest })
  | none =>
    -- a store out of sequence disengages the trackers of its partition
    let keep := c.trackers.filter fun t => decide (t.part ≠ part) || decide (t.count < 16)
    if full then
      let t : Tracker := { next := line + 1, count := 1, part := part }
      (false, { c with trackers := (t :: keep).take 8 })
    else (false, { c with trackers := keep })

/-! ## A line of the store buffer is performed -/

/-- Store into a line held by a replica cache. A word that is poisoned and not wholly overwritten keeps its
mark (R86). -/
def storeInto (x : LineData) (mask : Mask) (data : Line) : LineData :=
  (List.range 16).foldl (fun x k =>
    let m := fld mask (8 * k + 7) (8 * k)
    if m = 0 then x
    else if x.poison.getLsbD k then
      if m = 0xFF then
        { v := setFld x.v (64 * k + 63) (64 * k) (fld data (64 * k + 63) (64 * k)), poison := setBit x.poison k false }
      else x
    else
      let w := mergeBytes (BitVec.ofNat 8 m) (BitVec.ofNat 64 (fld x.v (64 * k + 63) (64 * k)))
        (BitVec.ofNat 64 (fld data (64 * k + 63) (64 * k)))
      { x with v := setFld x.v (64 * k + 63) (64 * k) w.toNat }) x
/-- The line leaves the store buffer. -/
def Dev.bufDone (d : Dev) (n line : Nat) : Dev :=
  d.onCl n fun c => { c with buf := eraseFirst c.buf fun b => decide (b.line = line) }
/-- Mark a line of the store buffer as requested. -/
def Dev.bufIssue (d : Dev) (n line : Nat) : Dev :=
  d.onCl n fun c => { c with buf := updFirst c.buf (fun b => decide (b.line = line)) fun b => { b with issued := true } }
/-- Perform a buffered line in the replica cache of the cluster's die: the line is in M from then on. -/
def Dev.bufIntoReplica (d : Dev) (n : Nat) (b : BufLine) : Dev :=
  let die := dieOf n
  let d := d.onRepLine die b.line fun x => { x with st := .m, d := storeInto x.d b.mask b.data }
  ((d.touchLine die b.line).notePage b.line).bufDone n b.line

/-- Request a line of the store buffer with a message. -/
def Dev.bufReq (d : Dev) (n : Nat) (b : BufLine) (k : ReqKind) : Dev :=
  let forS := b.by_.all fun a => !a.isGroup
  if !(d.missFree n 1 forS) then d
  else
    let through := decide (k = .wrT)
    let m : Miss := { line := b.line, kind := if through then .through else .own, agents := b.by_, forS := forS, alloc := !through, data := none,
                      stale := [], place := d.placeOf n }
    ((d.addMiss n m).bufIssue n b.line).sendReq n b.line k (if through then .write b.mask b.data else .none) false

/-- A line of the cluster store buffer is performed or requested (R217, R221, R236, R242). It waits while a
read of the line is outstanding (R224), while a load that reads it waits (R262), while the die has another request for it,
and while it lies in the write-back buffer (R242). A line that no partition holds any more is discarded with its contents (R215). -/
def Dev.performLine (d : Dev) (n line : Nat) : Dev :=
  match (d.cl n).buf.find? fun b => decide (b.line = line) with
  | none => d
  | some b =>
    let die := dieOf n
    if b.issued || (d.cl n).readOut line || d.loadWaits n line || d.inWb die line then d
    else match d.partAt (lineAddr line) with
    | none => d.bufDone n line
    | some p =>
      if d.homeDie line = die then d.bufReq n b .wrT
      else if (d.replicaOf die).isNone then d.bufReq n b .wrT
      else if d.fillOut die line then d
      else
        let full := decide (b.mask = BitVec.allOnes 128)
        let forS := b.by_.all fun a => !a.isGroup
        match d.repLine die line with
        | some x =>
          if x.st = .m ∨ x.st = .e then
            let d := d.onCl n fun c => (c.track p line full).2
            (d.countClass die x.cls 0).bufIntoReplica n b
          else if !(d.missFree n 1 forS) then d
          else (((d.countClass die x.cls 0).bufReq n b .upg).onCl n fun c => (c.track p line full).2)
        | none =>
          let (engaged, c') := (d.cl n).track p line full
          let cls := d.classAt (lineAddr line)
          let through := engaged || decide (cls = 0)
          if !(d.missFree n 1 forS) then d
          else ((d.bufReq n b (if through then .wrT else .rdX)).onCl n fun c =>
            { c with trackers := c'.trackers }).countClass die cls 1

end Sys2Proof.Machine
end

