-- ==== Sys2Proof/Machine/LoadPath.lean ====
section
/-! DEFINITION. The path of a load and of an atomic (R89, R218, R222 to R225, R249, R259 to R262): forwarding
from the store queues and the store buffer, the L1R, the replica cache, the miss registers, and what an
agent receives when its lines arrive. -/
namespace Sys2Proof.Machine

/-! ## Forwarding (R259, R260) -/

/-- Lay the bytes of a run that fall in a word over a value; the mask says which bytes are covered. -/
def ByteRun.over8 (r : ByteRun) (w : Nat) (x : Word × BitVec 8) : Word × BitVec 8 :=
  if r.addr / 8 ≠ w then x
  else
    let o := r.addr % 8
    let m : BitVec 8 := BitVec.ofNat 8 ((2 ^ r.n - 1) <<< o)
    (mergeBytes m x.1 (r.val <<< (8 * o)), x.2 ||| m)

/-- What the stores visible to an agent put into a word: from the store buffer for the Commons, then from its
core's queue, oldest first. A load marked `.acq.sy` sees only its own agent's stores. -/
def Cluster.forward (c : Cluster) (a : Agent) (acqSy com : Bool) (w : Nat) : Word × BitVec 8 :=
  let x0 : Word × BitVec 8 :=
    if com then
      match c.buf.find? fun b => decide (b.line = lineOf (8 * w)) with
      | some b =>
        let k := (8 * w) % 128 / 8
        (BitVec.ofNat 64 (fld b.data (64 * k + 63) (64 * k)), BitVec.ofNat 8 (fld b.mask (8 * k + 7) (8 * k)))
      | none => (0, 0)
    else (0, 0)
  (c.q a.core).foldl (fun x e =>
    if acqSy && decide (e.by_ ≠ a) then x else e.runs.foldl (fun x r => r.over8 w x) x) x0

/-- Whether an `.acq.sy` load of `n` bytes meets a store of another agent that is not performed (R260). -/
def Cluster.meetsOther (c : Cluster) (a : Agent) (addr n : Nat) : Bool :=
  (c.q a.core).any (fun e => decide (e.by_ ≠ a) && e.runs.any fun r => rangesMeet r.addr r.n addr n) ||
  (decide (addr ≥ commonsBase) && c.buf.any fun b => decide (b.line = lineOf addr) && b.by_.any fun x => decide (x ≠ a))

/-- Bytes of a word that a piece needs. -/
def Piece.need (p : Piece) : BitVec 8 := BitVec.ofNat 8 ((2 ^ p.n - 1) <<< (p.addr % 8))
/-- Whether a piece lies in the Commons. -/
def Piece.com (p : Piece) : Bool := decide (p.addr ≥ commonsBase)
/-- Whether forwarded stores supply all of a piece. -/
def Cluster.covers (c : Cluster) (a : Agent) (k : LoadKind) (p : Piece) : Bool :=
  decide ((c.forward a k.acqSy p.com (p.addr / 8)).2 &&& p.need = p.need)

/-- The bytes of a piece, or `none` for an uncorrectable word; the lines of the Commons are given. -/
def Dev.pieceVal (d : Dev) (a : Agent) (k : LoadKind) (got : List (Nat × LineData)) (p : Piece) : Option Word × Dev :=
  let c := d.cl a.cluster
  let w := p.addr / 8
  -- loads through the L1R do not look at their own core's stores (R271)
  let (fv, fm) := if k.ro && p.com then ((0 : Word), (0 : BitVec 8)) else c.forward a k.acqSy p.com w
  let cut (v : Word) : Word := BitVec.ofNat 64 ((v.toNat >>> (8 * (p.addr % 8))) % 256 ^ p.n)
  if fm &&& p.need = p.need then (some (cut fv), d)
  else if p.com then
    match got.find? fun g => decide (g.1 = lineOf p.addr) with
    | none => (none, d)
    | some g =>
      let i := p.addr % 128 / 8
      if g.2.poison.getLsbD i then (none, d)
      else (some (cut (mergeBytes fm (BitVec.ofNat 64 (fld g.2.v (64 * i + 63) (64 * i))) fv)), d)
  else
    match d.readW (.loc a.cluster) w 0 with
    | (some v, d) => (some (cut (mergeBytes fm v fv)), d)
    | (none, d) => (none, d)

/-- Extension of a loaded value. -/
def Piece.ext (p : Piece) (v : Word) : Word := if p.signed then (BitVec.ofNat (8 * p.n) v.toNat).signExtend 64 else v
/-- Write a loaded value into the register that a piece names. -/
def Dev.putPiece (d : Dev) (a : Agent) (p : Piece) (v : Word) : Dev :=
  if p.lane ≥ 32 then d.wr a p.reg (p.ext v)
  else d.onGrp a fun g =>
    if p.sh = 0 ∧ p.w = 32 then g.setV p.reg p.lane ((p.ext v).setWidth 32)
    else g.setV p.reg p.lane (setFld (g.v p.reg p.lane) (p.sh + p.w - 1) p.sh (p.ext v).toNat)

/-- Read every piece: the values, or the address of the first that is uncorrectable. -/
def Dev.readPieces (d : Dev) (a : Agent) (k : LoadKind) (got : List (Nat × LineData)) :
    List Piece → Except Nat (List (Piece × Word)) × Dev
  | [] => (.ok [], d)
  | p :: ps =>
    match d.pieceVal a k got p with
    | (none, d) => (.error p.trapAddr, d)
    | (some v, d) => match d.readPieces a k got ps with
      | (.ok vs, d) => (.ok ((p, v) :: vs), d)
      | (.error e, d) => (.error e, d)

/-- An agent has performed an acquire or a fence, or an access to a line (`some line`) at its home: data taken before for a
read that is outstanding do not satisfy its later loads (R262, R265). -/
def Dev.freshen (d : Dev) (a : Agent) (line : Option Nat) : Dev :=
  d.onCl a.cluster fun c => { c with misses := c.misses.map fun m =>
    if m.isRead && !(m.stale.contains a) && (match line with
      | some l => decide (m.line = l)
      | none => true) then { m with stale := m.stale ++ [a] } else m }

/-- Every agent that a cluster can have has (R271). -/
def Dev.freshenAll (d : Dev) (n : Nat) : Dev :=
  (.sCore n :: (List.range 32).map fun k => Agent.group n (decide (16 ≤ k)) (k % 16)).foldl (fun (d : Dev) a => d.freshen a none) d
/-- A load whose lines are all there: its registers are written together, or it traps with none written. -/
def Dev.finishLoad (d : Dev) (a : Agent) (k : LoadKind) (ps : List Piece) (got : List (Nat × LineData)) : Out :=
  match d.readPieces a k got ps with
  | (.ok vs, d) =>
    let d := if k.plain || k.ro then d else d.freshen a none
    .done (vs.foldl (fun d x => d.putPiece a x.1 x.2) d)
  | (.error e, d) => .trapOn d cLOAD (BitVec.ofNat 64 e)

/-! ## L1R (R218) -/

/-- Fill a line of the L1R: 256 sets of 8 ways, least recently used first out; which address bits index a set
is a DESIGN CHOICE (log entry 8). -/
def Cluster.l1rFill (c : Cluster) (line : Nat) (x : LineData) : Cluster :=
  let rest := c.l1r.filter fun y => decide (y.1 ≠ line)
  let set := rest.filter fun y => decide (y.1 % 256 = line % 256)
  let rest := if set.length < 8 then rest else match set.getLast? with
    | some v => rest.filter fun y => decide (y.1 ≠ v.1)
    | none => rest
  { c with l1r := (line, x) :: rest }
/-- The L1R is invalidated (R218): a line that is on its way to it does not enter it, and loads that issue from now on are not
given data taken before. -/
def Cluster.l1rInval (c : Cluster) : Cluster :=
  { c with
    l1r := []
    l1rPf := c.l1rPf.map fun y => (y.1, false)
    misses := c.misses.map fun m => if m.kind = .read true then { m with kind := .read false } else m }
/-- A hit makes a line of the L1R the most recently used. -/
def Cluster.l1rTouch (c : Cluster) (line : Nat) : Cluster :=
  match c.l1r.find? fun y => decide (y.1 = line) with
  | some y => { c with l1r := y :: c.l1r.filter fun z => decide (z.1 ≠ line) }
  | none => c

/-! ## Requests for lines -/

/-- Whether the next line may be prefetched after a miss of `line` (R222). -/
def Dev.mayPrefetch (d : Dev) (n line : Nat) : Bool :=
  let a := lineAddr (line + 1)
  decide ((line + 1) / 32 = line / 32) && !(d.nopf a) && !(d.nopf (lineAddr line)) && !(d.blocking n) &&
    (d.partAt a).isSome && decide (d.partAt a = d.partAt (lineAddr line))
/-- After a read miss in a replica cache, the cache also requests the next line (R222). -/
def Dev.prefetchReplica (d : Dev) (n line : Nat) : Dev :=
  let die := dieOf n
  if d.mayPrefetch n line && (d.repLine die (line + 1)).isNone && d.cacheable die (line + 1) && !(d.fillOut die (line + 1))
      && !(d.inWb die (line + 1)) then
    let d := d.sendReq n (line + 1) .rdS .none true
    d.setRep die { d.rep die with pf := (d.rep die).pf ++ [line + 1] }
  else d
/-- After an L1R miss in a read-only window, the L1R requests the next line (R222). -/
def Dev.prefetchL1R (d : Dev) (n line : Nat) : Dev :=
  let c := d.cl n
  let a := lineAddr (line + 1)
  if d.winRo (lineAddr line) && d.winRo a && !(d.rb (oClu n + 0x40) 1) && d.mayPrefetch n line && (c.l1rFind (line + 1)).isNone
      && !(c.l1rPf.any fun y => decide (y.1 = line + 1)) && !(d.inWb (dieOf n) (line + 1)) then
    let die := dieOf n
    let far := d.cacheable die (line + 1)
    match (if far then d.repLine die (line + 1) else none) with
    | some x => d.onCl n fun c => c.l1rFill (line + 1) x.d
    | none =>
      let d := d.onCl n fun c => { c with l1rPf := c.l1rPf ++ [(line + 1, true)] }
      if !far then d.sendReq n (line + 1) .rdU .none true
      else if d.fillOut die (line + 1) then d
      else
        let d := d.sendReq n (line + 1) .rdS .none true
        d.setRep die { d.rep die with pf := (d.rep die).pf ++ [line + 1] }
  else d

/-- Whether a line's data have been taken and are on their way to a cluster that reads it without allocation. -/
def Dev.dataComing (d : Dev) (n line : Nat) : Bool :=
  d.coh.net.any fun m => decide (m.line = line) && decide (m.dst = dieOf n) && decide (m.cl = n) && (match m.body with
    | .data _ _ _ pf => !pf
    | _ => false)

/-- What a request for a line finds. -/
inductive LineReq where
  /-- The line is there. -/
  | hit (d : Dev) (x : LineData)
  /-- A miss register waits for it. -/
  | miss (d : Dev)
  /-- The line lies in the write-back buffer, or no register or merge is free: try again. -/
  | later
  deriving DecidableEq, Repr

/-- Ask for one line (R217, R218, R224, R242). A load merges into the register that holds a read of the line; where the data of
a read without allocation are too old for the agent, it waits for the register instead. One that may find stores of its core
waits while such a store of the line has been requested and is not performed, so that it has its bytes (R262). -/
def Dev.requestLine (d : Dev) (a : Agent) (ro : Bool) (line : Nat) : LineReq :=
  let n := a.cluster
  let die := dieOf n
  let c := d.cl n
  let forS := !a.isGroup && !ro
  match (if ro then c.l1rFind line else none) with
  | some x => .hit (d.onCl n fun c => c.l1rTouch line) x
  | none =>
    let near := !(d.cacheable die line)
    if d.inWb die line || (!ro && c.buf.any fun b => decide (b.line = line) && b.issued) then .later
    else match (if near then none else d.repLine die line) with
    | some x =>
      let d := (d.countClass die x.cls 0).touchLine die line
      let d := if ro then (d.onCl n fun c => c.l1rFill line x.d).prefetchL1R n line else d
      .hit d x.d
    | none =>
      let mine := fun m : Miss => decide (m.line = line) && m.isRead && (near || m.data.isNone)
      match c.misses.find? mine with
      | some m =>
        let old := near && m.stale.contains a && (m.data.isSome || d.dataComing n line)
        if old || d.blocking n || decide (m.agents.length ≥ 17) then .later
        else
          let kind : MissKind := if ro && m.stale.isEmpty then .read true else m.kind
          .miss (d.onCl n fun c => { c with misses := updFirst c.misses mine fun m => { m with agents := m.agents ++ [a], kind := kind } })
      | none =>
      if !(d.missFree n 1 forS) then .later
      else
        let already := !near && d.fillOut die line
        let d := d.addMiss n { line := line, kind := .read ro, agents := [a], forS := forS, alloc := !near, data := none, stale := [], place := d.placeOf n }
        let d := if already then d else d.sendReq n line (if near then .rdU else .rdS) .none false
        let d := if near then d else (d.countClass die (d.classAt (lineAddr line)) 1).prefetchReplica n line
        .miss (if ro then d.prefetchL1R n line else d)

/-- Whether a load reads a line through the L1R (R218): `ld.ro`, or a plain load in a read-only window. -/
def Dev.viaL1R (d : Dev) (k : LoadKind) (line : Nat) : Bool := k.ro || (k.plain && d.winRo (lineAddr line))

/-- Ask for the lines of a load in order: those that are there, and those that are awaited. In blocking mode
the cluster asks for one at a time (R225); lines that cannot be asked for yet stay in the list. -/
def Dev.requestLines (d : Dev) (a : Agent) (k : LoadKind) : List Nat → List (Nat × LineData) × List Nat × Dev
  | [] => ([], [], d)
  | l :: ls =>
    match d.requestLine a (d.viaL1R k l) l with
    | .hit d x => let r := d.requestLines a k ls; ((l, x) :: r.1, r.2.1, r.2.2)
    | .miss d => let r := d.requestLines a k ls; (r.1, l :: r.2.1, r.2.2)
    | .later => let r := d.requestLines a k ls; (r.1, l :: r.2.1, r.2.2)

/-- A line as the stores that an agent sees fill it. -/
def Cluster.forwardLine (c : Cluster) (a : Agent) (acqSy : Bool) (line : Nat) : LineData :=
  { v := (List.range 16).foldl (fun v k => setFld v (64 * k + 63) (64 * k) (c.forward a acqSy true (lineAddr line / 8 + k)).1.toNat) 0
    poison := 0 }
/-- Lines that a load needs nothing of but the bytes of stores which it sees as it issues: it keeps them while it waits (R262). -/
def Cluster.kept (c : Cluster) (a : Agent) (k : LoadKind) (ps : List Piece) (asked : List Nat) : List (Nat × LineData) :=
  if k.ro then []
  else ((((ps.filter Piece.com).map fun p => lineOf p.addr).eraseDups).filter fun l => !(asked.contains l)).map fun l => (l, c.forwardLine a k.acqSy l)
/-- Issue a load that has passed its trap checks. It stalls while an `.acq.sy` load meets another agent's
store, and while none of its lines can be asked for. -/
def Dev.load (d : Dev) (a : Agent) (k : LoadKind) (ps : List Piece) : Out :=
  let c := d.cl a.cluster
  if k.acqSy && ps.any fun p => c.meetsOther a p.addr p.n then .stall
  else
    let lines := ((ps.filter fun p => p.com && (k.ro || !(c.covers a k p))).map fun p => lineOf p.addr).eraseDups
    if lines.isEmpty then d.finishLoad a k ps []
    else
      let (got, need, d') := d.requestLines a k lines
      if need.isEmpty then d'.finishLoad a k ps got
      else if (d'.cl a.cluster).misses = c.misses then .stall
      else .wait (d'.setWait a (.load k ps need (got ++ c.kept a k ps lines)))

/-- An agent waits for a line: ask again for the lines that have no register. -/
def Dev.pumpLoad (d : Dev) (a : Agent) : Dev :=
  match d.waitOf a with
  | .load k ps need got =>
    let open_ := need.filter fun l =>
      !((d.cl a.cluster).misses.any fun m => decide (m.line = l) && m.agents.contains a && (match m.kind with
        | .read _ => true
        | _ => false))
    if open_.isEmpty then d
    else
      let (got', need', d) := d.requestLines a k open_
      let need'' := need.filter fun l => !(open_.contains l) || need'.contains l
      let got'' := got ++ got'
      let d := d.setWait a (.load k ps need'' got'')
      if need''.isEmpty then (d.setWait a .none).conclude a k.len (d.finishLoad a k ps got'') else d
  | _ => d

/-- Give an agent a line it waits for. -/
def Dev.giveLine (d : Dev) (a : Agent) (line : Nat) (x : LineData) : Dev :=
  match d.waitOf a with
  | .load k ps need got =>
    if need.contains line then
      let need' := need.filter fun l => decide (l ≠ line)
      let got' := got ++ [(line, x)]
      if need'.isEmpty then
        let d := d.setWait a .none
        d.conclude a k.len (d.finishLoad a k ps got')
      else d.setWait a (.load k ps need' got')
    else d
  | _ => d

/-! ## Atomics (R130 to R133, R249) -/

/-- What a register receives from an atomic of `n` bytes. -/
def Dev.putAtom (d : Dev) (a : Agent) (rd n : Nat) (res : List (Nat × Word)) : Dev :=
  res.foldl (fun d x =>
    if x.1 ≥ 32 then d.wr a rd (extendSz n x.2)
    else d.onGrp a fun g => if n = 8 then g.setV64 rd x.1 x.2 else g.setV rd x.1 (x.2.setWidth 32)) d

/-- Set floating-point flags of a cluster (R195): source 0 is the M-core, 1 and 2 the V-cores. -/
def Dev.setFlags (d : Dev) (n source : Nat) (f : FFlags) : Dev :=
  if f = 0 then d else d.setReg (oClu n + 0x20) (gatherFlags (d.reg (oClu n + 0x20)) source f)
/-- Record the flags of an atomic whose lanes received `res`: each lane of `fadd` receives the old value. -/
def Dev.atomFlags (d : Dev) (a : Agent) (t : Atm) (res : List (Nat × Word)) : Dev :=
  match res with
  | x :: _ => d.setFlags a.cluster a.core (t.flags x.2)
  | [] => d

/-- Send an atomic to its home (R249), for the agents that wait for it: none once its group has ended. `none` while no miss
register is free, while the line lies in the write-back buffer (R242) or is being read (R224), and while the same atomic of an
ended group is outstanding. -/
def Dev.sendAtm (d : Dev) (n : Nat) (agents : List Agent) (t : Atm) : Option Dev :=
  let line := lineOf t.addr
  if !(d.missFree n 1 (!t.by_.isGroup)) || d.inWb (dieOf n) line || (d.cl n).readOut line ||
    (d.cl n).misses.any fun m => decide (m.kind = .atom t) && m.agents.isEmpty then none
  else
    let m : Miss := { line := line, kind := .atom t, agents := agents, forS := !t.by_.isGroup, alloc := false, data := none, stale := [], place := d.placeOf n }
    some ((d.addMiss n m).sendReq n line .atm (.atm t) false)
/-- Send as many of a list of atomics as can be sent, in order; the rest stay. -/
def Dev.sendAtms (d : Dev) (n : Nat) (agents : List Agent) : List Atm → List Atm × Dev
  | [] => ([], d)
  | t :: ts =>
    match d.sendAtm n agents t with
    | none => (t :: ts, d)
    | some d => d.sendAtms n agents ts
/-- Send what ended groups have left to send (R113). -/
def Dev.sendOrphans (d : Dev) (n : Nat) : Dev :=
  let (rest, d) := d.sendAtms n [] (d.cl n).orphans
  d.onCl n fun c => { c with orphans := rest }

/-- Stores that must leave before an atomic acts: the core's own queue for a release at cluster scope, the
store buffer as well at system scope (R263), and every store to the words it names (R262). -/
def Dev.atomWaits (d : Dev) (a : Agent) (mark scope : Nat) (ts : List Atm) : Bool :=
  let c := d.cl a.cluster
  let q := c.q a.core
  (decide (mark ≥ 2 ∧ scope ≥ 1) && !q.isEmpty) || (decide (mark ≥ 2 ∧ scope = 2) && !c.buf.isEmpty) ||
  ts.any fun t => q.any (fun e => e.runs.any fun r => rangesMeet r.addr r.n t.addr t.n) ||
    (decide (t.addr ≥ commonsBase) && c.buf.any fun b => decide (b.line = lineOf t.addr))

/-- Perform an atomic on the Local of the agent's cluster. -/
def Dev.localAtm (d : Dev) (a : Agent) (t : Atm) : Dev × Option (List (Nat × Word)) :=
  let n := a.cluster
  ((d.killLocal n (some a) t.addr t.n).onCl n fun c => c.touch none t.addr t.n).homeAtm (.loc n) t

/-- The copy of a line that is newer than its home's: in a replica cache, in a write-back buffer, or on its way home. -/
def Dev.newerCopy (d : Dev) (line : Nat) : Option LineData :=
  let held (x : RepLine) : Bool := decide (x.line = line) && (decide (x.st = .m) || decide (x.st = .o))
  let away (r : Nat × Replica) : Bool := !(r.2.sent.contains line) || d.coh.net.any fun m => decide (m.src = r.1) && decide (m.line = line) &&
    (match m.body with
      | .req q => decide (q.kind = .putM) || decide (q.kind = .putO)
      | _ => false)
  match (d.coh.reps.map fun r => (r.2.lines ++ (if away r then r.2.wb else [])).filter held).flatten.head? with
  | some x => some x.d
  | none => (d.coh.net.filterMap fun m : Msg => if m.line = line then (match m.body with
      | .recallData x true => some x
      | .data .m true x _ => some x
      | _ => none) else none).head?
/-- What the words that an atomic names are found to be as it issues. -/
inductive AtomCheck where
  | good (d : Dev)
  /-- The first, by ascending lane, that is uncorrectable. -/
  | bad (d : Dev) (addr : Nat)
  /-- A word of the Commons heals (R396). -/
  | heals (d : Dev)
/-- Look at the words that an atomic names, in ascending order of its lanes, before anything changes (R81, R127): a word of Local,
a word of the Commons in its newest copy, or at its home. -/
def Dev.atomCheck (d : Dev) (a : Agent) : List Atm → AtomCheck
  | [] => .good d
  | t :: ts =>
    let line := lineOf t.addr
    if t.addr < localSize then match d.readW (.loc a.cluster) (t.addr / 8) 0 with
      | (none, d) => .bad d t.addr
      | (some _, d) => d.atomCheck a ts
    else match d.newerCopy line with
      | some x => if x.poison.getLsbD (t.addr % 128 / 8) then .bad d t.addr else d.atomCheck a ts
      | none => match d.healHold (.agent a) line with
        | some d => .heals d
        | none => match (d.healServed (.agent a) line).readW .com (t.addr / 8) 0 with
          | (none, d) => .bad d t.addr
          | (some _, d) => d.atomCheck a ts
/-- What the lanes of an atomic receive whose word turns out uncorrectable after its instruction has changed other words: it is not
applied, and the values are open, since the instruction has met no cause of a trap as it issued (R81; DESIGN CHOICE, log entry 91). -/
def Dev.openLanes (d : Dev) (t : Atm) : List (Nat × Word) × Dev :=
  t.lanes.foldl (fun (x : List (Nat × Word) × Dev) l => let (v, d) := x.2.fresh; (x.1 ++ [(l.1, lowBytes t.n v)], d)) ([], d)
/-- Issue an atomic at one or more addresses (R130, R249). Every word that it names must be readable as it issues (log entry
91). -/
def Dev.atom (d : Dev) (a : Agent) (rd n len mark scope : Nat) (ts : List Atm) : Out :=
  let (loc, com) := ts.partition fun t => decide (t.addr < localSize)
  if d.atomWaits a mark scope ts then .stall
  else match d.atomCheck a ts with
    | .bad d e => .trapOn d cLOAD (BitVec.ofNat 64 e)
    | .heals d => .wait d
    | .good d =>
      let (unsent, d1) := d.sendAtms a.cluster [a] com
      if !com.isEmpty && decide (unsent.length = com.length) then .wait d
      else
        let d1 := d1.ownStore a (ts.map fun t => (t.addr, t.n))
        let (d2, res) := loc.foldl (fun x t =>
          match x.1.localAtm a t with
          | (d, some r) => (d.atomFlags a t r, x.2 ++ r)
          | (d, none) => let (r, d) := d.openLanes t; (d, x.2 ++ r)) (d1, ([] : List (Nat × Word)))
        if com.isEmpty then .done ((d2.freshen a none).putAtom a rd n res)
        else .wait (d2.setWait a (.atom rd n len unsent ((com.take (com.length - unsent.length)).map Atm.addr) res))

/-- An agent waits for atomics: send those that could not be sent, and finish when all have returned. -/
def Dev.pumpAtom (d : Dev) (a : Agent) : Dev :=
  match d.waitOf a with
  | .atom rd n len unsent todo res =>
    if unsent.isEmpty ∧ todo.isEmpty then
      let d := d.setWait a .none
      d.conclude a len (.done ((d.freshen a none).putAtom a rd n res))
    else if unsent.isEmpty then d
    else
      let (rest, d) := d.sendAtms a.cluster [a] unsent
      d.setWait a (.atom rd n len rest (todo ++ (unsent.take (unsent.length - rest.length)).map Atm.addr) res)
  | _ => d

/-- An atomic has returned to its agent. One whose word has turned uncorrectable since it issued traps, where the instruction has
changed nothing else (R81, Table 3.7). -/
def Dev.giveAtom (d : Dev) (a : Agent) (t : Atm) (r : List (Nat × Word)) (bad : Bool) : Dev :=
  let addr := t.addr
  match d.waitOf a with
  | .atom rd n len unsent todo res =>
    if !todo.contains addr then d
    else if bad && unsent.isEmpty && decide (todo = [addr]) && res.isEmpty then
      (d.setWait a .none).conclude a len (.trap cLOAD (BitVec.ofNat 64 addr))
    else
    let (r, d) := if bad then d.openLanes t else (r, d.atomFlags a t r)
    (d.setWait a (.atom rd n len unsent (todo.filter fun x => decide (x ≠ addr)) (res ++ r))).pumpAtom a
  | _ => d

/-- Every waiting agent of a cluster asks again for what it could not ask for before. -/
def Dev.pumpAll (d : Dev) (n : Nat) : Dev :=
  ((d.cl n).agents n).foldl (fun d a => (d.pumpLoad a).pumpAtom a) (d.sendOrphans n)

/-- A line reaches the cluster (R223): the L1R keeps it if it asked, the register is freed, and the loads that
merged into it receive it in the order in which they issued (R224). -/
def Dev.missReturn (d : Dev) (n line : Nat) : Dev :=
  match (d.cl n).misses.find? fun m => decide (m.line = line) && m.data.isSome with
  | none => d.pumpAll n
  | some m =>
    match m.data with
    | none => d
    | some x =>
      let d := d.freeMiss n fun y => decide (y = m)
      let d := if m.kind = .read true then d.onCl n fun c => c.l1rFill line x else d
      (m.agents.foldl (fun d a => d.giveLine a line x) d).pumpAll n

end Sys2Proof.Machine
end

