-- ==== Sys2Proof/Machine/Issue.lean ====
section
/-! DEFINITION. The issue of an instruction (R72, R81, R85, R218, R223): its fetch may trap, or miss in the L1R and ask for its
line, and the instruction's effect follows. -/
namespace Sys2Proof.Machine

/-- An agent's fetch has missed in the L1R: it merges into the register that reads the line, or asks for the line as an
`ld.ro` does (R223, R224). While it waits, its instruction issues no further and nothing else changes. -/
def Dev.askFetch (d : Dev) (a : Agent) (line : Nat) : Dev :=
  if (d.cl a.cluster).misses.any fun m => decide (m.line = line) && m.isRead && m.agents.contains a then d
  else match d.requestLine a true line with
    | .hit d _ => d
    | .miss d => d
    | .later => d
/-- Issue an instruction of an agent (R72, R85). A trap of the fetch has the instruction's address in TVAL, that of the second
parcel of a 64-bit instruction too: Table 3.7 says only `Fetch address` (DESIGN CHOICE, log entry 13). -/
def Dev.issue (d : Dev) (a : Agent) (len : Nat) (body : Dev → Out) : Dev :=
  if d.ready a then
    match d.fetchTrap a len with
    | some c => (d.fetchRead a len).conclude a len (.trap c (BitVec.ofNat 64 (d.pc a)))
    | none => match d.fetchMiss a len with
      | some l => d.askFetch a l
      | none => d.conclude a len (body d)
  else d
/-- A 4-byte instruction of an agent. -/
def instr4 (a : Agent) (s : State) (body : Dev → Out) : Host.Outcome State Fault Refusal :=
  run (Agent.ok a) s fun d => d.issue a 4 body
/-- An 8-byte instruction of a thread group: an S-core does not execute SV-G, and takes
ILLEGAL_INSTRUCTION (R70). -/
def instr8 (a : Agent) (s : State) (word : Word) (body : Dev → Group → Out) : Host.Outcome State Fault Refusal :=
  run (Agent.ok a) s fun d => d.issue a 8 fun d =>
    match d.grp a with
    | none => .trap cILLEGAL word
    | some g => body d g

end Sys2Proof.Machine
end

