-- ==== Sys2Proof/Machine/CohMsg.lean ====
section
/-! DEFINITION. The commands of the store path, the miss registers and the coherence messages (R221 to R224,
R241 to R247, R253, R259): each delivers the first message in flight on its channel between two dies for a
line. A message that is not there, or not the first, leaves everything as it is. -/
namespace Sys2Proof.Machine

/-- What a row finds in the message it names: not this row's, to be held for now, or received with an effect. -/
inductive Took where
  | no
  | hold
  | got (d : Dev)

/-- A die holds back a forward, an Inv or a Recall until it has taken the Data that made it a holder of the line: the spec
orders no channels against each other (DESIGN CHOICE, log entry 89). -/
def Dev.mustWait (d : Dev) (x : Msg) : Bool :=
  (match x.body with
    | .fwd _ _ _ _ => true
    | .recallMsg => true
    | .inv => true
    | _ => false) && d.coh.net.any fun y => decide (y.dst = x.dst) && decide (y.line = x.line) && (match y.body with
      | .data g _ _ _ => decide (g ≠ .none)
      | _ => false)
/-- The row of a message runs: its destination receives the message that the selector names on a channel, if it has arrived
there (R26, R35, R37), or takes it in and holds it. -/
def Dev.deliver (d : Dev) (m : MsgSel) (vc : Nat) (f : Dev → MsgBody → Took) : Dev :=
  match d.msgAt m vc with
  | none => d
  | some x => match f (d.receive x) x.body with
    | .no => d
    | .hold => d.holdMsg x
    | .got e => if d.mustWait x then d.holdMsg x else e

/-- A message selector that some ordering code has. -/
def selOk (m : MsgSel) : Bool :=
  decide (m.src < 8) && decide (m.dst < 8) && decide (m.line < 2 ^ 28) && decide (m.cl < 384)

/-! ## The order of service at a slice (R222, R230 to R233) -/

/-- Whether an entry of a partition's regulator names a master (R229, R230). -/
def Dev.names (d : Dev) (p e m : Nat) : Bool :=
  let v := d.reg (oPart p + 0x40 + 4 * e)
  bitAt v 9 && (decide (fld v 8 0 = m) || (decide (fld v 8 0 = 0x1F0) && decide (m < 0x180)))
/-- Credit of a master at a partition in one window, `none` when no entry names it (R232). -/
def Dev.creditOf (d : Dev) (p m : Nat) : Option Nat :=
  let mine := (List.range 16).filter fun e => d.names p e m
  if mine.isEmpty then none
  else some (mine.foldl (fun (t : Nat) e => t + d.rf (oPart p + 0x40 + 4 * e) 19 10 * 16 * 1024) 0)
/-- Bytes of a request at the regulator: a line read, the bytes of a store or the width of an atomic; an upgrade moves
none (DESIGN CHOICE, log entry 90). -/
def Req.bytes (r : Req) : Nat :=
  match r.pay with
  | .write m _ => ((List.range 128).filter fun i => m.getLsbD i).length
  | .atm t => t.n
  | _ => if r.kind = .upg then 0 else 128
/-- Number of a master's count of a window. -/
def tallyKey (p die m : Nat) : Nat := 512 * (8 * p + die) + m
/-- Bytes served to a master in the current window, and the bytes that waited at its start. -/
def Dev.regTally (d : Dev) (p die m : Nat) : Nat × Nat := NMap.get d.coh.tally (0, 0) (tallyKey p die m)
/-- Whether a request is served under a guarantee: its master, which for a cluster's request is the cluster, still holds credit
in the current window. A prefetch never is (R222). -/
def Dev.guarded (d : Dev) (p die : Nat) (r : Req) : Bool :=
  !r.prefetch && d.rb (oPart p + 0x10) 0 && (match d.creditOf p r.cl with
    | some c => decide ((d.regTally p die r.cl).1 < c)
    | none => false)
/-- The place of a waiting request in the order of R232, least first: its class, its deadline where EDF and the entry's RT let it
count, and its distance in the rotation among masters. -/
def Dev.place (d : Dev) (x : Msg) (r : Req) : Nat × Nat × Nat :=
  match d.partAt (lineAddr r.line) with
  | none => (2, 0, 0)
  | some p =>
    let s := d.home (lineAddr r.line)
    let far := (r.cl + 512 - 1 - NMap.get d.coh.turn 0 (64 * s.1 + s.2)) % 512
    if r.prefetch then (3, 0, far)
    else if d.guarded p s.1 r then
      match x.due with
      | some t =>
        if d.rb (oPart p + 0x10) 1 && (List.range 16).any fun e => d.names p e r.cl && d.rb (oPart p + 0x40 + 4 * e) 20 then (0, t, far)
        else (1, 0, far)
      | none => (1, 0, far)
    else (2, 0, far)
/-- Whether one place comes before another. -/
def placeLt (a b : Nat × Nat × Nat) : Bool :=
  decide (a.1 < b.1) || (decide (a.1 = b.1) && (decide (a.2.1 < b.2.1) || (decide (a.2.1 = b.2.1) && decide (a.2.2 < b.2.2))))
/-- A request that its home holds: its line heals (R396), or a host may hold part of it (R342). -/
def Dev.held (d : Dev) (line : Nat) : Bool := d.needsHeal line || d.healing line || d.hostHolds line
/-- Whether a request of the same line came in earlier: one that the home holds, before those that it took in later and those that it
holds not (R396, R397). -/
def Dev.cameFirst (d : Dev) (y x : Msg) : Bool := d.taken y && (!(d.taken x) || (d.before x).contains y)
/-- The slice serves this request next (R232): no Put and no recalled data wait at the slice, and no other request there comes
before it. Requests of one line that it has held go in the order in which they came. -/
def Dev.servesNext (d : Dev) (x : Msg) (r : Req) : Bool :=
  d.coh.net.all fun y =>
    !(decide (y ≠ x) && decide (y.dst = x.dst) && decide (y.dp = x.dp) && (d.taken y || d.arrived y)) || (match y.body with
      | .req q =>
        if q.kind = .putE ∨ q.kind = .putM ∨ q.kind = .putO then false
        else if q.line = r.line ∧ (d.taken x || d.taken y) = true then !(d.cameFirst y x)
        else d.held q.line || !(placeLt (d.place y q) (d.place x r))
      | .recallData _ _ => false
      | _ => true)
/-- A request is served (R232, R233): its bytes count in the window, a prefetch's apart, its master takes its turn, and one
past its deadline counts in CMN_REG_LATE. -/
def Dev.served (d : Dev) (x : Msg) (r : Req) : Dev :=
  match d.partAt (lineAddr r.line) with
  | none => d
  | some p =>
    let s := d.home (lineAddr r.line)
    let t := d.regTally p s.1 r.cl
    let d := d.onCoh fun c => { c with
      tally := if r.prefetch then c.tally else NMap.put c.tally (tallyKey p s.1 r.cl) (t.1 + r.bytes, t.2)
      turn := NMap.put c.turn (64 * s.1 + s.2) r.cl }
    match x.due with
    | some t =>
      let (now, d) := d.readDur s.1
      if t < now.toNat then d.bump (oPart p + 0x18) 0xFFFFFFFF 1 else d
    | none => d

/-! ## Requests at their home -/

/-- Whether the home has just refused a request of a device `d`: its Retry is on its way. -/
def Dev.refusedNow (e d : Dev) (r : Req) : Bool :=
  e.coh.net.any fun y => decide (y.line = r.line) && (match y.body with
    | .retry _ q => decide (q.src = r.src) && decide (q.cl = r.cl) && decide (q.kind = r.kind) && decide (y ∉ d.coh.net)
    | _ => false)
/-- A request of a kind arrives at its home slice. It waits there while the line heals (R396), while a host may hold part of
it (R342), while others come before it (R232), and while no way of its directory set can be freed (R239). -/
def Dev.takeReq (d : Dev) (m : MsgSel) (k : ReqKind) : Dev :=
  match d.msgAt m 1 with
  | none => d
  | some x =>
    match x.body with
    | .req r =>
      if r.kind ≠ k then d
      else if !r.ticket && !(d.taken x) && decide (d.buffersUsed m.line ≥ 64) then (d.receive x).refuse r
      else if d.needsHeal m.line then (d.holdMsg x).startHeal m.line
      else if d.healing m.line then d.holdMsg x
      else if d.hostHolds m.line then (d.holdMsg x).snoopHost m.line
      else if !(d.servesNext x r) then d
      else match (d.receive x).arrive r with
        | none => d.holdMsg x
        | some e =>
          -- a refused request is not served, and counts when it comes again
          (if e.refusedNow d r then e else e.served x r).healOver m.line
    | _ => d

/-- `RdS`. -/
def execRds (m : MsgSel) (s : State) : Host.Outcome State Fault Refusal := runDie (selOk m) s fun d => d.takeReq m .rdS
/-- `RdX`. -/
def execRdx (m : MsgSel) (s : State) : Host.Outcome State Fault Refusal := runDie (selOk m) s fun d => d.takeReq m .rdX
/-- `Upg`. -/
def execUpg (m : MsgSel) (s : State) : Host.Outcome State Fault Refusal := runDie (selOk m) s fun d => d.takeReq m .upg
/-- `RdU`. -/
def execRdu (m : MsgSel) (s : State) : Host.Outcome State Fault Refusal := runDie (selOk m) s fun d => d.takeReq m .rdU
/-- `WrT`. -/
def execWrt (m : MsgSel) (s : State) : Host.Outcome State Fault Refusal := runDie (selOk m) s fun d => d.takeReq m .wrT
/-- `Atm`. -/
def execAtm (m : MsgSel) (s : State) : Host.Outcome State Fault Refusal := runDie (selOk m) s fun d => d.takeReq m .atm

/-- A Put is accepted at once (R244). -/
def Dev.takePut (d : Dev) (m : MsgSel) (k : ReqKind) : Dev :=
  d.deliver m 1 fun d b => match b with
    | .req r => if r.kind = k then .got (d.putArrives r) else .no
    | _ => .no
/-- `PutE`. -/
def execPute (m : MsgSel) (s : State) : Host.Outcome State Fault Refusal := runDie (selOk m) s fun d => d.takePut m .putE
/-- `PutM`. -/
def execPutm (m : MsgSel) (s : State) : Host.Outcome State Fault Refusal := runDie (selOk m) s fun d => d.takePut m .putM
/-- `PutO`. -/
def execPuto (m : MsgSel) (s : State) : Host.Outcome State Fault Refusal := runDie (selOk m) s fun d => d.takePut m .putO

/-! ## Forwards, Recall and Inv at a die -/

/-- A forward reaches a die (Table 8.4): the line's data go to the requester and the home learns what the
die held; a line in the write-back buffer, or gone, is answered WbPending (R245). -/
def Dev.takeFwd (d : Dev) (m : MsgSel) (want : ReqKind) : Dev :=
  d.deliver m 2 fun d b => match b with
    | .fwd k to_ cl pf =>
      if k ≠ want then .no
      else match d.repLine m.dst m.line with
      | none => .got (d.send m.dst m.src m.line m.cl .wbPending)
      | some x =>
        let g : Grant := match k with
          | .rdS => .s
          | .rdX => .m
          | _ => .none
        let d := (d.send m.dst to_ m.line cl (.data g true x.d pf)).send m.dst m.src m.line m.cl (.fwdAck x.st)
        if k = .rdX then .got ((d.dropRepLine m.dst m.line).countLeave m.dst x)
        else .got (d.onRepLine m.dst m.line fun y => { y with st := if y.st = .e ∨ y.st = .s then .s else .o })
    | _ => .no
/-- `FwdS`. -/
def execFwds (m : MsgSel) (s : State) : Host.Outcome State Fault Refusal := runDie (selOk m) s fun d => d.takeFwd m .rdS
/-- `FwdX`. -/
def execFwdx (m : MsgSel) (s : State) : Host.Outcome State Fault Refusal := runDie (selOk m) s fun d => d.takeFwd m .rdX
/-- `FwdU`. -/
def execFwdu (m : MsgSel) (s : State) : Host.Outcome State Fault Refusal := runDie (selOk m) s fun d => d.takeFwd m .rdU
/-- `Recall`: the die returns the data and drops the line. -/
def execRecall (m : MsgSel) (s : State) : Host.Outcome State Fault Refusal := runDie (selOk m) s fun d =>
  d.deliver m 2 fun d b => match b with
    | .recallMsg => match d.repLine m.dst m.line with
      | none => .got (d.send m.dst m.src m.line m.cl .wbPending)
      | some x =>
        let d := (d.dropRepLine m.dst m.line).countLeave m.dst x
        .got (d.send m.dst m.src m.line m.cl (.recallData x.d (decide (x.st = .m ∨ x.st = .o))))
    | _ => .no
/-- `Inv`: the die drops the line, without a write-back from O (R243), and acknowledges. -/
def execInv (m : MsgSel) (s : State) : Host.Outcome State Fault Refusal := runDie (selOk m) s fun d =>
  d.deliver m 0 fun d b => match b with
    | .inv =>
      let d := match d.repLine m.dst m.line with
        | some x => (d.dropRepLine m.dst m.line).countLeave m.dst x
        | none => d
      .got (d.send m.dst m.src m.line m.cl .invAck)
    | _ => .no

/-! ## Answers at the home -/

/-- `InvAck`. -/
def execInvack (m : MsgSel) (s : State) : Host.Outcome State Fault Refusal := runDie (selOk m) s fun d =>
  d.deliver m 0 fun d b => match b with
    | .invAck => .got (d.onTxn m.line fun t => { t with acks := eraseFirst t.acks fun x => decide (x = m.src) })
    | _ => .no
/-- `FwdAck`. -/
def execFwdack (m : MsgSel) (s : State) : Host.Outcome State Fault Refusal := runDie (selOk m) s fun d =>
  d.deliver m 0 fun d b => match b with
    | .fwdAck st => .got (d.fwdAcked m.line st)
    | _ => .no
/-- `RecallData`: data that differ from home, or replace a word that has failed there (R395), are written there; a reservation of
the line, which the owner has stored into since, ends (R253). -/
def execRecalldata (m : MsgSel) (s : State) : Host.Outcome State Fault Refusal := runDie (selOk m) s fun d =>
  d.deliver m 3 fun d b => match b with
    | .recallData x dirty =>
      let d := if dirty then d.killResv m.line else d
      let d := if dirty || !(d.badWords m.line).isEmpty then d.putLine .com (lineAddr m.line) x else d
      .got (d.onTxn m.line fun t => { t with recl := false })
    | _ => .no
/-- `WbPending`: the home waits for the Put, unless it has come already (R245). -/
def execWbpending (m : MsgSel) (s : State) : Host.Outcome State Fault Refusal := runDie (selOk m) s fun d =>
  d.deliver m 3 fun d b => match b with
    | .wbPending => .got (d.onTxn m.line fun t => { t with fwd := false, recl := false, wb := !t.putSeen })
    | _ => .no

/-! ## Answers at the requester -/

/-- Give arrived data to the registers that wait for a read of the line: of a die, or the first of a
cluster. -/
def Dev.giveDie (d : Dev) (die line : Nat) (x : LineData) : Dev :=
  { d with clusters := d.clusters.map fun c =>
      if dieOf c.1 = die then
        (c.1, { c.2 with misses := c.2.misses.map fun m =>
          if m.line = line ∧ m.data.isNone ∧ m.isRead then { m with data := some x } else m })
      else c }
/-- The first register of a cluster that waits for a read of the line. -/
def Dev.giveCl (d : Dev) (n line : Nat) (x : LineData) : Dev :=
  let here := fun m : Miss => decide (m.line = line) && m.data.isNone && m.isRead
  d.onCl n fun c => { c with misses := updFirst c.misses here fun m => { m with data := some x } }
/-- The L1R of a cluster takes a line that it prefetches (R222), unless it has been invalidated since. -/
def Cluster.l1rTake (c : Cluster) (line : Nat) (x : LineData) : Cluster :=
  match c.l1rPf.find? fun y => decide (y.1 = line) with
  | none => c
  | some y =>
    let c := { c with l1rPf := c.l1rPf.filter fun y => decide (y.1 ≠ line) }
    if y.2 then c.l1rFill line x else c
/-- Fill the L1Rs of a die that prefetch a line. -/
def Dev.giveL1R (d : Dev) (die line : Nat) (x : LineData) : Dev :=
  { d with clusters := d.clusters.map fun c => if dieOf c.1 = die then (c.1, c.2.l1rTake line x) else c }
/-- A line with a grant enters the replica cache of a die. A die that no longer has an active one sends the
line straight home again (R215). -/
def Dev.grantLine (d : Dev) (die line : Nat) (st : RepSt) (x : LineData) : Dev :=
  match d.replicaOf die with
  | some _ => d.fillLine die line st x
  | none => d.evictLine die { line := line, st := st, d := x, cls := 1, hit := true }
/-- The cache no longer prefetches a line. -/
def Dev.endPf (d : Dev) (die line : Nat) : Dev :=
  d.setRep die { d.rep die with pf := (d.rep die).pf.filter fun l => decide (l ≠ line) }
/-- Whether a line with a grant finds a way of its set. -/
def Dev.hasRoom (d : Dev) (die line : Nat) : Bool :=
  match d.replicaOf die with
  | some p => decide (d.fillRoom die p line ≠ .wait)
  | none => true

/-- A response of an old placement, on its way to cluster n, reaches the new one: an entry of its late-response log, and the data are not used
(R362, Table 12.11). -/
def Dev.lateArrive (d : Dev) (n kind addr : Nat) : Dev :=
  let here := fun x : LateEntry => decide (x.kind = kind) && decide (x.val = BitVec.ofNat 64 addr)
  match (d.cl n).lost.find? here with
  | none => d
  | some x => (d.onCl n fun c => { c with lost := eraseFirst c.lost here }).onCl x.to_ fun c => { c with late := c.late ++ [x] }
/-- A line that arrives at a die is late for the clusters of the die that asked for it before they moved. -/
def Dev.lateLine (d : Dev) (die line : Nat) : Dev :=
  ((d.clusters.filter fun c => decide (dieOf c.1 = die)).map Prod.fst).foldl (fun (d : Dev) n => d.lateArrive n 1 (lineAddr line)) d

/-- A line granted in S or E reaches a die: its replica cache, and every cluster of the die that waits for it. -/
def Dev.readData (d : Dev) (die line : Nat) (st : RepSt) (x : LineData) : Dev :=
  (((((d.endPf die line).grantLine die line st x).giveDie die line x).giveL1R die line x).lateLine die line)
/-- A line granted in M reaches a die for a cluster, with the data of its buffered store laid over it. A copy that the die
keeps until then supplies the data of a grant without them, and goes home where the die's cache has been disabled. -/
def Dev.ownData (d : Dev) (die n line : Nat) (withData : Bool) (x : LineData) : Dev :=
  let old := d.repLine die line
  let x0 : LineData := if withData then x else match old with
    | some y => y.d
    | none => x
  let x1 : LineData := match (d.cl n).buf.find? fun b => decide (b.line = line) with
    | some b => storeInto x0 b.mask b.data
    | none => x0
  let d := match old with
    | some _ =>
      let d := (d.onRepLine die line fun y => { y with st := .m, d := x1 }).touchLine die line
      match d.replicaOf die, d.repLine die line with
      | none, some y => d.evictLine die y
      | _, _ => d
    | none => d.grantLine die line .m x1
  let d := (((d.giveDie die line x1).giveL1R die line x1).lateLine die line).lateArrive n 3 (lineAddr line)
  let own := fun y : Miss => decide (y.line = line) && decide (y.kind = .own)
  (((d.notePage line).bufDone n line).freeMiss n own).settle n
/-- Data reach the requester (R242). A line that finds no way of its set free waits (log entry 87). -/
def Dev.takeData (d : Dev) (m : MsgSel) : Dev :=
  d.deliver m 3 fun d b => match b with
    | .data g withData x pf =>
      match g with
      | .none =>
        let late := (d.cl m.cl).lost.any fun y => decide (y.kind = 1) && decide (y.val = BitVec.ofNat 64 (lineAddr m.line))
        .got ((if pf then d else if late then d.lateArrive m.cl 1 (lineAddr m.line) else d.giveCl m.cl m.line x).giveL1R m.dst m.line x)
      | .s => if d.hasRoom m.dst m.line then .got (d.readData m.dst m.line .s x) else .hold
      | .e => if d.hasRoom m.dst m.line then .got (d.readData m.dst m.line .e x) else .hold
      | .m => if (d.repLine m.dst m.line).isSome || d.hasRoom m.dst m.line then .got (d.ownData m.dst m.cl m.line withData x) else .hold
    | _ => .no
/-- `Data`. -/
def execData (m : MsgSel) (s : State) : Host.Outcome State Fault Refusal := runDie (selOk m) s fun d => d.takeData m

/-- `Comp`: a store that went through has been performed, or an atomic returns its values; those of an agent that has ended
since are discarded (R113), and its flags are recorded all the same (R195). -/
def execComp (m : MsgSel) (s : State) : Host.Outcome State Fault Refusal := runDie (selOk m) s fun d =>
  d.deliver m 3 fun d b => match b with
    | .comp r res bad => match r.pay with
      | .atm t =>
        let d := d.lateArrive m.cl 2 t.addr
        let here := fun y : Miss => decide (y.kind = .atom t)
        match (d.cl m.cl).misses.find? here with
        | none => .got (d.pumpAll m.cl)
        | some y =>
          let d := d.freeMiss m.cl here
          .got ((if y.agents.isEmpty then d.atomFlags t.by_ t res else d.giveAtom t.by_ t res bad).pumpAll m.cl)
      | _ =>
        let d := d.lateArrive m.cl 3 (lineAddr m.line)
        let here := fun y : Miss => decide (y.line = m.line) && decide (y.kind = .through)
        .got ((((d.bufDone m.cl m.line).freeMiss m.cl here).pumpAll m.cl).settle m.cl)
    | _ => .no
/-- `WbAck`: the write-back buffer entry is freed, and with it the die's credit at the home slice (R244). -/
def execWback (m : MsgSel) (s : State) : Host.Outcome State Fault Refusal := runDie (selOk m) s fun d =>
  d.deliver m 3 fun d b => match b with
    | .wbAck =>
      let r := d.rep m.dst
      .got ((d.setRep m.dst { r with
        wb := eraseFirst r.wb fun x => decide (x.line = m.line)
        sent := eraseFirst r.sent fun l => decide (l = m.line) }).sendPuts m.dst)
    | _ => .no
/-- A prefetch is over without data (R222, R247). The loads of its die that wait for its line ask for it themselves. -/
def Dev.dropPrefetch (d : Dev) (die n line : Nat) : Dev :=
  let d := (d.endPf die line).onCl n fun c => { c with l1rPf := c.l1rPf.filter fun y => decide (y.1 ≠ line) }
  if d.fillOut die line then
    match d.clusters.find? fun c => decide (dieOf c.1 = die) && c.2.misses.any fun y => decide (y.line = line) && y.data.isNone && y.isRead with
    | some c => d.sendReq c.1 line .rdS .none false
    | none => d
  else d
/-- `Retry`: with a ticket the requester waits for Wake; without one the request joins the retry queue (R247); a prefetch is
dropped. -/
def execRetry (m : MsgSel) (s : State) : Host.Outcome State Fault Refusal := runDie (selOk m) s fun d =>
  d.deliver m 3 fun d b => match b with
    | .retry ticket r =>
      if r.prefetch then .got (if r.kind = .rdS then d.dropPrefetch r.src r.cl r.line
        else d.onCl r.cl fun c => { c with l1rPf := c.l1rPf.filter fun y => decide (y.1 ≠ r.line) })
      else if ticket then .got d
      else .got (d.onCoh fun c => { c with retryq := c.retryq ++ [r] })
    | _ => .no
/-- `Wake`: the requester re-sends, into its reserved buffer (R247), once the line has left its write-back buffer (R242). -/
def execCohWake (m : MsgSel) (s : State) : Host.Outcome State Fault Refusal := runDie (selOk m) s fun d =>
  d.deliver m 3 fun d b => match b with
    | .wake r => if d.inWb r.src r.line then .hold else .got (d.send r.src (d.homeDie r.line) r.line r.cl (.req { r with ticket := true }))
    | _ => .no
/-- A request refused without a ticket is sent again (R247): the oldest of its die's queue for the slice, once a
reserved buffer is free there, and its line has left the write-back buffer (R242). -/
def execRetryResend (m : MsgSel) (s : State) : Host.Outcome State Fault Refusal := runDie (selOk m) s fun d =>
  let slice := d.home (lineAddr m.line)
  match d.coh.retryq.find? fun r => decide (r.src = m.src) && decide (d.home (lineAddr r.line) = slice) with
  | none => d
  | some r =>
    if r.line = m.line ∧ r.cl = m.cl ∧ d.inWb r.src r.line = false ∧ d.reservedUsed m.src m.line + d.resent m.src m.line < 8 then
      (d.onCoh fun c => { c with retryq := eraseFirst c.retryq fun x => decide (x = r) }).send r.src slice.1 r.line r.cl (.req r)
    else d
/-- A kill notice ends the reservation of its holder (R253). One that was sent for an earlier reservation finds the present one
recorded at the home, and ends nothing (R276). -/
def execKillNotice (m : MsgSel) (s : State) : Host.Outcome State Fault Refusal := runDie (selOk m) s fun d =>
  d.deliver m 0 fun d b => match b with
    | .kill a => match d.resvOf a with
      | some r => if r.commons ∧ d.granule (lineOf r.addr) = d.granule m.line ∧
          (d.coh.resv.any fun h => decide (h.a = a) && decide (h.line = m.line)) = false then .got (d.endResv a) else .got d
      | none => .got d
    | _ => .no

/-! ## Cluster side -/

/-- A committed store leaves the store queue of a core (R259). -/
def execStoreQueueDrain (n : Nat) (core : CoreSel) (s : State) : Host.Outcome State Fault Refusal :=
  runDie (decide (n < 384)) s fun d =>
    if d.present n then
      (d.drainOne n (match core with
        | .s => 0
        | .v0 => 1
        | .v1 => 2)).settle n
    else d
/-- A line leaves the cluster store buffer to be performed (R259). -/
def execStoreBufferPerform (n line : Nat) (s : State) : Host.Outcome State Fault Refusal :=
  runDie (decide (n < 384) && decide (line < 2 ^ 28)) s fun d =>
    if d.present n then (d.performLine n line).settle n else d
/-- A Commons line reaches the cluster (R223). -/
def execMissReturn (n line : Nat) (s : State) : Host.Outcome State Fault Refusal :=
  runDie (decide (n < 384) && decide (line < 2 ^ 28)) s fun d => if d.present n then d.missReturn n line else d
/-- 4,096 steps without a store to the stream disengage a tracker (R221). -/
def execStreamTrackerTimeout (n k : Nat) (s : State) : Host.Outcome State Fault Refusal :=
  runDie (decide (n < 384) && decide (k < 8)) s fun d => d.onCl n fun c => { c with trackers := c.trackers.eraseIdx k }
/-- A prefetch that has waited 1,024 steps at its home die is dropped (R222): one still in the fabric never is (R37). -/
def execPrefetchDrop (die line : Nat) (s : State) : Host.Outcome State Fault Refusal :=
  runDie (decide (die < 8) && decide (line < 2 ^ 28)) s fun d =>
    let here := fun x : Msg => decide (x.src = die) && decide (x.line = line) && (d.taken x || d.arrived x) && (match x.body with
      | .req r => r.prefetch
      | _ => false)
    match d.coh.net.find? here with
    | none => d
    | some x =>
      let d := d.onCoh fun c => { c with net := eraseFirst c.net here }
      match x.body with
      | .req r => if r.kind = .rdS then d.dropPrefetch die x.cl line
        else d.onCl x.cl fun c => { c with l1rPf := c.l1rPf.filter fun y => decide (y.1 ≠ line) }
      | _ => d

end Sys2Proof.Machine
end

