-- ==== Sys2Proof/Machine/LinkOps.lean ====
section
/-! DEFINITION. The sending side of the links (R318, R319, R323, R324): routes, remote requests and what becomes of them, and
what the groups share. -/
namespace Sys2Proof.Machine

/-! ## Routes (R318) -/

/-- Whether a route field names a link that is up and has not been tried. -/
def Dev.usable (d : Dev) (l : Nat) (tried : List Nat) : Bool := decide (l < 64) && d.linkUp l && !(tried.contains l)
/-- The link that R318 gives for a target. -/
def Dev.pickLink (d : Dev) (dst lineIdx chan : Nat) (tried : List Nat) : Option Nat :=
  let o := oRoute dst
  let p := d.rf o 6 0
  let a := d.rf o 13 7
  if !(d.rb o 27) then none
  else match d.usable p tried, d.usable a tried with
    | true, true => some (if (lineIdx + chan) % 2 = 1 then a else p)
    | true, false => some p
    | false, true => some a
    | false, false => none
/-- The link and whether it is a relay's: one relay at most. -/
def Dev.routeOf (d : Dev) (dst lineIdx chan : Nat) (tried : List Nat) (relayed : Bool) : Option (Nat × Bool) :=
  match d.pickLink dst lineIdx chan tried with
  | some l => some (l, relayed)
  | none =>
    let o := oRoute dst
    if d.rb o 27 && d.rb o 26 && !relayed then (d.pickLink (d.rf o 25 14) lineIdx chan []).map fun l => (l, true) else none

/-- Line index of a message's address, which chooses between two links. -/
def msgLine (m : LinkMsg) : Nat := m.addr.toNat / 128
/-- Send a response or a control message: with no route it is dropped. -/
def Dev.sendMsg (d : Dev) (m : LinkMsg) : Dev :=
  match d.routeOf m.dst.toNat (msgLine m) m.chan.toNat [] false with
  | some (l, _) => d.onWire l m
  | none => d

/-! ## Channels of the engines -/

/-- Key of a channel among `chans`. -/
def chKey (eng ch : Nat) : Nat := if eng = 1 then 1000 + ch else ch
/-- A channel of an engine: 0 Porter, 1 gather. -/
def Dev.chan (d : Dev) (eng ch : Nat) : Channel := NMap.get d.chans Channel.empty (chKey eng ch)
/-- Change a channel. -/
def Dev.onChan (d : Dev) (eng ch : Nat) (f : Channel → Channel) : Dev :=
  { d with chans := NMap.put d.chans (chKey eng ch) (f (d.chan eng ch)) }
/-- Change a command of a channel. -/
def Dev.onCmd (d : Dev) (eng ch k : Nat) (f : EngCmd → EngCmd) : Dev :=
  d.onChan eng ch fun c => { c with cmds := c.cmds.map fun x => if x.k = k then f x else x }
/-- A command of a channel. -/
def Dev.engCmd (d : Dev) (eng ch k : Nat) : Option EngCmd := (d.chan eng ch).cmds.find? fun x => decide (x.k = k)
/-- The die of an engine channel. -/
def chanDie (eng ch : Nat) : Nat := if eng = 1 then ch / 16 else ch / 32
/-- Whether a status halts the channel (Table 10.3). -/
def haltsChannel (s : Nat) : Bool :=
  !(decide (s = 0) || decide (s = 0x31) || decide (s = 0x41) || decide (s = 0x3A) || decide (s = 0x49) || decide (s = 0x3B)
    || decide (s = 0x4A))
/-- The device that a descriptor writes to: 4,096 is this one, and 4,097 none, the host. -/
def Dev.writesTo (d : Dev) (desc : BitVec 512) : Nat :=
  let id := bytesAt desc 16 8 / 2 ^ 48 % 4096
  if bytesAt desc 3 1 = 3 then 4097
  else if bytesAt desc 3 1 = 4 ∧ !(d.idValid && decide (d.ownId = id)) then id else 4096
/-- Writes of a channel to a device have completed with error: no later milestone of it is performed there (R290). -/
def Channel.spoil (c : Channel) (dev : Nat) : Channel := { c with bad := if c.bad.contains dev then c.bad else c.bad ++ [dev] }
/-- A descriptor of a command fails: what it waits for is given up, and no later descriptor of the chain starts (R289). A
gather command ends with its first failure. -/
def Dev.failDesc (d : Dev) (eng ch k : Nat) (f : Fail) : Dev :=
  let d := d.onCmd eng ch k fun x =>
    { x with fails := x.fails ++ [f], next := none, healing := none, fencing := false
             flights := if eng = 1 then [] else x.flights.filter fun y => decide (y.pos ≠ f.pos)
             todo := [], fetch := [], rows := [] }
  if eng = 1 then d.onChan eng ch fun c => { c with unsent := c.unsent.filter fun r => decide (r.k ≠ k) } else d

/-! ## Remote requests (R318, R319, R323) -/

/-- Change the list of requests that are out. -/
def Dev.onRem (d : Dev) (f : List RemReq → List RemReq) : Dev := d.onLinks fun b => { b with rem := f b.rem }
/-- Whether a request is the one a channel, target and number name. -/
def RemReq.is (r : RemReq) (chan dst req : Nat) : Bool :=
  decide (r.chan = chan) && decide (r.dst = dst) && decide (r.req = req)
/-- Status of a request that ends in error, by kind of engine: LINK_ERROR or MILESTONE_BLOCKED. -/
def linkError (eng : Nat) : Nat := if eng = 1 then 0x47 else 0x36

/-- The error of a request in its descriptor. -/
def RemReq.failure (r : RemReq) (status : Nat) : Fail :=
  { pos := r.pos, status := status, tag := r.tag, addr := r.msg.addr.toNat, id := r.dst, space := 4 }

/-- A channel that has no request to a target left tells it so (R323). -/
def Dev.closeIfIdle (d : Dev) (eng ch chan dst : Nat) : Dev :=
  if d.links.rem.any (fun r => decide (r.chan = chan) && decide (r.dst = dst)) ||
      (d.chan eng ch).unsent.any fun r => decide (r.dst = dst) then d
  else d.sendMsg (plainMsg 5 chan dst d.ownId 0 0)

/-- The descriptor that a read of a peer serves. -/
def Dev.flightDesc (d : Dev) (r : RemReq) : Option (BitVec 512) :=
  match d.engCmd r.eng r.ch r.k with
  | none => none
  | some c => (c.flights.find? fun f => decide (f.pos = r.pos)).map Flight.desc
/-- The message of a request has not been sent: it waits for credit, or it was refused. -/
def Dev.unsentRem (d : Dev) (r : RemReq) : Bool :=
  match r.link with
  | some l => (d.link l).sendq.contains r.msg
  | none => r.refused
/-- Whether a request that ends with a status is a write which could not be delivered (R291): an answer that says uncorrectable
and a blocked milestone are none. -/
def RemReq.undelivered (r : RemReq) (status : Nat) : Bool :=
  decide (r.msg.kind ≠ 3) && decide (status ≠ 0x38) && decide (status ≠ 0x35) && decide (status ≠ 0x46)
/-- A request completes with error (R319, R324): its descriptor fails, and with a write that could not be delivered so do the
fences that wait for it (R291); ABORT goes to the target. A milestone of the channel for that target that has not been sent is never sent; one that has been sent is dropped
there or performed, and completes by its WACK or at its attempt timeout. -/
def Dev.failRem (d : Dev) (r : RemReq) (status : Nat) : Dev :=
  let mine := fun x : RemReq => decide (x.chan = r.chan) && decide (x.dst = r.dst) && decide (x.eng = r.eng)
  let stones := d.links.rem.filter fun x => mine x && decide (x.msg.kind = 4) && decide (x ≠ r) && d.unsentRem x
  let d := stones.foldl (fun d x => match x.link with
    | some l => d.onLink l fun y => { y with sendq := eraseFirst y.sendq fun m => decide (m = x.msg) }
    | none => d) d
  let d := d.onRem fun l => l.filter fun x => decide (x ≠ r) && !(stones.contains x)
  let lost := if r.msg.kind = 3 then (d.flightDesc r).map d.writesTo else none
  let d := (d.failDesc r.eng r.ch r.k (r.failure status)).onChan r.eng r.ch fun c =>
    match lost with
    | some x => (c.spoil r.dst).spoil x
    | none => c.spoil r.dst
  let d := stones.foldl (fun d x => d.failDesc x.eng x.ch x.k (x.failure 0x38)) d
  let fences := if r.undelivered status then (d.chan r.eng r.ch).cmds.filter EngCmd.fencing else []
  let d := fences.foldl (fun d c => d.failDesc r.eng r.ch c.k
    { pos := c.count, status := 0x37, tag := c.lastTag, addr := r.msg.addr.toNat, id := r.dst, space := 4 }) d
  (d.sendMsg (plainMsg 6 r.chan r.dst d.ownId 0 0)).closeIfIdle r.eng r.ch r.chan r.dst
/-- Status of a request of unknown fate at its attempt timeout, or of one with no way left (R319): a milestone that an ABORT
may have dropped ends with MILESTONE_BLOCKED (R324), and a target without a valid route gives UNMAPPED (R318). -/
def Dev.remStatus (d : Dev) (r : RemReq) : Nat :=
  if r.msg.kind = 4 ∧ (d.chan r.eng r.ch).bad.contains r.dst then 0x38
  else if d.rb (oRoute r.dst) 27 then linkError r.eng else if r.eng = 1 then 0x43 else 0x33

/-- Sends allowed for one request (Table 11.6). -/
def Dev.maxSends (d : Dev) : Nat := if d.rb oDevId 25 then 2 else 3

/-- Send a request that is in the list on the next route (R318, R319), or complete it with error. -/
def Dev.sendRem (d : Dev) (r : RemReq) : Dev :=
  if r.sends ≥ d.maxSends ∨ (r.msg.kind = 4 ∧ (d.chan r.eng r.ch).bad.contains r.dst) then d.failRem r (d.remStatus r)
  else match d.routeOf r.dst (msgLine r.msg) r.chan r.tried r.relayed with
    | none => d.failRem r (d.remStatus r)
    | some (l, rel) =>
      let r' := { r with sends := r.sends + 1, tried := r.tried ++ [l], relayed := rel, link := some l, refused := false }
      (d.onRem fun x => x.map fun y => if y = r then r' else y).onWire l r.msg

/-- Requests of a channel that are out. -/
def Dev.remOf (d : Dev) (eng ch : Nat) : List RemReq :=
  d.links.rem.filter fun r => decide (r.eng = eng) && decide (r.ch = ch)

/-- Number a request and send it for the first time (R323). A milestone carries the number of earlier requests that
are still out, and is never sent when an earlier write of the channel to the target has failed (R290). -/
def Dev.startRem (d : Dev) (r : RemReq) : Dev :=
  if r.msg.kind = 4 ∧ (d.chan r.eng r.ch).bad.contains r.dst then d.failDesc r.eng r.ch r.k (r.failure 0x38)
  else
    let key := 256 * r.dst + r.chan
    let no := NMap.get d.links.reqNo 0 key
    let out := (d.links.rem.filter fun x => decide (x.chan = r.chan) && decide (x.dst = r.dst)).map fun x =>
      (no + 65536 - x.req) % 65536
    let depth := if r.msg.kind = 4 then out.foldl max 0 else 0
    let r := { r with req := no, msg := { r.msg with req := BitVec.ofNat 16 no, depth := BitVec.ofNat 12 depth } }
    let d := d.onLinks fun b => { b with reqNo := NMap.put b.reqNo key ((no + 1) % 65536), rem := b.rem ++ [r] }
    d.sendRem r

/-- Whether an earlier contribution to the line of a canonical reduction is still to be performed (R288). -/
def RemReq.waitsFor (r x : RemReq) : Bool :=
  r.canon && decide (x.k = r.k) && decide (x.pos = r.pos) && decide (x.msg.addr = r.msg.addr) && decide (x.j < r.j)
/-- A place in a channel's stream comes before another. -/
def streamBefore (k pos k' pos' : Nat) : Bool := decide (k < k') || (decide (k = k') && decide (pos < pos'))
/-- A milestone waits until every earlier write of its channel to its target has its number (R290): none of them is unsent or
still to be formed. -/
def Dev.stoneWaits (d : Dev) (eng ch : Nat) (r : RemReq) : Bool :=
  decide (r.msg.kind = 4) &&
  ((d.chan eng ch).unsent.any (fun x => decide (x.dst = r.dst) && streamBefore x.k x.pos r.k r.pos) ||
   (d.chan eng ch).cmds.any fun c => c.flights.any fun f => decide (d.writesTo f.desc = r.dst) && streamBefore c.k f.pos r.k r.pos)
/-- Requests of a kind of engine that are out from a die, with its writes to host memory that await GO. -/
def Dev.dieRems (d : Dev) (eng die : Nat) : Nat :=
  (d.links.rem.filter fun r => decide (r.eng = eng) && decide (chanDie eng r.ch = die)).length +
  (d.hostWr.filter fun w => decide (w.eng = eng) && decide (chanDie eng w.ch = die)).length
/-- The same of a channel. -/
def Dev.chanRems (d : Dev) (eng ch : Nat) : Nat :=
  (d.remOf eng ch).length + (d.hostWr.filter fun w => decide (w.eng = eng) && decide (w.ch = ch)).length
/-- Fewer than 2,048 requests of a channel, and 16,384 of its Porter, are out (R285). -/
def Dev.chanRoom (d : Dev) (eng ch : Nat) : Bool :=
  decide (d.chanRems eng ch < 2048) && (decide (eng = 1) || decide (d.dieRems eng (chanDie eng ch) < 16384))
/-- The oldest request of a channel to a target is less than 2,048 numbers back, so that no DEPTH exceeds 2,048 (R323). -/
def Dev.spanRoom (d : Dev) (r : RemReq) : Bool :=
  let no := NMap.get d.links.reqNo 0 (256 * r.dst + r.chan)
  (d.links.rem.filter fun x => decide (x.chan = r.chan) && decide (x.dst = r.dst)).all fun x => decide ((no + 65536 - x.req) % 65536 < 2048)
/-- A request put into the stream order of its milestones. -/
def inStream (r : RemReq) : List RemReq → List RemReq
  | [] => [r]
  | x :: xs => if streamBefore r.k r.pos x.k x.pos then r :: x :: xs else x :: inStream r xs
/-- Send the waiting requests of a channel that can be sent, milestones last and in the order of the stream (R290). -/
def Dev.pumpChan (d : Dev) (eng ch : Nat) : Dev :=
  let all := (d.chan eng ch).unsent
  let stones := (all.filter fun r => decide (r.msg.kind = 4)).foldl (fun l r => inStream r l) []
  (all.filter (fun r => decide (r.msg.kind ≠ 4)) ++ stones).foldl (fun d r =>
    let here := (d.chan eng ch).unsent
    if here.contains r && d.chanRoom eng ch && d.spanRoom r && !((d.remOf eng ch).any r.waitsFor) && !(here.any r.waitsFor) &&
        !(d.stoneWaits eng ch r) then
      (d.onChan eng ch fun c => { c with unsent := eraseFirst c.unsent fun x => decide (x = r) }).startRem r
    else d) d
/-- Send what waits in the channels of an engine's die, the given channel first. -/
def Dev.pumpDie (d : Dev) (eng ch : Nat) : Dev :=
  let others := (d.chans.filter fun x => decide (x.1 ≠ chKey eng ch) && !x.2.unsent.isEmpty &&
    (if eng = 1 then decide (1000 ≤ x.1 ∧ (x.1 - 1000) / 16 = ch / 16) else decide (x.1 < 1000 ∧ x.1 / 32 = ch / 32))).map Prod.fst
  others.foldl (fun (d : Dev) k => d.pumpChan eng (if eng = 1 then k - 1000 else k)) (d.pumpChan eng ch)

/-- The far end has acknowledged frames up to `ack` (R312): they leave the replay buffer, and what becomes of their
requests is known only from a response. -/
def Dev.ackFrames (d : Dev) (l : Nat) (ack : BitVec 12) : Dev :=
  let x := d.link l
  match x.replay.findIdx? fun f => decide (f.seq = ack) with
  | none => d
  | some i =>
    let gone := ((x.replay.take (i + 1)).map TxFrame.msgs).flatten
    let d := d.setLink l { x with replay := x.replay.drop (i + 1) }
    d.onRem fun rs => rs.map fun r => if r.link = some l ∧ gone.contains r.msg then { r with link := none } else r

/-- Forward a message that was relayed once over this device's own route (R318); a request that cannot be forwarded is answered
NAK_UNDELIV (R319). -/
def Dev.forward (d : Dev) (m : LinkMsg) : Dev :=
  match d.pickLink m.dst.toNat (msgLine m) m.chan.toNat [] with
  | some k => d.onWire k m
  | none =>
    if msgLv m = 1 then d.sendMsg (plainMsg 9 m.chan.toNat m.src.toNat m.dst.toNat m.addr.toNat m.req.toNat) else d
/-- A message of a link that went down, which the far end has not acknowledged: a message of another device is forwarded
again, and never relayed twice; a request of this device's own is sent again only as its entry says; any other message goes
by another route if there is one. -/
def Dev.rehand (d : Dev) (m : LinkMsg) : Dev :=
  if m.src.toNat ≠ d.ownId then d.forward m else if msgLv m = 1 then d else d.sendMsg m
/-- A link goes down (R315): requests that the far end has not acknowledged are known undelivered, and are sent on
the next route (R319). `fault` says that it failed: DOWN is set then. -/
def Dev.linkDown (d : Dev) (l : Nat) (fault : Bool) : Dev :=
  let x := d.link l
  let waiting := ((x.replay.map TxFrame.msgs).flatten) ++ x.sendq
  let mine := d.links.rem.filter fun r => decide (r.link = some l)
  let d := ((d.setLink l { Link.reset with badLanes := x.badLanes, rxq := x.rxq, trained := x.trained }).setRf (oLink l + 4) 5 0 0).setRb (oLink l + 4) 29 false
  let d := if fault then d.linkEvent l 1 else d
  let d := mine.foldl (fun d r => if d.links.rem.contains r then d.sendRem r else d) d
  let d := if l ≥ 64 then d else (waiting.filter fun m => !(mine.any fun r => decide (r.msg = m))).foldl Dev.rehand d
  mine.foldl (fun d r => d.pumpDie r.eng r.ch) d

/-! ## Groups -/

/-- A group that some device has (R329). -/
def grpOk (g : Nat) : Bool := decide (g < 64)
/-- What the device holds for a group. -/
def Dev.grpRt (d : Dev) (g : Nat) : GrpRt := NMap.get d.links.grps GrpRt.reset g
/-- Change what the device holds for a group. -/
def Dev.onGrpRt (d : Dev) (g : Nat) (f : GrpRt → GrpRt) : Dev :=
  d.onLinks fun b => { b with grps := NMap.put b.grps g (f (NMap.get b.grps GrpRt.reset g)) }
/-- KIND of a group; 0 is off. -/
def Dev.grpKind (d : Dev) (g : Nat) : Nat := d.rf (oGrp g) 1 0
/-- FUNC of a group. -/
def Dev.grpFunc (d : Dev) (g : Nat) : Nat := d.rf (oGrp g) 15 8
/-- SIZE of a group. -/
def Dev.grpSize (d : Dev) (g : Nat) : Nat := d.rf (oGrp g) 28 16
/-- This device's member index. -/
def Dev.grpSelf (d : Dev) (g : Nat) : Nat := d.rf (oGrp g + 4) 12 0
/-- Member index of the head. -/
def Dev.grpHead (d : Dev) (g : Nat) : Nat := d.rf (oGrp g + 4) 25 13
/-- Whether this device is the head of a group (R330). -/
def Dev.isHead (d : Dev) (g : Nat) : Bool := decide (d.grpHead g = d.grpSelf g)
/-- The device that holds a member index. -/
def GrpRt.device (x : GrpRt) (i : Nat) : Option Nat := (x.members[i]?).map fun e => e % 4096
/-- The span of a member. -/
def GrpRt.span (x : GrpRt) (i : Nat) : Nat := x.members.getD i 0 / 4096 % 4096
/-- The present member with the lowest index (R330). -/
def GrpRt.headOf (x : GrpRt) : Nat :=
  ((List.range x.members.length).find? fun i => !(x.lost.contains i)).getD 0

/-- A collective control notice to a member: what it says, and a number that it names (log entry 95). 0 READY, 1 GO, 2 the
members disagree, 3 a member is lost, 4 abandoned, 6 a collective has failed, 8 abandoned by a partner. -/
def Dev.collSay (d : Dev) (g i what x : Nat) : Dev :=
  match (d.grpRt g).device i with
  | some dst => d.sendMsg (plainMsg 0xB g dst d.ownId (what + 256 * x) 0)
  | none => d
/-- The same notice to every other present member but one. -/
def Dev.collAll (d : Dev) (g what x : Nat) (but : Option Nat) : Dev :=
  let y := d.grpRt g
  (List.range y.members.length).foldl (fun d i =>
    if i = d.grpSelf g ∨ y.lost.contains i ∨ some i = but then d else d.collSay g i what x) d

/-- The head raises a fault of its group: 1 member lost, 2 head lost, 3 collective failed (R330, Table 14.7). -/
def Dev.grpFault (d : Dev) (g sub member : Nat) : Dev :=
  let l := d.rf (oRoute (((d.grpRt g).device member).getD 0)) 6 0
  let die := if l < 64 then linkDie l else 0
  d.fault (origin 12 g) 0x10 sub (origin 4 die) die 0 (BitVec.ofNat 64 member)

/-- Every collective of a group in progress ends with a status. -/
def GrpRt.endAll (x : GrpRt) (status : Nat) : GrpRt :=
  { x with ready := [], colls := x.colls.map fun c => if c.status.isNone then { c with status := some status } else c }

/-- SEQ of a collective record. -/
def Coll.seq (c : Coll) : Nat := bytesAt c.record 40 4
/-- The first collective of a SEQ that has not ended takes a status. -/
def GrpRt.endSeq (x : GrpRt) (seq status : Nat) : GrpRt :=
  { x with colls := updFirst x.colls (fun c => decide (c.seq = seq) && c.status.isNone) fun c => { c with status := some status } }
/-- The first collective in progress takes a status. -/
def GrpRt.endFirst (x : GrpRt) (status : Nat) : GrpRt :=
  { x with colls := updFirst x.colls (fun c => c.status.isNone) fun c => { c with status := some status } }
/-- A collective was abandoned by a member: the head ends it on every other one (R337). -/
def Dev.headAbandons (d : Dev) (g seq : Nat) (who : Option Nat) : Dev :=
  (d.onGrpRt g fun x => if who.isNone then x else x.endSeq seq 8).collAll g 8 seq who

end Sys2Proof.Machine
end

