-- ==== Sys2Proof/Machine/Engine.lean ====
section
/-! DEFINITION. What the copy engines share (R282 to R296): which space an access goes to, bytes read and written
there, requests to peers, and the end of an engine command. -/
namespace Sys2Proof.Machine

/-- Where an access of an engine goes. -/
inductive Space where
  | loc (n : Nat)
  | com
  | host (func : Nat)
  | peer (dev : Nat)
  deriving DecidableEq, Repr

/-- An alias leads on from a cluster of a context for a command that was issued before its move (R362). -/
def Fwd.names (f : Fwd) (ctx n cid : Nat) : Bool := decide (f.ctx = ctx) && decide (f.oldCl = n) && decide (cid < f.upTo)
/-- The alias of an old placement: the first move since the command was issued. -/
def Dev.aliasOf (d : Dev) (ctx n cid : Nat) : Option Fwd := d.aliases.find? fun f => f.names ctx n cid
/-- The cluster at which an access for an old placement is made (R362). -/
def Dev.placed (d : Dev) (ctx n cid : Nat) : Nat :=
  match d.aliasOf ctx n cid with
  | some f => f.newCl
  | none => n
/-- A space code and identifier of a descriptor (Table 10.1). A message to the device's own identifier never leaves
it (R318). -/
def Dev.spaceOf (d : Dev) (c : EngCmd) (code id : Nat) : Space :=
  if code = 0 then .loc (d.placed c.ctx c.cluster c.cid)
  else if code = 1 then .loc (d.placed c.ctx id c.cid)
  else if code = 2 then .com
  else if code = 3 then .host c.func
  else if d.idValid && decide (d.ownId = id) then .com else .peer id

/-! ## Bytes -/

/-- Bytes whose values the model leaves open. -/
def freeBytes (base n : Nat) : List Byte :=
  (List.range n).map fun i => BitVec.ofNat 8 ((Config.freeWord (base + i / 8)).toNat >>> (8 * (i % 8)))
/-- Take open bytes. -/
def Dev.freshBytes (d : Dev) (n : Nat) : List Byte × Dev := (freeBytes d.free n, { d with free := d.free + n / 8 + 1 })

/-- The words of a line, `none` where it is poisoned. -/
def lineWords (x : LineData) : List (Option Word) :=
  (List.range 16).map fun k => if x.poison.getLsbD k then none else some (BitVec.ofNat 64 (fld x.v (64 * k + 63) (64 * k)))
/-- The bytes of words, `none` for the bytes of an uncorrectable word. -/
def wordBytes (ws : List (Option Word)) : List (Option Byte) :=
  (ws.map fun w => (List.range 8).map fun k => w.map fun v => BitVec.ofNat 8 (v.toNat >>> (8 * k))).flatten
/-- Read words `[w, w + n)` of a memory. -/
def Dev.readWords (d : Dev) (sp : MSpace) (w n : Nat) : List (Option Word) × Dev :=
  (List.range n).foldl (fun x k => let r := x.2.readW sp (w + k) 0; (x.1 ++ [r.1], r.2)) ([], d)
/-- Lines that a range of addresses touches, as line addresses divided by 128. -/
def linesOf (addr n : Nat) : List Nat := (List.range (ceilDiv (addr % 128 + n) 128)).map fun k => addr / 128 + k
/-- The first byte of a run that could not be read, as the address of its word. -/
def firstBad (addr : Nat) (bs : List (Option Byte)) : Option Nat :=
  (bs.findIdx? Option.isNone).map fun i => (addr + i) / 8 * 8
/-- Whether the page of a host address is mapped for a function (R341). The port's translation cache, which keeps 16,384 entries
(R339), answers while the host has not taken the entry back; otherwise the host's translation agent does. Both are open. -/
def Dev.mapped (d : Dev) (f addr : Nat) : Bool × Dev :=
  let key := (d.portOf f, hostKey f addr / 4096)
  let (gone, d) := d.choose 2
  let (no, d) := if d.ats.contains key && decide (gone = 0) then (0, d) else d.choose 2
  let others := d.ats.filter fun x => decide (x ≠ key)
  if no = 1 then (false, { d with ats := others })
  else
    let mine := others.filter fun x => decide (x.1 = key.1)
    let others := if mine.length < 16384 then others else others.filter fun x => decide (some x ≠ mine.getLast?)
    (true, { d with ats := key :: others })
/-- Read host memory, one 64-byte line at a time. What the host's memory answers is open: the bytes, or poisoned data or an
error; after a failure no line is read. -/
def Dev.hostBytes (d : Dev) (f addr n : Nat) : List (Option Byte) × Option (Nat × Nat) × Dev :=
  (List.range (ceilDiv (addr % 64 + n) 64)).foldl (fun (x : List (Option Byte) × Option (Nat × Nat) × Dev) k =>
    let lo := max addr ((addr / 64 + k) * 64)
    let m := min (addr + n) ((addr / 64 + k + 1) * 64) - lo
    match x.2.1 with
    | some _ => (x.1 ++ List.replicate m none, x.2.1, x.2.2)
    | none =>
      match x.2.2.mapped f lo with
      | (false, d) => (x.1 ++ List.replicate m none, some (0x33, lo), d)
      | (true, d) =>
        let (o, d) := d.choose 2
        if o = 1 then (x.1 ++ List.replicate m none, some (0x39, lo), d)
        else let (bs, d) := d.freshBytes m; (x.1 ++ bs.map some, none, d)) ([], none, d)
/-- Read bytes for an engine: `got` are the lines that have arrived from a peer. With them the Porter's status and the place
of the first byte that could not be read. -/
def Dev.engRead (d : Dev) (sp : Space) (got : List (Nat × LineData)) (addr n : Nat) : List (Option Byte) × Option (Nat × Nat) × Dev :=
  let bad (bs : List (Option Byte)) (d : Dev) := (bs, (firstBad addr bs).map fun a => (0x35, a), d)
  match sp with
  | .loc c =>
    let r := d.readWords (.loc c) (addr / 8) (ceilDiv (addr % 8 + n) 8)
    bad (((wordBytes r.1).drop (addr % 8)).take n) r.2
  | .com =>
    let r := (linesOf addr n).foldl (fun (x : List (Option Word) × Dev) l =>
      let y := x.2.syncRead (lineOf (128 * l)); (x.1 ++ lineWords y.1, y.2)) ([], d)
    bad (((wordBytes r.1).drop (addr % 128)).take n) r.2
  | .host f => d.hostBytes f addr n
  | .peer _ =>
    let ws := ((linesOf addr n).map fun l => match got.find? fun g => decide (g.1 = l) with
      | some g => lineWords g.2
      | none => List.replicate 16 none).flatten
    bad (((wordBytes ws).drop (addr % 128)).take n) d

/-- The words of a byte run with their masks and values. A word that would need a byte that could not be read is left
out: a write is formed from good data or is not made (R296). -/
def byteWords (addr : Nat) (bs : List (Option Byte)) : List (Nat × BitVec 8 × Word) :=
  (List.range (ceilDiv (addr % 8 + bs.length) 8)).filterMap fun k =>
    let w := addr / 8 + k
    let here := fun i : Nat => decide (addr ≤ 8 * w + i) && decide (8 * w + i < addr + bs.length)
    let byte := fun i : Nat => bs.getD (8 * w + i - addr) none
    if (List.range 8).any fun i => here i && (byte i).isNone then none
    else
      let m := (List.range 8).foldl (fun acc i => if here i then acc + 2 ^ i else acc) 0
      let v := natOfBytes ((List.range 8).map fun i => if here i then (byte i).getD 0 else 0)
      some (w, BitVec.ofNat 8 m, BitVec.ofNat 64 v)
/-- Write one word of a run. A partial write that meets an uncorrectable word is not made (R287). -/
def Dev.putWord8 (d : Dev) (sp : MSpace) (x : Nat × BitVec 8 × Word) : Option Nat × Dev :=
  let bad := decide (x.2.1 ≠ 0xFF) && (match (d.mem sp).readW sp.id x.1 with
    | .bad _ => true
    | .ok _ => false)
  (if bad then some (8 * x.1) else none, d.mergeW sp x.1 x.2.1 x.2.2)
/-- Write words in order; the first that could not be merged is reported. -/
def Dev.putWords8 (d : Dev) (sp : MSpace) (ws : List (Nat × BitVec 8 × Word)) : Option Nat × Dev :=
  ws.foldl (fun x w =>
    let r := x.2.putWord8 sp w
    (match x.1 with
      | some a => some a
      | none => r.1, r.2)) (none, d)
/-- What precedes a write of an engine for a command: reservations and other copies of the bytes end (R249, R275), the page
is noted. -/
def Dev.engReady (d : Dev) (e : Option EngCmd) (sp : MSpace) (addr n : Nat) : Dev :=
  match sp with
  | .loc c =>
    let tok := match e with
      | some e => if d.placed e.ctx e.cluster e.cid = c then some e.tok else none
      | none => none
    (d.killLocal c none addr n).onCl c fun x => x.touch tok addr n
  | .com => (linesOf addr n).foldl (fun d l =>
      let line := lineOf (128 * l); ((d.killResv line).recallAll line false).notePage line) d
/-- Write a byte run into a Local or the Commons, as stores at system scope. -/
def Dev.engPut (d : Dev) (e : Option EngCmd) (sp : MSpace) (addr : Nat) (bs : List (Option Byte)) : Option Nat × Dev :=
  (d.engReady e sp addr bs.length).putWords8 sp (byteWords addr bs)

/-- The first line that is not free for a synchronous access: the device as it then stands, with the snoops (R342) or
the healing (R396) that the access waits for. `none` when every line is free. -/
def Dev.heldLines (d : Dev) (ls : List Nat) : Option Dev :=
  (ls.find? fun l => !d.quiet l).map fun l => if d.hostHolds l then d.snoopHost l else d

/-! ## Host memory (R341) -/

/-- Write bytes to host memory for an engine, one 64-byte line at a time: 1 a page that is not mapped, 2 a failure, which is
open. Otherwise the write waits for GO. -/
def Dev.engHostPut (d : Dev) (eng ch : Nat) (c : EngCmd) (addr : Nat) (bs : List Byte) : Option (Nat × Nat) × Dev :=
  (List.range (ceilDiv (addr % 64 + bs.length) 64)).foldl (fun (x : Option (Nat × Nat) × Dev) k =>
    match x.1 with
    | some _ => x
    | none =>
      let lo := max addr ((addr / 64 + k) * 64)
      let hi := min (addr + bs.length) ((addr / 64 + k + 1) * 64)
      match x.2.mapped c.func lo with
      | (false, d) => (some (1, lo), d)
      | (true, d) =>
      let (o, d) := d.choose 2
      if o = 1 then (some (2, lo), d)
      else
        let w : HostWr := { id := d.nextCid, port := d.portOf c.func, func := c.func, addr := lo,
                            bytes := (bs.drop (lo - addr)).take (hi - lo), eng := eng, ch := ch, k := c.k }
        (none, { d with hostWr := d.hostWr ++ [w], nextCid := d.nextCid + 1 })) (none, d)

/-! ## Requests to peers -/

/-- A request of a descriptor, not yet numbered. -/
def Dev.mkRem (d : Dev) (eng ch : Nat) (c : EngCmd) (pos dst kind aop dlen addr : Nat) (mask : Mask) (data : Line)
    (j : Nat) (canon : Bool) (tag : BitVec 16) : RemReq :=
  let m : LinkMsg :=
    { kind := BitVec.ofNat 4 kind, aop := BitVec.ofNat 4 aop, srcDie := BitVec.ofNat 3 (chanDie eng ch),
      dlen := BitVec.ofNat 3 dlen, chan := BitVec.ofNat 8 ch, dst := BitVec.ofNat 12 dst, src := BitVec.ofNat 12 d.ownId,
      addr := BitVec.ofNat 48 addr, req := 0, depth := 0, rsv := 0, mask := mask, data := data }
  { chan := ch % 256, dst := dst, req := 0, eng := eng, ch := ch, k := c.k, pos := pos, func := c.func, j := j, canon := canon, tag := tag,
    msg := m, sends := 0, tried := [], relayed := false, link := none, refused := false }
/-- Put requests in a channel's list and send what can be sent. -/
def Dev.addRems (d : Dev) (eng ch : Nat) (rs : List RemReq) : Dev :=
  (d.onChan eng ch fun c => { c with unsent := c.unsent ++ rs }).pumpChan eng ch
/-- A byte run as line writes: for each line its address, mask and data. -/
def lineRuns (addr : Nat) (bs : List (Option Byte)) : List (Nat × Mask × Line) :=
  (linesOf addr bs.length).map fun l =>
    (byteWords addr bs).foldl (fun (x : Nat × Mask × Line) w =>
      if w.1 / 16 = l then
        let o := w.1 % 16
        (x.1, setFld x.2.1 (8 * o + 7) (8 * o) w.2.1.toNat, setFld x.2.2 (64 * o + 63) (64 * o) w.2.2.toNat)
      else x) (128 * l, 0, 0)

/-! ## The end of a command -/

/-- Status names shared by the two kinds of engine (Table 10.3). -/
def engStatus (eng porter : Nat) : Nat :=
  if eng = 0 then porter
  else if porter = 0x34 then 0x4B else if porter = 0x35 then 0x46 else if porter = 0x36 then 0x47
  else if porter = 0x39 then 0x48 else if porter = 0x3A then 0x49 else if porter = 0x3B then 0x4A else porter + 0x10
/-- Offset of a channel's registers. -/
def oChan (eng ch : Nat) : Nat := if eng = 1 then oGather ch else oPorter ch
/-- Channels of a kind of engine on this part (R282). -/
def Dev.chanCount (d : Dev) (eng : Nat) : Nat := (if eng = 1 then 16 else 32) * d.part.dies

/-- The engine work of a management operation has ended (R368): its record is no longer held. No status is given for
work that failed; REFUSED is recorded (DEDUCED, log entry 45). -/
def Dev.mgmtDone (d : Dev) (cid status : Nat) : Dev :=
  { d with recs := d.recs.map fun x =>
      if x.engine = some cid then { x with engine := none, status := if status = 0 then x.status else 8 } else x }
/-- A token completion of an old placement counts in the record of the command that moved (R362). -/
def Dev.lateCount (d : Dev) (cid status : Nat) (word : Word) : Dev :=
  if status = 0 then d
  else { d with recs := d.recs.map fun (x : Rec) =>
      if x.moved ∧ x.cid = cid then
        { x with wbToken := if x.wbFailed = 0 then word else x.wbToken, wbFailed := min 65535 (x.wbFailed + 1) }
      else x }

/-- A token completion reaches the token file, or the late-response log of the new placement (R159, R362). An engine
command of a management operation has no token. -/
def Dev.tokenDone (d : Dev) (c : EngCmd) (status : Nat) : Dev :=
  if c.tok ≥ 64 then d.mgmtDone c.cid status
  else match (d.aliasOf c.ctx c.cluster c.cid).filter fun f => decide (f.oldPos = c.pos) with
  | some f =>
    let t : Token := { (d.cl c.cluster).tok c.tok with st := .done, status := BitVec.ofNat 8 status }
    let e : LateEntry := { kind := 0, epoch := c.epoch, val := t.word, ctx := c.ctx, to_ := f.newCl }
    (d.onCl f.newCl fun x => { x with late := x.late ++ [e] }).lateCount c.cid status t.word
  | none => (d.onCl c.cluster fun x => x.complete c.tok c.cid status).settle c.cluster

/-- The channel halts (R294): CAUSE, the error registers, one error record, and every command that has not started
completes with HALTED. -/
def Dev.haltChan (d : Dev) (eng ch : Nat) (c : EngCmd) (f : Fail) : Dev :=
  let o := oChan eng ch
  let e0 : Word := setFld (setFld (0 : Word) 15 0 f.tag.toNat) 24 16 c.cluster
  let e1 : Word := setFld (setFld (setFld (0 : Word) 47 0 f.addr) 59 48 f.id) 62 60 f.space
  let d := (((d.setRb (o + 4) 0 true).setRf (o + 4) 15 8 f.status).setReg (o + 0xC) e0).setReg (o + 0x10) e1
  let org := origin 7 (eng * 2 ^ 24 + ch)
  let d := d.fault org 0x0D f.status org (chanDie eng ch) e1 e0
  let idle := (d.chan eng ch).cmds.filter fun x => !x.started
  let d := d.onChan eng ch fun x => { x with cmds := x.cmds.filter EngCmd.started }
  idle.foldl (fun d x => d.tokenDone x (engStatus eng 0x3A)) d

/-- Nothing of a command is outstanding. -/
def Dev.cmdIdle (d : Dev) (eng ch : Nat) (c : EngCmd) : Bool :=
  c.flights.isEmpty && c.todo.isEmpty && c.fetch.isEmpty && c.healing.isNone &&
  !((d.remOf eng ch).any fun r => decide (r.k = c.k)) && !((d.chan eng ch).unsent.any fun r => decide (r.k = c.k)) &&
  !(d.hostWr.any fun w => decide (w.eng = eng) && decide (w.ch = ch) && decide (w.k = c.k))
/-- The first failing descriptor in chain order. -/
def EngCmd.firstFail (c : EngCmd) : Option Fail :=
  c.fails.foldl (fun acc f => match acc with
    | none => some f
    | some g => if f.pos < g.pos then some f else some g) none
/-- A command leaves its channel with its status (R292), which may halt the channel. -/
def Dev.endCmd (d : Dev) (eng ch : Nat) (c : EngCmd) : Dev :=
  let d := d.onChan eng ch fun x => { x with cmds := x.cmds.filter fun y => decide (y.k ≠ c.k) }
  match c.firstFail with
  | none => d.tokenDone c 0
  | some f =>
    let d := d.tokenDone c f.status
    if haltsChannel f.status then d.haltChan eng ch c f else d

end Sys2Proof.Machine
end

