-- ==== Sys2Proof/Machine/Porter.lean ====
section
/-! DEFINITION. The Porter (R284 to R296): how a descriptor is read, checked and performed. -/
namespace Sys2Proof.Machine

/-! ## Descriptor fields (Table 10.1) -/

/-- OP. -/
def pOP (w : BitVec 512) : Nat := bytesAt w 0 1
/-- FLAGS. -/
def pFLAGS (w : BitVec 512) : Nat := bytesAt w 1 1
/-- SSPACE. -/
def pSSPACE (w : BitVec 512) : Nat := bytesAt w 2 1
/-- DSPACE. -/
def pDSPACE (w : BitVec 512) : Nat := bytesAt w 3 1
/-- TAG. -/
def pTAG (w : BitVec 512) : BitVec 16 := BitVec.ofNat 16 (bytesAt w 4 2)
/-- SRC. -/
def pSRC (w : BitVec 512) : Nat := bytesAt w 8 8
/-- DST. -/
def pDST (w : BitVec 512) : Nat := bytesAt w 16 8
/-- LENGTH. -/
def pLENGTH (w : BitVec 512) : Nat := bytesAt w 24 4
/-- ROWS. -/
def pROWS (w : BitVec 512) : Nat := bytesAt w 28 4
/-- SSTRIDE. -/
def pSSTRIDE (w : BitVec 512) : Nat := bytesAt w 32 4
/-- DSTRIDE. -/
def pDSTRIDE (w : BitVec 512) : Nat := bytesAt w 36 4
/-- IMM. -/
def pIMM (w : BitVec 512) : Nat := bytesAt w 40 8
/-- REDOP. -/
def pREDOP (w : BitVec 512) : Nat := bytesAt w 48 1
/-- DEADLINE. -/
def pDEADLINE (w : BitVec 512) : Nat := bytesAt w 49 1
/-- NCONTRIB. -/
def pNCONTRIB (w : BitVec 512) : Nat := bytesAt w 50 2
/-- NEXT. -/
def pNEXT (w : BitVec 512) : Nat := bytesAt w 52 4
/-- Address of a SRC or DST field. -/
def pADDR (v : Nat) : Nat := v % 2 ^ 48
/-- Identifier of a SRC or DST field. -/
def pID (v : Nat) : Nat := v / 2 ^ 48 % 4096

/-- Element bytes of a REDOP code, 0 for an unassigned one (Table 10.2). -/
def redBytes (c : Nat) : Nat :=
  if c = 1 ∨ c = 3 ∨ c = 4 ∨ c = 8 ∨ c = 9 then 4
  else if c = 2 ∨ c = 5 ∨ c = 6 ∨ c = 7 then 8
  else if 0xA ≤ c ∧ c ≤ 0xD then 2 else 0
/-- One contribution combined into an element (Table 10.2). -/
def redElem (c old v : Nat) : Nat :=
  let n := 8 * redBytes c
  let fsum (f : Fmt) : Nat := (f.round .ne false 0 (Num.sum false [f.decode old, f.decode v]).1).1
  if c = 1 ∨ c = 2 then (old + v) % 2 ^ n
  else if c = 3 then (if (BitVec.ofNat n old).toInt ≤ (BitVec.ofNat n v).toInt then old else v)
  else if c = 4 then (if (BitVec.ofNat n old).toInt ≤ (BitVec.ofNat n v).toInt then v else old)
  else if c = 5 then old &&& v
  else if c = 6 then old ||| v
  else if c = 7 then old ^^^ v
  else if c = 8 ∨ c = 9 then fsum fp32
  else if c = 0xA ∨ c = 0xB then fsum bf16
  else fsum fp16
/-- One contribution combined into a run of elements, byte lists. -/
def redBytesRun (c : Nat) (old v : List Byte) : List Byte :=
  let e := max 1 (redBytes c)
  ((List.range (old.length / e)).map fun k =>
    toBytes e (BitVec.ofNat (8 * e) (redElem c (natOfBytes ((old.drop (k * e)).take e)) (natOfBytes ((v.drop (k * e)).take e))))).flatten
/-- A contribution combined into the elements of a line that a mask selects. -/
def redLine (c : Nat) (mask : Mask) (old v : Line) : Line :=
  let bytes (x : Line) : List Byte := toBytes 128 x
  mergeLine mask old (BitVec.ofNat 1024 (natOfBytes (redBytesRun c (bytes old) (bytes v))))

/-! ## Checks (R287, R289) -/

/-- Fields that each operation leaves unused must be zero, and the others lie in range (BAD_DESC). -/
def pBad (w : BitVec 512) (chained : Bool) (clusters : Nat) : Bool :=
  let op := pOP w
  let spaceBad (sp v : Nat) : Bool :=
    decide (sp > 4) || decide (v / 2 ^ 60 ≠ 0) || (decide (sp = 1) && decide (pID v ≥ clusters)) ||
      (decide (sp ≠ 1 ∧ sp ≠ 4) && decide (pID v ≠ 0))
  let unused : List Nat :=
    if op = 1 then [pIMM w, pREDOP w, pNCONTRIB w]
    else if op = 2 then [pSSPACE w, pSRC w, pSSTRIDE w, pREDOP w, pNCONTRIB w]
    else if op = 3 then [pSSPACE w, pSRC w, pSSTRIDE w, pDSTRIDE w, pREDOP w, pNCONTRIB w]
    else if op = 4 then [pDSTRIDE w, pIMM w]
    else [pFLAGS w, pSSPACE w, pDSPACE w, pSRC w, pDST w, pLENGTH w, pROWS w, pSSTRIDE w, pDSTRIDE w, pIMM w, pREDOP w,
      pDEADLINE w, pNCONTRIB w]
  decide (op = 0 ∨ op > 5) || decide (bytesAt w 56 8 ≠ 0) || decide (pNEXT w / 2 ^ 23 ≠ 0) || decide (pNEXT w % 64 ≠ 0)
    || decide (pFLAGS w / 8 ≠ 0) || ((pFLAGS w).testBit 0 && decide (op ≠ 3)) || ((pFLAGS w).testBit 1 && decide (op ≠ 4))
    || decide (bytesAt w 7 1 ≠ 0) || (chained && decide (bytesAt w 6 1 ≠ 0)) || unused.any (fun x => decide (x ≠ 0))
    || (decide (op ≠ 5) && (spaceBad (pSSPACE w) (pSRC w) || spaceBad (pDSPACE w) (pDST w) || decide (pLENGTH w = 0)
        || decide (pLENGTH w > 16777216) || decide (pROWS w = 0) || decide (pROWS w > 65536)))
    || (decide (op = 2) && decide (pDSPACE w > 2))
    || (decide (op = 3) && decide (pROWS w ≠ 1 ∨ pLENGTH w ≠ 8))
    || (decide (op = 4) && decide (pROWS w ≠ 1 ∨ redBytes (pREDOP w) = 0 ∨ pNCONTRIB w = 0 ∨ pNCONTRIB w > 1024
        ∨ (pDSPACE w ≠ 2 ∧ pDSPACE w ≠ 4)))

/-- A place that a failing check names: address, identifier and space. -/
structure At where
  addr : Nat
  id : Nat
  space : Nat
  deriving DecidableEq, Repr

/-- The breach of an alignment rule (BAD_ALIGN): the address that breaks it, or the descriptor (R294). -/
def pMisaligned (w : BitVec 512) (here : At) : Option At :=
  let src : At := ⟨pADDR (pSRC w), pID (pSRC w), pSSPACE w⟩
  let dst : At := ⟨pADDR (pDST w), pID (pDST w), pDSPACE w⟩
  if pOP w = 2 then
    if dst.addr % 8 ≠ 0 then some dst else if pLENGTH w % 8 ≠ 0 ∨ pDSTRIDE w % 8 ≠ 0 then some here else none
  else if pOP w = 3 then (if dst.addr % 8 ≠ 0 then some dst else none)
  else if pOP w = 4 then
    let e := max 1 (redBytes (pREDOP w))
    if src.addr % e ≠ 0 then some src else if dst.addr % e ≠ 0 then some dst
    else if pLENGTH w % e ≠ 0 then some here else none
  else none

/-- A region of a descriptor: a space, rows and whether it is written. -/
structure Region where
  space : Nat
  addr : Nat
  id : Nat
  stride : Nat
  rows : Nat
  len : Nat
  write : Bool
  deriving DecidableEq, Repr
/-- Start of row r. -/
def Region.row (r : Region) (k : Nat) : Nat := r.addr + k * r.stride
/-- The source region, if the operation has one. -/
def pSource (w : BitVec 512) : Option Region :=
  if pOP w = 1 then some ⟨pSSPACE w, pADDR (pSRC w), pID (pSRC w), pSSTRIDE w, pROWS w, pLENGTH w, false⟩
  else if pOP w = 4 then some ⟨pSSPACE w, pADDR (pSRC w), pID (pSRC w), pSSTRIDE w, pNCONTRIB w, pLENGTH w, false⟩
  else none
/-- The destination region. -/
def pDest (w : BitVec 512) : Region :=
  ⟨pDSPACE w, pADDR (pDST w), pID (pDST w), pDSTRIDE w, (if pOP w = 3 then 1 else pROWS w), pLENGTH w, true⟩

/-- The 1 MiB boundaries at which the mapping of a Commons range can change, with its first and last byte. -/
def mapPoints (lo n : Nat) : List Nat :=
  let u := 0x100000
  lo :: (((List.range ((lo + n - 1) / u - lo / u)).map fun k => (lo / u + 1 + k) * u) ++ [lo + n - 1])

/-- First address of a Commons row that a function may not reach (UNMAPPED), or may not write (BAD_RANGE). -/
def Dev.comReach (d : Dev) (func : Nat) (lo n : Nat) (write : Bool) : Option (Nat × Nat) :=
  (mapPoints lo n).findSome? fun x =>
    match d.partAt x with
    | none => some (0x33, x)
    | some p =>
      if d.partFunc p ≠ func ∧ !d.partRo p then some (0x33, x)
      else if write && d.partRo p && decide (d.partFunc p ≠ func) then some (0x34, x) else none
/-- First address of a Local row outside a context's share. -/
def Dev.localReach (d : Dev) (ctx lo n : Nat) : Option Nat :=
  let s := d.share ctx
  let top := min s.2 keeperArea
  if lo < s.1 ∨ lo ≥ top then some lo else if lo + n > top then some top else none
/-- UNMAPPED or BAD_RANGE of one row (R214, R289, R316, R346). A cluster that the command names for a placement that has since
moved is its new one (R305, R362). -/
def Dev.rowReach (d : Dev) (c : EngCmd) (space id lo n : Nat) (write : Bool) : Option (Nat × At) :=
  let at_ (a : Nat) : At := ⟨a, id, space⟩
  if space ≤ 1 then
    let cl := d.placed c.ctx (if space = 0 then c.cluster else id) c.cid
    if !(d.present cl) then some (0x33, at_ lo)
    else if space = 1 ∧ !(d.maskHas c.ctx cl) then some (0x34, at_ lo)
    else (d.localReach c.ctx lo n).map fun a => (0x34, at_ a)
  else if space = 3 then none
  else if space = 4 ∧ !(d.idValid && decide (d.ownId = id)) then
    if !d.idValid || !(d.rb (oRoute id) 27) || decide (d.rf (oFunc c.func) 15 12 = 0) then some (0x33, at_ lo) else none
  else (d.comReach c.func lo n write).map fun x => (x.1, at_ x.2)
/-- The failing rows of a region, in order. -/
def Dev.regionReach (d : Dev) (c : EngCmd) (r : Region) : List (Nat × At) :=
  (List.range r.rows).filterMap fun k => d.rowReach c r.space r.id (r.row k) r.len r.write
/-- The first applicable status of a descriptor, in ascending code order (R289). -/
def Dev.pCheck (d : Dev) (c : EngCmd) (w : BitVec 512) (here : Nat) : Option (Nat × At) :=
  let self : At := ⟨here, 0, 0⟩
  if pBad w (decide (c.count > 0)) d.part.clusters then some (0x30, self)
  else match pMisaligned w self with
    | some a => some (0x32, a)
    | none =>
      let bad : List (Nat × At) := if pOP w = 5 then [] else
        (match pSource w with
          | some r => d.regionReach c r
          | none => []) ++ d.regionReach c (pDest w)
      match bad.find? fun x : Nat × At => decide (x.1 = 0x33) with
      | some x => some x
      | none => match bad.head? with
        | some x => some x
        | none =>
          if c.count ≥ 4096 then some (0x3C, self)
          else if pNEXT w ≠ 0 ∧ !(d.inShare c.ctx (pNEXT w) 64) then some (0x3D, ⟨pNEXT w, 0, 0⟩)
          else none

/-! ## Performing a descriptor -/

/-- Commons lines of a region. -/
def Region.lines (r : Region) : List Nat :=
  (((List.range r.rows).map fun k => (linesOf (r.row k) r.len).map fun l => lineOf (128 * l)).flatten).eraseDups
/-- The memory of the device that a space is, if it is one. -/
def Space.mem? : Space → Option MSpace
  | .loc n => some (.loc n)
  | .com => some .com
  | _ => none

/-- Leave a free choice of the words of a run: after an error each word of the destination is old or new (R292). -/
def chooseWords (ws : List (Nat × BitVec 8 × Word)) (d : Dev) : List (Nat × BitVec 8 × Word) × Dev :=
  ws.foldl (fun x w => let (o, d) := x.2.choose 2; (if o = 1 then x.1 ++ [w] else x.1, d)) ([], d)

/-- A failure of a descriptor at a place. -/
def mkFail (pos : Nat) (w : BitVec 512) (status : Nat) (a : At) : Fail :=
  { pos := pos, status := status, tag := pTAG w, addr := a.addr, id := a.id, space := a.space }
/-- Record a failure of a descriptor; later milestones of the channel to the device that it writes are blocked (R290). -/
def Dev.failAt (d : Dev) (ch : Nat) (c : EngCmd) (w : BitVec 512) (f : Fail) : Dev :=
  (d.failDesc 0 ch c.k f).onChan 0 ch fun x => x.spoil (d.writesTo w)
/-- Write line runs to a peer. -/
def Dev.peerPut (d : Dev) (ch : Nat) (c : EngCmd) (pos dev : Nat) (w : BitVec 512) (ls : List (Nat × Mask × Line)) : Dev :=
  d.addRems 0 ch (ls.map fun y =>
    let full := decide (y.2.1 = BitVec.allOnes 128)
    d.mkRem 0 ch c pos dev 1 0 (if full then 2 else 3) y.1 (if full then 0 else y.2.1) y.2.2 0 false (pTAG w))
/-- Write one row to host memory; a failure there ends the descriptor. -/
def Dev.hostRow (d : Dev) (ch : Nat) (c : EngCmd) (pos : Nat) (w : BitVec 512) (x : Nat × List (Option Byte)) : Dev :=
  match d.engHostPut 0 ch c x.1 (x.2.map fun b => b.getD 0) with
  | (none, d) => d
  | (some (o, a), d) => d.failAt ch c w (mkFail pos w (if o = 1 then 0x33 else 0x39) ⟨a, 0, 3⟩)
/-- Any of the words that could be formed may have been written when a descriptor ends with an error (R292). -/
def Dev.writeSome (d : Dev) (ch : Nat) (c : EngCmd) (pos : Nat) (w : BitVec 512) (r : Region) (rows : List (Nat × List (Option Byte))) : Dev :=
  let sp := d.spaceOf c r.space r.id
  rows.foldl (fun (d : Dev) (x : Nat × List (Option Byte)) =>
    match sp with
    | .host _ =>
      let good := x.2.takeWhile Option.isSome
      let (n, d) := d.choose (good.length + 1)
      d.hostRow ch c pos w (x.1, good.take n)
    | .peer dev =>
      let (ls, d) := (lineRuns x.1 x.2).foldl (fun (acc : List (Nat × Mask × Line) × Dev) y =>
        let (o, d) := acc.2.choose 2
        (if o = 1 ∧ y.2.1 ≠ 0 then acc.1 ++ [y] else acc.1, d)) ([], d)
      d.peerPut ch c pos dev w ls
    | _ => match sp.mem? with
      | some m => let y := chooseWords (byteWords x.1 x.2) (d.engReady (some c) m x.1 x.2.length); (y.2.putWords8 m y.1).2
      | none => d) d

/-- Write the rows of a descriptor: for each its address and its bytes. A source that could not be read ends the
descriptor with the status and at the place given (R293, R296). -/
def Dev.writeRows (d : Dev) (ch : Nat) (c : EngCmd) (pos : Nat) (w : BitVec 512) (r : Region)
    (rows : List (Nat × List (Option Byte))) (srcBad : Option (Nat × At)) : Dev :=
  match srcBad with
  | some x => (d.writeSome ch c pos w r rows).failAt ch c w (mkFail pos w x.1 x.2)
  | none =>
    match d.spaceOf c r.space r.id with
    | .host _ => rows.foldl (fun d x => d.hostRow ch c pos w x) d
    | .peer dev => d.peerPut ch c pos dev w (rows.map fun x => lineRuns x.1 x.2).flatten
    | sp => match sp.mem? with
      | none => d
      | some m => rows.foldl (fun d x => match d.engPut (some c) m x.1 x.2 with
        | (none, d) => d
        | (some a, d) => d.failAt ch c w (mkFail pos w 0x35 ⟨a, r.id, r.space⟩)) d

/-- Read the rows of a region: for each its address and bytes, and the first failure with its status. -/
def Dev.readRows (d : Dev) (c : EngCmd) (r : Region) (got : List (Nat × LineData)) :
    List (Nat × List (Option Byte)) × Option (Nat × At) × Dev :=
  let sp := d.spaceOf c r.space r.id
  (List.range r.rows).foldl (fun x k =>
    let y := x.2.2.engRead sp got (r.row k) r.len
    (x.1 ++ [(r.row k, y.1)], match x.2.1 with
      | some b => some b
      | none => y.2.1.map fun b => (b.1, ⟨b.2, r.id, r.space⟩), y.2.2)) ([], none, d)

/-- COPY: overlapping destination bytes are open (R287). -/
def Dev.doCopy (d : Dev) (ch : Nat) (c : EngCmd) (pos : Nat) (w : BitVec 512) (got : List (Nat × LineData)) : Dev :=
  match pSource w with
  | none => d
  | some s =>
    let t := pDest w
    let (rows, bad, d) := d.readRows c s got
    let same := decide (d.spaceOf c s.space s.id = d.spaceOf c t.space t.id)
    let inSource := fun a : Nat => same && (List.range s.rows).any fun k => decide (s.row k ≤ a) && decide (a < s.row k + s.len)
    let out := (List.range t.rows).foldl (fun (x : List (Nat × List (Option Byte)) × Dev) k =>
      let bs := (rows.getD k (0, [])).2
      let (fr, d) := x.2.freshBytes t.len
      let row := (List.range t.len).map fun i =>
        if inSource (t.row k + i) then (bs.getD i none).map fun _ => fr.getD i 0 else bs.getD i none
      (x.1 ++ [(t.row k, row)], d)) ([], d)
    out.2.writeRows ch c pos w t out.1 bad
/-- FILL: IMM repeated over each row. -/
def Dev.doFill (d : Dev) (ch : Nat) (c : EngCmd) (pos : Nat) (w : BitVec 512) : Dev :=
  let t := pDest w
  let pat := toBytes 8 (BitVec.ofNat 64 (pIMM w))
  d.writeRows ch c pos w t ((List.range t.rows).map fun k =>
    (t.row k, (List.range t.len).map fun i => some (pat.getD (i % 8) 0))) none
/-- WRITE_IMM, which a milestone to this device performs only if no earlier write of the channel to it has failed, and
which goes to a peer as MILESTONE (R290). -/
def Dev.doWriteImm (d : Dev) (ch : Nat) (c : EngCmd) (pos : Nat) (w : BitVec 512) : Dev :=
  let t := pDest w
  let stone := (pFLAGS w).testBit 0
  let bs := (toBytes 8 (BitVec.ofNat 64 (pIMM w))).map some
  match d.spaceOf c t.space t.id with
  | .peer dev =>
    d.addRems 0 ch [d.mkRem 0 ch c pos dev (if stone then 4 else 1) 0 1 t.addr 0 (BitVec.ofNat 1024 (pIMM w)) 0 false (pTAG w)]
  | _ =>
    if stone && (d.chan 0 ch).bad.contains 4096 then d.failAt ch c w (mkFail pos w 0x38 ⟨t.addr, t.id, t.space⟩)
    else d.writeRows ch c pos w t [(t.addr, bs)] none

/-- A free order of a list. -/
def shuffle {α : Type} : Nat → List α → Dev → List α × Dev
  | 0, l, d => (l, d)
  | n + 1, l, d =>
    let (i, d) := d.choose l.length
    match l[i]? with
    | some x => let (r, d) := shuffle n (l.eraseIdx i) d; (x :: r, d)
    | none => (l, d)

/-- Combine contributions, each a mask and a line, into a line at this device's home slice, one at a time. A word that is
uncorrectable ends it: nothing is applied there (Table 14.4). -/
def Dev.reduceAt (d : Dev) (line code : Nat) (vs : List (Mask × Line)) : Option Nat × Dev :=
  let d := ((d.killResv line).recallAll line true).notePage line
  let (x, d) := d.homeLine line
  let mask := vs.foldl (fun m v => m ||| v.1) 0
  let bad := (List.range 16).find? fun k => x.poison.getLsbD k && decide (fld mask (8 * k + 7) (8 * k) ≠ 0)
  match bad with
  | some k => (some (lineAddr line + 8 * k), d)
  | none => (none, (vs.foldl (fun (d : Dev) _ => d.countAtm line) d).writeLine .com (lineAddr line) mask
      (vs.foldl (fun old v => redLine code v.1 old v.2) x.v))

/-- REDUCE: each contribution is an Atm at the home slice; without CANON their order is open (R288). -/
def Dev.doReduce (d : Dev) (ch : Nat) (c : EngCmd) (pos : Nat) (w : BitVec 512) (got : List (Nat × LineData)) : Dev :=
  match pSource w with
  | none => d
  | some s =>
    let t := pDest w
    let canon := (pFLAGS w).testBit 1
    let (rows, bad, d) := d.readRows c s got
    match bad with
    | some x => d.failAt ch c w (mkFail pos w x.1 x.2)
    | none =>
      let runs := rows.map fun x => lineRuns t.addr x.2
      match d.spaceOf c t.space t.id with
      | .peer dev =>
        let rs := ((List.range runs.length).map fun j => (runs.getD j []).map fun y =>
          d.mkRem 0 ch c pos dev 2 (pREDOP w) 3 y.1 y.2.1 y.2.2 j canon (pTAG w)).flatten
        d.addRems 0 ch rs
      | _ =>
        (linesOf t.addr t.len).foldl (fun d l =>
          let vs := runs.filterMap fun r => (r.find? fun y => decide (y.1 = 128 * l)).map Prod.snd
          let (vs, d) := if canon then (vs, d) else shuffle vs.length vs d
          match d.reduceAt (lineOf (128 * l)) (pREDOP w) vs with
          | (none, d) => d
          | (some a, d) => d.failAt ch c w (mkFail pos w 0x35 ⟨a, t.id, t.space⟩)) d

/-- Perform a descriptor whose source lines are there. -/
def Dev.doDesc (d : Dev) (ch : Nat) (c : EngCmd) (pos : Nat) (w : BitVec 512) (got : List (Nat × LineData)) : Dev :=
  if pOP w = 1 then d.doCopy ch c pos w got
  else if pOP w = 2 then d.doFill ch c pos w
  else if pOP w = 3 then d.doWriteImm ch c pos w
  else if pOP w = 4 then d.doReduce ch c pos w got
  else d

/-- Commons lines of this device that a descriptor reads or writes. -/
def Dev.descLines (d : Dev) (c : EngCmd) (w : BitVec 512) : List Nat × List Nat :=
  let ls (r : Region) : List Nat := if d.spaceOf c r.space r.id = .com then r.lines else []
  (match pSource w with
    | some r => ls r
    | none => [], ls (pDest w))
/-- Lines that a descriptor asks a peer for. -/
def Dev.descFetch (d : Dev) (c : EngCmd) (w : BitVec 512) : Option (Nat × List Nat) :=
  match pSource w with
  | none => none
  | some r => match d.spaceOf c r.space r.id with
    | .peer dev => some (dev, (((List.range r.rows).map fun k => linesOf (r.row k) r.len).flatten).eraseDups)
    | _ => none

/-- An earlier write of the channel is outstanding (R287, FENCE). -/
def Dev.chanBusy (d : Dev) (ch : Nat) : Bool :=
  !(d.remOf 0 ch).isEmpty || !(d.chan 0 ch).unsent.isEmpty || d.hostWr.any (fun w => decide (w.eng = 0) && decide (w.ch = ch)) ||
    (d.chan 0 ch).cmds.any fun c => !c.flights.isEmpty

/-- A command of the channel has failed with a status that halts it: no command starts in it any more (R279, R294). -/
def Channel.failing (c : Channel) : Bool := c.cmds.any fun x => x.fails.any fun f => haltsChannel f.status
/-- The command of a channel that goes on: the oldest that has a descriptor or, for a gather command, a start left. -/
def Dev.nextCmd (d : Dev) (eng ch : Nat) : Option EngCmd :=
  let x := d.chan eng ch
  match (if d.stopping then none else x.cmds.find? fun c => c.next.isSome && !c.abandoned) with
  | some c => if c.started || !x.failing then some c else none
  | none => none
/-- The descriptor that a channel reaches next, read from its record or from Local (R286): its command and bytes, or the
device with the command ended by an uncorrectable word. -/
def Dev.nextDesc (d : Dev) (ch : Nat) : Option (EngCmd × Nat × Except Dev (BitVec 512) × Dev) :=
  match d.nextCmd 0 ch with
  | none => none
  | some c =>
    match c.next with
    | none => none
    | some here =>
      if c.count = 0 then some (c, here, .ok c.record, d)
      else
        let n := d.placed c.ctx c.cluster c.cid
        let r := d.readWords (.loc n) (here / 8) 8
        match firstBad here (wordBytes r.1) with
        | some a =>
          let f : Fail := { pos := c.count, status := 0x35, tag := c.lastTag, addr := a, id := 0, space := 0 }
          some (c, here, .error (r.2.failDesc 0 ch c.k f), d)
        | none => some (c, here, .ok (BitVec.ofNat 512 (natOfBytes ((wordBytes r.1).map fun b => b.getD 0))), r.2)

/-- A command whose descriptor has been reached. -/
def EngCmd.reach (c : EngCmd) (w : BitVec 512) : EngCmd :=
  { c with started := true, count := c.count + 1, lastTag := pTAG w, next := if pNEXT w = 0 then none else some (pNEXT w),
           healing := none, fencing := false }

/-- The first line of ranges of Commons addresses, in order, that has to heal before its own words can be read (R296). -/
def Dev.rangesHeal (d : Dev) (rs : List (Nat × Nat)) : Option Nat :=
  rs.findSome? fun r => ((linesOf r.1 r.2).map fun l => lineOf (128 * l)).find? fun l =>
    d.needsHeal l && (d.badWords l).any fun k => decide (lineAddr l + 8 * k < r.1 + r.2) && decide (r.1 < lineAddr l + 8 * k + 8)
/-- The first uncorrectable word of a line that lies in a range. -/
def Dev.rangesBad (d : Dev) (l : Nat) (rs : List (Nat × Nat)) : Option Nat :=
  ((d.badWords l).map fun k => lineAddr l + 8 * k).find? fun a => rs.any fun r => decide (a < r.1 + r.2) && decide (r.1 < a + 8)
/-- Commons ranges of this device that a descriptor reads. -/
def Dev.srcRanges (d : Dev) (c : EngCmd) (w : BitVec 512) : List (Nat × Nat) :=
  match pSource w with
  | some r => if d.spaceOf c r.space r.id = .com then (List.range r.rows).map fun k => (r.row k, r.len) else []
  | none => []

/-- A milestone to this device is held until every earlier descriptor of the channel that writes it has been performed
(R290). -/
def Dev.stoneHeld (d : Dev) (ch : Nat) (c : EngCmd) (pos : Nat) (w : BitVec 512) : Bool :=
  decide (pOP w = 3) && (pFLAGS w).testBit 0 && decide (d.writesTo w = 4096) &&
  (d.chan 0 ch).cmds.any fun x => x.flights.any fun f => decide (d.writesTo f.desc = 4096) && streamBefore x.k f.pos c.k pos
/-- Descriptors of an operation that have started and can be performed now: their lines have all arrived from a peer. -/
def Dev.landable (d : Dev) (ch op : Nat) : List (EngCmd × Flight) :=
  ((d.chan 0 ch).cmds.map fun c => (c.flights.filter fun f =>
    f.need.isEmpty && f.heal.isNone && decide (pOP f.desc = op) && !(d.stoneHeld ch c f.pos f.desc)).map fun f => (c, f)).flatten
/-- Change a descriptor that has started. -/
def Dev.onFlight (d : Dev) (ch k pos : Nat) (f : Flight → Flight) : Dev :=
  d.onCmd 0 ch k fun x => { x with flights := x.flights.map fun y => if y.pos = pos then f y else y }
/-- Perform a descriptor that has started. One whose source heals waits (R296), and so does one that a line in transaction
holds up. One that has lost a partition since it was checked finds its addresses unmapped (R215). -/
def Dev.land (d : Dev) (ch : Nat) (c : EngCmd) (f : Flight) : Dev :=
  let all := d.descLines c f.desc
  match (if (all.1 ++ all.2).any fun l => (d.partAt (lineAddr l)).isNone then d.pCheck c f.desc 0 else none) with
  | some (st, a) =>
    ((d.onCmd 0 ch c.k fun x => { x with flights := x.flights.filter fun y => decide (y.pos ≠ f.pos) }).failDesc 0 ch c.k
      (mkFail f.pos f.desc st a)).pumpDie 0 ch
  | none =>
  match d.rangesHeal (d.srcRanges c f.desc) with
  | some l => (d.startHeal l).onFlight ch c.k f.pos fun y => { y with heal := some l }
  | none =>
    let ls := d.descLines c f.desc
    match d.heldLines (ls.1 ++ ls.2) with
    | some x => x
    | none =>
      ((d.onCmd 0 ch c.k fun x => { x with flights := x.flights.filter fun y => decide (y.pos ≠ f.pos) }).doDesc ch c f.pos f.desc f.got).pumpDie 0 ch
/-- Perform one of the descriptors of an operation that can be performed, in an order that is open (R284). -/
def Dev.landFlight (d : Dev) (ch op : Nat) : Option Dev :=
  match d.landable ch op with
  | [] => none
  | x :: xs =>
    let (i, d) := d.choose (xs.length + 1)
    let y := (x :: xs).getD i x
    some (d.land ch y.1 y.2)

/-- The Porter reaches a descriptor of an operation: it is checked and starts (R284 to R290). When it is performed is open
until a FENCE or a milestone comes: at once, or in a later row of its operation (R284). A descriptor of an unassigned
operation is reached by every row. `none` when there is no such descriptor to reach. -/
def Dev.porterNext (d : Dev) (ch op : Nat) : Option Dev :=
  match d.nextDesc ch with
  | none => none
  | some (_, _, .error x, _) => some x
  | some (c, here, .ok w, d') =>
    if pOP w ≠ op ∧ 1 ≤ pOP w ∧ pOP w ≤ 5 then none
    else some <|
      let pos := c.count
      match d'.pCheck c w here with
      | some (st, a) =>
        (d'.onCmd 0 ch c.k fun x => x.reach w).failDesc 0 ch c.k (mkFail pos w st a)
      | none =>
        if pOP w = 5 then
          if d'.chanBusy ch then d'.onCmd 0 ch c.k fun x => { x with started := true, fencing := true, lastTag := pTAG w }
          else d'.onCmd 0 ch c.k fun x => x.reach w
        else
          let start (need : List Nat) : Flight := { pos := pos, desc := w, need := need, got := [], heal := none }
          let (later, d) := d'.choose 2
          let d := d.onCmd 0 ch c.k fun x => { (x.reach w) with flights := x.flights ++ [start (((d.descFetch c w).map Prod.snd).getD [])] }
          match d.descFetch c w with
          | some (dev, ls) => d.addRems 0 ch (ls.map fun l => d.mkRem 0 ch c pos dev 3 0 0 (128 * l) 0 0 0 false (pTAG w))
          | none => if later = 1 ∨ d.stoneHeld ch c pos w then d else d.land ch c (start [])
/-- A row of an operation: a descriptor that has started is performed, or the next one is reached; which is open when both
can be. -/
def Dev.porterReach (d : Dev) (ch op : Nat) : Dev :=
  match d.landable ch op with
  | [] => (d.porterNext ch op).getD d
  | _ =>
    let (o, d) := d.choose 2
    match (if o = 1 then d.porterNext ch op else none) with
    | some x => x
    | none => (d.landFlight ch op).getD d

/-- A channel that some ordering code has. -/
def chOk (eng ch : Nat) : Bool := decide (ch < (if eng = 1 then 128 else 256))
/-- A row of the Porter. -/
def porterRow (ch op : Nat) (s : State) : Host.Outcome State Fault Refusal :=
  runDie (chOk 0 ch) s fun d => if d.full && decide (ch < d.chanCount 0) then d.porterReach ch op else d

/-- COPY. -/
def execCopy (ch : Nat) (s : State) : Host.Outcome State Fault Refusal := porterRow ch 1 s
/-- FILL. -/
def execFill (ch : Nat) (s : State) : Host.Outcome State Fault Refusal := porterRow ch 2 s
/-- WRITE_IMM. -/
def execWriteImm (ch : Nat) (s : State) : Host.Outcome State Fault Refusal := porterRow ch 3 s
/-- REDUCE. -/
def execReduce (ch : Nat) (s : State) : Host.Outcome State Fault Refusal := porterRow ch 4 s
/-- FENCE: later descriptors of the channel start once every earlier write has completed. -/
def execFence (ch : Nat) (s : State) : Host.Outcome State Fault Refusal := porterRow ch 5 s

/-- Engine of a row. -/
def engNo : Engine → Nat
  | .porter => 0
  | .gather => 1

/-- A command leaves the outbound queue of a cluster for its channel (R283): the k-th of the queue, when no earlier one
names the same channel and the channel's queue has room. A halted channel completes it at once (R294). -/
def execEngineCommandDequeue (n k : Nat) (s : State) : Host.Outcome State Fault Refusal :=
  runDie (decide (n < 384)) s fun d =>
    let q := (d.cl n).outq
    match q[k]? with
    | none => d
    | some o =>
      let eng := if o.gather then 1 else 0
      let ch := outChannel' o
      let ahead := (q.take k).any fun x => decide (x.gather = o.gather) && decide (outChannel' x = ch)
      let waiting := ((d.chan eng ch).cmds.filter fun x => !x.started).length
      if ahead ∨ waiting ≥ 64 then d
      else
        let c : EngCmd :=
          { k := (d.chan eng ch).nextK, cluster := n, tok := o.tok, record := o.record, addr := o.addr, ctx := o.ctx, func := o.func,
            epoch := o.epoch, pos := o.pos, seed := o.seed, cid := o.cid, started := false, next := some o.addr, count := 0, lastTag := 0,
            fails := [], flights := [], abandoned := false, fencing := false, healing := none, todo := [], fetch := [], rows := [], idx := [], ofs := [], wgt := [] }
        let d := d.onCl n fun x => { x with outq := q.eraseIdx k }
        if d.rb (oChan eng ch + 4) 0 then d.tokenDone c (engStatus eng 0x3A)
        else d.onChan eng ch fun x => { x with cmds := x.cmds ++ [c], nextK := x.nextK + 1 }
where
  /-- The channel that a queued command names. -/
  outChannel' (o : OutCmd) : Nat := if o.gather then bytesAt o.record 22 1 % 128 else bytesAt o.record 6 1

/-- Every descriptor of a command has completed: its token is DONE with the first failing status (R292). -/
def execPorterCommandComplete (ch k : Nat) (s : State) : Host.Outcome State Fault Refusal :=
  runDie (chOk 0 ch) s fun d =>
    match d.engCmd 0 ch k with
    | none => d
    | some c => if c.started && c.next.isNone && !c.abandoned && d.cmdIdle 0 ch c then d.endCmd 0 ch c else d

/-- CLEAR of a channel (R294): it ends the halt, and nothing else. -/
def Dev.clearChan (d : Dev) (eng ch : Nat) : Dev :=
  (d.setRb (oChan eng ch + 4) 0 false).onChan eng ch fun c => { c with bad := [] }
/-- A write of PTR_CH_CTL.CLEAR or GTH_CH_CTL.CLEAR. -/
def execClear (eng : Engine) (ch : Nat) (s : State) : Host.Outcome State Fault Refusal :=
  runDie (chOk (engNo eng) ch) s fun d => if ch < d.chanCount (engNo eng) then d.clearChan (engNo eng) ch else d

end Sys2Proof.Machine
end

