-- ==== Sys2Proof/Machine/Gather.lean ====
section
/-! DEFINITION. The gather engine (R300 to R305): how a command is checked, how its lists are read, how the rows that
arrive are pooled into their bags and written. -/
namespace Sys2Proof.Machine

/-! ## Descriptor fields (Table 10.7) -/

/-- POOL. -/
def gPOOL (w : BitVec 512) : Nat := bytesAt w 1 1
/-- TFMT. -/
def gTFMT (w : BitVec 512) : Nat := bytesAt w 2 1
/-- OFMT. -/
def gOFMT (w : BitVec 512) : Nat := bytesAt w 3 1
/-- FLAGS. -/
def gFLAGS (w : BitVec 512) : Nat := bytesAt w 4 1
/-- TSPACE. -/
def gTSPACE (w : BitVec 512) : Nat := bytesAt w 5 1
/-- TAG. -/
def gTAG (w : BitVec 512) : BitVec 16 := BitVec.ofNat 16 (bytesAt w 6 2)
/-- TABLE. -/
def gTABLE (w : BitVec 512) : Nat := bytesAt w 8 8
/-- IDX. -/
def gIDX (w : BitVec 512) : Nat := bytesAt w 16 8
/-- OFS. -/
def gOFS (w : BitVec 512) : Nat := bytesAt w 24 8
/-- WGT. -/
def gWGT (w : BitVec 512) : Nat := bytesAt w 32 8
/-- OUT. -/
def gOUT (w : BitVec 512) : Nat := bytesAt w 40 8
/-- ROWS. -/
def gROWS (w : BitVec 512) : Nat := bytesAt w 48 4
/-- NIDX. -/
def gNIDX (w : BitVec 512) : Nat := bytesAt w 52 4
/-- ROW_BYTES. -/
def gROW_BYTES (w : BitVec 512) : Nat := bytesAt w 56 2
/-- OUT_STRIDE, in bytes. -/
def gOUT_STRIDE (w : BitVec 512) : Nat := bytesAt w 58 2 * 32
/-- NBAGS. -/
def gNBAGS (w : BitVec 512) : Nat := bytesAt w 60 4
/-- Bytes of an index. -/
def gIdxBytes (w : BitVec 512) : Nat := if (gFLAGS w).testBit 1 then 8 else 4
/-- The format of a row or output element. -/
def gFmt (c : Nat) : Fmt :=
  if c = 0x01 then e4m3 else if c = 0x02 then e5m2 else if c = 0x10 then bf16 else if c = 0x11 then fp16 else fp32
/-- Elements of a row. -/
def gElems (w : BitVec 512) : Nat := gROW_BYTES w / ((gFmt (gTFMT w)).width / 8)
/-- Bytes of an output row. -/
def gOutBytes (w : BitVec 512) : Nat := gElems w * ((gFmt (gOFMT w)).width / 8)
/-- Output rows. -/
def gOutRows (w : BitVec 512) : Nat := if gPOOL w = 0 then gNIDX w else gNBAGS w
/-- Space code and identifier of OUT. -/
def gOutSpace (w : BitVec 512) : Nat × Nat := if (gOUT w).testBit 57 then (2, 0) else (1, gOUT w / 2 ^ 48 % 512)

/-! ## Checks -/

/-- BAD_DESC. -/
def gBad (w : BitVec 512) (clusters : Nat) : Bool :=
  let okT := decide (gTFMT w = 1 ∨ gTFMT w = 2 ∨ gTFMT w = 0x10 ∨ gTFMT w = 0x11 ∨ gTFMT w = 0x13)
  let okO := decide (gOFMT w = 0x10 ∨ gOFMT w = 0x11 ∨ gOFMT w = 0x13)
  decide (bytesAt w 0 1 ≠ 1) || decide (gPOOL w > 4) || !okT || !okO || (decide (gPOOL w = 0) && decide (gOFMT w ≠ gTFMT w))
    || decide (gFLAGS w / 32 ≠ 0) || decide (gTSPACE w < 2 ∨ gTSPACE w > 4) || decide (gTABLE w / 2 ^ 60 ≠ 0)
    || (decide (gTSPACE w ≠ 4) && decide (pID (gTABLE w) ≠ 0)) || decide (gIDX w / 2 ^ 55 ≠ 0) || decide (gOFS w / 2 ^ 48 ≠ 0)
    || decide (gWGT w / 2 ^ 48 ≠ 0) || (decide (gPOOL w = 0) && decide (gOFS w ≠ 0)) || (decide (gPOOL w ≠ 4) && decide (gWGT w ≠ 0))
    || decide (gOUT w / 2 ^ 58 % 4 ≠ 0) || ((gOUT w).testBit 57 && decide (gOUT w / 2 ^ 48 % 512 ≠ 0))
    || (!((gOUT w).testBit 57) && decide (gOUT w / 2 ^ 48 % 512 ≥ clusters)) || decide (gROWS w = 0) || decide (gNIDX w = 0)
    || decide (gNIDX w > 16777216) || decide (gROW_BYTES w < 32 ∨ gROW_BYTES w > 8192 ∨ gROW_BYTES w % 32 ≠ 0)
    || decide (gOUT_STRIDE w < gOutBytes w)
    || (if gPOOL w = 0 then decide (gNBAGS w ≠ 0) else decide (gNBAGS w = 0 ∨ gNBAGS w ≥ 2 ^ 24))

/-- Space code of a core address of a list (0 the issuer's Local, 2 the Commons). -/
def coreSpace (a : Nat) : Nat := if a ≥ commonsBase then 2 else 0
/-- The lists of a command: address and bytes of the indices, the offsets and the weights. -/
def gLists (w : BitVec 512) : List (Nat × Nat) :=
  [(pADDR (gIDX w), gNIDX w * gIdxBytes w)] ++
  (if gPOOL w = 0 then [] else [(gOFS w, 4 * (gNBAGS w + 1))]) ++ (if gPOOL w = 4 then [(gWGT w, 4 * gNIDX w)] else [])

/-- The breach of an alignment rule of R302. -/
def gMisaligned (w : BitVec 512) : Option At :=
  let l (a n : Nat) : Option At := if a % n ≠ 0 then some ⟨a, 0, coreSpace a⟩ else none
  match l (pADDR (gIDX w)) (gIdxBytes w), l (gOFS w) 4, l (gWGT w) 4 with
  | some a, _, _ => some a
  | none, some a, _ => some a
  | none, none, some a => some a
  | none, none, none =>
    if pADDR (gTABLE w) % 32 ≠ 0 then some ⟨pADDR (gTABLE w), pID (gTABLE w), gTSPACE w⟩
    else if pADDR (gOUT w) % 32 ≠ 0 then some ⟨pADDR (gOUT w), (gOutSpace w).2, (gOutSpace w).1⟩ else none

/-- The regions that fail R214 and R289: lists, table and output rows. -/
def Dev.gReach (d : Dev) (c : EngCmd) (w : BitVec 512) : List (Nat × At) :=
  let lists := (gLists w).filterMap fun x => d.rowReach c (coreSpace x.1) 0 x.1 x.2 false
  let table := d.regionReach c ⟨gTSPACE w, pADDR (gTABLE w), pID (gTABLE w), gROW_BYTES w, 1, gROWS w * gROW_BYTES w, false⟩
  let o := gOutSpace w
  lists ++ table ++ d.regionReach c ⟨o.1, pADDR (gOUT w), o.2, gOUT_STRIDE w, gOutRows w, gOutBytes w, true⟩

/-- Read a list: its bytes, or the first uncorrectable word. -/
def Dev.readList (d : Dev) (c : EngCmd) (addr n : Nat) : Except Nat (List Byte) × Dev :=
  let r := d.engRead (d.spaceOf c (coreSpace addr) 0) [] addr n
  match r.2.1 with
  | some a => (.error a.2, r.2.2)
  | none => (.ok (r.1.map fun b => b.getD 0), r.2.2)
/-- Unsigned integers of `n` bytes. -/
def natsOf (n : Nat) (bs : List Byte) : List Nat :=
  (List.range (bs.length / n)).map fun k => natOfBytes ((bs.drop (k * n)).take n)
/-- Bag offsets that do not decrease and end at NIDX (R302). -/
def offsetsOk (nidx : Nat) (o : List Nat) : Bool :=
  decide (o.getLast? = some nidx) && ((o.zip (o.drop 1)).all fun p => decide (p.1 ≤ p.2))

/-- What an index stands for: `none` is padding, `some none` is out of range. -/
def indexOf (w : BitVec 512) (v : Nat) : Option (Option Nat) :=
  if v = 256 ^ gIdxBytes w - 1 then some none
  else if v < gROWS w then some (some v)
  else if (gFLAGS w).testBit 2 then some none else none

/-! ## Pooling (R303, R304) -/

/-- A value divided by a count, rounded once to FP32. -/
def divCount (x : Num) (n : Nat) : Nat :=
  match x with
  | .fin s m e =>
    let q := m * 2 ^ 64 / n
    let sticky := if m * 2 ^ 64 % n = 0 then 0 else 1
    (fp32.round .ne false 0 (.fin s (2 * q + sticky) (e - 65))).1
  | y => (fp32.round .ne false 0 y).1
/-- One element of a bag: the contributions are (element, weight) in the order in which they are added. -/
def poolElem (pool : Nat) (f : Fmt) (xs : List (Nat × Half)) : Nat :=
  let acc (g : Num → Num → Half → Num) (a0 : Nat) : Nat :=
    xs.foldl (fun a x => (fp32.round .ne false 0 (g (fp32.decode a) (f.decode x.1) x.2)).1) a0
  if pool = 3 then
    match xs with
    | [] => 0
    | x :: rest =>
      (fp32.round .ne false 0 (rest.foldl (fun a y => a.minMax true (f.decode y.1)) (f.decode x.1))).1
  else if pool = 4 then acc (fun a x wt => (Num.sum false [a, (x.mul (fp32.decode wt.toNat)).1]).1) 0
  else
    let s := acc (fun a x _ => (Num.sum false [a, x]).1) 0
    if pool = 2 ∧ xs ≠ [] then divCount (fp32.decode s) xs.length else s
/-- The bytes of element e of a row. -/
def rowElem (f : Fmt) (row : List Byte) (e : Nat) : Nat := natOfBytes ((row.drop (e * (f.width / 8))).take (f.width / 8))
/-- One output row of a bag. -/
def poolRow (w : BitVec 512) (seed : Word) (r : Nat) (rows : List (List Byte × Half)) : List Byte :=
  let f := gFmt (gTFMT w)
  let o := gFmt (gOFMT w)
  let stoch := (gFLAGS w).testBit 4
  ((List.range (gElems w)).map fun e =>
    if rows.isEmpty then List.replicate (o.width / 8) 0
    else
      let a := poolElem (gPOOL w) f (rows.map fun x => (rowElem f x.1 e, x.2))
      let v := o.round (if stoch then .sr else .ne) false (srBits seed ((gTAG w).setWidth 32) r e) (fp32.decode a)
      toBytes (o.width / 8) (BitVec.ofNat o.width v.1)).flatten

/-! ## Commands -/

/-- A failure of a gather command. -/
def gFail (c : EngCmd) (status : Nat) (a : At) : Fail :=
  { pos := 0, status := status, tag := gTAG c.record, addr := a.addr, id := a.id, space := a.space }

/-- The output rows become open (INDEX_RANGE, R302). -/
def Dev.undefineOut (d : Dev) (c : EngCmd) : Dev :=
  let w := c.record
  let o := gOutSpace w
  match (d.spaceOf c o.1 o.2).mem? with
  | none => d
  | some sp => (List.range (gOutRows w)).foldl (fun d r =>
      let (bs, d) := d.freshBytes (gOutBytes w)
      (d.engPut (some c) sp (pADDR (gOUT w) + r * gOUT_STRIDE w) (bs.map some)).2) d

/-! ## Issuing the row fetches (R300, R304) -/

/-- The bag, or the output row, of a place in the index list. -/
def EngCmd.bagOf (c : EngCmd) (i : Nat) : Nat :=
  if gPOOL c.record = 0 then i else (c.ofs.filter fun o => decide (o ≤ i)).length - 1
/-- Places whose rows have not arrived. -/
def EngCmd.missing (c : EngCmd) : List Nat := c.fetch ++ c.todo
/-- A row of a place would be early: an earlier row of its bag has not arrived. -/
def EngCmd.isEarly (c : EngCmd) (i : Nat) : Bool := c.missing.any fun j => decide (j < i) && decide (c.bagOf j = c.bagOf i)
/-- Bytes of the reorder store that a command fills: with ORDERED, its early rows wait there. -/
def EngCmd.waitBytes (c : EngCmd) : Nat :=
  if (gFLAGS c.record).testBit 0 then ((c.rows.filter fun x => c.isEarly x.1).length) * gROW_BYTES c.record else 0
/-- Bags with a row issued and a row that has not arrived: their accumulators are in the pooling store. -/
def EngCmd.openBags (c : EngCmd) : List Nat :=
  if gPOOL c.record = 0 then []
  else (((c.fetch ++ c.rows.map Prod.fst).map c.bagOf).eraseDups).filter fun b => c.missing.any fun j => decide (c.bagOf j = b)
/-- Bytes of an accumulator of a bag: an FP32 for each element. -/
def EngCmd.bagBytes (c : EngCmd) : Nat := 4 * gElems c.record
/-- The gather commands of a die, with their channels. -/
def Dev.gCmds (d : Dev) (die : Nat) : List (Nat × EngCmd) :=
  ((d.chans.filter fun x => decide (1000 ≤ x.1) && decide (chanDie 1 (x.1 - 1000) = die)).map fun x =>
    x.2.cmds.map fun c => (x.1 - 1000, c)).flatten
/-- A sum over the gather commands of a die. -/
def Dev.gSum (d : Dev) (die : Nat) (f : EngCmd → Nat) : Nat := (d.gCmds die).foldl (fun n x => n + f x.2) 0
/-- The reorder store of a die, of 1 MiB, has no room for a further row of a command. -/
def Dev.reorderFull (d : Dev) (die : Nat) (c : EngCmd) : Bool :=
  decide (1048576 < d.gSum die EngCmd.waitBytes + gROW_BYTES c.record)
/-- The next row fetch of a command may be issued: the engine tracks at most 131,072, its reorder store is not full, and the
pooling store, of 4 MiB, has an accumulator for the row's bag. -/
def Dev.mayIssue (d : Dev) (die : Nat) (c : EngCmd) : Bool :=
  match c.todo with
  | [] => false
  | i :: _ =>
    !c.abandoned && c.healing.isNone && decide (d.gSum die (fun x => x.fetch.length) < 131072) && !(d.reorderFull die c) &&
    (decide (gPOOL c.record = 0) || c.openBags.contains (c.bagOf i) ||
      decide (d.gSum die (fun x => x.openBags.length * x.bagBytes) + c.bagBytes ≤ 4194304))
/-- Address of the row of a place. -/
def EngCmd.rowAddr (c : EngCmd) (i : Nat) : Nat := pADDR (gTABLE c.record) + ((c.idx.getD i none).getD 0) * gROW_BYTES c.record
/-- Issue the next row fetch of a command: lines of a peer are asked for with RD (R322). -/
def Dev.gIssue (d : Dev) (ch : Nat) (c : EngCmd) : Dev :=
  let w := c.record
  match c.todo with
  | [] => d
  | i :: rest =>
    let d := d.onCmd 1 ch c.k fun x => { x with todo := rest, fetch := x.fetch ++ [i] }
    match d.spaceOf c (gTSPACE w) (pID (gTABLE w)) with
    | .peer dev =>
      let ls := linesOf (c.rowAddr i) (gROW_BYTES w)
      (d.onCmd 1 ch c.k fun x => { x with flights := x.flights ++ [{ pos := i, desc := w, need := ls, got := [], heal := none }] }).addRems 1 ch
        (ls.map fun l => d.mkRem 1 ch c i dev 3 0 0 (128 * l) 0 0 0 false (gTAG w))
    | _ => d
/-- Issue what a die's gather engine can issue. -/
def Dev.gPump : Nat → Nat → Dev → Dev
  | 0, _, d => d
  | n + 1, die, d => match (d.gCmds die).find? fun x => d.mayIssue die x.2 with
    | none => d
    | some x => Dev.gPump n die (d.gIssue x.1 x.2)
/-- Issue row fetches on the die of a channel. -/
def Dev.gRun (d : Dev) (ch : Nat) : Dev :=
  let die := chanDie 1 ch
  Dev.gPump (d.gSum die fun c => c.todo.length) die d

/-- Issue row fetches on every die. -/
def Dev.gRunAll (d : Dev) : Dev := (List.range d.part.dies).foldl (fun (d : Dev) die => d.gRun (16 * die)) d

/-- The lists of a command are read and its row fetches begin. -/
def Dev.gBegin (d : Dev) (ch : Nat) (c : EngCmd) : Dev :=
  let w := c.record
  let (ri, d) := d.readList c (pADDR (gIDX w)) (gNIDX w * gIdxBytes w)
  let (ro, d) := if gPOOL w = 0 then ((.ok [] : Except Nat (List Byte)), d) else d.readList c (gOFS w) (4 * (gNBAGS w + 1))
  let (rw, d) := if gPOOL w = 4 then d.readList c (gWGT w) (4 * gNIDX w) else ((.ok [] : Except Nat (List Byte)), d)
  match ri, ro, rw with
  | .error a, _, _ => d.failDesc 1 ch c.k (gFail c 0x46 ⟨a, 0, coreSpace a⟩)
  | .ok _, .error a, _ => d.failDesc 1 ch c.k (gFail c 0x46 ⟨a, 0, coreSpace a⟩)
  | .ok _, .ok _, .error a => d.failDesc 1 ch c.k (gFail c 0x46 ⟨a, 0, coreSpace a⟩)
  | .ok bi, .ok bo, .ok bw =>
    let idx := (natsOf (gIdxBytes w) bi).map (indexOf w)
    match idx.findIdx? fun x => x.isNone with
    | some i => (d.undefineOut c).failDesc 1 ch c.k
        (gFail c 0x44 ⟨pADDR (gIDX w) + i * gIdxBytes w, 0, coreSpace (pADDR (gIDX w))⟩)
    | none =>
      let idx := idx.map fun x => x.getD none
      let ofs := natsOf 4 bo
      let pooled := fun i : Nat => decide (gPOOL w = 0) || decide (ofs.getD 0 0 ≤ i)
      let fetch := (List.range (gNIDX w)).filter fun i => pooled i && (idx.getD i none).isSome
      (d.onCmd 1 ch c.k fun x =>
        { x with idx := idx, ofs := ofs, wgt := (natsOf 4 bw).map (BitVec.ofNat 32), todo := fetch }).gRun ch

/-- Commons lines of the lists and, for the failure of INDEX_RANGE, of the output. -/
def Dev.gLines (d : Dev) (c : EngCmd) : List Nat × List Nat :=
  let w := c.record
  let o := gOutSpace w
  (((((gLists w).filter fun x => decide (x.1 ≥ commonsBase)).map fun x => (linesOf x.1 x.2).map fun l => lineOf (128 * l)).flatten).eraseDups,
   if d.spaceOf c o.1 o.2 = .com then (Region.lines ⟨2, pADDR (gOUT w), 0, gOUT_STRIDE w, gOutRows w, gOutBytes w, true⟩) else [])

/-- Commons ranges of the lists of a command. -/
def gRanges (w : BitVec 512) : List (Nat × Nat) := (gLists w).filter fun x => decide (x.1 ≥ commonsBase)
/-- The gather engine starts the next command of a channel and checks it (R301, R302). -/
def execGather (ch : Nat) (s : State) : Host.Outcome State Fault Refusal :=
  runDie (chOk 1 ch) s fun d =>
    if !(d.full && decide (ch < d.chanCount 1)) then d
    else match d.nextCmd 1 ch with
    | none => d
    | some c =>
      if c.healing.isSome then d
      else
        let w := c.record
        let self : At := ⟨c.addr, 0, 0⟩
        let start := fun d : Dev => d.onCmd 1 ch c.k fun x =>
          { x with started := true, next := none, count := 1, lastTag := gTAG w, healing := none }
        let fail (st : Nat) (a : At) : Dev := (start d).failDesc 1 ch c.k (gFail c st a)
        if gBad w d.part.clusters then fail 0x40 self
        else match gMisaligned w with
          | some a => fail 0x42 a
          | none =>
            let bad := d.gReach c w
            match bad.find? fun x : Nat × At => decide (x.1 = 0x33) with
            | some x => fail 0x43 x.2
            | none =>
              let (ls, out) := d.gLines c
              match d.rangesHeal (gRanges w) with
              | some l => (d.startHeal l).onCmd 1 ch c.k fun x => { x with started := true, lastTag := gTAG w, healing := some l }
              | none => match d.heldLines (ls ++ out) with
                | some x => x
                | none =>
                  let (ro, d') := if gPOOL w = 0 ∨ (d.rowReach c (coreSpace (gOFS w)) 0 (gOFS w) (4 * (gNBAGS w + 1)) false).isSome
                    then ((.error 0 : Except Nat (List Byte)), d) else d.readList c (gOFS w) (4 * (gNBAGS w + 1))
                  let badOfs := match ro with
                    | .ok bs => !(offsetsOk (gNIDX w) (natsOf 4 bs))
                    | .error _ => false
                  if badOfs then (start d').failDesc 1 ch c.k (gFail c 0x45 self)
                  else match bad.head? with
                    | some x => (start d').failDesc 1 ch c.k (gFail c (engStatus 1 x.1) x.2)
                    | none => (start d').gBegin ch c

/-- A row arrives (R303): from the Commons it is read at its home, from a peer once its lines have come (R322), from the host
with the bytes of the event. With ORDERED an early row waits outside while the reorder store is full (R304). An uncorrectable
word, or a failure at the host, ends the command. -/
def execRowFetchReturn (ch k i : Nat) (row : List (BitVec 8)) (failed : Bool) (s : State) : Host.Outcome State Fault Refusal :=
  runDie (chOk 1 ch) s fun d =>
    match d.engCmd 1 ch k with
    | none => d
    | some c =>
      let w := c.record
      if !(c.fetch.contains i) ∨ c.healing.isSome ∨ ((gFLAGS w).testBit 0 ∧ c.isEarly i ∧ d.reorderFull (chanDie 1 ch) c) then d
      else
        let a := c.rowAddr i
        let take := fun (d : Dev) (bs : List Byte) => (d.onCmd 1 ch k fun x =>
          { x with fetch := x.fetch.filter fun j => decide (j ≠ i)
                   flights := x.flights.filter fun f => decide (f.pos ≠ i)
                   rows := x.rows ++ [(i, bs)] }).gRun ch
        let fail := fun (d : Dev) (st : Nat) (at_ : At) => (d.failDesc 1 ch k (gFail c st at_)).gRun ch
        let read := fun (d : Dev) (sp : Space) (got : List (Nat × LineData)) (space id : Nat) =>
          match d.engRead sp got a (gROW_BYTES w) with
          | (_, some x, d) => fail d (engStatus 1 x.1) ⟨x.2, id, space⟩
          | (bs, none, d) => take d (bs.map fun b => b.getD 0)
        match d.spaceOf c (gTSPACE w) (pID (gTABLE w)) with
        | .com =>
          let ls := (linesOf a (gROW_BYTES w)).map fun l => lineOf (128 * l)
          match d.rangesHeal [(a, gROW_BYTES w)] with
          | some l => (d.startHeal l).onCmd 1 ch k fun x => { x with healing := some l }
          | none => match d.heldLines ls with
            | some x => x
            | none => read d .com [] 2 0
        | .host _ =>
          if failed then
            let (o, d) := d.choose 2
            let (k, d) := d.choose (gROW_BYTES w / 8)
            fail d (if o = 0 then 0x43 else 0x48) ⟨a + 8 * k, 0, 3⟩
          else take d ((List.range (gROW_BYTES w)).map fun j => row.getD j 0)
        | .peer dev => match c.flights.find? fun f => decide (f.pos = i) && f.need.isEmpty with
          | some f => read d (.peer dev) f.got 4 dev
          | none => d
        | .loc _ => d

/-- The rows of output row r, in the order in which they are added: list order with ORDERED, else arrival order. -/
def EngCmd.bagRows (c : EngCmd) (r : Nat) : List (List Byte × Half) :=
  let w := c.record
  let inBag := fun i : Nat =>
    if gPOOL w = 0 then decide (i = r) else decide (c.ofs.getD r 0 ≤ i) && decide (i < c.ofs.getD (r + 1) 0)
  let order : List (Nat × List Byte) :=
    if (gFLAGS w).testBit 0 then (List.range (gNIDX w)).filterMap fun i => c.rows.find? fun x => decide (x.1 = i) else c.rows
  (order.filter fun x => inBag x.1).map fun x => (x.2, c.wgt.getD x.1 0)

/-- Every output row is written and the token becomes DONE (R305). -/
def execGatherComplete (ch k : Nat) (s : State) : Host.Outcome State Fault Refusal :=
  runDie (chOk 1 ch) s fun d =>
    match d.engCmd 1 ch k with
    | none => d
    | some c =>
      if !c.started || c.next.isSome || c.abandoned || !(d.cmdIdle 1 ch c) then d
      else if !c.fails.isEmpty then d.endCmd 1 ch c
      else
        let w := c.record
        let o := gOutSpace w
        match d.heldLines (d.gLines c).2 with
        | some x => x
        | none =>
          let d := match (d.spaceOf c o.1 o.2).mem? with
            | none => d
            | some sp => (List.range (gOutRows w)).foldl (fun d r =>
                let rows := c.bagRows r
                let at_ := pADDR (gOUT w) + r * gOUT_STRIDE w
                if gPOOL w = 0 then
                  match rows with
                  | x :: _ => (d.engPut (some c) sp at_ (x.1.map some)).2
                  | [] =>
                    -- the manual does not say what the row of a padding index holds: zeros, or what was there
                    let (o, d) := d.choose 2
                    if o = 0 then (d.engPut (some c) sp at_ (List.replicate (gOutBytes w) (some 0))).2 else d
                else (d.engPut (some c) sp at_ ((poolRow w c.seed r rows).map some)).2) d
          (d.endCmd 1 ch c).gRun ch

/-- A source read that waited for healing goes on, or fails at the first of its own words that has not been healed (R296). -/
def execSourceHealWaitEnd (eng : Engine) (ch k : Nat) (healed : Bool) (s : State) : Host.Outcome State Fault Refusal :=
  runDie (chOk (engNo eng) ch) s fun d =>
    let e := engNo eng
    match d.engCmd e ch k with
    | none => d
    | some c =>
      match eng with
      | .porter => match c.flights.find? fun f => f.heal.isSome with
        | none => d
        | some f =>
          let l := f.heal.getD 0
          match (if healed then none else d.rangesBad l (d.srcRanges c f.desc)) with
          | some a => (d.failAt ch c f.desc (mkFail f.pos f.desc 0x35 ⟨a, 0, 2⟩)).pumpDie 0 ch
          | none => if healed && d.healing l then d else d.onFlight ch k f.pos fun y => { y with heal := none }
      | .gather => match c.healing with
        | none => d
        | some l =>
          let rs := if c.next.isSome then gRanges c.record else c.fetch.map fun i => (c.rowAddr i, gROW_BYTES c.record)
          match (if healed then none else d.rangesBad l rs) with
          | some a => ((d.onCmd e ch k fun x => { x with count := 1 }).failDesc e ch k (gFail c 0x46 ⟨a, 0, 2⟩)).gRun ch
          | none => if healed && d.healing l then d else (d.onCmd e ch k fun x => { x with healing := none }).gRun ch

/-- The command of a timed-out host command stops (R295): nothing of it that has not been sent is sent, what waited for
it goes on, and its token completes with ABANDONED once nothing of it is outstanding. -/
def execEngineAbandon (eng : Engine) (ch k : Nat) (s : State) : Host.Outcome State Fault Refusal :=
  runDie (chOk (engNo eng) ch) s fun d =>
    let e := engNo eng
    match d.engCmd e ch k with
    | none => d
    | some c =>
      if !c.abandoned then d
      else
        let d := d.onChan e ch fun x => { x with unsent := x.unsent.filter fun r => decide (r.k ≠ k) }
        let c' := { c with next := none, flights := [], todo := [], fetch := [], rows := [], healing := none, fencing := false }
        let d := d.onCmd e ch k fun _ => c'
        let d := d.pumpDie e ch
        let d := if e = 1 then d.gRun ch else d
        if d.cmdIdle e ch c' then
          (d.onChan e ch fun x => { x with cmds := x.cmds.filter fun y => decide (y.k ≠ k) }).tokenDone c (engStatus e 0x3B)
        else d

end Sys2Proof.Machine
end

