-- ==== Sys2Proof/Machine/LinkRx.lean ====
section
/-! DEFINITION. The receiving side of the links (R308 to R325): frames, training, the requests of peers, and what comes
back for this device's own. -/
namespace Sys2Proof.Machine

/-- A link that some ordering code has (R306). -/
def linkOk (l : Nat) : Bool := decide (l < 66)
/-- A link of this part that carries frames. -/
def Dev.linkLive (d : Dev) (l : Nat) : Bool := d.full && decide (l < d.part.links) && d.linkUp l && !d.linkTraining l

/-! ## Frames -/

/-- Send a NAK frame (R312): like a data frame it stays in the replay buffer until ACK covers it. With the buffer full it is
sent at a later frame that is discarded. -/
def Link.sendNak (x : Link) : Link :=
  if x.replay.length < 256 then { (x.keep 3 []) with discarding := true } else x
/-- A frame is discarded, with every later one until the missing one arrives: the first time a NAK is sent. -/
def Link.discard (x : Link) : Link := if x.discarding then x else x.sendNak
/-- A NAK for a frame that was not good: each such frame has one, so that a replay that goes wrong again is asked for again
(R312). -/
def Link.refuse (x : Link) : Link := x.sendNak
/-- LNK_CNT_FEC (R309): the symbols that the code has corrected, or a frame that it could not correct. -/
def Dev.countFec (d : Dev) (l : Nat) (f : Frame) : Dev :=
  if f.coded then d.bumpRf (oLink l + 0x10) 31 0 f.corrected else d.bumpRf (oLink l + 0x10) 63 32 1
/-- Credit and ACK of an accepted frame take effect (R311, R312). -/
def Dev.frameHead (d : Dev) (l : Nat) (f : Frame) : Dev :=
  (d.onLink l fun x =>
    { x with cr0 := x.cr0 + f.lv0.toNat, cr1 := x.cr1 + f.lv1.toNat, cr2 := x.cr2 + f.lv2.toNat }).ackFrames l f.ack
/-- A frame that is not good is counted and discarded, and a NAK is sent (R309, R312). -/
def Dev.badFrame (d : Dev) (l : Nat) (f : Frame) : Dev := ((d.countFec l f).onLink l Link.refuse).pumpLink l
/-- Forward a message that is for another device, once (R318): one that a relay has sent on goes no further, and a request
is then answered NAK_UNDELIV (R319). -/
def Dev.relay (d : Dev) (l : Nat) (m : LinkMsg) : Dev :=
  let o := oLink l + 4
  if d.rb o 28 || decide (d.rf o 21 10 = m.src.toNat) then d.forward m
  else if msgLv m = 1 then d.sendMsg (plainMsg 9 m.chan.toNat m.src.toNat m.dst.toNat m.addr.toNat m.req.toNat) else d
/-- A device whose loss was declared (R325) is reported by another: the head of the span counts the reporter as a witness. -/
def Dev.lostReport (d : Dev) (l dev src : Nat) : Dev := d.fault (origin 9 dev) 9 0 (origin 9 src) (8 + l) 0 0
/-- Collective control arrives (Table 11.4): a message for another device is relayed. The manual does not say how a notice is
laid out in the message. The model's own notices name a lost device (5), a lost member (3) and a failed collective (6) in
ADDR (DESIGN CHOICE, log entry 95), and its head counts them; that the members disagree (2); and the SEQ of a collective that a
member has abandoned (4), which the head then ends on the others (8). What READY and GO say comes with their own rows. -/
def Dev.takeColl (d : Dev) (l : Nat) (m : LinkMsg) : Dev :=
  if m.dst.toNat ≠ d.ownId ∨ !d.idValid then d.relay l m
  else
    let what := m.addr.toNat % 256
    let x := m.addr.toNat / 256
    let g := m.chan.toNat
    let report (sub : Nat) : Dev :=
      if g < 64 ∧ d.grpKind g ≠ 0 ∧ d.isHead g = true then
        d.fault (origin 12 g) 0x10 sub (origin 9 m.src.toNat) (8 + l) 0 (BitVec.ofNat 64 x)
      else d
    let sender := (List.range (d.grpRt g).members.length).find? fun i => decide ((d.grpRt g).device i = some m.src.toNat)
    if what = 5 then d.lostReport l x m.src.toNat
    else if what = 3 then report 1
    else if what = 6 then report 3
    else if g ≥ 64 ∨ d.grpKind g = 0 ∨ sender.isNone then d
    else if what = 4 ∧ d.isHead g = true then d.headAbandons g x sender
    else if what = 8 ∧ sender = some (d.grpHead g) then d.onGrpRt g fun y => y.endSeq x 8
    else if what = 2 ∧ sender = some (d.grpHead g) then d.onGrpRt g fun y => y.endFirst 2
    else d
/-- The messages of an accepted frame (R310): one that breaks the protocol is discarded. Collective control goes to the
collective engine at once, and its buffer space is free again. -/
def Dev.takeMsgs (d : Dev) (l : Nat) (ms : List LinkMsg) : Dev :=
  ms.foldl (fun d m =>
    if msgBad m then (d.linkEvent l 3).onLink l fun x => x.giveBack m
    else if m.kind = 0xB then (d.onLink l fun x => x.giveBack m).takeColl l m
    else d.onLink l fun x => { x with rxq := x.rxq ++ [m] }) d
/-- The messages that a data frame completes, and the one that continues into the next. -/
def Link.whole (x : Link) (f : Frame) : List LinkMsg × Option LinkMsg :=
  let ms := x.part.toList ++ f.msgs
  if f.cont then (ms.dropLast, ms.getLast?) else (ms, none)

/-- A data frame arrives: it is accepted in SEQ order, and discarded otherwise. One that overruns the receive buffer comes from
no sender that keeps to its credit (R311), and has no effect. -/
def execDataFrame (l : Nat) (f : Frame) (s : State) : Host.Outcome State Fault Refusal :=
  runDie (linkOk l) s fun d =>
    if !d.linkLive l then d
    else if !f.good then d.badFrame l f
    else if f.seq = (d.link l).rxSeq + 1 then
      if !((d.link l).room f.msgs) then d
      else
        let w := (d.link l).whole f
        ((((d.countFec l f).frameHead l f).onLink l fun x => { x with rxSeq := f.seq, discarding := false, part := w.2 }).takeMsgs l w.1).pumpLink l
    else ((d.countFec l f).onLink l Link.discard).pumpLink l
/-- An idle frame arrives: it carries SEQ, ACK and credit only. -/
def execIdleFrame (l : Nat) (f : Frame) (s : State) : Host.Outcome State Fault Refusal :=
  runDie (linkOk l) s fun d =>
    if !d.linkLive l then d else if !f.good then d.badFrame l f else ((d.countFec l f).frameHead l f).pumpLink l

/-- A retrain begins (R314): messages wait in the sender. -/
def Dev.startRetrain (d : Dev) (l : Nat) : Dev :=
  (d.setRb (oLink l + 4) 29 true).onLink l fun x => { x with farRate := none }

/-- A NAK frame arrives (R312): the frames after ACK are sent again; the eighth in a row for one frame retrains the link. One that
is out of order is discarded like any other frame that carries a number of its own. -/
def execNakFrame (l : Nat) (f : Frame) (s : State) : Host.Outcome State Fault Refusal :=
  runDie (linkOk l) s fun d =>
    if !d.linkLive l then d
    else if !f.good then d.badFrame l f
    else if f.seq ≠ (d.link l).rxSeq + 1 then ((d.countFec l f).onLink l Link.discard).pumpLink l
    else
      let d := (d.countFec l f).frameHead l f
      let x := d.link l
      let runs := if x.nakRun > 0 ∧ x.nakAck = f.ack then x.nakRun + 1 else 1
      let d := d.setLink l { x with nakAck := f.ack, nakRun := if runs ≥ 8 then 0 else runs,
                                    rxSeq := f.seq, discarding := false }
      let d := (d.bumpRf (oLink l + 0x18) 31 0 1).bumpRf (oLink l + 0x18) 63 32 x.replay.length
      if runs ≥ 8 then d.startRetrain l else d.pumpLink l

/-! ## Training -/

/-- A training frame (R307, R317): the far end's identifier, link number and highest rate step. -/
def execTrainingFrame (l : Nat) (t : Training) (s : State) : Host.Outcome State Fault Refusal :=
  runDie (linkOk l) s fun d =>
    if !(d.full && decide (l < d.part.links) && d.rb (oLink l) 0 && d.linkTraining l) then d
    else
      let o := oLink l + 4
      let peer := if t.switch then 0 else t.peer.toNat
      let far := if t.switch then 0 else t.peerLink.toNat
      let changed := (d.link l).trained && decide (d.rf o 21 10 ≠ peer ∨ d.rf o 27 22 ≠ far)
      let d := (((d.setRf o 21 10 peer).setRf o 27 22 far).setRb o 28 t.switch).setRf o 9 6 (t.working &&& ~~~ (d.link l).badLanes).toNat
      let d := d.onLink l fun x => { x with farRate := some t.rateMax.toNat, trained := true }
      if changed then d.linkEvent l 2 else d

/-- Lanes used of a set of working lanes: 4, 2 or 1 (R314). -/
def lanesUsed (w : BitVec 4) : Nat :=
  let n := ((List.range 4).filter fun k => w.getLsbD k).length
  if n = 4 then 4 else if n ≥ 2 then 2 else n
/-- Credit a link holds at its training: the 8 KiB reserved for each channel (R311), in units of 16 B. -/
def startCredit : Nat := 512
/-- A link that has trained afresh: each end starts with the credit of the reserved space, and returns the credit of the shared
72 KiB, divided among the channels in a way that is open. Messages that are still in the receive buffer take up shared space, and
their credit returns as they leave. -/
def Dev.freshLink (d : Dev) (l : Nat) (bad : BitVec 4) : Dev :=
  let x := d.link l
  let old := x.filled 0 + x.filled 1 + x.filled 2
  let (a, d) := d.choose (4608 - old + 1)
  let (b, d) := d.choose (4608 - old - a + 1)
  d.setLink l { Link.reset with
    cr0 := startCredit
    cr1 := startCredit
    cr2 := startCredit
    ret0 := a
    ret1 := b
    ret2 := 4608 - old - a - b
    owe := old - 4608
    badLanes := bad
    trained := x.trained
    rxq := x.rxq }

/-- A training or retrain ends on the largest working lane set (R314); with none, or with no training frame from the far
end, the link is down (R315). -/
def execRetrainComplete (l : Nat) (working : BitVec 4) (s : State) : Host.Outcome State Fault Refusal :=
  runDie (linkOk l) s fun d =>
    if !(d.full && decide (l < d.part.links) && d.linkTraining l) then d
    else
      let o := oLink l + 4
      let x := d.link l
      let ok := working &&& ~~~x.badLanes
      let n := lanesUsed ok
      let was := d.rf o 5 3
      let up := d.linkUp l
      match (if n = 0 then none else x.farRate) with
      | none =>
        let d := d.setRf o 9 6 ok.toNat
        if up then (d.linkDown l true).gRunAll else d.setRb o 29 false
      | some far =>
        let r := min far (d.rf (oLink l) 2 1)
        let d := (((((d.setRb o 0 true).setRf o 2 1 r).setRf o 5 3 n).setRf o 9 6 ok.toNat).setRb o 29 false)
        let d := if up then
            (d.setLink l { x with badLanes := ~~~ok }).bumpRf (oLink l + 0x18) 63 32 x.replay.length
          else d.freshLink l (~~~ok)
        let d := if up && decide (n < was) then d.linkEvent l 0 else d
        -- a peer that trains a link with this device is lost no longer (DEDUCED, log entry 96)
        let d := if d.rb o 28 then d else d.onLinks fun b => { b with lost := b.lost.filter fun p => decide (p ≠ d.rf o 21 10) }
        d.pumpLink l
/-- A new training of a link that is down, every 10 ms while EN is 1 (R315). -/
def execTrainingRetry (l : Nat) (s : State) : Host.Outcome State Fault Refusal :=
  runDie (linkOk l) s fun d =>
    if d.full && decide (l < d.part.links) && d.rb (oLink l) 0 && !d.linkUp l then d.startRetrain l else d
/-- A lane fails (R309): the link retrains without it. -/
def execLaneFailed (l lane : Nat) (s : State) : Host.Outcome State Fault Refusal :=
  runDie (linkOk l && decide (lane < 4)) s fun d =>
    if d.linkLive l then (d.onLink l fun x => { x with badLanes := setBit x.badLanes lane true }).startRetrain l else d
/-- Frame lock is lost for 2 µs (R314). -/
def execFrameLockLost (l : Nat) (s : State) : Host.Outcome State Fault Refusal :=
  runDie (linkOk l) s fun d => if d.linkLive l then d.startRetrain l else d

/-! ## Requests of peers -/

/-- A message at the head of its channel in a link's receive queue (R313), and the device without it: its buffer space is free,
and its credit is returned (R311). -/
def Dev.takeRx (d : Dev) (l : Nat) (m : LinkMsg) (kind : Nat) : Option Dev :=
  let x := d.link l
  if m.kind.toNat = kind ∧ (x.rxq.find? fun y => decide (msgLv y = msgLv m)) = some m then
    some (d.setLink l ({ x with rxq := eraseFirst x.rxq fun y => decide (y = m) }.giveBack m))
  else none
/-- Whether a twin link may carry a message (R326): it comes from the configured twin, and writes or reads. One that may not is
discarded (DEDUCED, log entry 97). -/
def Dev.twinCarries (d : Dev) (l : Nat) (m : LinkMsg) : Bool :=
  decide (l < 64) || (decide (m.src.toNat = d.rf 0x14000 12 1) && decide (m.kind = 1 ∨ m.kind = 3 ∨ m.kind = 7 ∨ m.kind = 8))
/-- Take a message and act on it; one for another device is relayed. `f` answers `none` when it cannot be taken yet. -/
def Dev.onRx (d : Dev) (l : Nat) (m : LinkMsg) (kind : Nat) (f : Dev → Option Dev) : Dev :=
  if !(d.full && decide (l < d.part.links)) then d
  else match d.takeRx l m kind with
  | none => d
  | some x =>
    if !(d.twinCarries l m) then x.pumpLink l
    else if m.dst.toNat ≠ d.ownId ∨ !d.idValid then (if l < 64 then (x.relay l m).pumpLink l else x.pumpLink l)
    else ((f x).map fun y => y.pumpLink l).getD d

/-- The tally entry of a source and channel. -/
def Dev.tally (d : Dev) (src chan : Nat) : Option Tally :=
  d.links.tallies.find? fun t => decide (t.src = src) && decide (t.chan = chan)
/-- Change a tally entry. -/
def Dev.onTally (d : Dev) (src chan : Nat) (f : Tally → Tally) : Dev :=
  d.onLinks fun b => { b with tallies := b.tallies.map fun t => if t.src = src ∧ t.chan = chan then f t else t }
/-- The device with a tally entry for a source and channel, or `none` when its tally die has none free (R323). -/
def Dev.withTally (d : Dev) (src chan : Nat) : Option Dev :=
  match d.tally src chan with
  | some _ => some d
  | none =>
    let die := fun s : Nat => s % d.part.dies
    if (d.links.tallies.filter fun t => decide (die t.src = die src)).length ≥ 1024 then none
    else some (d.onLinks fun b => { b with tallies := b.tallies ++ [{ src := src, chan := chan, performed := [], held := [] }] })
/-- A message back to the source of a request: over the twin link it came by, or by its route. -/
def Dev.reply (d : Dev) (l : Nat) (m : LinkMsg) (kind addr dlen : Nat) (data : Line) : Dev :=
  let r : LinkMsg :=
    { (plainMsg kind m.chan.toNat m.src.toNat d.ownId addr m.req.toNat) with dlen := BitVec.ofNat 3 dlen, data := data }
  if l < 64 then d.sendMsg r else d.onWire l r
/-- A request has been performed: its number is recorded and acknowledged (R323). -/
def Dev.performed (d : Dev) (l : Nat) (m : LinkMsg) : Dev :=
  (d.onTally m.src.toNat m.chan.toNat fun t => { t with performed := (m.req.toNat :: t.performed).take 4096 }).reply l m 8 1 0 0
/-- Request numbers that a milestone waits for. -/
def stoneNos (m : LinkMsg) : List Nat :=
  (List.range m.depth.toNat).map fun k => (m.req.toNat + 65536 - 1 - k) % 65536

/-- Bytes of a write of a peer, as an address and a run: 8 B, a line, or the bytes of a mask. -/
def wrWords (m : LinkMsg) : List (Nat × BitVec 8 × Word) :=
  let a := m.addr.toNat
  if m.dlen = 1 then byteWords a ((toBytes 8 m.data).map some)
  else
    let mask := if m.dlen = 3 then m.mask else BitVec.allOnes 128
    (List.range 16).filterMap fun k =>
      let b := fld mask (8 * k + 7) (8 * k)
      if b = 0 then none else some (a / 128 * 16 + k, BitVec.ofNat 8 b, BitVec.ofNat 64 (fld m.data (64 * k + 63) (64 * k)))
/-- The line of a message. -/
def msgLineNo (m : LinkMsg) : Nat := lineOf (m.addr.toNat / 128 * 128)

/-- The device after what a request for a line waits for, or `none` when the line is free (R342, R396). -/
def Dev.rxHeld (d : Dev) (l line : Nat) : Option Dev :=
  match d.healHold (.link l) line with
  | some x => some x
  | none => d.heldLines [line]
/-- Milestones of a source and channel whose earlier requests have all been performed are performed (R323). -/
def Dev.releaseStones : Nat → Nat → Nat → Dev → Dev
  | 0, _, _, d => d
  | n + 1, src, chan, d =>
    match d.tally src chan with
    | none => d
    | some t =>
      match t.held.find? fun h => (stoneNos h.2).all (fun k => t.performed.contains k) && (d.heldLines [msgLineNo h.2]).isNone with
      | none => d
      | some h =>
        let d := d.onTally src chan fun t => { t with held := eraseFirst t.held fun y => decide (y = h) }
        let line := msgLineNo h.2
        let d := ((d.killResv line).recallAll line false).notePage line
        Dev.releaseStones n src chan ((d.putWords8 .com (wrWords h.2)).2.performed h.1 h.2)
/-- Release what a channel's milestones wait for no more. -/
def Dev.release (d : Dev) (m : LinkMsg) : Dev :=
  match d.tally m.src.toNat m.chan.toNat with
  | some t => Dev.releaseStones t.held.length m.src.toNat m.chan.toNat d
  | none => d
/-- Release every milestone that waits for no more. -/
def Dev.releaseAll (d : Dev) : Dev :=
  (d.links.tallies.filter fun t => !t.held.isEmpty).foldl (fun d t => Dev.releaseStones t.held.length t.src t.chan d) d

/-- Perform a request of a peer: `act` performs it and says whether a word was uncorrectable. An address in no partition
is not performed and not answered (log entry 20); an uncorrectable word is answered with the error indication. -/
def Dev.request (d : Dev) (l : Nat) (m : LinkMsg) (x : Dev) (act : Dev → Bool × Dev) : Option Dev :=
  if (d.partAt m.addr.toNat).isNone then some x
  else match d.rxHeld l (msgLineNo m) with
  | some _ => none
  | none => match x.withTally m.src.toNat m.chan.toNat with
    | none => some (x.reply l m 0xA m.addr.toNat 0 0)
    | some x =>
      match act (x.healServed (.link l) (msgLineNo m)) with
      | (true, y) => some (y.reply l m 7 1 0 0)
      | (false, y) => some ((y.performed l m).release m)

/-- A request row: what the line waits for happens first. -/
def requestRow (l : Nat) (m : LinkMsg) (kind : Nat) (s : State) (act : Dev → Bool × Dev) : Host.Outcome State Fault Refusal :=
  runDie (linkOk l) s fun d =>
    match (if (d.takeRx l m kind).isSome && decide (m.dst.toNat = d.ownId) && (d.partAt m.addr.toNat).isSome
      then d.rxHeld l (msgLineNo m) else none) with
    | some x => x
    | none => d.onRx l m kind fun x => x.request l m x act

/-- `WR`: a peer's write is performed at the home slice (R322). -/
def execWr (l : Nat) (m : LinkMsg) (s : State) : Host.Outcome State Fault Refusal :=
  requestRow l m 1 s fun d =>
    let line := msgLineNo m
    let r := (((d.killResv line).recallAll line false).notePage line).putWords8 .com (wrWords m)
    (r.1.isSome, r.2)
/-- `ATM`: a peer's reduction (R310). An unassigned AOP breaks the protocol. -/
def execLinkAtm (l : Nat) (m : LinkMsg) (s : State) : Host.Outcome State Fault Refusal :=
  if redBytes m.aop.toNat = 0 then
    runDie (linkOk l) s fun d => d.onRx l m 2 fun x => some (x.linkEvent l 3)
  else requestRow l m 2 s fun d =>
    let mask := if m.dlen = 3 then m.mask else if m.dlen = 1 then BitVec.ofNat 128 (255 <<< (m.addr.toNat % 128 / 8 * 8))
      else BitVec.allOnes 128
    let data := if m.dlen = 1 then m.data <<< (8 * (m.addr.toNat % 128 / 8 * 8)) else m.data
    let r := d.reduceAt (msgLineNo m) m.aop.toNat [(mask, data)]
    (r.1.isSome, r.2)
/-- `RD`: a peer reads a line. A poisoned word in it gives the error indication (Table 14.4). -/
def execRd (l : Nat) (m : LinkMsg) (s : State) : Host.Outcome State Fault Refusal :=
  runDie (linkOk l) s fun d =>
    match (if (d.takeRx l m 3).isSome && decide (m.dst.toNat = d.ownId) && (d.partAt m.addr.toNat).isSome
      then d.rxHeld l (msgLineNo m) else none) with
    | some x => x
    | none => d.onRx l m 3 fun x =>
      if (x.partAt m.addr.toNat).isNone then some (x.reply l m 7 1 0 0)
      else if l ≥ 64 then
        -- a refetch of the twin (R326): it belongs to no channel, and takes no tally entry
        let (y, x) := (x.healServed (.link l) (msgLineNo m)).syncRead (msgLineNo m)
        some (if y.poison = 0 then x.reply l m 7 0 2 y.v else x.reply l m 7 1 0 0)
      else match x.withTally m.src.toNat m.chan.toNat with
        | none => some (x.reply l m 0xA m.addr.toNat 0 0)
        | some x =>
          let (y, x) := (x.healServed (.link l) (msgLineNo m)).syncRead (msgLineNo m)
          let x := x.onTally m.src.toNat m.chan.toNat fun t => { t with performed := (m.req.toNat :: t.performed).take 4096 }
          some ((if y.poison = 0 then x.reply l m 7 0 2 y.v else x.reply l m 7 1 0 0).release m)
/-- `MILESTONE`: it is held until the requests it names have been performed (R323). -/
def execMilestone (l : Nat) (m : LinkMsg) (s : State) : Host.Outcome State Fault Refusal :=
  runDie (linkOk l) s fun d => d.onRx l m 4 fun x =>
    if (x.partAt m.addr.toNat).isNone then some x
    else match x.withTally m.src.toNat m.chan.toNat with
      | none => some (x.reply l m 0xA m.addr.toNat 0 0)
      | some x => some ((x.onTally m.src.toNat m.chan.toNat fun t => { t with held := t.held ++ [(l, m)] }).release m)
/-- `CLOSE`: the tally entry is freed (R323). -/
def execClose (l : Nat) (m : LinkMsg) (s : State) : Host.Outcome State Fault Refusal :=
  runDie (linkOk l) s fun d => d.onRx l m 5 fun x =>
    some (x.onLinks fun b => { b with tallies := b.tallies.filter fun t => !(decide (t.src = m.src.toNat) && decide (t.chan = m.chan.toNat)) })
/-- `ABORT`: the held milestones of the channel are dropped (R324). -/
def execAbort (l : Nat) (m : LinkMsg) (s : State) : Host.Outcome State Fault Refusal :=
  runDie (linkOk l) s fun d => d.onRx l m 6 fun x => some (x.onTally m.src.toNat m.chan.toNat fun t => { t with held := [] })

/-! ## Answers to this device's requests -/

/-- The request that an answer names. -/
def Dev.findRem (d : Dev) (chan dst req : Nat) : Option RemReq := d.links.rem.find? fun r => r.is chan dst req
/-- A request has been performed at its target. -/
def Dev.doneRem (d : Dev) (r : RemReq) : Dev :=
  ((d.onRem fun l => l.filter fun x => decide (x ≠ r)).pumpDie r.eng r.ch).closeIfIdle r.eng r.ch r.chan r.dst
/-- A request completes with error, and what waited for its place is sent. -/
def Dev.endRem (d : Dev) (r : RemReq) (status : Nat) : Dev :=
  let d := (d.failRem r status).pumpDie r.eng r.ch
  if r.eng = 1 then d.gRun r.ch else d

/-- `RD_DATA` (R322): a line of read data, or the error indication, which ends the command with UNCORRECTABLE. -/
def execRdData (l : Nat) (m : LinkMsg) (s : State) : Host.Outcome State Fault Refusal :=
  runDie (linkOk l) s fun d => d.onRx l m 7 fun x =>
    if l ≥ 64 then
      -- the source line of a healing from the twin (R326); an error indication brings none
      some (if m.addr.getLsbD 0 then x else { x with heals := x.heals.map fun h =>
        if h.2.kind = 2 ∧ h.2.req = m.req.toNat then (h.1, { h.2 with got := some m.data }) else h })
    else
    match x.findRem m.chan.toNat m.src.toNat m.req.toNat with
    | none => some x
    | some r =>
      if m.addr.getLsbD 0 then some (x.endRem r (engStatus r.eng 0x35))
      else
        let line := r.msg.addr.toNat / 128
        let y := x.onCmd r.eng r.ch r.k fun c => { c with flights := c.flights.map fun f =>
          if f.pos = r.pos then
            { f with need := f.need.filter fun n => decide (n ≠ line), got := f.got ++ [(line, { v := m.data, poison := 0 })] }
          else f }
        let y := y.doneRem r
        some (if r.eng = 1 then y else (y.landFlight r.ch 1).getD ((y.landFlight r.ch 4).getD y))
/-- `WACK` (R323): the requests of the bitmap have been performed at the target. -/
def execWack (l : Nat) (m : LinkMsg) (s : State) : Host.Outcome State Fault Refusal :=
  runDie (linkOk l) s fun d => d.onRx l m 8 fun x =>
    some ((List.range 32).foldl (fun x i =>
      if m.addr.getLsbD i then
        match x.findRem m.chan.toNat m.src.toNat ((m.req.toNat + i) % 65536) with
        | some r => x.doneRem r
        | none => x
      else x) x)
/-- `NAK_UNDELIV` (R319): the request is sent on the next route. -/
def execNakUndeliv (l : Nat) (m : LinkMsg) (s : State) : Host.Outcome State Fault Refusal :=
  runDie (linkOk l) s fun d => d.onRx l m 9 fun x =>
    match x.findRem m.chan.toNat m.src.toNat m.req.toNat with
    | none => some x
    | some r =>
      let y := (x.sendRem r).pumpDie r.eng r.ch
      some (if r.eng = 1 then y.gRun r.ch else y)
/-- `NAK_BUSY` (R323): the request is sent again after 2 µs. -/
def execNakBusy (l : Nat) (m : LinkMsg) (s : State) : Host.Outcome State Fault Refusal :=
  runDie (linkOk l) s fun d => d.onRx l m 0xA fun x =>
    some (x.onRem fun rs => rs.map fun r =>
      if r.is m.chan.toNat m.src.toNat m.req.toNat then { r with refused := true, link := none } else r)
/-- A request refused with NAK_BUSY is sent again (R323). -/
def execNakBusyResend (chan dst req : Nat) (s : State) : Host.Outcome State Fault Refusal :=
  runDie (decide (chan < 256) && decide (dst < 4096) && decide (req < 65536)) s fun d =>
    match d.findRem chan dst req with
    | none => d
    | some r =>
      if !r.refused then d
      else if r.msg.kind = 4 ∧ (d.chan r.eng r.ch).bad.contains r.dst then d.endRem r 0x38
      else match d.routeOf r.dst (msgLine r.msg) r.chan [] false with
        | none => d.endRem r (d.remStatus r)
        | some (k, rel) =>
          (d.onRem fun rs => rs.map fun y => if y = r then { r with refused := false, link := some k, relayed := rel } else y).onWire k r.msg
/-- A request of unknown fate completes with LINK_ERROR at its attempt timeout (R319). -/
def execAttemptTimeout (chan dst req : Nat) (s : State) : Host.Outcome State Fault Refusal :=
  runDie (decide (chan < 256) && decide (dst < 4096) && decide (req < 65536)) s fun d =>
    match d.findRem chan dst req with
    | none => d
    | some r => d.endRem r (if d.remStatus r = 0x38 then 0x38 else linkError r.eng)

end Sys2Proof.Machine
end

