-- ==== Sys2Proof/Machine/Collective.lean ====
section
/-! DEFINITION. Groups, their heads and the collectives (R325, R329 to R337). -/
namespace Sys2Proof.Machine

/-! ## Lost members -/

/-- A member of a group is lost (R330, R331): the collectives in progress end with MEMBER_LOST, or with HEAD_LOST when
it was the head, and the next present member is the head from then on. -/
def Dev.memberLost (d : Dev) (g i : Nat) : Dev :=
  let x := d.grpRt g
  if x.lost.contains i then d
  else
    let wasHead := decide (d.grpHead g = i)
    let d := if d.rb (oGrp g + 0x10) 1 then d else (d.setRb (oGrp g + 0x10) 1 true).setRf (oGrp g + 0x10) 14 2 i
    let d := d.onGrpRt g fun x => { x with lost := x.lost ++ [i] }.endAll (if wasHead then 4 else 3)
    let d := if wasHead then
        (d.setRf (oGrp g + 4) 25 13 (d.grpRt g).headOf).setRb (oGrp g + 0x10) 0 true
      else d
    if d.isHead g then
      let d := d.grpFault g 1 i
      if wasHead then d.grpFault g 2 i else d
    else d.collSay g (d.grpHead g) 3 i

/-- The device at a span position, as the latest training of either link to it has found (R317). -/
def Dev.spanPeer (d : Dev) (j : Nat) : Option Nat :=
  let pos := d.rf oDevId 18 13
  let size := max 1 (d.rf oDevId 24 19)
  let l := 2 * ((j + 2 * size - pos - 1) % size)
  ([l, l + 1].find? fun k => (d.link k).trained).map fun k => d.rf (oLink k + 4) 21 10
/-- The present member of the span with the lowest position, if that is not this device (R316): one that has not been declared
lost, over a direct link or a relay. -/
def Dev.spanHead (d : Dev) : Option Nat :=
  (List.range (d.rf oDevId 18 13)).findSome? fun j =>
    match d.spanPeer j with
    | none => none
    | some p => if d.links.lost.contains p then none else some p

/-- A peer is declared lost (R325, R331): LNK_LOST, one record, and a report to the head of the span. -/
def execPeerLost (dev : Nat) (s : State) : Host.Outcome State Fault Refusal :=
  runDie (decide (dev < 4096)) s fun d =>
    if !d.full || !(d.rb (oRoute dev) 27) then d
    else
      let d := if d.rb 0x480004 0 then d else (d.setRf 0x480004 12 1 dev).setRb 0x480004 0 true
      let d := d.onLinks fun b => { b with lost := if b.lost.contains dev then b.lost else b.lost ++ [dev] }
      let l := d.rf (oRoute dev) 6 0
      let die := if l < 64 then linkDie l else 0
      let d := d.fault (origin 9 dev) 9 0 (origin 4 die) die 0 0
      let d := match d.spanHead with
        | some h => d.sendMsg (plainMsg 0xB 0 h d.ownId (5 + 256 * dev) 0)
        | none => d
      (List.range 64).foldl (fun d g =>
        if d.grpKind g = 0 then d
        else match (List.range (d.grpRt g).members.length).find? fun i =>
            decide ((d.grpRt g).device i = some dev) && decide (i ≠ d.grpSelf g) with
          | some i => d.memberLost g i
          | none => d) d

/-! ## The record (Table 11.12) -/

/-- OP. -/
def Coll.op (c : Coll) : Nat := bytesAt c.record 0 1
/-- REDOP. -/
def Coll.redop (c : Coll) : Nat := bytesAt c.record 1 1
/-- EFMT. -/
def Coll.efmt (c : Coll) : Nat := bytesAt c.record 2 1
/-- ORDER. -/
def Coll.order (c : Coll) : Nat := bytesAt c.record 3 1
/-- TAG. -/
def Coll.tag (c : Coll) : Nat := bytesAt c.record 6 2
/-- SRC. -/
def Coll.src (c : Coll) : Nat := bytesAt c.record 8 8
/-- DST. -/
def Coll.dst (c : Coll) : Nat := bytesAt c.record 16 8
/-- COUNT. -/
def Coll.count (c : Coll) : Nat := bytesAt c.record 24 4
/-- ROOT. -/
def Coll.root (c : Coll) : Nat := bytesAt c.record 28 2
/-- DONE. -/
def Coll.doneAt (c : Coll) : Nat := bytesAt c.record 32 8
/-- What every member must agree on (R334). -/
def Coll.key (c : Coll) : CollKey :=
  { seq := BitVec.ofNat 32 c.seq, op := BitVec.ofNat 8 c.op, redop := BitVec.ofNat 8 c.redop, efmt := BitVec.ofNat 8 c.efmt,
    order := BitVec.ofNat 8 c.order, count := BitVec.ofNat 32 c.count, root := BitVec.ofNat 16 c.root }
/-- Bytes of an element. -/
def Coll.elem (c : Coll) : Nat := if c.efmt = 0x10 ∨ c.efmt = 0x11 then 2 else 4
/-- Bytes of the whole input, and its lines. -/
def Coll.bytes (c : Coll) : Nat := c.count * c.elem
/-- L of R335. -/
def Coll.lines (c : Coll) : Nat := ceilDiv c.bytes 128
/-- First line of shard j of n (R335). -/
def Coll.shard (c : Coll) (n j : Nat) : Nat := j * c.lines / n
/-- Bytes of shard j of n that hold elements: offset and length. -/
def Coll.shardBytes (c : Coll) (n j : Nat) : Nat × Nat :=
  let lo := min c.bytes (c.shard n j * 128)
  (lo, min c.bytes (c.shard n (j + 1) * 128) - lo)
/-- Bytes that member i of n supplies: offset in the whole input, and length. -/
def Coll.input (c : Coll) (n i : Nat) : Nat × Nat := if c.op = 3 then c.shardBytes n i else (0, c.bytes)
/-- Lines of the output on member i of n. -/
def Coll.outLines (c : Coll) (n i : Nat) : Nat :=
  if c.op = 5 then 0 else if c.op = 2 then c.shard n (i + 1) - c.shard n i else c.lines

/-- Whether a run of lines lies in a store partition of a function. -/
def Dev.linesMapped (d : Dev) (func addr n : Nat) : Bool := decide (n = 0) || (d.commonsMapped func addr (128 * n)).isSome
/-- A record that breaks Table 11.12, or names memory that the group's function may not reach. -/
def Dev.collBad (d : Dev) (g : Nat) (c : Coll) : Bool :=
  let n := d.grpSize g
  let i := d.grpSelf g
  let f := d.grpFunc g
  let float := decide (c.efmt = 0x13 ∨ c.efmt = 0x10 ∨ c.efmt = 0x11)
  decide (c.op = 0 ∨ c.op > 5) ||
    (if c.op ≤ 2 then decide (c.redop = 0 ∨ c.redop > 3) else decide (c.redop ≠ 0)) ||
    (if c.op = 5 then decide (c.efmt ≠ 0) else !float && decide (c.efmt ≠ 0x1A)) ||
    decide (c.order > 2) || (decide (c.order = 2) && (decide (c.op > 2) || decide (c.redop ≠ 1) || !float)) ||
    decide (c.src % 128 ≠ 0 ∨ c.dst % 128 ≠ 0 ∨ c.doneAt % 8 ≠ 0) || decide (c.count = 0 ∨ c.count ≥ 2 ^ 31) ||
    (if c.op = 4 then decide (c.root ≥ n) else decide (c.root ≠ 0)) ||
    decide (bytesAt c.record 30 2 ≠ 0) || decide (bytesAt c.record 44 20 ≠ 0) || (d.commonsMapped f c.doneAt 8).isNone ||
    (decide (c.op ≠ 5) && (!(d.linesMapped f c.src (ceilDiv (c.input n i).2 128)) || !(d.linesMapped f c.dst (c.outLines n i))))

/-! ## READY and GO (R334) -/

/-- The oldest READY of each member that the head holds. -/
def GrpRt.firstReady (x : GrpRt) (n : Nat) : List (Nat × CollKey) :=
  (List.range n).filterMap fun i => x.ready.find? fun r => decide (r.1 = i)
/-- The head looks at the oldest READY of every member, once it holds one of each: with the next SEQ in all of them it sends GO
and looks at those behind them; where they disagree, or name another SEQ, it ends the collective on every member (DEDUCED, log
entry 107). -/
def Dev.readyOn (g : Nat) : Nat → Dev → Dev
  | 0, d => d
  | fuel + 1, d =>
    let x := d.grpRt g
    let here := x.firstReady (d.grpSize g)
    match here with
    | [] => d
    | r0 :: _ =>
      if !(d.isHead g) || decide (here.length ≠ d.grpSize g) then d
      else
        let d := d.onGrpRt g fun y => { y with
          nextSeq := y.nextSeq + 1
          ready := here.foldl (fun l r => eraseFirst l fun q => decide (q = r)) y.ready }
        match here.find? fun r => decide (r.2 ≠ r0.2) || decide (r.2.seq.toNat ≠ x.nextSeq) with
        | none =>
          Dev.readyOn g fuel ((d.onGrpRt g fun y => { y with colls := y.colls.map fun c =>
            if c.status.isNone ∧ c.seq = x.nextSeq then { c with going := true } else c }).collAll g 1 x.nextSeq none)
        | some r => Dev.readyOn g fuel (((d.onGrpRt g fun y => y.endFirst 2).collAll g 2 x.nextSeq none).grpFault g 3 r.1)
/-- The head looks for what it can start: at most four collectives of a group are outstanding on a member. -/
def Dev.tryGo (d : Dev) (g : Nat) : Dev := Dev.readyOn g 4 d
/-- READY of a member reaches the head. -/
def Dev.addReady (d : Dev) (g i : Nat) (k : CollKey) : Dev :=
  let x := d.grpRt g
  if x.ready.any fun r => decide (r.1 = i) && decide (r.2.seq = k.seq) then d
  else (d.onGrpRt g fun x => { x with ready := x.ready ++ [(i, k)] }).tryGo g
/-- `COLL` READY arrives at the head. -/
def execCollReady (g member : Nat) (r : CollKey) (s : State) : Host.Outcome State Fault Refusal :=
  runDie (grpOk g && decide (member < 4096)) s fun d =>
    if d.full && decide (d.grpKind g ≠ 0) && d.isHead g && decide (member < d.grpSize g) && decide (member ≠ d.grpSelf g)
        && (d.grpRt g).lost.isEmpty then d.addReady g member r
    else d
/-- `COLL` GO arrives at a member: the collective of that SEQ begins. -/
def execCollGo (g seq : Nat) (s : State) : Host.Outcome State Fault Refusal :=
  runDie (grpOk g) s fun d =>
    if d.full && decide (d.grpKind g ≠ 0) && !(d.isHead g) then
      d.onGrpRt g fun x => { x with colls := x.colls.map fun c =>
        if c.status.isNone ∧ c.seq = seq then { c with going := true } else c }
    else d

/-- A collective record is accepted or refused (R331, R333): the first component is what `s10` returns. -/
def Dev.startColl (d : Dev) (ctx func cid : Nat) (record : BitVec 512) : Word × Dev :=
  let g := bytesAt record 4 2
  if g ≥ 64 then (1, d)
  else
    let x := d.grpRt g
    if d.grpKind g = 0 ∨ d.grpFunc g ≠ func ∨ x.colls.length ≥ 4 then (1, d)
    else
      let c : Coll := { record := record, ctx := ctx, cid := cid, going := false, status := none }
      let status := if !x.lost.isEmpty then some 3 else if d.collBad g c then some 1 else none
      let d := d.onGrpRt g fun x => { x with colls := x.colls ++ [{ c with status := status }] }
      if status.isSome then (0, d)
      else if d.isHead g then (0, d.addReady g (d.grpSelf g) c.key)
      else (0, d.collSay g (d.grpHead g) 0 c.seq)

/-! ## Combining contributions (R335, R336) -/

/-- One contribution combined into an element: integer sums wrap, floating-point sums are rounded to nearest-even,
and min and max follow R185. -/
def collElem (redop efmt a b : Nat) : Nat :=
  if efmt = 0x1A then redElem (if redop = 1 then 1 else if redop = 2 then 3 else 4) a b
  else
    let f : Fmt := if efmt = 0x13 then fp32 else if efmt = 0x10 then bf16 else fp16
    if redop = 1 then (f.round .ne false 0 (Num.sum false [f.decode a, f.decode b]).1).1
    else (f.round .ne false 0 (Num.minMax (decide (redop = 3)) (f.decode a) (f.decode b))).1
/-- The elements of a run of bytes. -/
def elemsOf (e : Nat) (bs : List Byte) : List Nat :=
  (List.range (bs.length / max 1 e)).map fun k => natOfBytes ((bs.drop (k * e)).take e)
/-- Combine elements in the order given. -/
def collFold (redop efmt : Nat) : List Nat → Nat
  | [] => 0
  | x :: xs => xs.foldl (collElem redop efmt) x
/-- Sum elements exactly and round once. -/
def collExact (efmt : Nat) (xs : List Nat) : Nat :=
  let f : Fmt := if efmt = 0x13 then fp32 else if efmt = 0x10 then bf16 else fp16
  (f.round .ne false 0 (Num.sum false (xs.map f.decode)).1).1
/-- A free order of n contributions, and the device that has taken it. -/
def Dev.anyOrder (d : Dev) : Nat → List Nat → List Nat × Dev
  | 0, l => (l, d)
  | n + 1, l =>
    let (k, d) := d.choose l.length
    match l[k]? with
    | none => (l, d)
    | some x => let r := d.anyOrder n (l.eraseIdx k); (x :: r.1, r.2)
/-- Members grouped by span, in member order: consecutive members of one span stand together. -/
def spanGroups (span : Nat → Nat) : List Nat → List (List Nat)
  | [] => []
  | i :: is => match spanGroups span is with
    | [] => [[i]]
    | g :: gs => match g with
      | [] => [i] :: gs
      | j :: _ => if span i = span j then (i :: g) :: gs else [i] :: g :: gs
/-- Reduce one line: `vals i` are the elements of member i's contribution. In a hall the members of each span are combined
first (R336, Table 11.6). -/
def Dev.collLine (d : Dev) (c : Coll) (hall : Bool) (span : Nat → Nat) (n k : Nat) (vals : Nat → List Nat) : List Nat × Dev :=
  let at_ (i e : Nat) : Nat := (vals i).getD e 0
  let es := List.range k
  let ms := List.range n
  if c.order = 2 then (es.map fun e => collExact c.efmt (ms.map fun i => at_ i e), d)
  else if c.order = 1 then
    let gs := if hall then spanGroups span ms else [ms]
    (es.map fun e => collFold c.redop c.efmt (gs.map fun g => collFold c.redop c.efmt (g.map fun i => at_ i e)), d)
  else
    let gs := if hall then spanGroups span ms else [ms]
    let (gs, d) := gs.foldl (fun (acc : List (List Nat) × Dev) g =>
      let r := acc.2.anyOrder g.length g; (acc.1 ++ [r.1], r.2)) ([], d)
    let (o, d) := d.anyOrder gs.length (List.range gs.length)
    (es.map fun e => collFold c.redop c.efmt ((o.map fun k => gs.getD k []).map fun g => collFold c.redop c.efmt (g.map fun i => at_ i e)), d)
/-- Reduce the bytes [lo, lo + len) of the inputs, line by line. -/
def Dev.collReduce (d : Dev) (g : Nat) (c : Coll) (ins : Nat → List Byte) (lo len : Nat) : List Byte × Dev :=
  let x := d.grpRt g
  let hall := d.rb oDevId 25
  (List.range (ceilDiv len 128)).foldl (fun (acc : List Byte × Dev) l =>
    let a := lo + 128 * l
    let m := min 128 (lo + len - a)
    let r := acc.2.collLine c hall x.span (d.grpSize g) (m / c.elem) fun i => elemsOf c.elem (((ins i).drop a).take m)
    (acc.1 ++ (r.1.map fun v => toBytes c.elem (BitVec.ofNat 32 v)).flatten, r.2)) ([], d)

/-! ## The data of a collective -/

/-- The collective of a group that runs: the first that has not ended, once GO has come (R334). -/
def GrpRt.running (x : GrpRt) (op : Nat) : Option Coll :=
  match x.colls.find? fun c => c.status.isNone with
  | some c => if c.going ∧ c.op = op then some c else none
  | none => none
/-- A collective ends with a status; its done word is still to be written. -/
def Dev.collEnd (d : Dev) (g : Nat) (c : Coll) (status : Nat) : Dev :=
  d.onGrpRt g fun x => { x with colls := updFirst x.colls (fun y => decide (y = c)) fun y => { y with status := some status } }
/-- Write an output of whole lines; the bytes beyond the last element are open. -/
def Dev.collPut (d : Dev) (addr lines : Nat) (bs : List Byte) : Dev :=
  let (pad, d) := d.freshBytes (128 * lines - bs.length)
  (d.engPut none .com addr ((bs ++ pad).map some)).2
/-- Contributions of n members to lines are applied as Atm requests at their home slices (R249, R332): the copies of each line
are recalled, every contribution is counted there, and the line takes the reduced bytes. -/
def Dev.collAtm (d : Dev) (addr lines n : Nat) (bs : List Byte) : Dev :=
  (List.range lines).foldl (fun d k =>
    let line := lineOf (addr + 128 * k)
    let d := (d.killResv line).recallAll line true
    ((List.range n).foldl (fun (d : Dev) _ => d.countAtm line) d).collPut (addr + 128 * k) 1 ((bs.drop (128 * k)).take 128)) d

/-- Move the data of the running collective of an operation: `inputs` are the bytes that each member supplied, by
member index; this device's own come from its SRC. -/
def Dev.collMove (d : Dev) (g op : Nat) (inputs : List (List Byte)) : Dev :=
  match (d.grpRt g).running op with
  | none => d
  | some c =>
    let n := d.grpSize g
    let self := d.grpSelf g
    let mine := c.input n self
    let out := c.outLines n self
    if inputs.length ≠ n ∨ !((List.range n).all fun i => decide (i = self) ||
        (decide (op = 4) && decide (i ≠ c.root)) || decide ((inputs.getD i []).length = (c.input n i).2)) then d
    else if d.collBad g c then d.collEnd g c 1
    else match d.heldLines ((linesOf c.src mine.2 ++ linesOf c.dst (128 * out)).map fun l => lineOf (128 * l)) with
      | some x => x
      | none =>
        let (own, _, d) := d.engRead .com [] c.src (if op = 4 ∧ self ≠ c.root then 0 else mine.2)
        if own.any Option.isNone then d.collEnd g c 6
        else
          let ins (i : Nat) : List Byte := if i = self then own.map fun b => b.getD 0 else inputs.getD i []
          let (bs, d) :=
            if op = 1 then
              -- each shard is reduced by its owner, and every member gathers all of them
              (List.range n).foldl (fun (acc : List Byte × Dev) j =>
                let sh := c.shardBytes n j
                let r := acc.2.collReduce g c ins sh.1 sh.2; (acc.1 ++ r.1, r.2)) ([], d)
            else if op = 2 then let sh := c.shardBytes n self; d.collReduce g c ins sh.1 sh.2
            else if op = 3 then (((List.range n).map ins).flatten, d)
            else (ins c.root, d)
          let k := c.shard n (self + 1) - c.shard n self
          let first := if op = 1 then c.shard n self else 0
          -- this member reduces its own shard at its homes, and takes the other lines as its partners write them
          let d := if op ≤ 2 then d.collAtm (c.dst + 128 * first) k n ((bs.drop (128 * first)).take (128 * k)) else d
          let d := if op = 2 then d
            else if op = 1 then
              (d.collPut c.dst first (bs.take (128 * first))).collPut (c.dst + 128 * (first + k)) (out - (first + k)) (bs.drop (128 * (first + k)))
            else d.collPut c.dst out bs
          d.collEnd g c 0

/-- `ALL_REDUCE`. -/
def execAllReduce (g : Nat) (inputs : List (List (BitVec 8))) (s : State) : Host.Outcome State Fault Refusal :=
  runDie (grpOk g) s fun d => if d.full then d.collMove g 1 inputs else d
/-- `REDUCE_SCATTER`. -/
def execReduceScatter (g : Nat) (inputs : List (List (BitVec 8))) (s : State) : Host.Outcome State Fault Refusal :=
  runDie (grpOk g) s fun d => if d.full then d.collMove g 2 inputs else d
/-- `ALL_GATHER`. -/
def execAllGather (g : Nat) (inputs : List (List (BitVec 8))) (s : State) : Host.Outcome State Fault Refusal :=
  runDie (grpOk g) s fun d => if d.full then d.collMove g 3 inputs else d
/-- `BROADCAST`. -/
def execBroadcast (g : Nat) (inputs : List (List (BitVec 8))) (s : State) : Host.Outcome State Fault Refusal :=
  runDie (grpOk g) s fun d => if d.full then d.collMove g 4 inputs else d
/-- `BARRIER`: it completes on a member when GO has come. -/
def execBarrier (g : Nat) (s : State) : Host.Outcome State Fault Refusal :=
  runDie (grpOk g) s fun d =>
    if !d.full then d
    else match (d.grpRt g).running 5 with
      | some c => d.collEnd g c 0
      | none => d

/-- A collective completes on this member (R337): its done word is written. `status` says how the others ended one
that has not moved its data here: SEQ_MISMATCH, MEMBER_LOST, LINK_ERROR, UNCORRECTABLE or PARTNER_ABANDONED. After
any status but OK the output is open. -/
def execCollectiveComplete (g : Nat) (status : BitVec 8) (s : State) : Host.Outcome State Fault Refusal :=
  runDie (grpOk g) s fun d =>
    if !d.full then d
    else match (d.grpRt g).colls with
      | [] => d
      | c :: rest =>
        let st := match c.status with
          | some x => some x
          | none => if status = 2 ∨ status = 3 ∨ status = 5 ∨ status = 6 ∨ status = 8 then some status.toNat else none
        match st with
        | none => d
        | some x =>
          let func := d.grpFunc g
          let out := c.outLines (d.grpSize g) (d.grpSelf g)
          let mapped := (d.commonsMapped func c.doneAt 8).isSome && decide (c.doneAt % 8 = 0)
          let scramble := decide (x ≠ 0) && decide (c.dst % 128 = 0) && decide (out > 0) && d.linesMapped func c.dst out
          match d.heldLines (((if mapped then linesOf c.doneAt 8 else []) ++ (if scramble then linesOf c.dst (128 * out) else [])).map
              fun l => lineOf (128 * l)) with
          | some y => y
          | none =>
            let d := d.onGrpRt g fun y => { y with colls := rest }
            let d := if scramble then d.collPut c.dst out [] else d
            let word : Word := setFld (setFld (setFld (0 : Word) 63 32 c.seq) 31 16 c.tag) 7 0 x
            let d := if mapped then (d.engPut none .com c.doneAt ((toBytes 8 word).map some)).2 else d
            -- a collective failure is reported to the head, which raises it (R330)
            if x = 0 ∨ x = 3 ∨ x = 4 ∨ x = 2 then d
            else if d.isHead g then d.grpFault g 3 (d.grpSelf g) else d.collSay g (d.grpHead g) 6 (d.grpSelf g)

/-- The collectives of a command that ended by timeout end with ABANDONED: the head is told, or, being this device, ends them on
the other members (R337). -/
def Dev.abandonColls (d : Dev) (cid : Nat) : Dev :=
  (List.range 64).foldl (fun d g =>
    ((d.grpRt g).colls.filter fun c => decide (c.cid = cid) && c.status.isNone).foldl (fun (d : Dev) c =>
      let d := d.onGrpRt g fun x => x.endSeq c.seq 7
      if d.isHead g then d.headAbandons g c.seq none else d.collSay g (d.grpHead g) 4 c.seq) d) d

end Sys2Proof.Machine
end

