-- ==== Sys2Proof/Machine/Token.lean ====
section
/-! DEFINITION. The token instructions and the issues of waybills, copies, gathers and launches (R95, R107, R157
to R166, R283). -/
namespace Sys2Proof.Machine

/-- OP of an issue. -/
def issueOp : IssueKind → Nat
  | .mx => 0x32
  | _ => 0x34
/-- FN3 of an issue. -/
def issueFn : IssueKind → Nat
  | .mx => 0
  | .cp => 0
  | .gt => 1
  | .grp => 2
/-- SOURCE of the token word (Table 5.6). -/
def issueSource : IssueKind → Nat
  | .mx => 0
  | .cp => 1
  | .gt => 2
  | .grp => 3

/-- The traps of an issue that precede its copy (R78, R85, R95): the whole 64 bytes must lie in the cluster's own
Local, and a Guest's must lie in the context's share, as R206 asks of every Guest access to Local (ADDRESS_UNMAPPED; log entry
92). -/
def Dev.issueTrap (d : Dev) (a : Agent) (k : IssueKind) (f : FmtTK) : Option (Nat × Word) :=
  let addr := d.addrTK a f
  if f.rsv ≠ 0 ∨ (a.isGroup ∧ k = .grp) then some (cILLEGAL, encTK (issueOp k) (issueFn k) f)
  else if addr % 64 ≠ 0 then some (cMISALIGNED, BitVec.ofNat 64 addr)
  else if addr + 64 > localSize then some (cOPERAND, BitVec.ofNat 64 addr)
  else if (d.accessTrap a .load false true addr 64).isSome then some (cUNMAPPED, BitVec.ofNat 64 addr)
  else if ((d.cl a.cluster).tok f.tok.toNat).st = .pending then some (cBUSY, BitVec.ofNat 64 f.tok.toNat)
  else none

/-- The 64 bytes at a Local address, or the address of the first uncorrectable word (R95). -/
def Dev.copy64 (d : Dev) (n addr : Nat) : Except Nat (BitVec 512) × Dev :=
  (List.range 8).foldl (fun x k =>
    match x.1 with
    | .error e => (.error e, x.2)
    | .ok v => match x.2.readW (.loc n) (addr / 8 + k) 0 with
      | (some w, d) => (.ok (setFld v (64 * k + 63) (64 * k) w.toNat), d)
      | (none, d) => (.error (addr + 8 * k), d)) (.ok 0, d)

/-- Whether a core's earlier stores still keep an issue back: Local stores before the operand reads of a waybill
or a launch (R165), every store before a copy or gather (R269). -/
def Dev.issueWaits (d : Dev) (a : Agent) (k : IssueKind) : Bool :=
  let c := d.cl a.cluster
  match k with
  | .cp => !(c.q a.core).isEmpty || !c.buf.isEmpty
  | .gt => !(c.q a.core).isEmpty || !c.buf.isEmpty
  | _ => (c.q a.core).any fun e => e.runs.any fun r => decide (r.addr < localSize)

/-- Channel enabled and owned by the issuer's function (R282): `gather` chooses the engine. -/
def Dev.channelOk (d : Dev) (gather : Bool) (ch func : Nat) : Bool :=
  let o := if gather then oGather ch else oPorter ch
  decide (ch < (if gather then 16 else 32) * d.part.dies) && d.rb o 0 && decide (d.rf o 15 8 = func)

/-- The channel that a Porter or gather descriptor names (Tables 10.1 and 10.7). -/
def outChannel (gather : Bool) (w : BitVec 512) : Nat := if gather then bytesAt w 22 1 % 128 else bytesAt w 6 1

/-- Queue the work of an issue against its token (R95, R107, R153, R283). A channel that the issuer may not use
completes at once with BAD_CHANNEL. -/
def Dev.enqueue (d : Dev) (a : Agent) (k : IssueKind) (f : FmtTK) (w : BitVec 512) : Dev :=
  let tok := f.tok.toNat
  let n := a.cluster
  let c := d.cl n
  let ctx := c.s.ctx.toNat
  let func := c.s.func.toNat
  let tag : BitVec 16 := match k with
    | .mx => wTAG w
    | .grp => 0
    | .gt => BitVec.ofNat 16 (bytesAt w 6 2)
    | .cp => BitVec.ofNat 16 (bytesAt w 4 2)
  let c := c.claim tok a (issueSource k) tag c.s.epoch
  match k with
  | .mx =>
    let x : Waybill := { w := w, tok := tok, seed := c.srSeed, ctx := ctx, cid := c.cid,
                         fail := if c.mDead then some 0x0D else none, touched := [] }
    d.setCl n { c with wbq := c.wbq ++ [x] }
  | .grp =>
    let x : Launch := { id := d.nextCid, tok := tok, record := w, gtvec := (d.tr a).gtvec, gdeleg := (d.tr a).gdeleg,
                        checked := false, next := 0, resident := 0, trapped := false, stopped := false, cid := c.cid }
    { d.setCl n { c with launches := c.launches ++ [x] } with nextCid := d.nextCid + 1 }
  | _ =>
    let gather := decide (k = .gt)
    if d.channelOk gather (outChannel gather w) func then
      let x : OutCmd := { gather := gather, tok := tok, record := w, addr := d.addrTK a f, ctx := ctx, func := func,
                          epoch := c.s.epoch.setWidth 24, pos := d.posOf n, seed := c.srSeed, cid := c.cid }
      d.setCl n { c with outq := c.outq ++ [x] }
    else d.setCl n (c.complete tok c.cid (if gather then 0x41 else 0x31))

/-- An issue instruction. A full waybill queue makes `mx.issue` wait (R95); a full outbound queue, and stores that
must leave first, stall it (log entry 7). -/
def issueOut (a : Agent) (k : IssueKind) (f : FmtTK) (d : Dev) : Out :=
  match d.issueTrap a k f with
  | some (c, v) => .trap c v
  | none =>
    let c := d.cl a.cluster
    if k = .mx ∧ c.wbq.length ≥ 16 then .wait (d.setWait a (.queueRoom f))
    else if (k = .cp ∨ k = .gt) ∧ c.outq.length ≥ 16 then .stall
    else if d.issueWaits a k then .stall
    else match d.copy64 a.cluster (d.addrTK a f) with
      | (.error e, d) => .trapOn d cLOAD (BitVec.ofNat 64 e)
      | (.ok w, d) => .done (d.enqueue a k f w)

/-- `cp.issue`. -/
def execCpIssue (a : Agent) (f : FmtTK) (s : State) : Host.Outcome State Fault Refusal := instr4 a s (issueOut a .cp f)
/-- `gt.issue`. -/
def execGtIssue (a : Agent) (f : FmtTK) (s : State) : Host.Outcome State Fault Refusal := instr4 a s (issueOut a .gt f)
/-- `grp.start`. -/
def execGrpStart (a : Agent) (f : FmtTK) (s : State) : Host.Outcome State Fault Refusal := instr4 a s (issueOut a .grp f)
/-- `mx.issue`. `parity` is a parity block of the core found with more than one bad bit at this instruction. -/
def execMxIssue (a : Agent) (f : FmtTK) (parity : Bool) (s : State) : Host.Outcome State Fault Refusal :=
  run (Agent.ok a) s fun d =>
    if parity then (if d.ready a then d.internalError a else d) else d.issue a 4 (issueOut a .mx f)

/-- Whether a token belongs to the launch of a group (R161). -/
def Dev.ownLaunch (d : Dev) (a : Agent) (tok : Nat) : Bool :=
  match d.grp a with
  | none => false
  | some g => decide (g.tok = tok) && ((d.cl a.cluster).launches.any fun l => decide (l.id = g.launch))

/-- An agent that observes DONE has performed an acquire (R165, R269). -/
def Dev.sawToken (d : Dev) (a : Agent) (t : Token) : Dev := if t.st = .done then d.freshen a none else d
/-- `tok.wait` (R161). -/
def execTokWait (a : Agent) (f : FmtTK) (s : State) : Host.Outcome State Fault Refusal :=
  instr4 a s fun d =>
    let t := (d.cl a.cluster).tok f.tok.toNat
    if f.rsv ≠ 0 then .trap cILLEGAL (encTK 0x32 1 f)
    else if t.st = .pending ∧ !(d.ownLaunch a f.tok.toNat) then .wait (d.setWait a (.token f.ra.toNat f.tok.toNat))
    else .done ((d.sawToken a t).wr a f.ra.toNat t.word)
/-- `tok.test` (R162). -/
def execTokTest (a : Agent) (f : FmtTK) (s : State) : Host.Outcome State Fault Refusal :=
  instr4 a s fun d =>
    if f.rsv ≠ 0 then .trap cILLEGAL (encTK 0x32 2 f)
    else
      let t := (d.cl a.cluster).tok f.tok.toNat
      .done ((d.sawToken a t).wr a f.ra.toNat t.word)
/-- `tok.clr` (R163). -/
def execTokClr (a : Agent) (f : FmtTK) (s : State) : Host.Outcome State Fault Refusal :=
  instr4 a s fun d =>
    if f.rsv ≠ 0 ∨ f.ra ≠ 0 then .trap cILLEGAL (encTK 0x32 3 f)
    else if ((d.cl a.cluster).tok f.tok.toNat).st = .pending then .trap cBUSY (BitVec.ofNat 64 f.tok.toNat)
    else .done (d.onCl a.cluster fun c => c.setTok f.tok.toNat Token.free)

/-- The token that a `tok.wait` waits on has left PENDING: the wait returns the token word (R161). -/
def execTokWaitRelease (a : Agent) (s : State) : Host.Outcome State Fault Refusal :=
  run (Agent.ok a) s fun d =>
    match d.waitOf a with
    | .token rd tok =>
      let t := (d.cl a.cluster).tok tok
      if t.st = .pending ∨ (d.dbg a).halted then d
      else let d := d.setWait a .none; d.conclude a 4 (.done ((d.sawToken a t).wr a rd t.word))
    | _ => d

/-- Release an agent that waits for room in the waybill queue: its `mx.issue` proceeds (R95). -/
def Dev.queueRoom (d : Dev) (a : Agent) : Dev :=
  match d.waitOf a with
  | .queueRoom f =>
    if (d.cl a.cluster).wbq.length ≥ 16 ∨ (d.dbg a).halted then d
    else let d := d.setWait a .none; d.conclude a 4 (issueOut a .mx f d)
  | _ => d
/-- An entry of a full waybill queue frees: the waiting `mx.issue` proceeds, in the order S-core, V-core 0,
V-core 1 (R95, R153). -/
def execWaybillQueueRoom (n : Nat) (s : State) : Host.Outcome State Fault Refusal :=
  run (decide (n < 384)) s fun d => ((d.cl n).agents n).foldl Dev.queueRoom d

/-- Order in which the claims of one arbitration cycle are decided (R160). -/
def claimOrder (cs : List Claim) : List Claim :=
  (cs.filter fun c => decide (c.a.core = 0)) ++ (cs.filter fun c => decide (c.a.core = 1)) ++
    cs.filter fun c => decide (c.a.core = 2)
/-- The issue of a claim when some tokens have been claimed in the cycle already: a claim of one of them takes TOKEN_BUSY. -/
def claimOut (won : List Nat) (c : Claim) (d : Dev) : Out :=
  match d.issueTrap c.a c.kind c.f with
  | some (k, v) => .trap k v
  | none => if won.contains c.f.tok.toNat then .trap cBUSY (BitVec.ofNat 64 c.f.tok.toNat) else issueOut c.a c.kind c.f d
/-- Whether a claim wins its token as the device stands. -/
def Dev.winsToken (d : Dev) (won : List Nat) (c : Claim) : Bool :=
  d.ready c.a && (d.fetchTrap c.a 4).isNone && (d.fetchMiss c.a 4).isNone && (match claimOut won c d with
    | .done _ => true
    | _ => false)
/-- One arbitration cycle (R160): the claims of one cluster take effect in the order S-core, V-core 0, V-core 1.
A claim that finds its token PENDING, or claimed in the cycle, takes TOKEN_BUSY. -/
def execTokenArbitration (n : Nat) (claims : List Claim) (s : State) : Host.Outcome State Fault Refusal :=
  run (decide (n < 384) && claims.all fun c => Agent.ok c.a) s fun d =>
    ((claimOrder (claims.filter fun c => decide (c.a.cluster = n))).foldl (fun (x : Dev × List Nat) c =>
      (x.1.issue c.a 4 (claimOut x.2 c), if x.1.winsToken x.2 c then x.2 ++ [c.f.tok.toNat] else x.2)) (d, [])).1

end Sys2Proof.Machine
end

