-- ==== Sys2Proof/Machine/Keeper.lean ====
section
/-! DEFINITION. The shipped Keeper where the rules name what it does: the command loop (R93, R97, R189, R195, R372,
R382), and the services of `ecall` (R83, R84, R297, R333). -/
namespace Sys2Proof.Machine

/-- The 64 bytes of a command (Table 12.6). -/
def HostCmdWord (c : HostCmd) : BitVec 512 :=
  let w := setBytes (setBytes (setBytes (0 : BitVec 512) 0 1 c.op.toNat) 1 1 c.flags.toNat) 2 2 c.tag.toNat
  let w := setBytes (setBytes (setBytes w 4 2 c.cluster.toNat) 6 2 c.rsv0.toNat) 8 4 c.maxDur.toNat
  setBytes (setBytes (setBytes w 12 4 c.rsv1.toNat) 16 8 c.entry.toNat) 24 40 c.args.toNat

/-- Waiting time from acceptance to now (R379). -/
def Dev.waited (d : Dev) (q : CmdRec) : CmdRec × Dev :=
  let (now, d) := d.readDur 100
  ({ q with waitNs := (now - q.acc).toNat }, d)
/-- `wfc` returns with the oldest command of the cluster's queue (R93): its copy is in Local, CMD and `rd` hold its address, and
nothing else of the core changes. With it the command starts: every token is FREE (R159), the device clears YIELD (R99) and
invalidates the L1R (R218), and reads taken before the start do not serve the command (R271). -/
def Dev.takeCmd (d : Dev) (n rd : Nat) : Dev :=
  match (d.cl n).cmdq with
  | [] => d
  | q :: rest =>
    let (q, d) := d.waited q
    let epoch := (NMap.get d.ctxs CtxRt.reset q.ctx).epoch
    let (place, d) := d.fresh
    let slot := keeperArea + place.toNat % 0x3000 * 64
    let d := d.localPut n slot (toBytes 64 (HostCmdWord q.c))
    let d := (d.onCl n fun c =>
      { c.l1rInval with
        cmdq := rest
        tokens := []
        run := some { cid := d.nextCid, q := q, epoch := epoch, cluster := n, ns := 0, wbFailed := 0, wbToken := 0,
                      trap := none, ending := none, internal := false, moved := false }
        entering := true
        s := { c.s with cmd := BitVec.ofNat 64 slot, yield := false, wait := .none } }).freshenAll n
    { (d.wr (.sCore n) rd (BitVec.ofNat 64 slot)) with nextCid := d.nextCid + 1 }

/-- Scalar registers as the Keeper's own code leaves them: open values (log entry 31). -/
def Dev.keeperRegs (d : Dev) : NMap Word × Dev :=
  ((List.range 63).foldl (fun (m : NMap Word) i => NMap.set m 0 (i + 1) (Config.freeWord (d.free + i))) [],
    { d with free := d.free + 63 })

/-- The Keeper's loop takes the command that `wfc` returned with to its Guest entry point, when the S-core runs (log entry
102): CTX, FUNC, EPOCH, the trap registers of the context, the seed (R189), the flags (R195) and the deadline (R382). -/
def Dev.enterGuest (d : Dev) (n : Nat) : Dev :=
  let a := Agent.sCore n
  match (d.cl n).run with
  | none => d
  | some r =>
    if !((d.cl n).entering && d.ready a && decide ((d.cl n).s.level = .keeper) && !(d.dbg a).stepping) then d
    else
      let q := r.q
      let x := NMap.get d.ctxs CtxRt.reset q.ctx
      let func := d.rf (oCtx q.ctx) 8 1
      let (ran, d) := d.fresh
      let (regs, d) := d.keeperRegs
      let d := d.setReg (oClu n + 0x20) 0
      let d := if d.rtAdmitted q.ctx then
        (d.setRf (oClu n + 0x40) 27 16 (d.rf (oCtx q.ctx + 0x58) 51 40)).setRb (oClu n + 0x40) 28 true else d
      let d := (d.endResv a).onCl n fun c =>
        { c with
          entering := false
          srSeed := NMap.get c.seeds 0 q.ctx
          s := { c.s with
            regs := regs
            pc := BitVec.ofNat 48 q.c.entry.toNat
            level := .guest
            ctx := BitVec.ofNat 64 q.ctx
            func := BitVec.ofNat 64 func
            epoch := BitVec.ofNat 64 r.epoch.toNat
            tr := { c.s.tr with
              tpc := q.c.entry
              tstatus := setBit (setBit c.s.tr.tstatus 0 false) 2 false
              gtvec := x.gtvec
              gdeleg := x.gdeleg }
            ecallTr := none
            retired := c.s.retired + BitVec.ofNat 64 (fld ran 15 0) } }
      if q.c.entry.toNat % 4 = 0 then d else (d.trap a cMISALIGNED q.c.entry).settle n

/-- The cluster's S-core waits in `wfc`. -/
def Cluster.inWfc (c : Cluster) : Bool :=
  match c.s.wait with
  | .wfc _ => true
  | _ => false

/-- `wfc` (R79, R93). While a command is still ending, the Keeper does not come to it. -/
def execWfc (a : Agent) (f : FmtSY) (s : State) : Host.Outcome State Fault Refusal :=
  instr4 a s fun d =>
    match a with
    | .group _ _ _ => .trap cILLEGAL (encSY 9 f)
    | .sCore n =>
      if (d.cl n).s.level = .guest then .trap cPRIVILEGE (encSY 9 f)
      else if (d.cl n).run.isSome then .stall
      else if (d.cl n).cmdq.isEmpty ∨ d.blocked then .wait (d.setWait a (.wfc f.rd.toNat))
      else .done (d.takeCmd n f.rd.toNat)

/-- A command reaches the cluster's slot in Local, and a waiting `wfc` returns (R97). -/
def execCommandDelivery (n : Nat) (s : State) : Host.Outcome State Fault Refusal :=
  run (decide (n < 384)) s fun d =>
    match (d.cl n).s.wait with
    | .wfc rd =>
      if d.running n && !(d.dbg (.sCore n)).halted && !(d.cl n).cmdq.isEmpty && !d.blocked then
        d.conclude (.sCore n) 4 (.done (d.takeCmd n rd))
      else d
    | _ => d

/-! ## Services of the Keeper -/

/-- The service that s10 selects: what s10 becomes, and its effects. -/
def Dev.service (d : Dev) (n : Nat) : Word × Dev :=
  let a := Agent.sCore n
  let what := (d.rd a 10).toNat
  let arg := (d.rd a 11).toNat
  let s := (d.cl n).s
  let clear : Nat → Word × Dev := fun eng =>
    if arg < d.chanCount eng ∧ d.rf (oChan eng arg) 15 8 = s.func.toNat then ((0 : Word), d.clearChan eng arg) else (1, d)
  if what = 0x0101 then clear 0
  else if what = 0x0102 then clear 1
  else if what = 0x0201 then
    if arg % 64 = 0 ∧ d.inShare s.ctx.toNat arg 64 = true then
      match d.copy64 n arg with
      | (Except.ok w, d) => d.startColl s.ctx.toNat s.func.toNat (d.cl n).cid w
      | (Except.error _, d) => (1, d)
    else (1, d)
  else (BitVec.allOnes 64, d)

/-- `ecall` (R83, R84): from Guest level the Keeper's service changes s10 and nothing else of the core, and the Guest
goes on at the next instruction; the trap itself ends the reservation. Where the debug block halts on the trap it stands at
KTVEC, and the service follows when the core resumes (R103). At Keeper level it is a trap to KTVEC. -/
def ecallOp (a : Agent) (f : FmtSY) (d : Dev) : Out :=
  match a with
  | .group _ _ _ => .trap cILLEGAL (encSY 4 f)
  | .sCore n =>
    let x := d.dbg a
    if (d.cl n).s.level = .keeper ∨ x.onTrap ∨ x.stepping ∨ x.haltReq then .trap cECALL 0
    else
      let (v, d) := d.service n
      .wait (((d.endResv a).wr a 10 v).setPc a (d.pc a + 4))

/-- `ecall` with s10 = 0x0101. -/
def execClearPorterChannel (a : Agent) (f : FmtSY) (s : State) : Host.Outcome State Fault Refusal := instr4 a s (ecallOp a f)
/-- `ecall` with s10 = 0x0102. -/
def execClearGatherChannel (a : Agent) (f : FmtSY) (s : State) : Host.Outcome State Fault Refusal := instr4 a s (ecallOp a f)
/-- `ecall` with s10 = 0x0201. -/
def execStartCollective (a : Agent) (f : FmtSY) (s : State) : Host.Outcome State Fault Refusal := instr4 a s (ecallOp a f)
/-- `ecall` with an unassigned value in s10. -/
def execEcallUnassignedService (a : Agent) (f : FmtSY) (s : State) : Host.Outcome State Fault Refusal :=
  instr4 a s (ecallOp a f)

end Sys2Proof.Machine
end

