-- ==== Sys2Proof/Machine/System.lean ====
section
/-! DEFINITION. System registers (R74, R75, Tables 3.2 and 3.3), `eret`, `ebreak`, the fences and `cmd.done`
(R82, R92, R94, R101, R263, R267). -/
namespace Sys2Proof.Machine

/-! ## System registers -/

/-- Who may reach a system register at a level: nothing, reads only, or both (Table 3.2). -/
inductive CsrAcc where
  | none | ro | rw
  deriving DecidableEq, Repr

/-- Access to a system register, `Option.none` for an unassigned number (Table 3.2). -/
def csrAccess (num : Nat) (lvl : Level) : Option CsrAcc :=
  let k := decide (lvl = .keeper)
  if num = 0 ∨ num = 1 then some .ro
  else if num = 2 ∨ num = 3 ∨ num = 4 then some (if k then .rw else .ro)
  else if num = 8 ∨ num = 9 ∨ num = 0xA ∨ num = 0xB then some .ro
  else if 0x10 ≤ num ∧ num ≤ 0x13 then some .ro
  else if num = 0x20 ∨ num = 0x40 ∨ num = 0x41 then some .rw
  else if num = 0x42 then some (if k then .rw else .ro)
  else if num = 0x80 ∨ num = 0x81 ∨ num = 0x82 then some .rw
  else if num = 0x83 then some (if k then .rw else .ro)
  else if num = 0xC0 ∨ num = 0xC1 then some (if k then .rw else .none)
  else none

/-- Read a system register. Reserved bits of TSTATUS read an open value (R14). -/
def Dev.csrRead (d : Dev) (a : Agent) (num : Nat) : Word × Dev :=
  let c := d.cl a.cluster
  let s := c.s
  let t := d.tr a
  if num = 0 then (BitVec.ofNat 64 a.cluster, d)
  else if num = 1 then (BitVec.ofNat 64 a.core, d)
  else if num = 2 then (s.ctx, d)
  else if num = 3 then (s.func, d)
  else if num = 4 then (s.epoch, d)
  else if num = 8 then d.readDur (dieOf a.cluster)
  else if num = 9 then ((if a.core = 0 then s.retired else if a.core = 1 then c.v0Retired else c.v1Retired), d)
  else if num = 0xA then (BitVec.ofNat 64 (bit s.yield), d)
  else if num = 0xB then (s.cmd, d)
  else if 0x10 ≤ num ∧ num ≤ 0x13 then (d.reg (8 * (num - 0x10)), d)
  else if num = 0x20 then (c.srSeed, d)
  else if num = 0x40 then (t.gtvec, d)
  else if num = 0x41 then (t.gscratch, d)
  else if num = 0x42 then (t.gdeleg, d)
  else if num = 0x80 then (t.tcause, d)
  else if num = 0x81 then (t.tpc, d)
  else if num = 0x82 then (t.tval, d)
  else if num = 0x83 then
    let (x, d) := d.fresh
    (setFld x 2 0 (fld t.tstatus 2 0), d)
  else if num = 0xC0 then (s.ktvec, d)
  else if num = 0xC1 then (s.kscratch, d)
  else (0, d)

/-- Write a system register that the level may write. CTX, FUNC and EPOCH keep the bits their ranges need, and
TSTATUS its three fields. SR_SEED is one register of the cluster: the other cores see a write of it at once (DESIGN CHOICE, log entry
116). -/
def Dev.csrWrite (d : Dev) (a : Agent) (num : Nat) (v : Word) : Dev :=
  let n := a.cluster
  let t := d.tr a
  if num = 2 then d.onS n fun s => { s with ctx := BitVec.ofNat 64 (fld v 5 0) }
  else if num = 3 then d.onS n fun s => { s with func := BitVec.ofNat 64 (fld v 7 0) }
  else if num = 4 then d.onS n fun s => { s with epoch := v }
  else if num = 0x20 then d.onCl n fun c => { c with srSeed := v }
  else if num = 0x40 then d.setTr a { t with gtvec := v }
  else if num = 0x41 then d.setTr a { t with gscratch := v }
  else if num = 0x42 then d.setTr a { t with gdeleg := v }
  else if num = 0x80 then d.setTr a { t with tcause := v }
  else if num = 0x81 then d.setTr a { t with tpc := v }
  else if num = 0x82 then d.setTr a { t with tval := v }
  else if num = 0x83 then d.setTr a { t with tstatus := BitVec.ofNat 64 (fld v 2 0) }
  else if num = 0xC0 then d.onS n fun s => { s with ktvec := v }
  else if num = 0xC1 then d.onS n fun s => { s with kscratch := v }
  else d

/-- A system register instruction (R74): `w` gives the new value from the old one and RS1, or nothing. -/
def csrOp (a : Agent) (f : FmtSY) (fn4 : Nat) (w : Option (Word → Word → Word)) (d : Dev) : Out :=
  let num := f.sys.toNat
  match csrAccess num (d.level a) with
  | none => .trap cILLEGAL (encSY fn4 f)
  | some .none => .trap cPRIVILEGE (BitVec.ofNat 64 num)
  | some acc =>
    match w with
    | none => let (old, d) := d.csrRead a num; .done (d.wr a f.rd.toNat old)
    | some g =>
      if acc = .ro then .trap cILLEGAL (encSY fn4 f)
      else
        let x := d.rd a f.rs1.toNat
        let (old, d) := d.csrRead a num
        .done ((d.csrWrite a num (g old x)).wr a f.rd.toNat old)

/-- `csrr`. -/
def execCsrr (a : Agent) (f : FmtSY) (s : State) : Host.Outcome State Fault Refusal := instr4 a s (csrOp a f 0 none)
/-- `csrw`. -/
def execCsrw (a : Agent) (f : FmtSY) (s : State) : Host.Outcome State Fault Refusal :=
  instr4 a s (csrOp a f 1 (some fun _ x => x))
/-- `csrs`. -/
def execCsrs (a : Agent) (f : FmtSY) (s : State) : Host.Outcome State Fault Refusal :=
  instr4 a s (csrOp a f 2 (some fun old x => old ||| x))
/-- `csrc`. -/
def execCsrc (a : Agent) (f : FmtSY) (s : State) : Host.Outcome State Fault Refusal :=
  instr4 a s (csrOp a f 3 (some fun old x => old &&& ~~~x))

/-! ## Trap return and breakpoint -/

/-- `eret` (R82, R136): the PC becomes TPC, the level PPRIV, DELEGATED is cleared; at Guest level it stays at
Guest (R79). It ends the agent's reservation (R275). -/
def execEret (a : Agent) (_f : FmtSY) (s : State) : Host.Outcome State Fault Refusal :=
  instr4 a s fun d =>
    let t := d.tr a
    match targetTrap t.tpc with
    | some c => .trap c t.tpc
    | none =>
      let d := (d.endResv a).setTr a t.ret
      let d := match a with
        | .sCore n =>
          let up := decide ((d.cl n).s.level = .keeper) && bitAt t.tstatus 0
          d.onCl n fun c => { c with
            entering := c.entering && up
            s := { c.s with level := if up then .keeper else .guest, ecallTr := none } }
        | .group _ _ _ => d
      .goto d t.tpc.toNat

/-- `ebreak` (Table 3.7, R101): BREAKPOINT, or a halt at the instruction with HALT_ON_BREAK. `parity` is a
parity block of the core found with more than one bad bit at this instruction (R85). -/
def execEbreak (a : Agent) (_f : FmtSY) (parity : Bool) (s : State) : Host.Outcome State Fault Refusal :=
  run (Agent.ok a) s fun d =>
    if parity then (if d.ready a then d.internalError a else d)
    else d.issue a 4 fun d =>
      if (d.dbg a).onBreak then
        .wait ((d.endResv a).onDbg a fun x => { x with halted := true, stepping := false, reason := 3 })
      else .trap cBREAK 0

/-! ## Fences (R92, R263, R267) -/

/-- `fence.co`, `fence.cl`, `fence.sy`: the agent waits until its earlier accesses are ordered. A scope of 3, or
a bit of SYS9[8:2], is illegal. -/
def fenceOp (a : Agent) (f : FmtSY) (scope : Nat) (d : Dev) : Out :=
  let sys := f.sys.toNat
  if sys ≠ scope then .trap cILLEGAL (encSY 7 f)
  else .wait (d.setWait a (.fence scope (d.cl a.cluster).sseq))

/-- `fence.co`. -/
def execFenceCo (a : Agent) (f : FmtSY) (s : State) : Host.Outcome State Fault Refusal := instr4 a s (fenceOp a f 0)
/-- `fence.cl`. -/
def execFenceCl (a : Agent) (f : FmtSY) (s : State) : Host.Outcome State Fault Refusal := instr4 a s (fenceOp a f 1)
/-- `fence.sy`. -/
def execFenceSy (a : Agent) (f : FmtSY) (s : State) : Host.Outcome State Fault Refusal := instr4 a s (fenceOp a f 2)
/-- `fence.i` (R73, R218, R271): the L1R is invalidated, and no later load through it and no later fetch of the cluster takes data
read before; it orders no store. -/
def execFenceI (a : Agent) (_f : FmtSY) (s : State) : Host.Outcome State Fault Refusal :=
  instr4 a s fun d =>
    let d := (d.onCl a.cluster fun c => c.l1rInval).freshenAll a.cluster
    .wait (d.setWait a (.fence 3 0))

/-- What a waiting fence still waits for (Table 9.3). -/
def Cluster.fenceDone (c : Cluster) (core scope mark : Nat) : Bool :=
  let older := (c.q core).any fun e => decide (e.seq < mark)
  let buffered := c.buf.any fun b => decide (b.seq < mark)
  if scope = 0 ∨ scope = 3 then true else if scope = 1 then !older else !older && !buffered

/-- A waiting fence completes once its ordering conditions have been met (R267). -/
def execFenceComplete (a : Agent) (s : State) : Host.Outcome State Fault Refusal :=
  runDie (Agent.ok a) s fun d =>
    match d.waitOf a with
    | .fence scope mark =>
      if (d.cl a.cluster).fenceDone a.core scope mark then
        let d := (d.setWait a .none).freshen a none
        d.conclude a 4 (.done d)
      else d
    | _ => d

/-! ## The end of a command -/

/-- `cmd.done` (R94): the core waits until every token and group of the command is done and the cluster's
stores have been performed, and enters the Keeper's command end. With no command running there is nothing
to wait for but the stores. -/
def execCmdDone (a : Agent) (f : FmtSY) (s : State) : Host.Outcome State Fault Refusal :=
  instr4 a s fun d =>
    match a with
    | .group _ _ _ => .trap cILLEGAL (encSY 10 f)
    | .sCore n =>
      match (d.cl n).run with
      | some _ =>
        let st := d.rd a f.rs1.toNat
        let d := d.onRun n fun r => { r with ending := match r.ending with
          | some e => some e
          | none => some (.done st) }
        .wait ((d.setWait a .cmdDone).settle n)
      | none =>
        let c := d.cl n
        if c.qS.isEmpty ∧ c.q0.isEmpty ∧ c.q1.isEmpty ∧ c.buf.isEmpty then
          .goto (d.onS n fun x => { x with level := .keeper }) ((d.cl n).s.ktvec.toNat + 0x40)
        else .stall

end Sys2Proof.Machine
end

