-- ==== Sys2Proof/Machine/Lanes.lean ====
section
/-! DEFINITION. Lane instructions of formats GL: integer, floating-point, conversion, SFU, shuffle and poll (R96,
R119, R125, R126, R181 to R185, R187, R188, R192, R193, R490). -/
namespace Sys2Proof.Machine

/-- An SV-G instruction of format GL. -/
def glInstr (a : Agent) (f : FmtGL) (op : Nat) (s : State) (body : Dev → Group → Out) :
    Host.Outcome State Fault Refusal :=
  instr8 a s (encGL op f) fun d g =>
    if f.rsv ≠ 0 ∨ guardOk f.gd f.neg f.pred = false then .trap cILLEGAL (encGL op f) else body d g
/-- Participating lanes of a GL instruction. -/
def Group.part (g : Group) (f : FmtGL) : List Nat := lanesOf (g.participating f.gd f.neg f.pred)
/-- Write one lane register in every participating lane; all sources are read from the group as it was. -/
def Group.mapLanes (g : Group) (ls : List Nat) (rd : Nat) (x : Nat → Half) : Group :=
  ls.foldl (fun h l => h.setV rd l (x l)) g
/-- Write a register pair in every participating lane. -/
def Group.mapLanes64 (g : Group) (ls : List Nat) (rd : Nat) (x : Nat → Word) : Group :=
  ls.foldl (fun h l => h.setV64 rd l (x l)) g
/-- Set a predicate in every participating lane. -/
def Group.mapPred (g : Group) (ls : List Nat) (k : Nat) (x : Nat → Bool) : Group :=
  g.setPred k (ls.foldl (fun m l => setBit m l (x l)) (g.pred k))

/-! ## Integer lane instructions -/

/-- Shift left of a 32-bit value; 32 and more give 0 (R490). -/
def shl32 (x : Half) (n : Nat) : Half := if n ≥ 32 then 0 else x <<< n
/-- Logical shift right of a 32-bit value. -/
def shr32 (x : Half) (n : Nat) : Half := if n ≥ 32 then 0 else x >>> n
/-- Compare 32-bit values, signed or unsigned. -/
def lt32 (sg : Bool) (x y : Half) : Bool := if sg then decide (x.toInt < y.toInt) else decide (x.toNat < y.toNat)
/-- TYPE I32 or U32, RND 000 (R181, R183). -/
def intTypeOk (f : FmtGL) : Bool := (decide (f.ty.toNat = 7) || decide (f.ty.toNat = 8)) && decide (f.rnd = 0)

/-- An integer instruction with two sources (Table 4.6). The operation is told whether TYPE is I32. -/
def opLaneInt (a : Agent) (f : FmtGL) (op : Bool → Half → Half → Half) (s : State) : Host.Outcome State Fault Refusal :=
  glInstr a f 0x01 s fun d g =>
    if intTypeOk f && decide (f.vc = 0) && g.has f.vd.toNat 1 && g.has f.va.toNat 1 && ubOk g f 1 then
      .done (d.setGrp a (g.mapLanes (g.part f) f.vd.toNat fun l => op (decide (f.ty.toNat = 7)) (g.v f.va.toNat l) (d.vb a g f l)))
    else .trap cILLEGAL (encGL 0x01 f)

/-- `v.add`. -/
def execVAdd (a : Agent) (f : FmtGL) (s : State) : Host.Outcome State Fault Refusal :=
  opLaneInt a f (fun _ x y => x + y) s
/-- `v.sub`. -/
def execVSub (a : Agent) (f : FmtGL) (s : State) : Host.Outcome State Fault Refusal :=
  opLaneInt a f (fun _ x y => x - y) s
/-- `v.mul`. -/
def execVMul (a : Agent) (f : FmtGL) (s : State) : Host.Outcome State Fault Refusal :=
  opLaneInt a f (fun _ x y => x * y) s
/-- `v.and`. -/
def execVAnd (a : Agent) (f : FmtGL) (s : State) : Host.Outcome State Fault Refusal :=
  opLaneInt a f (fun _ x y => x &&& y) s
/-- `v.or`. -/
def execVOr (a : Agent) (f : FmtGL) (s : State) : Host.Outcome State Fault Refusal :=
  opLaneInt a f (fun _ x y => x ||| y) s
/-- `v.xor`. -/
def execVXor (a : Agent) (f : FmtGL) (s : State) : Host.Outcome State Fault Refusal :=
  opLaneInt a f (fun _ x y => x ^^^ y) s
/-- `v.shl`. -/
def execVShl (a : Agent) (f : FmtGL) (s : State) : Host.Outcome State Fault Refusal :=
  opLaneInt a f (fun _ x y => shl32 x (fld y 5 0)) s
/-- `v.shr`. -/
def execVShr (a : Agent) (f : FmtGL) (s : State) : Host.Outcome State Fault Refusal :=
  opLaneInt a f (fun _ x y => shr32 x (fld y 5 0)) s
/-- `v.sra`. -/
def execVSra (a : Agent) (f : FmtGL) (s : State) : Host.Outcome State Fault Refusal :=
  opLaneInt a f (fun _ x y => x.sshiftRight (min (fld y 5 0) 32)) s
/-- `v.min`. -/
def execVMin (a : Agent) (f : FmtGL) (s : State) : Host.Outcome State Fault Refusal :=
  opLaneInt a f (fun sg x y => if lt32 sg y x then y else x) s
/-- `v.max`. -/
def execVMax (a : Agent) (f : FmtGL) (s : State) : Host.Outcome State Fault Refusal :=
  opLaneInt a f (fun sg x y => if lt32 sg x y then y else x) s
/-- `v.setp`: a comparison under COND of Table 3.6 into a predicate. -/
def execVSetp (a : Agent) (f : FmtGL) (s : State) : Host.Outcome State Fault Refusal :=
  glInstr a f 0x01 s fun d g =>
    if intTypeOk f && decide (f.vd.toNat < 8) && decide (f.vc.toNat < 6) && g.has f.va.toNat 1 && ubOk g f 1 then
      .done (d.setGrp a (g.mapPred (g.part f) f.vd.toNat fun l => condHolds f.vc.toNat (g.v f.va.toNat l) (d.vb a g f l)))
    else .trap cILLEGAL (encGL 0x01 f)
/-- `v.sel`: VA where the predicate holds, VB elsewhere. -/
def execVSel (a : Agent) (f : FmtGL) (s : State) : Host.Outcome State Fault Refusal :=
  glInstr a f 0x01 s fun d g =>
    if intTypeOk f && decide (f.vc.toNat < 8) && g.has f.vd.toNat 1 && g.has f.va.toNat 1 && ubOk g f 1 then
      .done (d.setGrp a (g.mapLanes (g.part f) f.vd.toNat fun l =>
        if (g.pred f.vc.toNat).getLsbD l then g.v f.va.toNat l else d.vb a g f l))
    else .trap cILLEGAL (encGL 0x01 f)
/-- `v.mov`: VB, UB and VC must be zero (R119). -/
def execVMov (a : Agent) (f : FmtGL) (s : State) : Host.Outcome State Fault Refusal :=
  glInstr a f 0x01 s fun d g =>
    if intTypeOk f && decide (f.vc = 0) && decide (f.vb = 0) && decide (f.ub = 0) && g.has f.vd.toNat 1 && g.has f.va.toNat 1 then
      .done (d.setGrp a (g.mapLanes (g.part f) f.vd.toNat fun l => g.v f.va.toNat l))
    else .trap cILLEGAL (encGL 0x01 f)

/-! ## Floating-point lane instructions -/

/-- The random bits of element e of a lane instruction under RND 100 (R188). -/
def Dev.laneRnd (d : Dev) (a : Agent) (f : FmtGL) (e : Nat) : Nat :=
  if f.rnd.toNat = 4 then
    let u := d.rd a 63
    srBits (d.cl a.cluster).srSeed (u.setWidth 32) (fld u 47 32) e
  else 0

/-- What a floating-point operation of one element gives: the encoding and its flags. Arguments: format, RND code,
random bits, a, b, c. -/
abbrev FpOp := Fmt → Nat → Nat → Nat → Nat → Nat → Nat × FFlags

/-- `v.fadd`: one rounding of the exact sum; x + (−x) is −0 under "down" only (R194). -/
def fpAdd : FpOp := fun fmt rnd r x y _ =>
  let t := Num.sum (decide (rnd = 3)) [fmt.decode x, fmt.decode y]
  let z := fmt.round (Rnd.ofCode rnd) false r t.1
  (z.1, t.2 ||| z.2)
/-- `v.fmul`. -/
def fpMul : FpOp := fun fmt rnd r x y _ =>
  let t := (fmt.decode x).mul (fmt.decode y)
  let z := fmt.round (Rnd.ofCode rnd) false r t.1
  (z.1, t.2 ||| z.2)
/-- `v.fma` (R96): one rounding of the exact a × b + c. A NaN operand raises no flag (R177). -/
def fpFma : FpOp := fun fmt rnd r x y w =>
  if (fmt.decode w).isNaN then (fmt.nanEnc, 0)
  else
    let p := (fmt.decode x).mul (fmt.decode y)
    let t := Num.sum (decide (rnd = 3)) [p.1, fmt.decode w]
    let z := fmt.round (Rnd.ofCode rnd) false r t.1
    (z.1, p.2 ||| t.2 ||| z.2)
/-- `v.fmin` and `v.fmax` (R185): no flag. -/
def fpMinMax (wantMax : Bool) : FpOp := fun fmt _ _ x y _ =>
  ((fmt.round .ne false 0 (Num.minMax wantMax (fmt.decode x) (fmt.decode y))).1, 0)

/-- Whether an FP64 operand register is an even one with its pair in the allocation (R182). -/
def Group.has64 (g : Group) (r : Nat) : Bool := decide (r % 2 = 0) && g.has r 2
/-- The registers an instruction of a width names: VD, VA, VB, and VC where it is used. With UB = 1 VB names a uniform register, which
may be an odd one in an FP64 instruction too: R182 asks an even number of lane registers (DESIGN CHOICE, log entry 115). -/
def fpRegsOk (g : Group) (f : FmtGL) (wide useC : Bool) : Bool :=
  if wide then
    g.has64 f.vd.toNat && g.has64 f.va.toNat && ubOk g f 2 && (decide (f.ub = 1) || decide (f.vb.toNat % 2 = 0))
      && (!useC || g.has64 f.vc.toNat)
  else g.has f.vd.toNat 1 && g.has f.va.toNat 1 && ubOk g f 1 && (!useC || g.has f.vc.toNat 1)

/-- Flags of the lanes of an instruction together. -/
def orFlags (ls : List Nat) (x : Nat → FFlags) : FFlags := ls.foldl (fun acc l => acc ||| x l) 0

/-- A floating-point instruction (R181, R182): FP32, FP64, or both elements of a packed pair. -/
def opLaneFp (a : Agent) (f : FmtGL) (useC rndOk : Bool) (op : FpOp) (s : State) : Host.Outcome State Fault Refusal :=
  glInstr a f 0x03 s fun d g =>
    let ty := f.ty.toNat
    let wide := decide (ty = 5)
    let rnd := f.rnd.toNat
    if (decide (ty = 0) || decide (ty = 1) || decide (ty = 2) || wide) && (if rndOk then decide (rnd ≤ 4) else decide (rnd = 0))
        && (useC || decide (f.vc = 0)) && fpRegsOk g f wide useC then
      let ls := g.part f
      if wide then
        let r := fun l => op fp64 rnd (d.laneRnd a f l) (g.v64 f.va.toNat l).toNat (d.vb64 a g f l).toNat (g.v64 f.vc.toNat l).toNat
        .done ((d.setGrp a (g.mapLanes64 ls f.vd.toNat fun l => BitVec.ofNat 64 (r l).1)).setFlags a.cluster a.core
          (orFlags ls fun l => (r l).2))
      else if ty = 0 then
        let r := fun l => op fp32 rnd (d.laneRnd a f l) (g.v f.va.toNat l).toNat (d.vb a g f l).toNat (g.v f.vc.toNat l).toNat
        .done ((d.setGrp a (g.mapLanes ls f.vd.toNat fun l => BitVec.ofNat 32 (r l).1)).setFlags a.cluster a.core
          (orFlags ls fun l => (r l).2))
      else
        let fmt := if ty = 1 then fp16 else bf16
        let r := fun e l => op fmt rnd (d.laneRnd a f (l + 32 * e)) (fld (g.v f.va.toNat l) (16 * e + 15) (16 * e))
          (fld (d.vb a g f l) (16 * e + 15) (16 * e)) (fld (g.v f.vc.toNat l) (16 * e + 15) (16 * e))
        .done ((d.setGrp a (g.mapLanes ls f.vd.toNat fun l => BitVec.ofNat 32 ((r 0 l).1 + (r 1 l).1 * 65536))).setFlags
          a.cluster a.core (orFlags ls fun l => (r 0 l).2 ||| (r 1 l).2))
    else .trap cILLEGAL (encGL 0x03 f)

/-- `v.fadd`. -/
def execVFadd (a : Agent) (f : FmtGL) (s : State) : Host.Outcome State Fault Refusal := opLaneFp a f false true fpAdd s
/-- `v.fmul`. -/
def execVFmul (a : Agent) (f : FmtGL) (s : State) : Host.Outcome State Fault Refusal := opLaneFp a f false true fpMul s
/-- `v.fma`. -/
def execVFma (a : Agent) (f : FmtGL) (s : State) : Host.Outcome State Fault Refusal := opLaneFp a f true true fpFma s
/-- `v.fmin`. -/
def execVFmin (a : Agent) (f : FmtGL) (s : State) : Host.Outcome State Fault Refusal := opLaneFp a f false false (fpMinMax false) s
/-- `v.fmax`. -/
def execVFmax (a : Agent) (f : FmtGL) (s : State) : Host.Outcome State Fault Refusal := opLaneFp a f false false (fpMinMax true) s

/-- `v.fsetp` (R184): FP32 or FP64, no flag. -/
def execVFsetp (a : Agent) (f : FmtGL) (s : State) : Host.Outcome State Fault Refusal :=
  glInstr a f 0x03 s fun d g =>
    let wide := decide (f.ty.toNat = 5)
    let regs := if wide then g.has64 f.va.toNat && ubOk g f 2 && (decide (f.ub = 1) || decide (f.vb.toNat % 2 = 0))
      else g.has f.va.toNat 1 && ubOk g f 1
    if (decide (f.ty.toNat = 0) || wide) && decide (f.rnd = 0) && decide (f.vd.toNat < 8) && decide (f.vc.toNat < 8) && regs then
      .done (d.setGrp a (g.mapPred (g.part f) f.vd.toNat fun l =>
        if wide then fcond f.vc.toNat (fp64.decode (g.v64 f.va.toNat l).toNat) (fp64.decode (d.vb64 a g f l).toNat)
        else fcond f.vc.toNat (fp32.decode (g.v f.va.toNat l).toNat) (fp32.decode (d.vb a g f l).toNat)))
    else .trap cILLEGAL (encGL 0x03 f)

/-- An SFU function (R192): FP32, VD and VA only, RND 000. -/
def opSfu (a : Agent) (f : FmtGL) (op : Half → Half × FFlags) (s : State) : Host.Outcome State Fault Refusal :=
  glInstr a f 0x03 s fun d g =>
    if decide (f.ty.toNat = 0) && decide (f.rnd = 0) && decide (f.vb = 0) && decide (f.ub = 0) && decide (f.vc = 0)
        && g.has f.vd.toNat 1 && g.has f.va.toNat 1 then
      let ls := g.part f
      .done ((d.setGrp a (g.mapLanes ls f.vd.toNat fun l => (op (g.v f.va.toNat l)).1)).setFlags a.cluster a.core
        (orFlags ls fun l => (op (g.v f.va.toNat l)).2))
    else .trap cILLEGAL (encGL 0x03 f)
/-- `v.rcp`. -/
def execVRcp (a : Agent) (f : FmtGL) (s : State) : Host.Outcome State Fault Refusal := opSfu a f sfuRcp s
/-- `v.rsqrt`. -/
def execVRsqrt (a : Agent) (f : FmtGL) (s : State) : Host.Outcome State Fault Refusal := opSfu a f sfuRsqrt s
/-- `v.exp2`. -/
def execVExp2 (a : Agent) (f : FmtGL) (s : State) : Host.Outcome State Fault Refusal := opSfu a f sfuExp2 s
/-- `v.log2`. -/
def execVLog2 (a : Agent) (f : FmtGL) (s : State) : Host.Outcome State Fault Refusal := opSfu a f sfuLog2 s

/-! ## `v.cvt` (R178, R182, R193) -/

/-- Kinds of a TYPE code in `v.cvt`: a floating format, an integer of a width, or the MX scale. -/
inductive CvtTy where
  | fp (f : Fmt)
  | int (bits : Nat) (signed : Bool)
  | scale
  deriving DecidableEq, Repr
/-- The type of a TYPE code; 0xF is none. -/
def cvtTy (c : Nat) : Option CvtTy :=
  if c = 0 then some (.fp fp32) else if c = 1 then some (.fp fp16) else if c = 2 then some (.fp bf16)
  else if c = 3 then some (.fp e4m3) else if c = 4 then some (.fp e5m2) else if c = 5 then some (.fp fp64)
  else if c = 6 then some (.fp tf32) else if c = 7 then some (.int 32 true) else if c = 8 then some (.int 32 false)
  else if c = 9 then some (.fp e2m3) else if c = 0xA then some (.fp e3m2) else if c = 0xB then some (.fp e2m1)
  else if c = 0xC then some (.int 8 true) else if c = 0xD then some (.int 4 true) else if c = 0xE then some .scale
  else none
/-- The value of a source lane (R178, R182). -/
def CvtTy.read (t : CvtTy) (v : Word) : Num :=
  match t with
  | .fp f => if f = tf32 then f.decode (fld v 31 13) else f.decode (v.toNat % 2 ^ f.width)
  | .int bits signed =>
    let n : Int := if signed then (BitVec.ofNat bits v.toNat).toInt else (v.toNat % 2 ^ bits : Nat)
    .fin (decide (n < 0)) n.natAbs 0
  | .scale =>
    let e := v.toNat % 256
    if e = 255 then .nan else .fin false 1 (e - 127 : Int)
/-- Whether a type is an integer. -/
def CvtTy.isInt : CvtTy → Bool
  | .int _ _ => true
  | _ => false
/-- A finite value rounded to an integer under a mode. -/
def roundToInt (rnd r : Nat) (neg : Bool) (m : Nat) (e : Int) : Int :=
  let n := (roundInt (Rnd.ofCode rnd) r neg m e 0).1
  if neg then -(n : Int) else n
/-- The result of `v.cvt` in one lane, in the lane layout of the destination, and its flags (Table 6.5). An integer out of range of an
integer type that is not narrower, a negative I32 to U32 or a U32 of 2^31 or more to I32, is clamped with SATURATED as for a narrower one; a
subnormal of a narrow format of magnitude 2^-126 or more goes to E8M0 as floor(log2) + 127, though the row for subnormals names it too
(DESIGN CHOICE, log entry 115). -/
def cvt (srcCode : Nat) (src dst : CvtTy) (rnd r : Nat) (v : Word) : Word × FFlags :=
  let x := src.read v
  match dst with
  | .fp f =>
    let z := f.round (Rnd.ofCode rnd) false r x
    (BitVec.ofNat 64 (if f = tf32 then z.1 * 2 ^ 13 else z.1), z.2)
  | .int bits signed =>
    let hi : Int := if signed then 2 ^ (bits - 1) - 1 else 2 ^ bits - 1
    let lo : Int := if signed then -(2 ^ (bits - 1)) else 0
    let put (n : Int) : Word := BitVec.ofNat 64 (BitVec.ofInt 32 n).toNat
    let beyond := if src.isInt then fSATURATED else fINVALID
    match x with
    | .nan => (0, fINVALID)
    | .inf neg => (put (if neg then lo else hi), fINVALID)
    | .fin neg m e =>
      let n := roundToInt rnd r neg m e
      if n > hi then (put hi, beyond) else if n < lo then (put lo, beyond) else (put n, 0)
  | .scale =>
    match x with
    | .nan => (0xFF, fINVALID)
    | .inf _ => (0xFF, fINVALID)
    | .fin _ m e =>
      if m = 0 then (0, 0)
      else
        let k := e + (nbits m : Int) - 1
        let sub := match src with
          | .fp f => decide (m < 2 ^ f.mb)
          | _ => false
        if -126 ≤ k ∧ k ≤ 127 then (BitVec.ofNat 64 (k + 127).toNat, 0)
        else if sub then (0, 0)
        else ((Config.e8m0 srcCode v).setWidth 64, 0)

/-- `v.cvt`: TYPE names the destination, VB[3:0] the source; they must differ (R182). -/
def execVCvt (a : Agent) (f : FmtGL) (s : State) : Host.Outcome State Fault Refusal :=
  glInstr a f 0x03 s fun d g =>
    let rnd := f.rnd.toNat
    match cvtTy f.ty.toNat, cvtTy f.vb.toNat with
    | some dst, some src =>
      let wideS := decide (f.vb.toNat = 5)
      let wideD := decide (f.ty.toNat = 5)
      if decide (rnd ≤ 4) && decide (f.vc = 0) && decide (f.ub = 0) && decide (f.ty.toNat ≠ f.vb.toNat)
          && !(decide (f.ty.toNat = 0xE) && decide (rnd ≠ 0))
          && (if wideD then g.has64 f.vd.toNat else g.has f.vd.toNat 1) && (if wideS then g.has64 f.va.toNat else g.has f.va.toNat 1) then
        let ls := g.part f
        let r := fun l => cvt f.vb.toNat src dst rnd (d.laneRnd a f l) (if wideS then g.v64 f.va.toNat l else zext (g.v f.va.toNat l))
        let h := if wideD then g.mapLanes64 ls f.vd.toNat fun l => (r l).1
          else g.mapLanes ls f.vd.toNat fun l => (r l).1.setWidth 32
        .done ((d.setGrp a h).setFlags a.cluster a.core (orFlags ls fun l => (r l).2))
      else .trap cILLEGAL (encGL 0x03 f)
    | _, _ => .trap cILLEGAL (encGL 0x03 f)

/-! ## Shuffles and polls (R125, R126) -/

/-- A shuffle: `src` gives the source lane from the lane and b. -/
def opXch (a : Agent) (f : FmtGL) (needU : Bool) (src : Nat → Nat → Option Nat) (s : State) : Host.Outcome State Fault Refusal :=
  glInstr a f 0x05 s fun d g =>
    if decide (f.rnd = 0) && decide (f.ty = 0) && (!needU || decide (f.ub = 1)) && g.has f.vd.toNat 1 && g.has f.va.toNat 1
        && g.has f.vc.toNat 1 && ubOk g f 1 then
      let m := g.participating f.gd f.neg f.pred
      .done (d.setGrp a (g.mapLanes (lanesOf m) f.vd.toNat fun l =>
        match src l (d.vb a g f l).toNat with
        | some k => if k < 32 ∧ m.getLsbD k then g.v f.va.toNat k else g.v f.vc.toNat l
        | none => g.v f.vc.toNat l))
    else .trap cILLEGAL (encGL 0x05 f)
/-- `xch.pick`. -/
def execXchPick (a : Agent) (f : FmtGL) (s : State) : Host.Outcome State Fault Refusal :=
  opXch a f false (fun _ b => some (b % 32)) s
/-- `xch.lo`. -/
def execXchLo (a : Agent) (f : FmtGL) (s : State) : Host.Outcome State Fault Refusal :=
  opXch a f true (fun l b => if b ≤ l then some (l - b) else none) s
/-- `xch.hi`. -/
def execXchHi (a : Agent) (f : FmtGL) (s : State) : Host.Outcome State Fault Refusal :=
  opXch a f true (fun l b => some (l + b)) s
/-- `xch.swz`. -/
def execXchSwz (a : Agent) (f : FmtGL) (s : State) : Host.Outcome State Fault Refusal :=
  opXch a f true (fun l b => some (l ^^^ (b % 32))) s

/-- A poll: `w` gives the word written from the mask of participating lanes and that of the non-zero ones. -/
def opPoll (a : Agent) (f : FmtGL) (w : BitVec 32 → BitVec 32 → Half) (s : State) : Host.Outcome State Fault Refusal :=
  glInstr a f 0x05 s fun d g =>
    if decide (f.rnd = 0) && decide (f.ty = 0) && decide (f.ub = 0) && decide (f.vb = 0) && decide (f.vc = 0)
        && g.has f.vd.toNat 1 && g.has f.va.toNat 1 then
      let m := g.participating f.gd f.neg f.pred
      let nz := maskOf fun l => m.getLsbD l && decide (g.v f.va.toNat l ≠ 0)
      .done (d.setGrp a (g.mapLanes (lanesOf m) f.vd.toNat fun _ => w m nz))
    else .trap cILLEGAL (encGL 0x05 f)
/-- `poll.any`. -/
def execPollAny (a : Agent) (f : FmtGL) (s : State) : Host.Outcome State Fault Refusal :=
  opPoll a f (fun _ nz => if nz = 0 then 0 else 1) s
/-- `poll.all`. -/
def execPollAll (a : Agent) (f : FmtGL) (s : State) : Host.Outcome State Fault Refusal :=
  opPoll a f (fun m nz => if nz = m then 1 else 0) s
/-- `poll.mask`. -/
def execPollMask (a : Agent) (f : FmtGL) (s : State) : Host.Outcome State Fault Refusal :=
  opPoll a f (fun _ nz => nz) s

end Sys2Proof.Machine
end

