-- ==== Sys2Proof/Machine/Waybill.lean ====
section
/-! DEFINITION. The M-core (R145, R146, R150 to R154, R164 to R169, R187 to R198): how a waybill at the head of the
queue is checked and started, what it computes, and how it ends. -/
namespace Sys2Proof.Machine

/-! ## Operands -/

/-- One byte of a memory as a read returns it; 0 for an uncorrectable word, which the caller has ruled out. -/
def Mem.byteAt (m : Mem) (id a : Nat) : Byte :=
  match m.readW id (a / 8) with
  | .ok v => BitVec.ofNat 8 (v.toNat >>> (8 * (a % 8)))
  | .bad _ => 0
/-- An element of `bits` bits at position `col` of a stored row (R150). -/
def Mem.element (m : Mem) (id : Nat) (r : WRegion) (row col : Nat) : Nat :=
  let o := col * r.bits
  let a := r.base + row * r.ld + o / 8
  let sh := o % 8
  (natOfBytes ((List.range (ceilDiv (sh + r.bits) 8)).map fun k => m.byteAt id (a + k)) >>> sh) % 2 ^ r.bits
/-- Words that a region covers, row by row. -/
def WRegion.words (r : WRegion) : List Nat :=
  ((List.range r.rows).map fun i =>
    let lo := (r.base + i * r.ld) / 8
    let hi := ceilDiv (r.base + i * r.ld + r.rowBytes) 8
    (List.range (hi - lo)).map fun k => lo + k).flatten
/-- Whether every word of the regions is correctable; one met uncorrectable for the first time is recorded. -/
def Dev.readable (d : Dev) (n : Nat) (rs : List WRegion) : Bool × Dev :=
  ((rs.map WRegion.words).flatten).foldl (fun x w =>
    match x.2.readW (.loc n) w 0 with
    | (some _, d) => (x.1, d)
    | (none, d) => (false, d)) (true, d)

/-- The floating format of a format code, if it is one of one value (Tables 5.1, 6.1). -/
def codeFmt (c : Nat) : Option Fmt :=
  if c = 0x01 ∨ c = 0x03 then some e4m3 else if c = 0x02 ∨ c = 0x04 then some e5m2
  else if c = 0x05 then some e2m3 else if c = 0x06 then some e3m2 else if c = 0x07 then some e2m1
  else if c = 0x10 ∨ c = 0x18 then some bf16 else if c = 0x11 ∨ c = 0x19 then some fp16
  else if c = 0x12 then some tf32 else if c = 0x13 ∨ c = 0x1B then some fp32 else if c = 0x14 then some fp64 else none
/-- The value of a real element of an input code (R178, R179). -/
def inputVal (c bits : Nat) : Num :=
  match codeFmt c with
  | some f => if c = 0x12 then f.decode (bits / 2 ^ 13) else f.decode bits
  | none =>
    let n : Int := (BitVec.ofNat (if c = 0x0A then 4 else 8) bits).toInt
    .fin (decide (n < 0)) n.natAbs (if c = 0x08 then -6 else 0)

/-- A signed integer element: INT8 and INT4, or a complex part. -/
def inputInt (c bits : Nat) : Int := (BitVec.ofNat (if c = 0x0A then 4 else 8) bits).toInt

/-- Multiply a value by a power of two. -/
def Num.scale (x : Num) (k : Int) : Num :=
  match x with
  | .fin s m e => .fin s m (e + k)
  | y => y
/-- Change the sign of a value. -/
def Num.negate : Num → Num
  | .nan => .nan
  | .inf s => .inf (!s)
  | .fin s m e => .fin (!s) m e

/-- What the M-core reads: the Local of its cluster, and the waybill. -/
structure MView where
  m : Mem
  id : Nat
  w : BitVec 512
  deriving DecidableEq, Repr

/-- Bits of A at (i, k). -/
def MView.a (v : MView) (i k : Nat) : Nat :=
  if wTA v.w then v.m.element v.id (wRegA v.w) k i else v.m.element v.id (wRegA v.w) i k
/-- Bits of B at (k, n). -/
def MView.b (v : MView) (k n : Nat) : Nat :=
  if wTB v.w then v.m.element v.id (wRegB v.w) n k else v.m.element v.id (wRegB v.w) k n
/-- The E8M0 scale of A for (i, k) (R151). -/
def MView.sa (v : MView) (i k : Nat) : Nat := (v.m.byteAt v.id (wScale v.w 0 + i * (wK v.w / 32) + k / 32)).toNat
/-- The E8M0 scale of B for (k, n). -/
def MView.sb (v : MView) (k n : Nat) : Nat := (v.m.byteAt v.id (wScale v.w 1 + n * (wK v.w / 32) + k / 32)).toNat

/-- The exact product at (i, k, n), scaled for MX inputs (R197), with its flags. -/
def MView.product (v : MView) (i k n : Nat) : Num × FFlags :=
  let p := (inputVal (wAFMT v.w) (v.a i k)).mul (inputVal (wBFMT v.w) (v.b k n))
  if isMX (wAFMT v.w) then
    let s := v.sa i k
    let t := v.sb k n
    if s = 255 ∨ t = 255 then (.nan, fMXNAN) else (p.1.scale ((s + t : Nat) - 254 : Int), p.2)
  else p
/-- The exact products of a complex element at (i, k, n) that go to the real (false) or imaginary part (R180). -/
def MView.cproducts (v : MView) (im : Bool) (i k n : Nat) : List (Num × FFlags) :=
  let f := (codeFmt (wAFMT v.w)).getD fp32
  let x := v.a i k
  let y := v.b k n
  let (xr, xi, yr, yi) := (f.decode (x % 65536), f.decode (x / 65536), f.decode (y % 65536), f.decode (y / 65536))
  if im then [xr.mul yi, xi.mul yr]
  else let q := xi.mul yi; [xr.mul yr, (q.1.negate, q.2)]

/-- One array step (R145): the exact sum of its products is added to the accumulator, nearest-even. A step sum beyond
the accumulator's range is an infinity (Table 6.5). -/
def accStep (f : Fmt) (acc : Num × FFlags) (ps : List (Num × FFlags)) : Num × FFlags :=
  let t := Num.sum false (ps.map Prod.fst)
  let ovf := match t.1 with
    | .fin _ _ _ => decide ((f.round .ne false 0 t.1).2 &&& fOVERFLOW ≠ 0)
    | _ => false
  let st := if ovf then Num.inf t.1.neg else t.1
  let u := Num.sum false [acc.1, st]
  let z := f.round .ne false 0 u.1
  (f.decode z.1, acc.2 ||| (ps.foldl (fun x p => x ||| p.2) 0) ||| t.2 ||| fIf ovf fOVERFLOW ||| u.2 ||| z.2)
/-- The accumulator after the slices of depth `tk` in ascending order of K. -/
def accSlices (f : Fmt) (tk : Nat) (prods : Nat → List (Num × FFlags)) : Nat → Nat → Num × FFlags → Num × FFlags
  | 0, _, acc => acc
  | fuel + 1, k, acc =>
    let ks := (List.range tk).map fun j => k + j
    accSlices f tk prods fuel (k + tk) (accStep f acc ((ks.map prods).flatten))

/-! ## Exact partials (Table 5.2) -/

/-- A value in exact mode: a value, or a sum above range with its sign. -/
inductive XVal where
  | num (x : Num)
  | above (neg : Bool)
  deriving DecidableEq, Repr

/-- An XP element as its 80 bytes. -/
def XVal.encode (x : XVal) : Nat :=
  let cls (c : Nat) : Nat := c * 2 ^ 600
  match x with
  | .above neg => cls (if neg then 5 else 4)
  | .num .nan => cls 3
  | .num (.inf neg) => cls (if neg then 2 else 1)
  | .num (.fin neg m e) =>
    if m = 0 then (if neg then cls 6 else 0)
    else
      let n := m * 2 ^ (e + 300).toNat
      if neg then 2 ^ 600 - n else n
/-- Read an XP element (R146). -/
def XVal.decode (bits : Nat) : XVal :=
  let c := bits / 2 ^ 600 % 256
  let v := bits % 2 ^ 600
  if c = 0 then
    if v < 2 ^ 599 then .num (.fin false v (-300)) else .num (.fin true (2 ^ 600 - v) (-300))
  else if c = 1 then .num (.inf false) else if c = 2 then .num (.inf true)
  else if c = 4 then .above false else if c = 5 then .above true
  else if c = 6 then .num (.fin true 0 (-300)) else .num .nan
/-- Judge an exact sum: 2^299 and more in magnitude is above range (R146, R198). -/
def XVal.judge (x : Num) : XVal × FFlags :=
  match x with
  | .fin neg m e =>
    if m ≠ 0 ∧ e + (nbits m : Int) - 1 ≥ 299 then (.above neg, fXPRANGE) else (.num x, 0)
  | y => (.num y, 0)
/-- The sum of two exact values by class (R146). XP_RANGE is raised where a finite sum leaves the range, and where the sum is
not known (Table 6.5). -/
def XVal.add (x y : XVal) : XVal × FFlags :=
  match x, y with
  | .num a, .num b =>
    let t := Num.sum false [a, b]
    let j := XVal.judge t.1
    (j.1, t.2 ||| j.2)
  | .above s, .above t => if s = t then (.above s, 0) else (.num .nan, fINVALID ||| fXPRANGE)
  | .above s, .num b => match b with
    | .fin _ _ _ => (.above s, 0)
    | z => (.num z, 0)
  | .num a, .above t => match a with
    | .fin _ _ _ => (.above t, 0)
    | z => (.num z, 0)
/-- Round an exact value into a format (R146): an above-range value overflows. -/
def XVal.round (x : XVal) (f : Fmt) (rnd : Rnd) (sat : Bool) (r : Nat) : Nat × FFlags :=
  match x with
  | .num v => f.round rnd sat r v
  | .above neg => f.overflow rnd sat neg

/-! ## Elements of D -/

/-- The final conversion of an element of D at (i, n) (R152, R188, R191). -/
def finalRnd (w : BitVec 512) (seed : Word) (i n : Nat) : Nat :=
  if wROUND w = 4 then srBits seed (BitVec.ofNat 32 (wSROFS w)) i n else 0

/-- An element of D of MMA or MMA_Z, with its flags (R145). -/
def MView.mac (v : MView) (seed : Word) (i n : Nat) : Nat × FFlags :=
  let w := v.w
  let c := wCFMT w
  let z := decide (wOP w = 2)
  let kk := wK w
  let tk := wTileK w
  let cbits := v.m.element v.id (wRegC w) i n
  let rnd := Rnd.ofCode (wROUND w)
  let r := finalRnd w seed i n
  if wAFMT w = 9 ∨ wAFMT w = 0x0A then
    let sum : Int := (List.range kk).foldl (fun s k => s + inputInt (wAFMT w) (v.a i k) * inputInt (wBFMT w) (v.b k n)) 0
    let c0 : Int := if z then 0 else (BitVec.ofNat 32 cbits).toInt
    ((BitVec.ofInt 32 (sum + c0)).toNat, 0)
  else if wEXACT w then
    let ps := (List.range kk).map fun k => v.product i k n
    let pf := ps.foldl (fun x p => x ||| p.2) 0
    let cnum := match codeFmt c with
      | some f => f.decode cbits
      | none => .nan
    let terms := ps.map Prod.fst
    let (x, xf) := if !z && c ≠ 0x1F then
        let t := Num.sum false (cnum :: terms)
        let j := XVal.judge t.1
        (j.1, t.2 ||| j.2)
      else if !z then match XVal.decode cbits with
        | .num y =>
          let t := Num.sum false (y :: terms)
          let j := XVal.judge t.1
          (j.1, t.2 ||| j.2)
        | .above s =>
          let t := Num.sum false terms
          let q := XVal.add (.above s) (.num t.1)
          (q.1, t.2 ||| q.2)
      else
        let t := Num.sum false terms
        let j := XVal.judge t.1
        (j.1, t.2 ||| j.2)
    match codeFmt c with
    | some f => let e := x.round f rnd (wSAT w) r; (e.1, pf ||| xf ||| e.2)
    | none => (x.encode, pf ||| xf)
  else if c = 0x1B then
    let part := fun im : Bool =>
      let a0 : Num := if z then .fin true 0 0 else fp32.decode (if im then cbits / 2 ^ 32 else cbits % 2 ^ 32)
      let acc := accSlices fp32 1 (fun k => v.cproducts im i k n) kk 0 (a0, 0)
      fp32.round rnd false r acc.1 |> fun e => (e.1, acc.2 ||| e.2)
    let re := part false
    let im := part true
    (re.1 + im.1 * 2 ^ 32, re.2 ||| im.2)
  else
    let f := if c = 0x14 then fp64 else fp32
    let cf := (codeFmt c).getD fp32
    let a0 : Num := if z then .fin true 0 0 else cf.decode cbits
    let acc := accSlices f tk (fun k => if k < kk then [v.product i k n] else []) (ceilDiv kk tk) 0 (a0, 0)
    let e := cf.round rnd (wSAT w) r acc.1
    (e.1, acc.2 ||| e.2)

/-- An element of D, by operation (Table 5.4). -/
def MView.elem (v : MView) (seed : Word) (i n : Nat) : Nat × FFlags :=
  let w := v.w
  if wOP w = 3 then
    (XVal.decode (v.m.element v.id (wRegC w) i n)).round ((codeFmt (wCFMT w)).getD fp32) (Rnd.ofCode (wROUND w)) (wSAT w)
      (finalRnd w seed i n)
  else if wOP w = 4 then
    let q := XVal.add (XVal.decode (v.m.element v.id (wRegA w) i n)) (XVal.decode (v.m.element v.id (wRegC w) i n))
    (q.1.encode, q.2)
  else v.mac seed i n

/-- Bytes of a row of D from its elements. -/
def rowOfElems (bits : Nat) (xs : List Nat) : List (BitVec 8) :=
  let v := (xs.foldr (fun x acc => acc * 2 ^ bits + x % 2 ^ bits) 0 : Nat)
  (List.range (ceilDiv (xs.length * bits) 8)).map fun k => BitVec.ofNat 8 (v >>> (8 * k))

/-- The D region takes open values (R165, R168 to R170). -/
def Dev.undefineD (d : Dev) (n : Nat) (w : BitVec 512) : Dev :=
  let r := wRegD w
  (List.range r.rows).foldl (fun d i => (List.range (ceilDiv r.rowBytes 8)).foldl (fun d k =>
    let a := r.base + i * r.ld + 8 * k
    let (x, d) := d.fresh
    d.localPut n a ((toBytes 8 x).take (min 8 (r.rowBytes - 8 * k)))) d) d

/-- Whether stores met an element of a region. -/
def WRegion.hit (r : WRegion) (t : List (Nat × Nat)) (row col : Nat) : Bool :=
  t.any fun x => rangesMeet x.1 x.2 (r.base + row * r.ld + col * r.bits / 8) (ceilDiv (col * r.bits % 8 + r.bits) 8)
/-- Whether stores met what the element of D at (i, n) is computed from, or the element itself (R165). -/
def affected (w : BitVec 512) (t : List (Nat × Nat)) (i n : Nat) : Bool :=
  (isMMA w && (List.range (wK w)).any fun k =>
    (if wTA w then (wRegA w).hit t k i else (wRegA w).hit t i k) || (if wTB w then (wRegB w).hit t n k else (wRegB w).hit t k n) ||
    (isMX (wAFMT w) && ((wRegS w 0).hit t 0 (i * (wK w / 32) + k / 32) || (wRegS w 1).hit t 0 (n * (wK w / 32) + k / 32)))) ||
  (decide (wOP w = 4) && (wRegA w).hit t i n) || (decide (wOP w ≠ 2) && (wRegC w).hit t i n) || (wRegD w).hit t i n
/-- Open bits. -/
def Dev.freshBits (d : Dev) (bits : Nat) : Nat × Dev :=
  (List.range (ceilDiv bits 64)).foldl (fun (x : Nat × Dev) k => let (v, d) := x.2.fresh; (x.1 + v.toNat * 2 ^ (64 * k), d)) (0, d)
/-- A waybill computes and writes D (R145, R165): the status it ends with. An element that stores have affected in flight, and
the flags it raises, are open. -/
def Dev.computeWaybill (d : Dev) (n : Nat) (x : Waybill) : Nat × Dev :=
  let w := x.w
  let srcs := ((wRegions w).dropLast)
  let (ok, d) := d.readable n srcs
  if !ok then (0x0C, d.undefineD n w)
  else
    let v : MView := { m := d.mem (.loc n), id := n, w := w }
    let r := wRegD w
    let rows := (List.range (wM w)).map fun i => (List.range (wN w)).map fun j => (affected w x.touched i j, v.elem x.seed i j)
    let (rows, d) := rows.foldl (fun (acc : List (List (Nat × FFlags)) × Dev) row =>
      let r := row.foldl (fun (a : List (Nat × FFlags) × Dev) e =>
        if e.1 then
          let (b, d) := a.2.freshBits r.bits
          let (f, d) := d.fresh
          (a.1 ++ [(b, f.setWidth _)], d)
        else (a.1 ++ [e.2], a.2)) ([], acc.2)
      (acc.1 ++ [r.1], r.2)) ([], d)
    let flags := rows.foldl (fun acc row => row.foldl (fun acc e => acc ||| e.2) acc) 0
    let d := (rows.zipIdx).foldl (fun d row =>
      d.localPut n (r.base + row.2 * r.ld) (rowOfElems r.bits (row.1.map Prod.fst))) d
    (0, d.setFlags n 0 flags)

/-! ## The queue -/

/-- A waybill ends with a status: its token becomes DONE, and a failure is kept for the command's record (R171). -/
def Dev.endWaybill (d : Dev) (n : Nat) (x : Waybill) (status : Nat) : Dev :=
  let d := d.onCl n fun c => c.complete x.tok x.cid status
  let word := ((d.cl n).tok x.tok).word
  let d := if status = 0 then d else d.onRun n fun r =>
    if r.cid ≠ x.cid then r
    else { r with wbToken := if r.wbFailed = 0 then word else r.wbToken, wbFailed := r.wbFailed + 1,
                  internal := r.internal || decide (status = 0x0D) }
  d.settle n

/-- What WAIT says of a waybill at the head of the queue (R164): it goes on, ends with a status, or waits. -/
inductive WaitSays where
  | go | fail (status : Nat) | wait
  deriving DecidableEq, Repr
/-- WAIT of the head `x`, with the rest of the queue. -/
def Cluster.waitSays (c : Cluster) (x : Waybill) (rest : List Waybill) : WaitSays :=
  if !(wWaitEn x.w) then .go
  else
    let k := wWaitTok x.w
    let t := c.tok k
    match t.st with
    | .free => .go
    | .done => if t.status = 0 then .go else .fail 0x0B
    | .pending => if k = x.tok ∨ rest.any (fun y => decide (y.tok = k)) then .fail 0x0A else .wait

/-- The M-core takes the head of its queue, when it is idle (R153, R155): a head that fails a check, or has been given
its status, ends with no effect; one whose token is still awaited stays. -/
def Dev.startHead (d : Dev) (n : Nat) (which : Waybill → Bool) : Dev :=
  let c := d.cl n
  match c.wbRun, c.wbq with
  | none, x :: rest =>
    if !(which x) then d
    else
      let gone := d.setCl n { c with wbq := rest }
      match x.fail with
      | some st => gone.endWaybill n x st
      | none => match waybillCheck d.part.fp64 (d.inShare x.ctx) x.w with
        | some st => gone.endWaybill n x st
        | none => match c.waitSays x rest with
          | .fail st => gone.endWaybill n x st
          | .wait => d
          | .go => d.setCl n { c with wbq := rest, wbRun := some x }
  | _, _ => d

/-- Those bytes of the D region that lie between two addresses take open values. -/
def Dev.undefineIn (d : Dev) (n : Nat) (w : BitVec 512) (lo hi : Nat) : Dev :=
  let r := wRegD w
  (List.range r.rows).foldl (fun d i => (List.range (ceilDiv r.rowBytes 8)).foldl (fun d k =>
    let a := r.base + i * r.ld + 8 * k
    let (x, d) := d.fresh
    let bs := (List.range (min 8 (r.rowBytes - 8 * k))).filter fun j => decide (lo ≤ a + j ∧ a + j < hi)
    match bs with
    | [] => d
    | j :: _ => d.localPut n (a + j) (bs.map fun j => (toBytes 8 x).getD j 0)) d) d
/-- INTERNAL (R169): the running waybill and every one queued end, in order, their D regions undefined as far as they lie in
the issuer's share, and none runs until a self-test slice is passed. -/
def Dev.mcoreInternal (d : Dev) (n : Nat) : Dev :=
  let d := d.fault (origin 1 n) 4 3 (origin 1 n) (dieOf n) 0 0
  let c := d.cl n
  let all := (match c.wbRun with
    | some x => [x]
    | none => []) ++ c.wbq
  let d := d.setCl n { c with wbRun := none, wbq := [], mDead := true }
  all.foldl (fun d x =>
    let s := d.share x.ctx
    let d := if x.fail.isNone then d.undefineIn n x.w s.1 (min s.2 keeperArea) else d
    d.endWaybill n x 0x0D) d

/-- A waybill of an operation at the head of the queue is checked and started. -/
def opWaybill (n op : Nat) (s : State) : Host.Outcome State Fault Refusal :=
  runDie (decide (n < 384)) s fun d => if d.running n then d.startHead n fun x => decide (wOP x.w = op) else d
/-- MMA. -/
def execMma (n : Nat) (s : State) : Host.Outcome State Fault Refusal := opWaybill n 1 s
/-- MMA_Z. -/
def execMmaZ (n : Nat) (s : State) : Host.Outcome State Fault Refusal := opWaybill n 2 s
/-- XP_FIN. -/
def execXpFin (n : Nat) (s : State) : Host.Outcome State Fault Refusal := opWaybill n 3 s
/-- XP_SUM. -/
def execXpSum (n : Nat) (s : State) : Host.Outcome State Fault Refusal := opWaybill n 4 s
/-- The token that WAIT names has left PENDING: the waybill at the head proceeds or fails (R164). -/
def execWaybillWaitResolved (n : Nat) (s : State) : Host.Outcome State Fault Refusal :=
  runDie (decide (n < 384)) s fun d => if d.running n then d.startHead n fun x => wWaitEn x.w else d
/-- The running waybill has written its last line of D and its token becomes DONE (R155); with none running, a head
that needs no array step ends. `parity` is an array parity block found with more than one bad bit (R169). -/
def execWaybillComplete (n : Nat) (parity : Bool) (s : State) : Host.Outcome State Fault Refusal :=
  runDie (decide (n < 384)) s fun d =>
    if !(d.running n) then d
    else match (d.cl n).wbRun with
      | some x =>
        if parity then d.mcoreInternal n
        else
          let (st, d) := d.computeWaybill n x
          (d.onCl n fun c => { c with wbRun := none }).endWaybill n x st
      | none => d.startHead n fun x => x.fail.isSome || !([1, 2, 3, 4].contains (wOP x.w))

end Sys2Proof.Machine
end

