-- ==== Sys2Proof/Machine/Sched.lean ====
section
/-! DEFINITION. Contexts and the scheduler (R370 to R383): placement, slices, timeout, errors, real-time admission, moves
and the registers of the scheduler block. -/
namespace Sys2Proof.Machine

/-! ## Steps and time (R44, R46, R68) -/

/-- Factor of Table 2.3, in hundredths. -/
def widen100 (step : Nat) : Nat := [312, 217, 164, 138, 122].getD step 100
/-- Bound rate of Table 2.1, in 10⁶ steps/s. -/
def boundRate (step : Nat) : Nat := [577, 832, 1102, 1304, 1481, 1799, 2070, 2293].getD step 577
/-- PWR_STEP_STS.STEP, the effective step as last reported. -/
def Dev.step (d : Dev) : Nat := d.rf 0x20004 2 0
/-- Nanoseconds at the step in force as step-5-equivalent units (R68). -/
def Dev.equiv (d : Dev) (ns : Nat) : Nat := ns * 100 * (equivNs / widen100 d.step)

/-- STATE of TWN_STS. -/
def Dev.twinState (d : Dev) : Nat := d.rf 0x14004 2 0
/-- Mirroring and shadowing are in force (R415, R420): paired, and heartbeats on T0 or T1. -/
def Dev.mirrors (d : Dev) : Bool := d.part.twin && decide (d.twinState = 2) && decide (d.rf 0x14004 4 3 ≠ 0)
/-- A context is twinned and served here (R417). -/
def Dev.primary (d : Dev) (ctx : Nat) : Bool := d.part.twin && d.rb 0x14010 ctx
/-- A context stands by for the partner's (R417): it runs nothing until takeover. -/
def Dev.standby (d : Dev) (ctx : Nat) : Bool :=
  d.part.twin && d.rb 0x14018 ctx && !(d.rb 0x14010 ctx) && !d.twin.took

/-! ## Contexts -/

/-- EN of a context. -/
def Dev.ctxOn (d : Dev) (c : Nat) : Bool := d.rb (oCtx c) 0
/-- A cluster that runs, or is about to run, a command of a context. -/
def Cluster.runs (x : Cluster) (c : Nat) : Bool :=
  x.cmdq.any (fun q => decide (q.ctx = c)) || (match x.run with
    | some r => decide (r.q.ctx = c)
    | none => false)
/-- ACTIVE (R372): enabled, or a command of it still runs. -/
def Dev.ctxActive (d : Dev) (c : Nat) : Bool := d.ctxOn c || d.clusters.any fun x => x.2.runs c
/-- SCH_CTX_CLU as it reads: a bit that was cleared reads 0 once the context's running command there has ended. -/
def Dev.maskReads (d : Dev) (c w : Nat) : Word :=
  (d.clusters.filter fun x => decide (x.1 / 32 = w) && x.2.runs c).foldl (fun v x => setBit v (x.1 % 32) true)
    (d.reg (oCtx c + 0x20 + 4 * w))
/-- Clusters of a context's mask. -/
def Dev.maskOf (d : Dev) (c : Nat) : List Nat := (List.range 384).filter fun n => d.maskHas c n
/-- A function exists (R344). -/
def Dev.funcExists (d : Dev) (f : Nat) : Bool :=
  decide (f = 0) || (d.rb (oFunc f) 0 && d.vfEnable && decide (f ≤ d.numVfs))
/-- Two contexts' shares overlap. -/
def Dev.sharesMeet (d : Dev) (a b : Nat) : Bool :=
  let x := d.share a
  let y := d.share b
  decide (x.1 < y.2) && decide (y.1 < x.2)

/-- An enabled context keeps its share on a cluster (R370): its mask holds the cluster, a bit of it that was cleared still
reads 1 there (R372), or a move under way brings it there (R373). -/
def Dev.holdsShare (d : Dev) (c n : Nat) : Bool :=
  d.ctxOn c && (d.maskHas c n || (d.cl n).runs c || (match d.move with
    | some m => decide (m.ctx = c) && decide (m.to_ = n)
    | none => false))
/-- Another context's share on a cluster overlaps the share of a context (R370, R372, R373). -/
def Dev.shareMet (d : Dev) (c n : Nat) : Bool :=
  (List.range 64).any fun o => decide (o ≠ c) && d.holdsShare o n && d.sharesMeet c o
/-- Why clusters may not join a context's mask (R372): code 1 or 3. -/
def Dev.maskCode (d : Dev) (c : Nat) (ns : List Nat) : Option Nat :=
  if ns.any fun n => d.shareMet c n then some 1
  else if ns.any fun n => !(d.present n) then some 3
  else none
/-- Why a context of a function may not be enabled, or take clusters while it is (R372, R437). -/
def Dev.enableCode (d : Dev) (c func : Nat) (ns : List Nat) : Option Nat :=
  let o := oCtx c + 4
  if !d.full then some 3
  else if d.rf o 14 8 = 0 ∨ d.rf o 6 0 + d.rf o 14 8 > 116 then some 2
  else match d.maskCode c ns with
    | some k => some k
    | none => if d.funcExists func then none else some 4

/-- A refused write of a context's registers. -/
def Dev.ctxCfgErr (d : Dev) (c code : Nat) : Dev :=
  (d.setRb (oCtx c + 0x10) 7 true).setRf (oCtx c + 0x10) 10 8 code

/-- The epoch of a context that is created (R361): 0, or the first that no alias of it still uses. -/
def Dev.firstEpoch (d : Dev) (c : Nat) : BitVec 24 :=
  match (List.range 65).find? fun k => !(d.aliases.any fun f => decide (f.ctx = c) && decide (f.oldEpoch = BitVec.ofNat 24 k)) with
  | some k => BitVec.ofNat 24 k
  | none => 0
/-- A context is enabled: counters are cleared (R379), the epoch is 0 (R361) and its seeds are zero (R189). -/
def Dev.enableCtx (d : Dev) (c : Nat) : Dev :=
  let d := [0x80, 0x88, 0x90, 0x98, 0xA0].foldl (fun (d : Dev) o => d.setReg (oCtx c + o) 0) d
  { d with
    ctxs := NMap.put d.ctxs c { CtxRt.reset with epoch := d.firstEpoch c }
    clusters := d.clusters.map fun x => (x.1, { x.2 with seeds := NMap.del x.2.seeds c, debt := NMap.del x.2.debt c }) }
/-- A context leaves the real-time class. -/
def Dev.dropRt (d : Dev) (c : Nat) : Dev := (d.setRb (oCtx c + 0x10) 5 false).setRb 0x608008 c false
/-- A context is disabled: its queued commands complete with NO_CONTEXT (R372). -/
def Dev.disableCtx (d : Dev) (c : Nat) : Dev := (d.dropRt c).dropWaiting (fun q => decide (q.ctx = c)) 5

/-- A write of SCH_CTX_CFG. -/
def Dev.writeCtxCfg (d : Dev) (c : Nat) (v : Word) : Dev :=
  let o := oCtx c
  let new := setFld (setFld (d.reg o) 8 0 (fld v 8 0)) 31 16 (fld v 31 16)
  if d.ctxActive c ∧ fld v 8 1 ≠ d.rf o 8 1 then d.ctxCfgErr c 5
  else if bitAt v 0 ∧ !(d.ctxOn c) then
    match d.enableCode c (fld v 8 1) (d.maskOf c) with
    | some k => d.ctxCfgErr c k
    | none => (d.setReg o new).enableCtx c
  else if d.ctxOn c ∧ !(bitAt v 0) then (d.setReg o new).disableCtx c
  else d.setReg o new
/-- A mask word takes a value. Where a bit is cleared no command of the context starts any more, one already delivered to the
cluster included. -/
def Dev.putMask (d : Dev) (c w : Nat) (v : Word) : Dev :=
  let d := d.setReg (oCtx c + 0x20 + 4 * w) (BitVec.ofNat 64 (fld v 31 0))
  d.recall fun n q => decide (q.ctx = c) && !(d.maskHas c n)
/-- A write of SCH_CTX_CLU: while ACTIVE, bits that are set are checked as an enabling write is. -/
def Dev.writeCtxClu (d : Dev) (c w : Nat) (v : Word) : Dev :=
  let added := ((List.range 32).filter fun b => bitAt v b && !(d.rb (oCtx c + 0x20 + 4 * w) b)).map fun b => 32 * w + b
  if d.ctxActive c then
    match (if added.isEmpty then none else d.enableCode c (d.rf (oCtx c) 8 1) added) with
    | some k => d.ctxCfgErr c k
    | none => d.putMask c w v
  else d.putMask c w v
/-- A write of another register of a context's configuration: refused while ACTIVE unless it changes nothing, or only
DUR_CAP (R372). -/
def Dev.writeCtxOther (d : Dev) (c off : Nat) (v : Word) : Dev :=
  let o := oCtx c + off
  if off ≠ 8 ∧ d.ctxActive c ∧ d.reg o ≠ v then d.ctxCfgErr c 5 else d.setReg o v

/-- SCH_CTX_CFG. -/
def execSchCtxCfgWrite (c : Nat) (v : BitVec 32) (s : State) : Host.Outcome State Fault Refusal :=
  run (decide (c < 64)) s fun d => d.mgr fun d => d.writeCtxCfg c (zext v)
/-- SCH_CTX_CLU. -/
def execSchCtxCluWrite (c w : Nat) (v : BitVec 32) (s : State) : Host.Outcome State Fault Refusal :=
  run (decide (c < 64) && decide (w < 12)) s fun d => d.mgr fun d => d.writeCtxClu c w (zext v)

/-! ## Real-time admission (R381, R383) -/

/-- A sum of quotients, as numerator and denominator. -/
def addQ (x y : Nat × Nat) : Nat × Nat := (x.1 * y.2 + y.1 * x.2, x.2 * y.2)
/-- The larger of two quotients. -/
def maxQ (x y : Nat × Nat) : Nat × Nat := if x.1 * y.2 ≤ y.1 * x.2 then y else x

/-- C_i in ns: the worst case and 2,000 steps of start and record, and 0.6 µs for a twinned context. -/
def Dev.rtCost (d : Dev) (c step : Nat) : Nat × Nat :=
  let t := ((d.rf (oCtx c + 0x58) 39 0 + 2000) * 1000, boundRate step)
  if d.primary c then addQ t (600, 1) else t
/-- TOL in sixteenths: below 16 acts as 16. -/
def Dev.tol (d : Dev) : Nat := max 16 (d.rf 0x608000 7 0)
/-- The contribution of normal contexts on a cluster to B_k, `none` when one has no cap. -/
def Dev.normalBlock (d : Dev) (adm : List Nat) (n step : Nat) : Option (Nat × Nat) :=
  ((List.range 64).filter fun c => d.ctxOn c && d.maskHas c n && !(adm.contains c)).foldl (fun (acc : Option (Nat × Nat)) c =>
    match acc with
    | none => none
    | some m =>
      let cap := d.rf (oCtx c + 8) 31 0
      if cap = 0 then none else some (maxQ m ((cap * 1000 * d.tol + 20000 * 16) * widen100 step, 1600))) (some (0, 1))
/-- The test of R381 for a context at a step. -/
def Dev.admits (d : Dev) (c step : Nat) : Bool :=
  let adm := (List.range 64).filter fun i => decide (i = c) || d.rtAdmitted i
  (d.maskOf c).all fun n =>
    match d.normalBlock adm n step with
    | none => false
    | some nb =>
      let on := adm.filter fun i => d.maskHas i n
      let load := on.foldl (fun (acc : Option (Nat × Nat)) i =>
        match acc with
        | none => none
        | some t =>
          let period := d.rf (oCtx i + 0x50) 31 0 * 1000
          let b := on.foldl (fun m j => if j = i then m else maxQ m (d.rtCost j step)) nb
          let x := addQ (d.rtCost i step) b
          if period = 0 then none else some (addQ t (x.1, x.2 * period))) (some (0, 1))
      match load with
      | none => false
      | some t => decide (t.1 * 100 ≤ 95 * t.2)
/-- SCH_RT_RISK: the admitted contexts that fail their test at the step in force. -/
def Dev.retest (d : Dev) : Dev :=
  d.setReg 0x608008 ((List.range 64).foldl (fun (v : Word) c =>
    if d.rtAdmitted c && !(d.admits c d.step) then setBit v c true else v) 0)

/-- A context in the real-time class holds no turn: those it has pass on (R375, R380). -/
def Dev.freeTurns (d : Dev) (c : Nat) : Dev :=
  ((d.clusters.filter fun x => match x.2.turn with
    | some t => decide (t.ctx = c)
    | none => false).map Prod.fst).foldl (fun (d : Dev) n => d.giveTurn (c + 1) n) d
/-- A write of SCH_CTX_CTL.RT_REQ. -/
def Dev.reqRt (d : Dev) (c : Nat) : Dev :=
  let step := min d.step (d.rf 0x608000 10 8)
  if d.admits c step then ((d.setRb (oCtx c + 0x10) 5 true).freeTurns c).retest else d.setRb (oCtx c + 0x10) 6 true
/-- RT_REQ. -/
def execRtReq (c : Nat) (s : State) : Host.Outcome State Fault Refusal := run (decide (c < 64)) s fun d => d.mgr fun d => d.reqRt c
/-- RT_DROP. -/
def execRtDrop (c : Nat) (s : State) : Host.Outcome State Fault Refusal := run (decide (c < 64)) s fun d => d.mgr fun d => d.dropRt c
/-- A write of SCH_CTX_CTL.CLEAR_ERR (R378). -/
def Dev.clearErr (d : Dev) (c : Nat) : Dev := d.setRb (oCtx c + 0x10) 1 false
/-- CLEAR_ERR. -/
def execClearErr (c : Nat) (s : State) : Host.Outcome State Fault Refusal := run (decide (c < 64)) s fun d => d.mgr fun d => d.clearErr c

/-! ## Placement (R352, R374, R375, R380) -/

/-- A cluster whose S-core waits in `wfc` with no command on its way. -/
def Dev.idle (d : Dev) (n : Nat) : Bool :=
  d.running n && (d.cl n).inWfc && !(d.dbg (.sCore n)).halted && (d.cl n).cmdq.isEmpty && (d.cl n).run.isNone
/-- The status of a command that is turned away at the head of its window (R372, R374, R378, R380). -/
def Dev.headStatus (d : Dev) (q : CmdRec) : Option Nat :=
  let o := oCtx q.ctx
  let dur := q.c.maxDur.toNat
  if q.op ≠ 1 then none
  else if !(d.ctxOn q.ctx) then some 5
  else if d.rb (o + 0x10) 1 then some 6
  else if d.rf (o + 8) 31 0 ≠ 0 ∧ dur > d.rf (o + 8) 31 0 then some 4
  else if d.rtAdmitted q.ctx ∧ dur > d.rf (o + 0x50) 31 0 then some 4
  else none
/-- Whether the device may start commands of a context on a cluster: no move and no handover stops them (R373, R428). -/
def Dev.startsOn (d : Dev) (c n : Nat) : Bool :=
  (match d.move with
    | some m => !(decide (m.ctx = c) && decide (m.from_ = n))
    | none => true) && !(d.twin.handing && d.primary c) && !(d.standby c)
/-- The turn of an idle cluster (R375): a holder whose time is over (R376), or that has no waiting command there, passes it
on. -/
def Dev.settleTurn (d : Dev) (n : Nat) : Dev :=
  match (d.cl n).turn with
  | none => d.giveTurn 0 n
  | some t => if t.expired ∨ t.left = 0 ∨ !(d.waitsOn t.ctx n) ∨ d.rtAdmitted t.ctx then d.giveTurn (t.ctx + 1) n else d
/-- A cluster is free for a context: it is idle, and a normal context holds its turn. -/
def Dev.freeFor (d : Dev) (c n : Nat) : Bool :=
  d.idle n && d.startsOn c n && (d.rtAdmitted c || (match ((d.settleTurn n).cl n).turn with
    | some t => decide (t.ctx = c)
    | none => false))
/-- The cluster that an accepted command goes to (R374). -/
def Dev.pickCluster (d : Dev) (q : CmdRec) : Option Nat :=
  let pref := fld q.c.cluster 8 0
  let rtWaits (n : Nat) : Bool := (List.range 64).any fun c => d.rtAdmitted c && decide (c ≠ q.ctx) && d.waitsOn c n
  let ok (n : Nat) : Bool := d.maskHas q.ctx n && d.freeFor q.ctx n && (d.rtAdmitted q.ctx || !(rtWaits n))
  if pref < 384 ∧ ok pref = true then some pref
  else if bitAt q.c.cluster 15 then none
  else (List.range 384).find? ok
/-- A waiting real-time command whose deadline is not after that of any other that could take the same cluster. -/
def Dev.earliest (d : Dev) (q : CmdRec) (n : Nat) : Bool :=
  let dl (x : CmdRec) : Nat := x.acc.toNat + d.rf (oCtx x.ctx + 0x50) 31 0 * 1000
  d.allWaiting.all fun x =>
    !(decide (x.op = 1) && d.rtAdmitted x.ctx && d.ctxOn x.ctx && !(d.rb (oCtx x.ctx + 0x10) 1) && d.fits x n && d.mayStart x)
      || decide (dl q ≤ dl x)
/-- A waiting real-time command sets YIELD on the clusters that normal contexts hold (R380). -/
def Dev.yieldFor (d : Dev) (q : CmdRec) : Dev :=
  { d with clusters := d.clusters.map fun x =>
      if d.fits q x.1 && (match x.2.run with
        | some r => !(d.rtAdmitted r.q.ctx)
        | none => false) then (x.1, { x.2 with s := { x.2.s with yield := true } }) else x }

/-- A command leaves its window's queue. -/
def Dev.unqueue (d : Dev) (q : CmdRec) : Dev :=
  d.onWin q.func q.win fun w => { w with waiting := w.waiting.filter fun x => decide (x.seq ≠ q.seq) }
/-- A RUN command at the head of its window goes to a cluster, is turned away, or waits. -/
def Dev.placeRun (d : Dev) (q : CmdRec) : Dev :=
  match d.headStatus q with
  | some st => { (d.unqueue q) with recs := d.recs ++ [q.plainRec st] }
  | none =>
    if d.blocked then d
    else match d.pickCluster q with
      | none => if d.rtAdmitted q.ctx then d.yieldFor q else d
      | some n =>
        if d.rtAdmitted q.ctx ∧ d.earliest q n = false then d
        else
          let d := if d.rtAdmitted q.ctx then d else d.settleTurn n
          (d.unqueue q).onCl n fun c => { c with cmdq := c.cmdq ++ [q] }

/-! ## Slices and timeout (R375 to R378) -/

/-- A turn expires: YIELD is set (R375, R99). The row stands for the end of its last microsecond. -/
def execSliceExpiry (n : Nat) (s : State) : Host.Outcome State Fault Refusal :=
  run (decide (n < 384)) s fun d =>
    match (d.cl n).turn, (d.cl n).run with
    | some t, some r =>
      if t.expired ∨ r.q.ctx ≠ t.ctx ∨ t.left > 1000 * equivNs then d
      else d.onCl n fun c => { c with turn := some { t with left := 0, past := 0, expired := true }, s := { c.s with yield := true } }
    | _, _ => d

/-- Run time goes on until the record is written (R379). -/
def Dev.tickRecs (d : Dev) (n u : Nat) : Dev :=
  { d with recs := d.recs.map fun (x : Rec) => if x.cid ≠ 0 ∧ x.cluster.toNat % 512 = n then { x with run := x.run + u } else x }
/-- A microsecond of the cluster's clocks at the step in force (R68): the running command's time, and overrun with it, stops
while the S-core or every group it started is halted (R104, R141), and the turn's slice while the S-core is. -/
def Dev.tickCl (d : Dev) (n : Nat) : Dev :=
  let u := d.equiv 1000
  (d.tickRecs n u).onCl n fun c =>
    match c.run with
    | none => c
    | some r =>
      let sHalt := (NMap.get c.dbg Dbg.none 0).halted
      let stopped := sHalt || (!c.groups.isEmpty && c.groups.all fun g => (NMap.get c.dbg Dbg.none (1 + g.1)).halted)
      { c with
        run := some (if stopped then r else { r with ns := r.ns + u })
        turn := match c.turn with
          | none => none
          | some t => some (if sHalt ∨ r.q.ctx ≠ t.ctx then t
              else if t.expired then (if stopped then t else { t with past := t.past + u }) else { t with left := t.left - u }) }

/-- A group ends at termination (R113). -/
def Cluster.killGroups (c : Cluster) (cid : Nat) : Cluster :=
  let mine := c.launches.filter fun l => decide (l.cid = cid)
  let idx := (c.groups.filter fun g => mine.any fun l => decide (l.id = g.2.launch)).map Prod.fst
  let c := idx.foldl (fun c i => c.groupEnd i false) c
  let c := mine.foldl (fun c l => c.complete l.tok l.cid 0x22) c
  { c with launches := c.launches.filter fun l => decide (l.cid ≠ cid) }

/-- Termination of the running command of a cluster (R113, R170, R295, R337): its groups and waybills end, its engine
commands and collectives are abandoned, and the S-core returns to the Keeper's loop. A `cmd.done` that waits does not retire,
and an atomic that the S-core has issued is performed. An engine command that still waits in the cluster ends at once. -/
def Dev.terminate (d : Dev) (n : Nat) (r : RunCmd) : Dev :=
  let d := d.onRun n fun x => { x with ending := none }
  let gone := ((d.cl n).agents n).filter fun a => a.isGroup
  let d := gone.foldl (fun (d : Dev) a => d.endResv a) d
  let d := d.onCl n fun c => c.killGroups r.cid
  let d := match (d.cl n).wbRun with
    | some x => (d.undefineD n x.w)
    | none => d
  let all := (match (d.cl n).wbRun with
    | some x => [x]
    | none => []) ++ (d.cl n).wbq
  let d := d.onCl n fun c =>
    let c := (c.outq.filter fun o => decide (o.cid = r.cid)).foldl (fun (c : Cluster) o =>
      c.complete o.tok o.cid (if o.gather then 0x4A else 0x3B)) c
    { c with
      wbRun := none
      wbq := []
      outq := c.outq.filter fun o => decide (o.cid ≠ r.cid)
      orphans := match c.s.wait with
        | .atom _ _ _ unsent _ _ => c.orphans ++ unsent
        | _ => c.orphans }
  let d := all.foldl (fun (d : Dev) x => d.endWaybill n x 0x0E) d
  let d := { d with chans := d.chans.map fun (ch : Nat × Channel) => (ch.1, { ch.2 with cmds := ch.2.cmds.map fun (c : EngCmd) =>
      if c.cid = r.cid then { c with abandoned := true } else c }) }
  let d := d.abandonColls r.cid
  let d := d.onCl n fun c => { c with misses := c.misses.map fun (m : Miss) => { m with agents := m.agents.filter fun a => a.isGroup } }
  d.onS n fun s => { s with wait := .none, level := .keeper, pc := BitVec.ofNat 48 (s.ktvec.toNat + 0x40) }

/-- The check of R377: one microsecond passes on the cluster, and a command that has exceeded its bound is terminated. One
whose `cmd.done` has retired has left the cluster before the check. -/
def Dev.timeoutCheck (d : Dev) (n : Nat) : Dev :=
  let d := (d.enterGuest n).tickCl n
  match (d.cl n).run with
  | none => d
  | some r =>
    if r.ns * 16 > r.q.c.maxDur.toNat * 1000 * equivNs * d.tol then
      let d := d.terminate n r
      let r := match (d.cl n).run with
        | some x => x
        | none => r
      let d := { d with recs := d.recs ++ [d.runRec n r 2 0 0 0 0 0] }
      (d.leaveCmd n r).ctxError r.q.ctx 1 r.q.win r.q.seq
    else d
/-- The check. -/
def execTimeoutCheck (n : Nat) (s : State) : Host.Outcome State Fault Refusal :=
  run (decide (n < 384)) s fun d => if d.running n then d.timeoutCheck n else d.tickRecs n (d.equiv 1000)

/-! ## Moves (R361, R362, R373) -/

/-- The first epoch from one on that no alias of a context still uses (R361). -/
def Dev.epochFrom (d : Dev) (c : Nat) (e : BitVec 24) : BitVec 24 :=
  match (List.range 66).find? fun k => !(d.aliases.any fun f => decide (f.ctx = c) && decide (f.oldEpoch = e + BitVec.ofNat 24 k)) with
  | some k => e + BitVec.ofNat 24 k
  | none => e
/-- The next epoch of a context. -/
def Dev.nextEpoch (d : Dev) (c : Nat) : BitVec 24 := d.epochFrom c ((NMap.get d.ctxs CtxRt.reset c).epoch + 1)
/-- MOVED detail (R359). -/
def movedDetail (c cause : Nat) (old new : BitVec 24) (from_ to_ : Nat) : BitVec 448 :=
  detail [(8, 1, c), (9, 1, cause), (12, 4, old.toNat), (16, 4, new.toNat), (20, 2, from_), (22, 2, to_)]
/-- The work of a context moves (R361, R362): its epoch is incremented, an alias leads from the old placement to the new
one, and the owner is told. -/
def Dev.moveCtx (d : Dev) (c cause from_ oldPos to_ : Nat) : Dev :=
  let x := NMap.get d.ctxs CtxRt.reset c
  let e := d.nextEpoch c
  let f : Fwd := { ctx := c, oldCl := from_, oldPos := oldPos, oldEpoch := x.epoch, newCl := to_, upTo := d.nextCid }
  let d := { d with ctxs := NMap.put d.ctxs c { x with epoch := e }, aliases := d.aliases ++ [f] }
  d.raise (d.rf (oCtx c) 8 1) 3 (movedDetail c cause x.epoch e from_ to_)
/-- Copy a byte range between two Locals. Words that have never been written stay so (log entry 33). -/
def Mem.copyRange (src dst : Mem) (lo hi : Nat) : Mem :=
  let dst := dst.lose (lo / 8) (hi / 8)
  { dst with
    cells := (src.cells.filter fun x => decide (lo ≤ x.1) && decide (x.1 < hi)).foldl (fun m x => NMap.put m x.1 x.2) dst.cells
    marks := (src.marks.filter fun x => decide (lo ≤ 8 * x.1) && decide (8 * x.1 < hi)).foldl
      (fun m x => NMap.put m x.1 x.2) dst.marks }

/-- What a move needs (R373): the context is enabled and holds FROM, TO is present and outside its mask, and no share on TO
overlaps its own. -/
def Dev.mayMove (d : Dev) (c from_ to_ : Nat) : Bool :=
  d.full && d.ctxOn c && decide (from_ < 384) && decide (to_ < 384) && d.maskHas c from_ && !(d.maskHas c to_) && !((d.cl to_).runs c)
    && d.present to_ && !(d.shareMet c to_)
/-- The late-response kind of a request (Table 12.11) and the address it carries. -/
def Miss.lateKind (m : Miss) : Nat × Nat :=
  match m.kind with
  | .read _ => (1, lineAddr m.line)
  | .own => (3, lineAddr m.line)
  | .through => (3, lineAddr m.line)
  | .atom t => (2, t.addr)

/-- What is logged for a request when its response comes late, at the cluster that takes its placement. -/
def Miss.late (m : Miss) (to_ : Nat) : LateEntry :=
  { kind := m.lateKind.1, epoch := m.place.epoch, val := BitVec.ofNat 64 m.lateKind.2, ctx := m.place.ctx, to_ := to_ }
/-- Requests of a context's old placement that are outstanding without an agent that waits for them: what comes for them is
logged at the new placement (R362). -/
def Dev.lateReqs (d : Dev) (c from_ to_ : Nat) : Dev :=
  let gone (m : Miss) : Bool := decide (m.place.ctx = c) && m.agents.isEmpty && m.data.isNone
  d.onCl from_ fun x => { x with
    misses := x.misses.filter fun m => !(gone m)
    lost := x.lost ++ (x.misses.filter gone).map fun m => m.late to_ }
/-- A write of SCH_MOVE.GO (R373). -/
def Dev.moveGo (d : Dev) (v : Word) : Dev :=
  let o := 0x608010
  let d := d.setRf o 23 0 (fld v 23 0)
  if !(bitAt v 24) ∨ d.rb o 25 then d
  else
    let from_ := fld v 8 0
    let to_ := fld v 17 9
    let c := fld v 23 18
    if !(d.mayMove c from_ to_) then d.setRb o 26 true
    else ({ (d.setRb o 25 true) with move := some { from_ := from_, to_ := to_, ctx := c } } : Dev).recall
      fun n q => decide (n = from_) && decide (q.ctx = c)
/-- SCH_MOVE. -/
def execSchMoveGo (v : BitVec 32) (s : State) : Host.Outcome State Fault Refusal := run true s fun d => d.mgr fun d => d.moveGo (zext v)
/-- No alias leads to the placement of a context on a cluster: one that does keeps it from moving again (R363). -/
def Dev.aliasTo (d : Dev) (c n : Nat) : Bool := d.aliases.any fun f => decide (f.ctx = c) && decide (f.newCl = n)
/-- The move completes: no command of the context runs on FROM, an alias is free, and none leads to the placement (R363). One
that may no longer be made is given up as refused (log entry 106). -/
def execMoveComplete (s : State) : Host.Outcome State Fault Refusal :=
  run true s fun d =>
    match d.move with
    | none => d
    | some m =>
      if !(({ d with move := none } : Dev).mayMove m.ctx m.from_ m.to_) then
        { (((d.setRb 0x608010 25 false).setRb 0x608010 26 true).setRb 0x518000 7 false) with move := none }
      else if (d.cl m.from_).runs m.ctx ∨ d.aliases.length ≥ 64 ∨ d.aliasTo m.ctx m.from_ then
        d.setRb 0x518000 7 (decide (d.aliases.length ≥ 64))
      else
        let sh := d.share m.ctx
        let seed := NMap.get (d.cl m.from_).seeds 0 m.ctx
        let d := d.setMem (.loc m.to_) ((d.mem (.loc m.from_)).copyRange (d.mem (.loc m.to_)) sh.1 sh.2)
        let d := (d.moveCtx m.ctx 1 m.from_ (d.posOf m.from_) m.to_).lateReqs m.ctx m.from_ m.to_
        let d := d.onCl m.to_ fun c => { c with seeds := NMap.set c.seeds 0 m.ctx seed }
        let d := d.onCl m.from_ fun c => { c with seeds := NMap.del c.seeds m.ctx }
        let bitO (n : Nat) : Nat := oCtx m.ctx + 0x20 + 4 * (n / 32)
        let d := (d.setRb (bitO m.from_) (m.from_ % 32) false).setRb (bitO m.to_) (m.to_ % 32) true
        { ((d.setRb 0x608010 25 false).setRb 0x518000 7 false) with move := none }

/-- Nothing of an old placement is outstanding: no engine command, no issued one, no lost one
and no request of a core. -/
def Dev.placementIdle (d : Dev) (f : Fwd) : Bool :=
  d.chans.all (fun ch => ch.2.cmds.all fun c => !(f.names c.ctx c.cluster c.cid)) &&
  (d.cl f.oldCl).outq.all (fun o => !(f.names o.ctx f.oldCl o.cid)) &&
  (d.cl f.oldCl).lost.all (fun x => decide (x.ctx ≠ f.ctx)) &&
  (d.cl f.oldCl).misses.all fun m => !(f.names m.place.ctx f.oldCl m.place.cid)
/-- An alias is released once every request and engine command of the old placement has completed (R363). -/
def execAliasRelease (k : Nat) (s : State) : Host.Outcome State Fault Refusal :=
  run (decide (k < 64)) s fun d =>
    match d.aliases[k]? with
    | none => d
    | some f => if d.placementIdle f then { d with aliases := d.aliases.eraseIdx k } else d

end Sys2Proof.Machine
end

