-- ==== Sys2Proof/Machine/Shadow.lean ====
section
/-! DEFINITION. Shadow points and the progress of a handover (R414, R421 to R423, R428). -/
namespace Sys2Proof.Machine

/-- Change the twin bridge's state. -/
def Dev.onTwin (d : Dev) (f : Twin → Twin) : Dev := { d with twin := f d.twin }
/-- The Lantern sends a notice to the twin before a drain, a power-down, the stop of R411 or at the end of a handover, with
its cause (R414, R427). -/
def Dev.notify (d : Dev) (cause : Nat) : Dev :=
  if d.part.twin then { d with ltn := { d.ltn with notice := some cause } } else d
/-- Pages of the shadow ranges whose shadow bit is set. -/
def Dev.shadowPages (d : Dev) : List Nat := (d.twin.shadow.filter fun x => x.2 && d.shadowed x.1).map Prod.fst
/-- Pages that a shadow point still waits for. -/
def Dev.pointWaits (d : Dev) (r : ShadowRun) : List Nat := r.pages.filter fun p => d.shadowed p
/-- Every page of every shadow range is marked written (R423). -/
def Dev.markAll (d : Dev) : Dev :=
  let pages := ((List.range 16).map fun k =>
    (List.range (d.rf (0x14104 + 16 * k) 19 0)).map fun i => d.rf (0x14100 + 16 * k) 18 0 + i).flatten
  d.onTwin fun t => { t with shadow := pages.foldl (fun (m : NMap Bool) p => NMap.set m false p true) t.shadow }
/-- MARK: a shadow point starts with the pages whose bits are set now (R422). -/
def Dev.markPoint (d : Dev) : Dev :=
  let pages := d.shadowPages
  d.onTwin fun t => { t with
    point := t.point + 1
    runs := t.runs ++ [{ point := t.point + 1, pages := pages }] }

/-- Nothing of the twinned contexts runs here or waits for its record. -/
def Dev.handReady (d : Dev) : Bool :=
  d.clusters.all (fun x => (List.range 64).all fun c => !(d.primary c && x.2.runs c)) && d.recs.all fun r => !(d.primary r.ctx)
/-- Every command of the twinned contexts that waits here is in the partner's mirror store too. -/
def Dev.allAtTwin (d : Dev) : Bool := d.wins.all fun w => w.2.waiting.all fun q => !(d.primary q.ctx) || q.atTwin
/-- A handover goes on (R428): once the running commands have their records a shadow point starts, and once that is
complete, and the partner holds every command that waits, it gets its notice. Those commands go with their contexts (log entry 105). -/
def Dev.handProgress (d : Dev) : Dev :=
  if !d.twin.handing ∨ d.handReady = false ∨ d.allAtTwin = false then d
  else match d.twin.handPoint with
    | none => d.markPoint.onTwin fun t => { t with handPoint := some t.point }
    | some p =>
      if d.twin.runs.any fun r => decide (r.point = p) then d
      else
        let gone (q : CmdRec) : Bool := d.primary q.ctx
        let wins := d.wins.map fun (w : Nat × Window) => (w.1, { w.2 with waiting := w.2.waiting.filter fun q => !(gone q) })
        let d := ({ d with wins := wins }.setRb 0x1400C 2 true).setReg 0x14010 0
        (d.onTwin fun t => { t with handing := false, handPoint := none }).notify 2

end Sys2Proof.Machine
end

