-- ==== Sys2Proof/Machine/Host.lean ====
section
/-! DEFINITION. The host interface (R338 to R363, R368, R410, R437): functions, command windows and rings, completion
records, events, MSI-X, management operations, host accesses through CXL.mem and CXL.cache, and the host ports. -/
namespace Sys2Proof.Machine

/-! ## Functions and ports -/

/-- Host functions, windows, ports, vectors that exist. -/
def funcOk (f : Nat) : Bool := decide (f < 256)
/-- A window of a function. -/
def winOk (f n : Nat) : Bool := decide (f < 256) && decide (n < 8)
/-- Whether a function is reached through a port (R343): the manager appears on both. -/
def Dev.onPort (d : Dev) (f p : Nat) : Bool := decide (f = 0) || decide (d.portOf f = p)
/-- Whether the function's records, events and messages can leave. -/
def Dev.canSend (d : Dev) (f : Nat) : Bool := if f = 0 then d.portUp 0 || d.portUp 1 else d.portUp (d.portOf f)
/-- WINDOWS of a function. -/
def Dev.windowsOf (d : Dev) (f : Nat) : Nat := d.rf (oFunc f) 4 1
/-- VECTORS of a function. -/
def Dev.vectorsOf (d : Dev) (f : Nat) : Nat := d.rf (oFunc f) 10 5
/-- Commands of a function that run (R346). -/
def Dev.runningOf (d : Dev) (f : Nat) : Nat :=
  (d.clusters.map fun x => (x.2.cmdq.filter fun q => decide (q.func = f)).length + (match x.2.run with
    | some r => bit (decide (r.q.func = f))
    | none => 0)).sum
/-- QUIESCED of a function. -/
def Dev.quiesced (d : Dev) (f : Nat) : Bool := d.rb (oFunc f) 16 && decide (d.runningOf f = 0)
/-- Whether a window of a function is enabled. -/
def Dev.anyWindow (d : Dev) (f : Nat) : Bool := (List.range 8).any fun n => (d.win f n).enabled

/-- A write of HIF_VF_TBL (R346, R437): refused when the windows would exceed the pool, when WINDOWS changes while one is
enabled, and, below FULL, when it sets EN of a virtual function. WINDOWS above 8 and VECTORS above 32 are refused too
(DESIGN CHOICE, log entry 34). -/
def Dev.writeVfTbl (d : Dev) (f : Nat) (v : Word) : Dev :=
  let o := oFunc f
  let total := ((List.range 256).map fun g => if g = f then fld v 4 1 else d.windowsOf g).sum
  let en := if f = 0 then true else bitAt v 0
  let bad := decide (total > 512) || (decide (fld v 4 1 ≠ d.windowsOf f) && d.anyWindow f) || decide (fld v 4 1 > 8)
    || decide (fld v 10 5 > 32) || (decide (f ≠ 0) && en && !(d.rb o 0) && !d.full)
  if bad then d.setRb (o + 4) 0 true else d.setReg o (BitVec.ofNat 64 (fld (setBit v 0 en) 17 0))
/-- HIF_VF_TBL. -/
def execHifVfTblWrite (f : Nat) (v : BitVec 32) (s : State) : Host.Outcome State Fault Refusal :=
  run (funcOk f) s fun d => d.mgr fun d => d.writeVfTbl f (zext v)
/-- A PCIe configuration write to VF Enable or NumVFs (R339, R344): TotalVFs is 255. -/
def execVfEnableWrite (enable : Bool) (numVfs : Nat) (s : State) : Host.Outcome State Fault Refusal :=
  run (decide (numVfs ≤ 255)) s fun d => d.mgr fun d => { d with vfEnable := enable, numVfs := numVfs }

/-- A host port leaves its trained state (R410): its lines are released (R342), the functions bound to it move, and one
record says how many. -/
def Dev.portDown (d : Dev) (p : Nat) : Dev :=
  if !d.portUp p then d
  else
    let d := d.setRf (0x520004 + 0x100 * p) 17 0 0
    let moved := (List.range 256).filter fun f => decide (f ≠ 0) && d.rb (oFunc f) 0 && decide (d.portOf f = p)
    let d := { d with
      hostTrk := d.hostTrk.filter fun t => decide (t.port ≠ p)
      hostCache := d.hostCache.filter fun x => decide (x.1 ≠ p)
      ats := d.ats.filter fun x => decide (x.1 ≠ p) }
    let d := moved.foldl (fun (d : Dev) f => d.setRf (oFunc f) 11 11 (1 - p)) d
    d.fault (origin 13 p) 0x11 0 (origin 13 p) (if d.part.code = .gh840m then 3 * p else if p = 0 then 1 else 6) 0
      (BitVec.ofNat 64 moved.length)
/-- A port fails. -/
def execPortDown (p : Nat) (s : State) : Host.Outcome State Fault Refusal := run (decide (p < 2)) s fun d => d.portDown p
/-- PERSTn_N holds a port in reset (R474). -/
def execPerstAssert (p : Nat) (s : State) : Host.Outcome State Fault Refusal := run (decide (p < 2)) s fun d => d.portDown p
/-- A host port has trained (R338): at the width the partner reached, at most ×8 when X8 was set. -/
def execPortLinkTrained (p width pbr : Nat) (s : State) : Host.Outcome State Fault Refusal :=
  run (decide (p < 2) && decide (1 ≤ width) && decide (width ≤ 16) && decide (pbr < 4096)) s fun d =>
    if !d.hostAlive then d
    else
      let w := if d.rb (0x520000 + 0x100 * p) 0 then min width 8 else width
      (d.setRf (0x520004 + 0x100 * p) 17 0 (1 + 2 * w + 64 * pbr)).ledgerFlush

/-! ## Rings -/

/-- EN of a window. -/
def Window.en (w : Window) : Bool := w.ringCfg.getLsbD 0
/-- A write of HIF_FN_RING_CFG (R350). -/
def Dev.writeRingCfg (d : Dev) (f n : Nat) (v : Half) : Dev :=
  d.onWin f n fun w =>
    let cfg : Half := v &&& 0xFFFF
    if v.getLsbD 0 then
      if w.enabled then w
      else { w with ringCfg := cfg, enabled := true, credits := 64, ringPos := 0, phase := true, seq := 0, waiting := [] }
    else { w with ringCfg := cfg, enabled := w.enabled && decide (w.credits < 64) }
/-- HIF_FN_RING_CFG. -/
def execHifFnRingCfgWrite (f n : Nat) (v : BitVec 32) (s : State) : Host.Outcome State Fault Refusal :=
  run (winOk f n) s fun d => d.mgr fun d => if d.funcExists f then d.writeRingCfg f n v else d
/-- A write of HIF_FN_EVT_CFG (R357): EN = 1 sets the count to 0. -/
def Dev.writeEvtCfg (d : Dev) (f : Nat) (v : Half) : Dev :=
  let x := d.fn f
  d.setFn f { x with evtEn := v.getLsbD 0, evtVec := fld v 5 1, count := if v.getLsbD 0 then 0 else x.count }
/-- HIF_FN_EVT_CFG. -/
def execHifFnEvtCfgWrite (f : Nat) (v : BitVec 32) (s : State) : Host.Outcome State Fault Refusal :=
  run (funcOk f) s fun d => d.mgr fun d => if d.funcExists f then d.writeEvtCfg f v else d
/-- Unread entries of a function's event ring, modulo 128 (R357). -/
def Fn.unread (x : Fn) : Nat := (x.count + 128 - x.head) % 128
/-- A write of HIF_FN_EVT_HEAD (R357): entries that have been read make room for held events. -/
def Dev.writeEvtHead (d : Dev) (f : Nat) (v : Half) : Dev := d.setFn f { (d.fn f) with head := fld v 6 0 }
/-- HIF_FN_EVT_HEAD. -/
def execHifFnEvtHeadWrite (f : Nat) (v : BitVec 32) (s : State) : Host.Outcome State Fault Refusal :=
  run (funcOk f) s fun d => d.mgr fun d => if d.funcExists f then d.writeEvtHead f v else d

/-! ## MSI-X (R360) -/

/-- A vector. -/
def Dev.vec (d : Dev) (f v : Nat) : Vec := NMap.get d.vecs Vec.reset (32 * f + v)
/-- Change a vector. -/
def Dev.onVec (d : Dev) (f v : Nat) (g : Vec → Vec) : Dev := { d with vecs := NMap.put d.vecs (32 * f + v) (g (d.vec f v)) }
/-- A vector has a message to send; one at or above VECTORS sends nothing. -/
def Dev.msix (d : Dev) (f v : Nat) : Dev :=
  if v ≥ d.vectorsOf f then d else d.onVec f v fun x => { x with due := true }
/-- The message is sent, or made pending while the vector is masked. -/
def Dev.sendVec (d : Dev) (f v : Nat) : Dev :=
  d.onVec f v fun x =>
    if !x.due then x
    else if x.masked then { x with due := false, pend := true }
    else { x with due := false, sent := x.sent + 1 }
/-- One message for every record or event since the last: at once, or when HOLDOFF ends, which this row then stands for. -/
def execMsixMessage (func vec : Nat) (s : State) : Host.Outcome State Fault Refusal :=
  run (decide (func < 256) && decide (vec < 32)) s fun d => if d.canSend func then d.sendVec func vec else d
/-- The host writes a vector's mask bit: unmasking sends a pending message. -/
def Dev.maskVec (d : Dev) (f v : Nat) (m : Bool) : Dev :=
  d.onVec f v fun x => if !m && x.pend then { x with masked := false, pend := false, sent := x.sent + 1 } else { x with masked := m }
/-- An unmasked vector. -/
def execMsixVectorUnmask (func vec : Nat) (s : State) : Host.Outcome State Fault Refusal :=
  run (decide (func < 256) && decide (vec < 32)) s fun d => if d.funcExists func then d.maskVec func vec false else d

/-! ## Events (R357) -/

/-- The 64 bytes of an event entry. -/
def eventEntry (x : Fn) (e : Event) : List Byte :=
  let w : BitVec 512 := BitVec.ofNat 512 (e.detail.toNat * 2 ^ 64)
  let w := setBytes (setBytes w 0 1 e.kind) 1 1 (bit (decide (x.count < 64)))
  toBytes 64 (setBytes (setBytes w 2 2 e.count) 4 4 x.evSeq.toNat)
/-- The next event of a function is written to its ring, while fewer than 64 entries are unread; held events follow those
that had room. -/
def Dev.writeEvent (d : Dev) (f : Nat) : Dev :=
  let x := d.fn f
  if !x.evtEn ∨ x.unread ≥ 64 ∨ !(d.canSend f) then d
  else match (match x.pend with
    | e :: rest => some (e, { x with pend := rest })
    | [] => match x.held with
      | e :: rest => some (e, { x with held := rest })
      | [] => none) with
    | none => d
    | some (e, y) =>
      -- a POWER event shows PWR_EVT as it stands now (R359)
      let e := if e.kind = 5 then { e with detail := setBytes e.detail 0 4 (d.reg 0x20010).toNat } else e
      let d := d.setFn f { y with count := (x.count + 1) % 128, evSeq := x.evSeq + 1 }
      (d.hostWrite f (x.evtBase.toNat + 64 * (x.count % 64)) (eventEntry x e)).msix f x.evtVec
/-- An event is written. -/
def execEventWrite (func : Nat) (s : State) : Host.Outcome State Fault Refusal := run (funcOk func) s fun d => d.writeEvent func

/-! ## Records (R354 to R356) -/

/-- The 64 bytes of a record (Table 12.8), with the phase and the credits at its writing. -/
def recBytes (r : Rec) (phase : Bool) (credits : Nat) : BitVec 512 :=
  let flags := bit phase + 2 * bit r.reissued + 4 * bit r.moved
  [(0, 1, r.status), (1, 1, flags), (2, 2, r.tag.toNat), (4, 1, r.slot), (5, 1, credits), (6, 2, r.gstatus.toNat), (8, 4, r.seq.toNat),
    (12, 4, r.epoch.toNat), (16, 2, r.cluster.toNat), (18, 2, r.wbFailed), (20, 4, r.fpflags.toNat), (24, 8, r.wbToken.toNat),
    (32, 1, r.tcause), (40, 8, r.tpc.toNat), (48, 8, r.tval.toNat), (56, 4, min (2 ^ 32 - 1) (r.run / (1000 * equivNs))),
    (60, 4, min (2 ^ 32 - 1) (r.waitNs / 1000))].foldl (fun w x => setBytes w x.1 x.2.1 x.2.2) 0
/-- A record may be written (R356, R362, R368, R377, R419): its engine work has drained, and what it waits for has come. -/
def Dev.recReady (d : Dev) (r : Rec) : Bool :=
  (decide (r.cid = 0) || d.chans.all fun c => c.2.cmds.all fun x => decide (x.cid ≠ r.cid)) &&
  (!r.moved || d.aliases.all fun f => !(f.names r.ctx (r.cluster.toNat % 512) r.cid)) &&
  (!r.afterEarlier || !(d.earlierOpen r.func r.win r.seq)) &&
  (match r.quiesce with
    | some f => d.quiesced f
    | none => true) && r.engine.isNone &&
  (!(d.mirrors && d.primary r.ctx) || r.mirrored)
/-- The first record of a window that may be written. -/
def Dev.nextRec (d : Dev) (f n : Nat) : Option Rec := d.recs.find? fun r => decide (r.func = f ∧ r.win = n) && d.recReady r
/-- The accounting of a record to its context, where it has one (R379). -/
def Dev.account (d : Dev) (r : Rec) : Dev :=
  if r.ctx ≥ 64 then d else
  let o := oCtx r.ctx
  let d := d.setReg (o + 0x80) (d.reg (o + 0x80) + BitVec.ofNat 64 r.waitNs)
  let d := (d.setReg (o + 0x88) (d.reg (o + 0x88) + BitVec.ofNat 64 (r.run / equivNs))).bumpRf (o + 0xA0) 31 0 1
  if r.status = 2 then d.bumpRf (o + 0xA0) 63 32 1 else d
/-- A record is written to entry k mod 64 of its ring; the credit returns, and with the last one a window that has been
disabled is off. -/
def Dev.writeRec (d : Dev) (f n : Nat) : Dev :=
  if !(d.canSend f) then d
  else match d.nextRec f n with
    | none => d
    | some r =>
      let w := d.win f n
      let d := { d with recs := eraseFirst d.recs fun x => decide (x = r) }
      let credits := w.credits + 1
      let d := d.setWin f n { w with
        credits := credits
        ringPos := (w.ringPos + 1) % 64
        phase := if w.ringPos = 63 then !w.phase else w.phase
        enabled := w.en || decide (credits < 64) }
      let d := (d.hostWrite f (w.ringBase.toNat + 64 * w.ringPos) (toBytes 64 (recBytes r w.phase credits))).account r
      (if r.irq then d.msix f (fld w.ringCfg 5 1) else d).handProgress
/-- A record is written. -/
def execCompletionRecord (func win : Nat) (s : State) : Host.Outcome State Fault Refusal :=
  run (winOk func win) s fun d => d.writeRec func win

/-! ## Commands (R349 to R352) -/

/-- Management operations (Table 12.6), assigned or not. -/
def isMgmt (op : Nat) : Bool := decide (0x80 ≤ op ∧ op < 0xC0)
/-- OP values that are assigned (Tables 12.6 and 12.14). -/
def opAssigned (op : Nat) : Bool := decide (op = 1 ∨ op = 2) || decide (0x90 ≤ op ∧ op ≤ 0x94)
/-- What a command's contents break (R351, R437), as a status. -/
def Dev.cmdCheck (d : Dev) (q : CmdRec) : Option Nat :=
  let c := q.c
  let o := oFunc q.func + 0x40 + 4 * q.win
  let bad := decide (fld c.flags 7 3 ≠ 0) || decide (fld c.cluster 14 9 ≠ 0) || decide (c.rsv0 ≠ 0) || decide (c.rsv1 ≠ 0)
    || (if q.op = 1 then decide (fld c.entry 63 48 ≠ 0) || decide (c.maxDur = 0) else decide (c.entry ≠ 0))
    || (isMgmt q.op && decide (q.func ≠ 0)) || !(opAssigned q.op)
  if bad then some 4
  else if !d.full ∧ q.op = 1 then some 5
  else if !d.full ∧ isMgmt q.op then some 8
  else if !(d.rb o 6) then some 5
  else if bitAt c.cluster 15 ∧ !(d.maskHas q.ctx (fld c.cluster 8 0)) then some 4
  else if d.rb (oCtx q.ctx + 0x10) 1 then some 6
  else if !(d.ctxOn q.ctx) then some 5
  else none

/-- A record of a management operation. -/
def Dev.mgmtRec (d : Dev) (q : CmdRec) (status : Nat) (quiesce engine : Option Nat) : Dev :=
  { d with recs := d.recs ++ [{ q.plainRec status with quiesce := quiesce, engine := engine }] }
/-- An engine command of a management operation: it has no cluster and no token, and its requests are already made. -/
def mgmtCmd (k cid : Nat) : EngCmd :=
  { k := k, cluster := 0x1FF, tok := 64, record := 0, addr := 0, ctx := 0, func := 0, epoch := 0, pos := 0, seed := 0, cid := cid, started := true,
    next := none, count := 1, lastTag := 0, fails := [], flights := [], abandoned := false, fencing := false, healing := none,
    todo := [], fetch := [], rows := [], idx := [], ofs := [], wgt := [] }
/-- A line as a coherent read finds it, with no change of who holds it; what a host may hold of it comes home first
(`hostLines`). -/
def Dev.peekLine (d : Dev) (line : Nat) : LineData × Dev :=
  match d.dirtyCopy line with
  | some x => (x, d)
  | none => match (d.coh.reps.map fun r => r.2.wb.find? fun x => decide (x.line = line) && decide (x.st = .m ∨ x.st = .o)).find? Option.isSome with
    | some (some x) => (x.d, d)
    | _ => d.homeLine line
/-- Whether the manager's Porter channel can carry lines to a device: it is the manager's, it is not HALTED (R294), and the
manager has a link share where they leave the device (R346). -/
def Dev.mgmtWay (d : Dev) (ch dst : Nat) : Bool :=
  d.channelOk false ch 0 && !(d.rb (oChan 0 ch + 4) 0) &&
  ((d.idValid && decide (d.ownId = dst)) || decide (d.rf (oFunc 0) 15 12 ≠ 0))
/-- Lines that a host may hold come home before a device agent reads them (R342): the snoops, or `none` when there are none. -/
def Dev.hostLines (d : Dev) (p : Nat → Bool) : Option Dev :=
  if d.hostTrk.any fun t => p (t.line / 2) then
    some { d with hostTrk := d.hostTrk.map fun t => if p (t.line / 2) then { t with snoop := true } else t }
  else none
/-- Send lines to a peer through a Porter channel of the manager, and record when every write has been performed there. Lines
for the device itself are written at once (R318). -/
def Dev.mgmtSend (d : Dev) (q : CmdRec) (ch dst : Nat) (ls : List (Nat × LineData)) : Dev :=
  if !(d.mgmtWay ch dst) ∨ ls.any (fun x => decide (x.2.poison ≠ 0)) then d.mgmtRec q 8 none none
  else
    let cid := d.nextCid
    let k := (d.chan 0 ch).nextK
    let c := mgmtCmd k cid
    let d := { (d.mgmtRec q 0 none (some cid)) with nextCid := cid + 1 }
    let d := d.onChan 0 ch fun x => { x with cmds := x.cmds ++ [c], nextK := k + 1 }
    if d.idValid && decide (d.ownId = dst) then
      let d := ls.foldl (fun (d : Dev) x =>
        if (d.partAt x.1).isNone then d else (d.engReady none .com x.1 128).putLine .com x.1 x.2) d
      (d.onChan 0 ch fun x => { x with cmds := x.cmds.filter fun y => decide (y.cid ≠ cid) }).mgmtDone cid 0
    else d.addRems 0 ch (ls.map fun x => d.mkRem 0 ch c 0 dst 1 0 2 x.1 0 x.2.v 0 false 0)
/-- Entries of a list in the Commons (R365), or nothing when it is not mapped or cannot be read. -/
def Dev.pageList (d : Dev) (addr n : Nat) : Option (List Word) × Dev :=
  if n = 0 then (some [], d)
  else if addr % 8 ≠ 0 ∨ (d.partAt addr).isNone ∨ d.partAt addr ≠ d.partAt (addr + 8 * n - 1) then (none, d)
  else (List.range n).foldl (fun (x : Option (List Word) × Dev) k =>
    match x.1 with
    | none => x
    | some ws =>
      let a := addr + 8 * k
      let y := x.2.peekLine (lineOf a)
      if y.1.poison.getLsbD (a % 128 / 8) then (none, y.2)
      else (some (ws ++ [BitVec.ofNat 64 (fld y.1.v (a % 128 * 8 + 63) (a % 128 * 8))]), y.2)) (some [], d)
/-- Lines of pages. -/
def Dev.pageLines (d : Dev) (pages : List Nat) : List (Nat × LineData) × Dev :=
  ((pages.map fun p => (List.range 512).map fun k => p * 512 + k).flatten).foldl (fun (x : List (Nat × LineData) × Dev) l =>
    let y := x.2.peekLine l
    (x.1 ++ [(lineAddr l, y.1)], y.2)) ([], d)

/-- FN_COPY (R368): the listed pages go to the same Commons addresses on the target. -/
def Dev.fnCopy (d : Dev) (q : CmdRec) : Dev :=
  let w := q.c.args
  match d.pageList (fld w 127 64) (fld w 159 128) with
  | (none, d) => d.mgmtRec q 8 none none
  | (some es, d) =>
    let pages := (es.filter fun e => decide (fld e 63 62 = 1)).map fun e => fld e 18 0
    if pages.any fun p => (d.partAt (commonsBase + p * 0x10000)).isNone then d.mgmtRec q 8 none none
    else let x := d.pageLines pages; x.2.mgmtSend q (fld w 27 20) (fld w 19 8) x.1
/-! ### The state image (R368): its contents are named, its layout is not (log entry 46) -/

/-- The context that a window feeds (R346); 64, which is none, where its entry is not VALID. -/
def Dev.winCtx (d : Dev) (f n : Nat) : Nat :=
  let o := oFunc f + 0x40 + 4 * n
  if d.rb o 6 then d.rf o 5 0 else 64
/-- Contexts of a function. -/
def Dev.ctxsOf (d : Dev) (f : Nat) : List Nat := (List.range 64).filter fun c => d.ctxOn c && decide (d.rf (oCtx c) 8 1 = f)
/-- Accounting registers of a context (R379). -/
def accounts : List Nat := [0x80, 0x88, 0x90, 0x98, 0xA0]
/-- Number of an item: word k of the settings of a window, of a queued command, and of a context. -/
def winItem (n k : Nat) : Nat := 8 * n + k
@[inherit_doc winItem] def cmdItem (n i k : Nat) : Nat := 64 + (64 * n + i) * 10 + k
@[inherit_doc winItem] def ctxItem (c k : Nat) : Nat := 5184 + 8 * c + k
/-- The settings of a window: its ring, position, phase, credits and SEQ, and how many commands are queued. -/
def Window.items (w : Window) (n : Nat) : List (Nat × Word) :=
  [(winItem n 0, w.ringBase), (winItem n 1, zext w.ringCfg),
   (winItem n 2, BitVec.ofNat 64 (w.ringPos + 64 * bit w.phase + 128 * bit w.enabled + 256 * w.credits)),
   (winItem n 3, zext w.seq), (winItem n 4, BitVec.ofNat 64 w.waiting.length)]
/-- A queued command: its 64 bytes, its slot and SEQ, and its waiting time. -/
def CmdRec.items (q : CmdRec) (n i : Nat) : List (Nat × Word) :=
  (List.range 8).map (fun k => (cmdItem n i k, BitVec.ofNat 64 (fld (HostCmdWord q.c) (64 * k + 63) (64 * k)))) ++
  [(cmdItem n i 8, BitVec.ofNat 64 (q.slot + 2 ^ 32 * q.seq.toNat)), (cmdItem n i 9, BitVec.ofNat 64 q.waitNs)]
/-- What the state image of a function holds: window settings, SEQ, queued commands, epochs and accounting. -/
def Dev.imageItems (d : Dev) (f : Nat) : List (Nat × Word) :=
  let d := d
  ((List.range 8).map fun n =>
    let w := d.win f n
    w.items n ++ (w.waiting.mapIdx fun i q => q.items n i).flatten).flatten ++
  ((d.ctxsOf f).map fun c => (ctxItem c 0, zext (NMap.get d.ctxs CtxRt.reset c).epoch) ::
    accounts.mapIdx fun k o => (ctxItem c (k + 1), d.reg (oCtx c + o))).flatten
/-- Words of the image, of 64 KiB. -/
def imageWords : Nat := 8192
/-- The lines of an image; words that no item has are open. -/
def Dev.imageLines (d : Dev) (items : List (Nat × Word)) (at_ : Nat) : List (Nat × LineData) × Dev :=
  (List.range 512).foldl (fun (x : List (Nat × LineData) × Dev) k =>
    let (v, d) := (List.range 16).foldl (fun (y : Line × Dev) j =>
      match items.find? fun i => decide (Config.imageSlot i.1 % imageWords = 16 * k + j) with
      | some i => (setFld y.1 (64 * j + 63) (64 * j) i.2.toNat, y.2)
      | none => let (u, d) := y.2.fresh; (setFld y.1 (64 * j + 63) (64 * j) u.toNat, d)) (0, x.2)
    (x.1 ++ [(at_ + 128 * k, ⟨v, 0⟩)], d)) ([], d)
/-- The Local shares of a function's contexts, each as its cluster, its first byte, its lines, and its place after the image
(DESIGN CHOICE, log entry 46). -/
def Dev.shareRuns (d : Dev) (f at_ : Nat) : List (Nat × Nat × Nat × Nat) :=
  let runs := ((d.ctxsOf f).map fun c => (d.maskOf c).map fun n => (n, (d.share c).1, ((d.share c).2 - (d.share c).1) / 128)).flatten
  (runs.foldl (fun (x : List (Nat × Nat × Nat × Nat) × Nat) r => (x.1 ++ [(r.1, r.2.1, r.2.2, x.2)], x.2 + 128 * r.2.2)) ([], at_ + 0x10000)).1
/-- Lines of the Local shares. -/
def Dev.shareLines (d : Dev) (runs : List (Nat × Nat × Nat × Nat)) : List (Nat × LineData) × Dev :=
  runs.foldl (fun (x : List (Nat × LineData) × Dev) r =>
    (List.range r.2.2.1).foldl (fun (x : List (Nat × LineData) × Dev) k =>
      let (y, d) := x.2.readLine (.loc r.1) (r.2.1 + 128 * k)
      (x.1 ++ [(r.2.2.2 + 128 * k, y)], d)) x) ([], d)
/-- FN_EXPORT (R368): the Local shares and the state image go to the target. -/
def Dev.fnExport (d : Dev) (q : CmdRec) : Dev :=
  let w := q.c.args
  let f := fld w 7 0
  let at_ := fld w 127 64
  if !(d.quiesced f) then d.mgmtRec q 8 none none
  else
    let (ss, d) := d.shareLines (d.shareRuns f at_)
    let (ls, d) := d.imageLines (d.imageItems f) at_
    d.mgmtSend q (fld w 27 20) (fld w 19 8) (ss ++ ls)

/-- A command of an image. -/
def imageCmd (v : Nat → Word) (n i : Nat) (f port ctx : Nat) (acc : Word) : CmdRec :=
  let b : BitVec 512 := (List.range 8).foldl (fun b k => setFld b (64 * k + 63) (64 * k) (v (cmdItem n i k)).toNat) 0
  let c : HostCmd :=
    { op := BitVec.ofNat 8 (bytesAt b 0 1), flags := BitVec.ofNat 8 (bytesAt b 1 1), tag := BitVec.ofNat 16 (bytesAt b 2 2)
      cluster := BitVec.ofNat 16 (bytesAt b 4 2), rsv0 := BitVec.ofNat 16 (bytesAt b 6 2), maxDur := BitVec.ofNat 32 (bytesAt b 8 4)
      rsv1 := BitVec.ofNat 32 (bytesAt b 12 4), entry := BitVec.ofNat 64 (bytesAt b 16 8), args := BitVec.ofNat 320 (bytesAt b 24 40) }
  { op := c.op.toNat, c := c, func := f, win := n, slot := fld (v (cmdItem n i 8)) 5 0, port := port
    seq := BitVec.ofNat 32 (fld (v (cmdItem n i 8)) 63 32), ctx := ctx, waitNs := 0, reissued := false
    acc := acc - v (cmdItem n i 9), mirrored := true, atTwin := false }
/-- The queued commands of a window of an image. -/
def imageQueue (v : Nat → Word) (n f port ctx : Nat) (acc : Word) : List CmdRec :=
  (List.range (min 64 (v (winItem n 4)).toNat)).map fun i => imageCmd v n i f port ctx acc
/-- A window as the image sets it. Queued commands keep their SEQ; those of a window that feeds no context here have none. -/
def Dev.importWindow (d : Dev) (v : Nat → Word) (f n : Nat) : Dev :=
  let (acc, d) := d.readDur 100
  let ctx := d.winCtx f n
  let qs := imageQueue v n f (d.portOf f) ctx acc
  let x := (v (winItem n 2)).toNat
  let d := d.onWin f n fun w =>
    { w with
      ringBase := v (winItem n 0)
      ringCfg := BitVec.ofNat 32 (fld (v (winItem n 1)) 15 0)
      ringPos := x % 64
      phase := (x / 64).testBit 0
      enabled := (x / 128).testBit 0
      credits := min 64 (x / 256)
      seq := BitVec.ofNat 32 (fld (v (winItem n 3)) 31 0)
      waiting := if ctx < 64 then qs else [] }
  if ctx < 64 then d else { d with recs := d.recs ++ qs.map fun q => q.plainRec 5 }
/-- A context as the image sets it: its epoch is one above the exported one, and one that no alias uses (R361). -/
def Dev.importCtx (d : Dev) (v : Nat → Word) (f c : Nat) : Dev :=
  let old := BitVec.ofNat 24 (fld (v (ctxItem c 0)) 23 0)
  let new := d.epochFrom c (old + 1)
  let d := { d with ctxs := NMap.put d.ctxs c { (NMap.get d.ctxs CtxRt.reset c) with epoch := new } }
  let d := (accounts.mapIdx fun k o => (o, v (ctxItem c (k + 1)))).foldl (fun (d : Dev) x => d.setReg (oCtx c + x.1) x.2) d
  d.raise f 3 (movedDetail c 2 old new 0x1FF 0x1FF)
/-- The Local shares that came with an image. Where the lines after the image are not mapped, the share is lost. -/
def Dev.importShares (d : Dev) (runs : List (Nat × Nat × Nat × Nat)) : Dev :=
  runs.foldl (fun (d : Dev) r =>
    (List.range r.2.2.1).foldl (fun (d : Dev) k =>
      let a := r.2.1 + 128 * k
      if (d.partAt (r.2.2.2 + 128 * k)).isNone then d.setMem (.loc r.1) ((d.mem (.loc r.1)).lose (a / 8) (a / 8 + 16))
      else
        let (x, d) := d.peekLine (lineOf (r.2.2.2 + 128 * k))
        d.putLine (.loc r.1) a x) d) d
/-- FN_IMPORT (R368): the image is installed. An image that cannot be read is refused (DEDUCED, log entry 46); one with a command
that requires a cluster which this ordering code lacks completes with UNIT_ABSENT. -/
def Dev.fnImport (d : Dev) (q : CmdRec) : Dev :=
  let f := fld q.c.args 7 0
  let at_ := fld q.c.args 127 64
  match d.pageList at_ imageWords with
  | (none, d) => d.mgmtRec q 8 none none
  | (some ws, d) =>
    let v (i : Nat) : Word := ws.getD (Config.imageSlot i % imageWords) 0
    let wins := List.range (d.windowsOf f)
    let absent (x : CmdRec) : Bool := bitAt x.c.cluster 15 && decide (d.part.clusters ≤ fld x.c.cluster 8 0)
    if wins.any fun n => (imageQueue v n f 0 0 0).any absent then d.mgmtRec q 3 none none
    else
      let d := (d.ctxsOf f).foldl (fun (d : Dev) c => d.importCtx v f c) (d.importShares (d.shareRuns f at_))
      (wins.foldl (fun (d : Dev) n => d.importWindow v f n) d).mgmtRec q 0 none none

/-- The lines that a management operation reads: the list of FN_COPY and, once that can be read, its pages; the image of
FN_IMPORT and the shares after it. -/
def Dev.mgmtReads (d : Dev) (q : CmdRec) (line : Nat) : Bool :=
  let w := q.c.args
  let at_ := fld w 127 64
  let within (lo n : Nat) : Bool := decide (lo ≤ lineAddr line + 127) && decide (lineAddr line < lo + n)
  if q.op = 0x91 then
    let n := 8 * fld w 159 128
    within at_ n || (!(d.hostTrk.any fun t => within at_ n && decide (t.line / 2 = line)) &&
      ((d.pageList at_ (fld w 159 128)).1.getD []).any fun e => decide (fld e 63 62 = 1) && decide (fld e 18 0 = line / 512))
  else q.op = 0x93 && (within at_ 0x10000 || (d.shareRuns (fld w 7 0) at_).any fun r => within r.2.2.2 (128 * r.2.2.1))

/-- A command that runs on no cluster starts: NOP, or a management operation (R349, R368). A handover stops it (R428), and one
that reads lines which a host may hold waits until they have come home (R342). -/
def Dev.startOther (d : Dev) (q : CmdRec) : Dev :=
  if d.twin.handing && d.primary q.ctx then d else
  match (if q.op = 0x91 ∨ q.op = 0x93 then d.hostLines (d.mgmtReads q) else none) with
  | some d => d
  | none =>
  let (q, d) := d.waited q
  let d := d.unqueue q
  let f := fld q.c.args 7 0
  if q.op = 2 then { d with recs := d.recs ++ [{ q.plainRec 0 with afterEarlier := true }] }
  else if q.op = 0x90 then ((d.setRb (oFunc f) 16 true).recall fun _ x => decide (x.func = f)).mgmtRec q 0 (some f) none
  else if q.op = 0x91 then d.fnCopy q
  else if q.op = 0x92 then d.fnExport q
  else if q.op = 0x93 then d.fnImport q
  else if q.op = 0x94 then (d.setRb (oFunc f) 16 false).mgmtRec q 0 none none
  else d.mgmtRec q 4 none none

/-- An accepted command (R350): it takes a credit and the next SEQ, is checked, and waits. One that runs on no cluster
starts at once when nothing holds it back. -/
def Dev.acceptCmd (d : Dev) (w : WinWrite) (c : HostCmd) : Dev :=
  let op := c.op.toNat
  let x := d.win w.func w.win
  let ctx := d.winCtx w.func w.win
  let (acc, d) := d.readDur 100
  let q : CmdRec := { op := op, c := c, func := w.func, win := w.win, slot := w.slot, port := w.port, seq := x.seq, ctx := ctx, waitNs := 0,
                      reissued := false, acc := acc, mirrored := !(d.mirrors && d.primary ctx), atTwin := false }
  let d := d.setWin w.func w.win { x with credits := x.credits - 1, seq := x.seq + 1 }
  match d.cmdCheck q with
  | some st => { d with recs := d.recs ++ [q.plainRec st] }
  | none =>
    let d := d.onWin w.func w.win fun y => { y with waiting := y.waiting ++ [q] }
    if op ≠ 1 ∧ d.mayStart q = true then d.startOther q else d

/-- A write to a command window (R343, R347, R350, R417): a command, or discarded and counted. Its OP byte says which command it
is (Table 12.6), whatever the row. -/
def Dev.windowWrite (d : Dev) (w : WinWrite) (c : HostCmd) : Dev :=
  let x := d.win w.func w.win
  let o := oFunc w.func + 0x40 + 4 * w.win
  let drop (d : Dev) : Dev := d.onWin w.func w.win fun y => { y with drop := satAdd (2 ^ 32 - 1) y.drop 1 }
  if !(d.portUp w.port) ∨ !(d.funcExists w.func) then d
  else if !(d.onPort w.func w.port) ∨ w.win ≥ d.windowsOf w.func then d.bumpRf (oFunc w.func + 8) 31 0 1
  else if w.len ≠ 64 ∨ !w.aligned ∨ !w.single ∨ !x.en ∨ x.credits = 0 then drop d
  else if d.rb o 6 && d.standby (d.rf o 5 0) then drop d
  else d.acceptCmd w c

/-- A write to a window that some function has. -/
def winWriteOk (w : WinWrite) : Bool :=
  decide (w.port < 2) && decide (w.func < 256) && decide (w.win < 8) && decide (w.slot < 64)
/-- A row of an OP brings that OP in its write, or one that is not assigned (log entry 109). -/
def rowOk (w : WinWrite) (c : HostCmd) (op : Nat) : Bool :=
  winWriteOk w && (decide (c.op.toNat = op) || !(opAssigned c.op.toNat))
/-- RUN. -/
def execRun (w : WinWrite) (c : HostCmd) (s : State) : Host.Outcome State Fault Refusal :=
  run (rowOk w c 1) s fun d => d.windowWrite w c
/-- NOP. -/
def execNop (w : WinWrite) (c : HostCmd) (s : State) : Host.Outcome State Fault Refusal :=
  run (rowOk w c 2) s fun d => d.windowWrite w c
/-- FN_QUIESCE. -/
def execFnQuiesce (w : WinWrite) (c : HostCmd) (s : State) : Host.Outcome State Fault Refusal :=
  run (rowOk w c 0x90) s fun d => d.windowWrite w c
/-- FN_COPY. -/
def execFnCopy (w : WinWrite) (c : HostCmd) (s : State) : Host.Outcome State Fault Refusal :=
  run (rowOk w c 0x91) s fun d => d.windowWrite w c
/-- FN_EXPORT. -/
def execFnExport (w : WinWrite) (c : HostCmd) (s : State) : Host.Outcome State Fault Refusal :=
  run (rowOk w c 0x92) s fun d => d.windowWrite w c
/-- FN_IMPORT. -/
def execFnImport (w : WinWrite) (c : HostCmd) (s : State) : Host.Outcome State Fault Refusal :=
  run (rowOk w c 0x93) s fun d => d.windowWrite w c
/-- FN_RESUME. -/
def execFnResume (w : WinWrite) (c : HostCmd) (s : State) : Host.Outcome State Fault Refusal :=
  run (rowOk w c 0x94) s fun d => d.windowWrite w c

/-- A waiting command starts (R374): RUN on a cluster that is free for its context, any other at once; or it is turned
away, or goes on waiting. -/
def execCommandPlacement (func win : Nat) (seq : BitVec 32) (s : State) : Host.Outcome State Fault Refusal :=
  run (winOk func win) s fun d =>
    match (d.win func win).waiting.find? fun q => decide (q.seq = seq) with
    | none => d
    | some q => if !(d.mayStart q) then d else if q.op = 1 then d.placeRun q else d.startOther q

/-! ## Host accesses (R339, R341, R342, R273) -/

/-- Bytes of a line as a read returns them: `none` where the word is poisoned. -/
def lineBytes (x : LineData) (o n : Nat) : List (Option Byte) := ((wordBytes (lineWords x)).drop o).take n
/-- The partition of an address, when it is an active HOST_MEM partition (R342). -/
def Dev.hostMem (d : Dev) (addr : Nat) : Option Nat :=
  match d.partAt addr with
  | some p => if d.rb (oPart p) 7 then some p else none
  | none => none
/-- A host read or write that some host can make: 1 to 64 bytes in one 64-byte line of the HDM range. -/
def hdmOk (port addr size : Nat) : Bool :=
  decide (port < 2) && decide (1 ≤ size) && decide (addr % 64 + size ≤ 64) && decide (addr < 2 ^ 36)
/-- The bytes of a host write, as a mask and data of its line. -/
def HostPend.mask (q : HostPend) : Mask := BitVec.ofNat 128 ((2 ^ q.size - 1) * 2 ^ (q.addr % 128))
@[inherit_doc HostPend.mask] def HostPend.line (q : HostPend) : Line :=
  BitVec.ofNat 1024 ((q.data.toNat % 256 ^ q.size) * 256 ^ (q.addr % 128))
/-- A line as a host's access meets it: requests that have not been accepted yet come after it. -/
def Dev.beforeReqs (d : Dev) (line : Nat) : Dev :=
  { d with
    hostTrk := []
    coh := { d.coh with
      net := d.coh.net.filter fun m => !(decide (m.line = line) && (match m.body with
        | .req r => !(decide (r.kind = .putE ∨ r.kind = .putM ∨ r.kind = .putO))
        | _ => false))
      tickets := d.coh.tickets.filter fun t => decide (t.r.line ≠ line) } }
/-- A line of a host's access is free of transactions under way. -/
def Dev.hostQuiet (d : Dev) (line : Nat) : Bool := (d.beforeReqs line).quiet line
/-- Modified data of a back-invalidation come home (R342), and the port holds the line no longer. -/
def Dev.hostResponds (d : Dev) (q : HostPend) : Dev :=
  let line := lineOf q.addr
  let here := fun t : HostTrk => decide (t.port = q.port) && decide (t.line = (q.addr - commonsBase) / 64)
  (((Dev.killResv { d with hostTrk := eraseFirst d.hostTrk here } line).notePage line)).writeLine .com (lineAddr line) q.mask q.line
/-- A host write at its turn: whether it has been performed, as a store at system scope. It waits while the line is in
transaction, heals, or may be held through the other port. One to an address that no HOST_MEM partition holds is dropped. -/
def Dev.hostTry (d : Dev) (q : HostPend) : Bool × Dev :=
  let line := lineOf q.addr
  if q.resp then (true, d.hostResponds q)
  else if (d.hostMem q.addr).isNone ∨ !d.full then (true, d)
  else if d.hostTrk.any fun t => decide (t.port ≠ q.port) && decide (t.line / 2 = line) then (false, d.snoopHost line)
  else match d.healHold (.host q.port) line with
    | some x => (false, x)
    | none =>
      if !(d.hostQuiet line) then (false, d)
      else (true, (d.healServed (.host q.port) line).syncWrite line q.mask q.line)
/-- A port performs its writes in the order of their arrival, as far as it can (R273). -/
def hostPump : Nat → Nat → Dev → Dev
  | 0, _, d => d
  | fuel + 1, port, d =>
    match d.hostQ.find? fun q => decide (q.port = port) with
    | none => d
    | some q => match d.hostTry q with
      | (false, d) => d
      | (true, d) => hostPump fuel port { d with hostQ := eraseFirst d.hostQ fun x => decide (x = q) }
/-- The writes of a port that wait. -/
def Dev.pumpHost (d : Dev) (port : Nat) : Dev := hostPump d.hostQ.length port d
/-- A host read through CXL.mem: the line is tracked as the host's. Outside every HOST_MEM partition it returns poisoned
data. It waits while the line is in transaction, and while a write of its port to the line does. -/
def execHostMemRead (port addr size : Nat) (s : State) : Host.Outcome State Fault Refusal :=
  run (hdmOk port addr size) s fun d =>
    let a := commonsBase + addr
    let d := d.pumpHost port
    if !(d.portUp port) || d.hostQ.any (fun q => decide (q.port = port) && decide (lineOf q.addr = lineOf a)) then d
    else if (d.hostMem a).isNone ∨ !d.full then { d with hostAns := some (.memRead port (List.replicate size none)) }
    else
      let line := lineOf a
      let mine := d.hostTrk.any fun t => decide (t.port = port) && decide (t.line = addr / 64)
      let other := d.hostTrk.any fun t => decide (t.port ≠ port) && decide (t.line / 2 = line)
      if other then d.snoopHost line
      else match d.healHold (.host port) line with
        | some x => x
        | none =>
        if !(d.hostQuiet line) then d
        else if !mine && decide ((d.hostTrk.filter fun t => decide (t.port = port)).length ≥ 1048576) then
          -- the tracker is full: the port frees its oldest entry first
          { d with hostTrk := updFirst d.hostTrk (fun t => decide (t.port = port)) fun t => { t with snoop := true } }
        else
          let (x, d) := (d.healServed (.host port) line).syncRead line
          let t : HostTrk := { port := port, line := addr / 64, snoop := false }
          { d with
            hostAns := some (.memRead port (lineBytes x (a % 128) size))
            hostTrk := if mine then d.hostTrk else d.hostTrk ++ [t] }
/-- A host write through CXL.mem: it joins the writes of its port, which are performed in the order of their arrival (R273);
outside every HOST_MEM partition it is dropped. -/
def execHostMemWrite (port addr size : Nat) (data : BitVec 512) (s : State) : Host.Outcome State Fault Refusal :=
  run (hdmOk port addr size) s fun d =>
    let a := commonsBase + addr
    if !(d.portUp port) ∨ (d.hostMem a).isNone ∨ !d.full then d
    else Dev.pumpHost { d with hostQ := d.hostQ ++ [{ resp := false, port := port, addr := a, size := size, data := data }] } port
/-- The host answers a back-invalidation (R342), and the device's access proceeds. Modified data are written home as one of the
writes that arrive through the port (R273): after those that came before, and until then the port counts as holding the line. -/
def execBisnpinvResponse (port line : Nat) (dirty : Option (BitVec 512)) (s : State) : Host.Outcome State Fault Refusal :=
  run (decide (port < 2) && decide (line < 2 ^ 30)) s fun d =>
    let q (v : BitVec 512) : HostPend := { resp := true, port := port, addr := commonsBase + 64 * line, size := 64, data := v }
    if (d.hostTrk.any fun t => decide (t.port = port) && decide (t.line = line) && t.snoop) &&
        !(d.hostQ.any fun x => x.resp && decide (x.port = port) && decide (x.addr = commonsBase + 64 * line)) then
      match dirty with
      | none => { d with hostTrk := eraseFirst d.hostTrk fun t => decide (t.port = port) && decide (t.line = line) }
      | some v => Dev.pumpHost { d with hostQ := d.hostQ ++ [q v] } port
    else d

/-- A line enters the host-line cache of a port, the least recently used of its 16,384 leaving it with DirtyEvict or
CleanEvict (R339). -/
def Dev.cacheHost (d : Dev) (port line : Nat) : Dev :=
  let rest := d.hostCache.filter fun x => !(decide (x.1 = port) && decide (x.2.1 = line))
  let mine := rest.filter fun x => decide (x.1 = port)
  let rest := if mine.length < 16384 then rest else match mine.getLast? with
    | some v => rest.filter fun x => decide (x ≠ v)
    | none => rest
  { d with hostCache := (port, line, true) :: rest }
/-- Whether the k-th engine write that awaits GO has been sent: with the requests of its channel and its Porter that are out, those
before it keep within R285. -/
def Dev.hostSent (d : Dev) (k : Nat) (w : HostWr) : Bool :=
  let before := d.hostWr.take k
  decide ((d.remOf w.eng w.ch).length + (before.filter fun x => decide (x.eng = w.eng) && decide (x.ch = w.ch)).length < 2048) &&
  (decide (w.eng = 1) || decide ((d.links.rem.filter fun r => decide (r.eng = 0) && decide (chanDie 0 r.ch = chanDie 0 w.ch)).length +
    (before.filter fun x => decide (x.eng = 0) && decide (chanDie 0 x.ch = chanDie 0 w.ch)).length < 16384))
/-- The host returns GO for the k-th engine write that awaits it (R341): the write is performed. A partial line is merged
in the host-line cache, and a whole one takes the place of a line held there. -/
def execHostGo (k : Nat) (s : State) : Host.Outcome State Fault Refusal :=
  run true s fun d =>
    match d.hostWr[k]? with
    | none => d
    | some w =>
      if !(d.portUp w.port) || !(d.hostSent k w) then d
      else
        let d := Dev.pumpDie { d with hostWr := d.hostWr.eraseIdx k } w.eng w.ch
        let d := d.hostWrite w.func w.addr w.bytes
        let line := hostKey w.func w.addr / 64
        if w.bytes.length < 64 then d.cacheHost w.port line
        else { d with hostCache := d.hostCache.filter fun x => !(decide (x.1 = w.port) && decide (x.2.1 = line)) }
/-- A host snoop is answered from the port's host-line cache (R339): one that invalidates takes the line, one that shares
leaves it clean. It names the line by the function and the address under which the device holds it (log entry 111). -/
def execHostSnoop (port line : Nat) (inval : Bool) (s : State) : Host.Outcome State Fault Refusal :=
  run (decide (port < 2)) s fun d =>
    if !(d.portUp port) then d
    else match d.hostCache.find? fun x => decide (x.1 = port) && decide (x.2.1 = line) with
      | none => { d with hostAns := some (.snoop port false false) }
      | some x =>
        let d := { d with hostAns := some (.snoop port true x.2.2) }
        if inval then { d with hostCache := d.hostCache.filter fun y => decide (y ≠ x) }
        else { d with hostCache := d.hostCache.map fun y => if y = x then (x.1, x.2.1, false) else y }

/-! ## The Ledger's registers (R364 to R367) -/

/-- A write of HIF_LDG_CFG: EN = 1 restarts logging. -/
def Dev.writeLdgCfg (d : Dev) (v : Word) : Dev :=
  let d := d.setReg 0x510000 (BitVec.ofNat 64 (fld v 6 0))
  if bitAt v 0 then { d with ldgStopped := false } else d
/-- HIF_LDG_CFG. -/
def execHifLdgCfgWrite (v : BitVec 32) (s : State) : Host.Outcome State Fault Refusal :=
  run true s fun d => d.mgr fun d => d.writeLdgCfg (zext v)
/-- REARM: the written bits of the function's pages are cleared. -/
def Dev.ldgRearm (d : Dev) (f : Nat) : Dev :=
  { d with dirty := d.dirty.filter fun x => match d.partAt (commonsBase + x.1 * 0x10000) with
      | some p => decide (d.partFunc p ≠ f)
      | none => true }
/-- LEDGER_REARM. -/
def execLedgerRearm (f : Nat) (s : State) : Host.Outcome State Fault Refusal :=
  run (funcOk f) s fun d => d.mgr fun d => (d.setRf 0x510018 7 0 f).ldgRearm f
/-- MARK: a marker entry follows the entries of every earlier write. -/
def Dev.ldgMark (d : Dev) (f : Nat) : Dev :=
  if !(d.rb 0x510000 0) ∨ d.ldgStopped then d
  else
    let queued := (d.ldgQ.filter fun e => decide (fld e 63 62 = 2)).length
    d.ledgerPush (ledgerEntry 2 f ((d.rf 0x51001C 19 1 + queued + 1) % 2 ^ 19))
/-- LEDGER_MARK. -/
def execLedgerMark (f : Nat) (s : State) : Host.Outcome State Fault Refusal :=
  run (funcOk f) s fun d => d.mgr fun d => (d.setRf 0x510018 7 0 f).ldgMark f

end Sys2Proof.Machine
end

