-- ==== Sys2Proof/Machine/Device.lean ====
section
/-! DEFINITION. What the power controller, the Lantern and the twin share: the effective step (R49), the events of the
power block (R69), orderly drains and resets of the compute dies (R67, R277, R358), the spare remap (R19) and the end of a
self-test slice that something interrupts (R462). -/
namespace Sys2Proof.Machine

/-! ## The power block -/

/-- Change the power controller's state. -/
def Dev.onPwr (d : Dev) (f : Pwr → Pwr) : Dev := { d with pwr := f d.pwr }
/-- LTN_SENS[k] takes a value (R452). -/
def Dev.sens (d : Dev) (k v : Nat) : Dev := d.setReg (0x11000 + 4 * k) (BitVec.ofNat 64 (v % 65536 + 2 ^ 31))
/-- The latest value of LTN_SENS[k], as a signed number. -/
def Dev.sensed (d : Dev) (k : Nat) : Int := (BitVec.ofNat 16 (d.rf (0x11000 + 4 * k) 15 0)).toInt
/-- The Lantern samples its sensors from order 3 on, in every stage but RECOVERY (R451). -/
def Dev.sampling (d : Dev) : Bool := decide (2 ≤ d.stage) && decide (d.stage ≠ 10)

/-- A bit of PWR_EVT becomes set (R69): one manager event through the error aggregator, and a POWER event (R359). -/
def Dev.powerEvent (d : Dev) (k : Nat) : Dev :=
  if d.rb 0x20010 k then d
  else
    let d := d.setRb 0x20010 k true
    let d := d.fault (origin 0 0) 0x0E k (origin 0 0) 0 0 (BitVec.ofNat 64 (d.rf 0x20014 15 0))
    d.raise 0 5 (detail [(8, 4, (d.reg 0x20010).toNat), (12, 1, k), (13, 1, d.step), (16, 2, d.rf 0x20014 15 0)])

/-- The step that the request and the governors allow (R49). -/
def Dev.governed (d : Dev) : Nat := min (d.rf 0x20000 2 0) (min d.pwr.sus (min d.pwr.peak d.pwr.therm))
/-- The effective step (R49): 0 below the warning level, under ALERT and during the drain of R67; at the end of a dip no
higher than the step held before it (Table 2.10, order 8). -/
def Dev.wanted (d : Dev) : Nat :=
  if d.pwr.dip = 1 ∨ d.pwr.dip = 2 ∨ d.pwr.alert = true ∨ d.pwr.drain = some 1 then 0
  else if d.pwr.dip = 3 then min d.pwr.before d.governed
  else d.governed
/-- PWR_STEP_STS follows the controller (R52); a new effective step starts a change of the rail (R47). -/
def Dev.refreshStep (d : Dev) : Dev :=
  let w := d.wanted
  let p := d.pwr
  let req := d.rf 0x20000 2 0
  let changing := d.rb 0x20004 3 || decide (w ≠ p.target)
  let d := d.onPwr fun p => { p with target := w }
  let d := (d.setRb 0x20004 3 changing).setRb 0x20004 4 (decide (p.sus < req))
  let d := (d.setRb 0x20004 5 (decide (p.peak < req))).setRb 0x20004 6 (decide (p.therm < req))
  let d := (d.setRb 0x20004 7 (decide (p.dip ≠ 0))).setRb 0x20004 8 p.alert
  (d.setRb 0x20004 9 p.drain.isSome).setRb 0x20004 11 (decide (p.dip ≠ 0) || p.drain.isSome || p.stopped)
/-- A governor lowers the step by one (R59, R60, R62). While a dip, ALERT or a drain holds the effective step at 0, the
step that the request and the governors allow is the one that is lowered (DESIGN CHOICE, log entry 82). -/
def Dev.stepBelow (d : Dev) : Nat := d.governed - 1

/-! ## Self-test slices that something interrupts -/

/-- A slice ends and the position returns to what it was (R462): BLOCK is restored and the turn returned. -/
def Dev.releaseSlice (d : Dev) (die : Nat) (x : Slice) : Dev :=
  let d := { d with bist := { d.bist with slices := NMap.del d.bist.slices die } }
  match x.cl with
  | none => d
  | some n => (d.setReg (oClu n + 0x40) x.saved).onCl n fun c => { c with held := false }
/-- The slice that the manager requested latest is over, with its RESULT (Table 17.4). -/
def Dev.requestOver (d : Dev) (pos result : Nat) : Dev :=
  if d.bist.want = some pos then
    ({ d with bist := { d.bist with want := none } }.setRb 0x800008 0 false).setRf 0x800008 2 1 result
  else d
/-- A slice of a die is abandoned (R462). -/
def Dev.abandonSlice (d : Dev) (die : Nat) : Dev :=
  match NMap.find d.bist.slices die with
  | none => d
  | some x =>
    let d := d.releaseSlice die x
    if x.kind = 2 then d.requestOver x.pos 3 else d
/-- Every slice is abandoned before a drain begins (Table 17.3). -/
def Dev.abandonSlices (d : Dev) : Dev := (List.range 8).foldl (fun (d : Dev) k => d.abandonSlice k) d

/-! ## Orderly drains -/

/-- A cause of a drain after which the dies lose their power: a thermal trip, a power-down that the Lantern begins, one that
the manager requests. -/
def endsPower (cause : Nat) : Bool := decide (2 ≤ cause ∧ cause ≤ 4)
/-- Which cause a drain keeps where a second one meets it: the first, but one that ends the power takes the place of one
that does not (DESIGN CHOICE, log entry 83). -/
def drainCause (old : Option Nat) (cause : Nat) : Nat :=
  match old with
  | some k => if endsPower cause && !endsPower k then cause else k
  | none => cause
/-- An orderly drain begins (R67): starts are blocked, a notice goes to the twin, and no slice is left running. -/
def Dev.beginDrain (d : Dev) (cause : Nat) : Dev :=
  if d.pwr.stopped then d
  else if d.pwr.drain.isSome then
    let d := if d.pwr.drain = some 5 ∧ endsPower cause = true then d.notify 1 else d
    (d.onPwr fun p => { p with drain := some (drainCause p.drain cause) }).refreshStep
  else
    let d := if cause = 5 then d.abandonSlices else d.abandonSlices.notify 1
    (d.onPwr fun p => { p with drain := some cause }).refreshStep
/-- Every engine channel stands at a descriptor boundary (Table 9.4): nothing of a descriptor that it has reached is in flight,
unsent or unwritten; a gather command, whose key is 1,000 or more, is one descriptor. -/
def Dev.atBoundary (d : Dev) : Bool :=
  (d.chans.all fun x => x.2.unsent.isEmpty && x.2.cmds.all fun c =>
    c.flights.isEmpty && c.fetch.isEmpty && c.todo.isEmpty && !c.fencing && c.healing.isNone &&
    !(decide (1000 ≤ x.1) && c.started && c.next.isNone)) &&
  (d.links.rem.all fun r => decide (2 ≤ r.eng)) && d.hostWr.all fun w => decide (2 ≤ w.eng)

/-- Lines whose only current copy lies outside their home, in the order in which they are written there: write-backs on
their way, data granted M and recalled data in flight, and the M and O lines of the replica caches. -/
def Dev.awayLines (d : Dev) : List (Nat × LineData) :=
  let owned (die line : Nat) : Bool := match d.entry line with
    | some e => decide (e.owner = die)
    | none => false
  let puts := d.coh.net.filterMap fun m => match m.body with
    | .req r => match r.pay with
      | .put x => if owned r.src m.line ∧ r.kind ≠ .putE then some (m.line, x) else none
      | _ => none
    | _ => none
  let flying := d.coh.net.filterMap fun m => match m.body with
    | .data .m true x _ => some (m.line, x)
    | .recallData x true => some (m.line, x)
    | _ => none
  let held := (d.coh.reps.map fun r => ((r.2.wb.filter fun x => !(r.2.sent.contains x.line)) ++ r.2.lines).filterMap fun x =>
    if x.st = .m ∨ x.st = .o then some (x.line, x.d) else none).flatten
  puts ++ flying ++ held
/-- The replica caches are written back and every line is dropped (R67, R215). -/
def Dev.writeBackAll (d : Dev) : Dev :=
  let d := d.awayLines.foldl (fun (d : Dev) x => d.putLine .com (lineAddr x.1) x.2) d
  { d with coh := Coh.empty }
/-- A line of the store buffer whose store its home has already performed. -/
def Dev.performedAt (d : Dev) (n line : Nat) : Bool :=
  d.coh.net.any fun m => decide (m.line = line) && decide (m.cl = n) && (match m.body with
    | .comp r _ _ => decide (r.kind = .wrT)
    | _ => false)
/-- Stores in the order in which they were committed. -/
def insertStore (e : StoreEntry) : List StoreEntry → List StoreEntry
  | [] => [e]
  | x :: xs => if e.seq < x.seq then e :: x :: xs else x :: insertStore e xs
/-- The committed stores of a cluster are performed (R277), once no copy of a Commons line is left outside its home. -/
def Dev.drainStores (d : Dev) (n : Nat) (buf : List BufLine) : Dev :=
  let c := d.cl n
  let d := buf.foldl (fun (d : Dev) b =>
    if (d.partAt (lineAddr b.line)).isNone then d
    else (d.notePage b.line).writeLine .com (lineAddr b.line) b.mask b.data) d
  let q := (c.qS ++ c.q0 ++ c.q1).foldl (fun l e => insertStore e l) []
  let d := q.foldl (fun (d : Dev) e => e.runs.foldl (fun (d : Dev) r =>
    if r.addr < localSize then d.localStore n (some e.by_) r
    else if (d.partAt r.addr).isNone then d
    else (d.notePage (lineOf r.addr)).storeRun .com r) d) d
  d.onCl n fun c => { c with qS := [], q0 := [], q1 := [], buf := [] }
/-- The drain of every cluster and replica cache (R67, R277). -/
def Dev.drainAll (d : Dev) : Dev :=
  let todo := d.clusters.map fun x => (x.1, x.2.buf.filter fun b => !(b.issued && d.performedAt x.1 b.line))
  todo.foldl (fun (d : Dev) x => d.drainStores x.1 x.2) d.writeBackAll

/-! ## Resets of the compute dies -/

/-- The lowest SEQ of a window that has received no record (R358). -/
def Dev.lowestOpen (d : Dev) (f n : Nat) : BitVec 32 :=
  let w := d.win f n
  let mine (q : CmdRec) : Bool := decide (q.func = f) && decide (q.win = n)
  let running := (d.clusters.map fun x => (x.2.cmdq ++ (match x.2.run with
    | some r => [r.q]
    | none => [])).filter mine).flatten
  let seqs := ((w.waiting ++ running).map fun q => q.seq) ++
    (d.recs.filter fun r => decide (r.func = f) && decide (r.win = n)).map fun r => r.seq
  seqs.foldl (fun m s => if seqBefore s m then s else m) w.seq
/-- DEVICE_RESET goes to every function whose event ring is enabled, and every window is disabled (R358). -/
def Dev.deviceReset (d : Dev) (cause : Nat) : Dev :=
  let d := (List.range 256).foldl (fun (d : Dev) f =>
    if (d.fn f).evtEn then
      d.raise f 1 (detail ((8, 1, cause) :: (List.range 8).map fun n => (16 + 4 * n, 4, (d.lowestOpen f n).toNat)))
    else d) d
  { d with wins := d.wins.map fun x =>
      (x.1, { x.2 with enabled := false, ringCfg := x.2.ringCfg &&& 0xFFFFFFFE, waiting := [] }) }

/-- Registers that return to their reset values when the compute dies take a reset: the state of channels and links, the
coherence counters, and the clusters' own registers but CLU_ID (R225, R255, R294). -/
def dieReg (o : Nat) : Bool :=
  (decide (0x300000 ≤ o ∧ o < 0x380000) && (decide (o % 0x100 = 4) || decide (o % 0x100 = 0xC) || decide (o % 0x100 = 0x10))) ||
  (decide (0x400000 ≤ o ∧ o < 0x442000) && decide (o % 0x1000 = 4)) ||
  (decide (0x200000 ≤ o ∧ o < 0x208000) && decide (0x100 ≤ o % 0x1000 ∧ o % 0x1000 < 0x140)) ||
  (decide (0x1000000 ≤ o) && decide (o % 0x1000 ≠ 0))
/-- A partition in the middle of a write-back ends it (R215, R216). -/
def Dev.endBusy (d : Dev) (p : Nat) : Dev :=
  if d.rb (oPart p + 8) 1 then
    let d := { (d.setRb (oPart p + 8) 1 false) with oldWays := NMap.del d.oldWays p }
    if d.rb (oPart p) 6 then d else d.setRb (oPart p + 8) 0 false
  else d
/-- The compute dies take a reset: cores, queues, engines, links and everything in flight are cleared. Configuration
registers keep their values (DESIGN CHOICE, log entry 50); Local and the Commons are not touched. -/
def Dev.resetDies (d : Dev) : Dev :=
  let d := (List.range 64).foldl (fun (d : Dev) p => d.endBusy p) d
  let d := { d with
    regs := d.regs.filter fun (x : Nat × Word) => !(dieReg x.1)
    clusters := d.clusters.map fun (x : Nat × Cluster) => (x.1, { Cluster.reset with seeds := x.2.seeds })
    coh := Coh.empty
    chans := []
    hostWr := []
    hostQ := []
    links := Links.reset
    recs := []
    aliases := []
    move := none
    heals := []
    heldBy := []
    episodes := []
    scrub := []
    scrubPass := []
    snaps := d.snaps.filter fun (x : Nat × Nat) => decide (x.1 < 1000)
    bist := { d.bist with slices := [], failed := [] } }
  let d := (List.range 8).foldl (fun (d : Dev) k => d.setRb (0x70A010 + 0x40 * k) 0 false) d
  let d := (d.setRb 0x608010 25 false).setRb 0x518000 7 false
  match d.bist.want with
  | some i => d.requestOver i 3
  | none => d
/-- Everything stored on the compute dies and memory layers is lost (R390). -/
def Dev.loseMemory (d : Dev) : Dev :=
  { d with
    commons := d.commons.loseAll
    loc := (List.range 384).map fun n => (n, (NMap.get d.loc Mem.empty n).loseAll) }
/-- The Locals are lost. -/
def Dev.loseLocals (d : Dev) : Dev :=
  { d with loc := (List.range 384).map fun n => (n, (NMap.get d.loc Mem.empty n).loseAll) }
/-- STAGE changes (R435). -/
def Dev.setStage (d : Dev) (k : Nat) : Dev := d.setRf 0x10000 3 0 k
/-- The compute dies have power: from order 5 on, through the warm reset of R67 too. -/
def Dev.powered (d : Dev) : Bool :=
  decide (4 ≤ d.stage ∧ d.stage ≤ 8) || (decide (d.stage = 3) && !d.pwr.stopped && d.ltn.found.isSome)
/-- The core rail is removed: the sensors of the compute dies read invalid (R452). -/
def Dev.coreOff (d : Dev) : Dev :=
  let d := (List.range 56).foldl (fun (d : Dev) k => d.setReg (0x11000 + 4 * (8 + k)) 0) d
  ((d.setRf 0x20004 3 0 0).onPwr fun p => { p with drain := none, stopped := true }).refreshStep
/-- An orderly power-down is complete: the dies have no power, the Lantern goes on (R62, R277, R451). -/
def Dev.powerDown (d : Dev) : Dev := ((d.resetDies.loseMemory).setStage 3).coreOff

/-- The Lantern ends the dies' power: after an orderly drain from full function; where the dies have been drained already
(the warm reset of R67), at once, with the notice. -/
def Dev.endPower (d : Dev) (cause : Nat) : Dev :=
  if d.full then d.beginDrain cause else if d.powered then (d.notify 1).powerDown else d

/-! ## The spare remap (R18 to R24) -/

/-- Offset of DEV_ROW_MAP for row index r. -/
def oRow (r : Nat) : Nat := 0x400 + 4 * r
/-- Row index of a logical cluster. -/
def rowOf (n : Nat) : Nat := n / 8
/-- CLU_ID of a slot served by a position, or absent. -/
def Dev.setCluId (d : Dev) (n pos : Nat) (present : Bool) : Dev :=
  let v := n + n / 48 * 2 ^ 9 + n % 48 / 8 * 2 ^ 12 + pos * 2 ^ 15
  d.setReg (oClu n) (BitVec.ofNat 64 (v + (if present then 2 ^ 20 + bit (decide (pos = 8)) * 2 ^ 19 else 0)))
/-- CLUSTERS_PRESENT of DEV_CAP1 (R20, R488). -/
def Dev.countPresent (d : Dev) : Dev :=
  d.setRf 8 8 0 ((List.range d.part.clusters).filter fun n => d.present n).length
/-- The remap of one row (R19): the spare serves the lowest-numbered failed slot. -/
def Dev.mapRow (d : Dev) (r : Nat) (failed : List Nat) : Dev :=
  let bad := (List.range 9).filter fun k => failed.contains (9 * r + k)
  let spareGood := !(bad.contains 8)
  let subst := if spareGood then bad.find? fun k => decide (k < 8) else none
  let fenced := bad.foldl (fun v k => v + 2 ^ (8 + k)) 0
  let d := d.setReg (oRow r) (BitVec.ofNat 64 ((subst.getD 15) + 16 * bit spareGood + fenced))
  (List.range 8).foldl (fun (d : Dev) k =>
    if some k = subst then d.setCluId (8 * r + k) 8 true else d.setCluId (8 * r + k) k (!(bad.contains k))) d
/-- The remap is built (R19) from the positions that have failed, by position index. -/
def Dev.buildRemap (d : Dev) (failed : List Nat) : Dev :=
  ((List.range (6 * d.part.dies)).foldl (fun (d : Dev) r => d.mapRow r failed) d).countPresent
/-- The positions that the remap shows fenced. -/
def Dev.fencedPos (d : Dev) : List Nat :=
  (List.range (54 * d.part.dies)).filter fun i => d.rb (oRow (i / 9)) (8 + i % 9)

/-- The Keeper starts (R93, R225): the S-core waits in `wfc`, whose operand the manual does not name, in Keeper level, and
blocking mode is over. -/
def Dev.keeperLoop (d : Dev) (n : Nat) : Dev :=
  let (x, d) := d.fresh
  (d.setRb (oClu n + 0x40) 0 false).onCl n fun c =>
    { c with s := { c.s with wait := .wfc (x.toNat % 64), level := .keeper }, held := false }

end Sys2Proof.Machine
end

