-- ==== Sys2Proof/Machine/Power.lean ====
section
/-! DEFINITION. Power, the governors, ALERT, dips of the supply, drains and resets (R41 to R69, R277, R358, R432, R438,
R451, R476). -/
namespace Sys2Proof.Machine

/-- Change the Lantern. -/
def Dev.onLtn (d : Dev) (f : Lantern → Lantern) : Dev := { d with ltn := f d.ltn }

/-! ## The manager's registers -/

/-- A write of PWR_STEP_CTL (R51): the requested step and paced mode. -/
def Dev.writeStepCtl (d : Dev) (v : Word) : Dev :=
  let d := (d.setRf 0x20000 2 0 (fld v 2 0)).setRb 0x20000 4 (bitAt v 4)
  (if bitAt v 4 then d else d.setRb 0x20004 10 false).refreshStep
/-- PWR_STEP_CTL. -/
def execPwrStepCtlWrite (v : BitVec 32) (s : State) : Host.Outcome State Fault Refusal :=
  run true s fun d => d.mgr fun d => d.writeStepCtl (zext v)
/-- A write of PWR_LIMIT_CFG (R61): a value above the reset value is clamped to it. -/
def Dev.writeLimit (d : Dev) (v : Word) : Dev :=
  let top := regReset d.part 0x2000C
  (d.setRf 0x2000C 11 0 (min (fld v 11 0) (fld top 11 0))).setRf 0x2000C 27 16 (min (fld v 27 16) (fld top 27 16))
/-- PWR_LIMIT_CFG. -/
def execPwrLimitCfgWrite (v : BitVec 32) (s : State) : Host.Outcome State Fault Refusal :=
  run true s fun d => d.mgr fun d => d.writeLimit (zext v)
/-- REARM of PWR_VIN_MIN. -/
def Dev.rearm (d : Dev) : Dev := d.setRf 0x20014 15 0 0xFFFF
/-- REARM. -/
def execRearm (s : State) : Host.Outcome State Fault Refusal := run true s fun d => d.mgr fun d => d.rearm

/-! ## A change of step completes (R41, R65, R383) -/

/-- Every die has reached the new step: it is reported, a rise after a dip ends the dip, and a step below ADMIT_STEP is an
event; admitted contexts are tested again. -/
def Dev.stepReached (d : Dev) : Dev :=
  let old := d.step
  let d := (d.setRf 0x20004 2 0 d.pwr.target).setRb 0x20004 3 false
  let d := (d.onPwr fun p => { p with dip := if p.dip = 3 then 0 else p.dip }).refreshStep
  let least := d.rf 0x608000 10 8
  let d := if d.step < least ∧ least ≤ old then
      (d.setRb 0x608004 0 true).fault (origin 0 0) 0x0F 0 (origin 0 0) 0 0 (BitVec.ofNat 64 d.step)
    else d
  d.retest
/-- The step is reported. -/
def execStepChangeComplete (s : State) : Host.Outcome State Fault Refusal :=
  run true s fun d => if d.rb 0x20004 3 then d.stepReached else d

/-! ## Governors (R59, R60, R62) -/

/-- The hottest junction reading on the module, in 1/16 °C (R62). -/
def Dev.hottest (d : Dev) : Int :=
  (List.range (6 * d.part.dies)).foldl (fun m k =>
    if d.rb (0x11000 + 4 * (8 + k)) 31 then max m (d.sensed (8 + k)) else m) (-32768)
/-- Sum and number of the input-power samples of the last 1 s, at the latest evaluation. -/
def Pwr.second (p : Pwr) : Nat × Nat := p.slots.foldl (fun s x => (s.1 + x.1, s.2 + x.2)) (0, 0)
/-- The 1 ms mean (R60), over the samples taken so far where the window is not full yet: sum and number. -/
def Pwr.milli (p : Pwr) : Nat × Nat := (p.ms.foldl (· + ·) 0, p.ms.length)
/-- A mean in whole W as LTN_SENS shows it, rounded down (DESIGN CHOICE, log entry 81). -/
def meanOf (s : Nat × Nat) : Nat := s.1 / s.2
/-- Samples in 10 ms (Table 16.8). -/
def slotSamples : Nat := 10000
/-- The samples of the 1 s that ends at the next evaluation, if the input power holds at its latest 1 ms mean `w` until then
(R59): of a full window the oldest 10 ms have left. -/
def Pwr.projected (p : Pwr) (w : Nat) : Nat × Nat :=
  let x := { p with slots := p.slots.take 99 }.second
  (x.1 + w * slotSamples, x.2 + slotSamples)

/-- Dynamic power at a step relative to step 5, in thousandths (R57). -/
def dynFactor (s : Nat) : Nat := [166, 286, 445, 576, 725, 1000, 1329, 1684].getD s 1684
/-- Leakage of a GH-880 at a step and 45 °C, in W (R57). -/
def leakAt (s : Nat) : Nat := [90, 110, 130, 146, 164, 200, 240, 290].getD s 290
/-- The factor of leakage at a junction temperature from 15 to 105 °C, in 1/16 °C, in units of 1/3,200 (R57): linear between 15,
45, 65, 85 and 105 °C. -/
def leakFactor (t : Int) : Nat :=
  let x := t.toNat
  if x ≤ 720 then 2240 + (x - 240) * 2
  else if x ≤ 1040 then 3200 + (x - 720) * 3
  else if x ≤ 1360 then 4160 + (x - 1040) * 4
  else 5440 + (x - 1360) * 5
/-- The table arithmetic of R57 on the measured draw `w` at the input, in units of 1/320,000,000 W of core power: what the
module would draw at step `new`, the links at full use, fits the limit `lim` at the input. The core draws 93%
of the input; its dynamic part is what leakage and the links leave of it. R57 gives the figures of a GH-880: a GH-840-M, which has half
its dies, is taken to have half its leakage and half its link power (DESIGN CHOICE, log entry 81). -/
def stepFits (half : Bool) (w lim old new : Nat) (t : Int) : Bool :=
  let unit : Nat := 320000000
  let k : Nat := if half then 2 else 1
  let leak (s : Nat) : Nat := leakAt s * leakFactor t * 100000 / k
  let links : Nat := 360 * unit / k
  let core : Nat := w * 93 * (unit / 100)
  let dyn : Nat := core - (leak old + links)
  decide (dyn * dynFactor new / dynFactor old + leak new + links ≤ lim * 93 * (unit / 100))

/-- Whether the next step fits the limit, as the mean `w` stands (R58, R59). Beyond 15 to 105 °C the manual states no leakage, and
`fits` says (log entry 81). -/
def Dev.nextFits (d : Dev) (w : Nat) (fits : Bool) : Bool :=
  if 240 ≤ d.hottest ∧ d.hottest ≤ 1680 then
    stepFits (decide (d.part.code = .gh840m)) w (d.rf 0x2000C 11 0) (d.rf 0x20004 2 0) (d.pwr.sus + 1) d.hottest
  else fits
/-- The sustained-power governor evaluates (R59): the step falls by one when the projected 1 s mean exceeds the limit, and
rises by one, never above the request, when the mean has stayed below 95% of it for 100 ms and the next step fits. A full
100 ms passes before the next rise (DESIGN CHOICE, log entry 84). -/
def Dev.sustained (d : Dev) (fits : Bool) : Dev :=
  let lim := d.rf 0x2000C 11 0
  let now := d.pwr.second
  let next := d.pwr.projected (d.rf 0x11008 15 0)
  if lim * next.2 < next.1 then (d.onPwr fun p => { p with sus := d.stepBelow, susOk := 0 }).refreshStep
  else if now.1 * 100 < 95 * lim * now.2 then
    if d.pwr.susOk ≥ 10 ∧ d.pwr.sus < d.rf 0x20000 2 0 ∧ d.nextFits (meanOf now) fits = true then
      (d.onPwr fun p => { p with sus := p.sus + 1, susOk := 1 }).refreshStep
    else d.onPwr fun p => { p with susOk := p.susOk + 1 }
  else d.onPwr fun p => { p with susOk := 0 }
/-- Samples of 10 ms for which no PEAK_MEASUREMENT has come: their mean, and that of the last 1 ms, are the row's (log
entry 39). -/
def Dev.unsampled (d : Dev) (meanW msW : Nat) : Dev :=
  if d.pwr.acc.2 = 0 then
    (d.onPwr fun p => { p with ms := List.replicate 1000 msW, acc := (meanW * slotSamples, slotSamples) }).sens 2 msW
  else d
/-- Every 10 ms the samples of the last 10 ms enter the 1 s mean, LTN_SENS index 3 takes it, and the governor acts, in every
stage from order 3 on but RECOVERY (R59, R451). -/
def execSustainedEvaluation (meanW msW : Nat) (fits : Bool) (s : State) : Host.Outcome State Fault Refusal :=
  run true s fun d =>
    if !d.sampling then d
    else
      let d := (d.unsampled meanW msW).onPwr fun p => { p with slots := p.acc :: p.slots.take 99, acc := (0, 0) }
      (d.sens 3 (meanOf d.pwr.second)).sustained fits

/-- The peak limiter (R60): above 97% of the limit the step falls by one, and again after 50 µs; it is given back one step at
a time after 1 ms below 85%, and a further 1 ms passes before the next (DESIGN CHOICE, log entry 84). -/
def Dev.peakLimit (d : Dev) : Dev :=
  let lim := d.rf 0x2000C 27 16
  let m := d.pwr.milli
  if m.1 * 100 > 97 * lim * m.2 then
    if d.pwr.peakHot = 0 ∨ d.pwr.peakHot ≥ 50 then
      let x := (d.onPwr fun p => { p with peak := d.stepBelow, peakHot := 1, peakOk := 0 }).refreshStep
      if d.governed > 0 then x.powerEvent 3 else x
    else d.onPwr fun p => { p with peakHot := p.peakHot + 1, peakOk := 0 }
  else
    let d := d.onPwr fun p => { p with peakHot := 0 }
    if m.1 * 100 < 85 * lim * m.2 then
      if d.pwr.peakOk ≥ 1000 ∧ d.pwr.peak < 7 then
        (d.onPwr fun p => { p with peak := p.peak + 1, peakOk := 1 }).refreshStep
      else d.onPwr fun p => { p with peakOk := p.peakOk + 1 }
    else d.onPwr fun p => { p with peakOk := 0 }
/-- A sample of the input power enters the rolling 1 ms mean, LTN_SENS index 2 takes it, and the peak limiter acts. -/
def Dev.powerSample (d : Dev) (inputW : Nat) : Dev :=
  let d := d.onPwr fun p => { p with ms := inputW :: p.ms.take 999, acc := (p.acc.1 + inputW, p.acc.2 + 1) }
  (d.sens 2 (meanOf d.pwr.milli)).peakLimit
/-- A sample every 1 µs, in every stage from order 3 on but RECOVERY (R60, R451). -/
def execPeakMeasurement (inputW : Nat) (s : State) : Host.Outcome State Fault Refusal :=
  run true s fun d => if !d.sampling then d else d.powerSample inputW

/-- The thermal governor acts on the hottest reading (R62): at 105 °C step 0, at 100 °C one step at once and another every
10 ms, and one step back after 100 ms below 95 °C, a further 100 ms before the next (DESIGN CHOICE, log entry 84). Each sensor
is read every 5 µs, so the times count readings. -/
def Dev.thermal (d : Dev) : Dev :=
  let t := d.hottest
  let all := 6 * d.part.dies
  if t ≥ 1680 then
    let x := (d.onPwr fun p => { p with therm := 0, thermHot := p.thermHot + 1, thermOk := 0 }).refreshStep
    if d.governed > 0 then x.powerEvent 4 else x
  else if t ≥ 1600 then
    if d.pwr.thermHot = 0 ∨ d.pwr.thermHot ≥ 2000 * all then
      let x := (d.onPwr fun p => { p with therm := d.stepBelow, thermHot := 1, thermOk := 0 }).refreshStep
      if d.governed > 0 then x.powerEvent 4 else x
    else d.onPwr fun p => { p with thermHot := p.thermHot + 1, thermOk := 0 }
  else
    let d := d.onPwr fun p => { p with thermHot := 0 }
    if t < 1520 then
      if d.pwr.thermOk ≥ 20000 * all ∧ d.pwr.therm < 7 then
        (d.onPwr fun p => { p with therm := p.therm + 1, thermOk := 1 }).refreshStep
      else d.onPwr fun p => { p with thermOk := p.thermOk + 1 }
    else d.onPwr fun p => { p with thermOk := 0 }
/-- A filtered junction reading. -/
def execJunctionSample (die sensor : Nat) (t : BitVec 16) (s : State) : Host.Outcome State Fault Refusal :=
  run (decide (die < 8) && decide (sensor < 6)) s fun d =>
    if !d.powered ∨ die ≥ d.part.dies then d else (d.sens (8 + 6 * die + sensor) t.toNat).thermal
/-- 108 °C held for 1 ms: an orderly drain and power-down (R62). Where the dies have been drained already, after the warm
reset of R67, they are powered down at once. -/
def execThermalTrip (s : State) : Host.Outcome State Fault Refusal :=
  run true s fun d =>
    if d.powered && decide (d.hottest ≥ 1728) then
      (d.powerEvent 6).endPower 2
    else d

/-- A window of paced mode ends (R54). -/
def execPaceWindow (met : Bool) (s : State) : Host.Outcome State Fault Refusal :=
  run true s fun d =>
    if !d.full then d
    else if d.rb 0x20000 4 && !met then (d.setRb 0x20004 10 true).powerEvent 5
    else d.setRb 0x20004 10 false

/-! ## ALERT (R64, R431, R432, R476) -/

/-- A regulator phase of a die fails; the third makes the Lantern drain and power down (R432). -/
def Dev.phaseFailed (d : Dev) (die : Nat) : Dev :=
  if die ≥ d.part.dies then d
  else
    let k := min 3 (d.rf 0x20018 (2 * die + 1) (2 * die) + 1)
    let d := d.setRf 0x20018 (2 * die + 1) (2 * die) k
    if k = 3 then d.endPower 3 else d
/-- ALERT is asserted; the Lantern logs the regulator and the cause. -/
def execAlert (src : AlertSource) (s : State) : Host.Outcome State Fault Refusal :=
  run (match src with
    | .regulator die _ => decide (die < 8)
    | .chassis => true) s fun d =>
    if d.stage = 0 then d
    else
      let d := ((d.onPwr fun p => { p with alert := true, alerts := src :: p.alerts }).refreshStep).powerEvent 2
      match src with
      | .regulator die .phaseFault => d.phaseFailed die
      | _ => d
/-- ALERT has stayed deasserted for 100 µs. -/
def execAlertRelease (s : State) : Host.Outcome State Fault Refusal :=
  run true s fun d => (d.onPwr fun p => { p with alert := false }).refreshStep

/-! ## Dips of the supply (R48, R65 to R67) -/

/-- A filtered sample of the module input (R69, Table 16.8). -/
def Dev.inputIs (d : Dev) (mv : BitVec 16) : Dev :=
  (d.sens 0 mv.toNat).setRf 0x20014 15 0 (min (d.rf 0x20014 15 0) mv.toNat)
/-- The input falls below the warning level (Table 2.10, orders 1 to 4). -/
def Dev.belowWarning (d : Dev) : Dev :=
  ((d.powerEvent 0).onPwr fun p => { p with dip := 1, before := if p.dip = 0 then p.target else p.before }).refreshStep
/-- The input falls below 44.0 V. -/
def execInputBelowWarning (mv : BitVec 16) (s : State) : Host.Outcome State Fault Refusal :=
  run true s fun d =>
    if !(decide (d.stage ≥ 2)) ∨ mv.toNat ≥ 44000 then d else (d.inputIs mv).belowWarning
/-- The input rises above 46.0 V: the recovery interval starts; a reading at or below 46.0 V ends it. -/
def execInputRecovered (mv : BitVec 16) (s : State) : Host.Outcome State Fault Refusal :=
  run true s fun d =>
    if !(decide (d.stage ≥ 2)) then d
    else
      let d := d.inputIs mv
      if mv.toNat > 46000 then (d.onPwr fun p => { p with dip := if p.dip = 1 then 2 else p.dip }).refreshStep
      else (d.onPwr fun p => { p with dip := if p.dip = 2 then 1 else p.dip }).refreshStep
/-- A rail below 0.45 V for more than 10 µs is treated as input below the reset level (R48). -/
def execRailMonitorLow (die : Nat) (mv : BitVec 16) (s : State) : Host.Outcome State Fault Refusal :=
  run (decide (die < 8)) s fun d =>
    if !d.powered ∨ die ≥ d.part.dies ∨ mv.toNat ≥ 450 then d
    else
      let d := (d.sens (56 + die) mv.toNat).powerEvent 1
      if d.full then d.beginDrain 1 else d
/-- The Lantern die exceeds 115 °C: orderly power-down with notice (Table 16.8). -/
def execLanternOvertemperature (s : State) : Host.Outcome State Fault Refusal :=
  run true s fun d =>
    if d.stage = 0 then d
    else
      let (x, d) := d.fresh
      (d.sens 64 (1841 + x.toNat % 4096)).endPower 3

/-! ## Failures of a start (R436) -/

/-- SAFE_FAULT: the compute dies and the memory layers are unpowered; the host-interface domains stay up but under CAUSE
0x0A. -/
def Dev.safeFault (d : Dev) (cause failed : Nat) : Dev :=
  let d := (((d.setStage 11).setRf 0x10000 7 4 failed).setRf 0x10000 15 8 cause).loseMemory.coreOff
  if cause = 0x0A then (d.setReg 0x520004 0).setReg 0x520104 0 else d
/-- The start goes on unless it has ended in SAFE_FAULT or RECOVERY. -/
def Dev.goOn (d : Dev) (f : Dev → Dev) : Dev := if d.stage = 10 ∨ d.stage = 11 then d else f d
/-- The input falls below the reset level during orders 5 to 8 (R438): the core and memory-layer rails are removed, STAGE returns
to 3, and order 5 is to start again; the third fall of a start ends in SAFE_FAULT. -/
def Dev.fallInStart (d : Dev) (mv : BitVec 16) : Dev :=
  let k := d.stage
  let d := ((d.inputIs mv).belowWarning.powerEvent 1).onLtn fun l => { l with falls := l.falls + 1, starting := some (4, false) }
  if 3 ≤ d.ltn.falls then (d.onLtn fun l => { l with starting := none }).safeFault 0x0B k else (d.loseMemory.setStage 3).coreOff

/-! ## Drains end, resets (R67, R277, R358) -/

/-- Nothing is queued in an engine, and nothing of one is on its way. -/
def Dev.enginesIdle (d : Dev) : Bool :=
  d.chans.all (fun x => x.2.cmds.isEmpty) && d.clusters.all (fun x => x.2.outq.isEmpty) && d.links.rem.isEmpty && d.hostWr.isEmpty
/-- An orderly power-down is carried out once the engines have drained (Table 9.4). -/
def Dev.finishPowerDown (d : Dev) : Dev := if d.enginesIdle then d.drainAll.powerDown else d
/-- The module enters rest (R453): the scrubbers and links stop, the memory layers keep the Commons, and the core rail is
removed. -/
def Dev.enterRest (d : Dev) : Dev :=
  if !d.enginesIdle then d
  else
    let d := d.drainAll.resetDies.loseLocals
    let d := (List.range 8).foldl (fun (d : Dev) k =>
      let o := 0x70A000 + 0x40 * k
      if k < d.part.dies then (d.setRb o 0 false).setRb (o + 0x10) 0 false else d) d
    let d := (List.range d.part.links).foldl (fun (d : Dev) l => d.setRb (0x400000 + 0x1000 * l) 0 false) d
    let d := (d.setStage 9).coreOff
    { d with ltn := { d.ltn with retained := true } }
/-- The drain completes (R67): a warm reset keeps Local and the Commons; a thermal trip and a power-down remove the power. -/
def Dev.endDrain (d : Dev) : Dev :=
  match d.pwr.drain with
  | some 1 =>
    if d.atBoundary then
      (((((d.drainAll.deviceReset 1).resetDies).setStage 3).onPwr fun p => { p with drain := none }).refreshStep)
    else d
  | some 2 => if d.atBoundary then (d.drainAll.deviceReset 2).powerDown else d
  | some 5 => d.enterRest
  | some _ => d.finishPowerDown
  | none => d
/-- The drain completes. -/
def execWarmReset (s : State) : Host.Outcome State Fault Refusal := run true s fun d => d.endDrain
/-- A warm reset without drain, requested by the host (R358, Table 9.4): buffered stores are discarded. -/
def execWarmResetWithoutDrain (s : State) : Host.Outcome State Fault Refusal :=
  run true s fun d =>
    if d.full then
      ((((d.abandonSlices.writeBackAll.deviceReset 3).resetDies).setStage 3).onPwr fun p => { p with drain := none }).refreshStep
    else d
/-- The manager requests a power-down (R277): a drain begins, and once the engines are empty the core rail is removed. -/
def execOrderlyPowerDown (s : State) : Host.Outcome State Fault Refusal :=
  run true s fun d =>
    if !d.full then d
    else
      let d := d.beginDrain 4
      if d.pwr.drain = some 3 ∨ d.pwr.drain = some 4 then d.finishPowerDown else d

/-- The device re-enters at the rail-sequencing stage (R67): orders 5 to 8 of Table 16.1 run again, with the memories kept
and the remap built anew from the positions that had failed (log entry 52). -/
def Dev.reenter (d : Dev) : Dev :=
  let d := (d.buildRemap d.fencedPos).setStage 8
  let d := (List.range d.part.clusters).foldl (fun (d : Dev) n => if d.present n then d.keeperLoop n else d) d
  let d := (d.onPwr fun p => { p with dip := 0 }).refreshStep
  d.stepReached
/-- The module's power is gone: all that is left is what flash holds, and THERMAL_TRIP, which is kept across the restart that
follows a trip (R69). -/
def Dev.powerOff (d : Dev) : Dev :=
  { Dev.reset with
    part := d.part
    regs := if d.rb 0x20010 6 then [(0x20010, 64)] else []
    free := d.free
    host := d.host
    commons := d.commons.loseAll
    loc := (List.range 384).map fun n => (n, (NMap.get d.loc Mem.empty n).loseAll)
    ltn := { Lantern.reset with
      flash := d.ltn.flash
      present := d.ltn.present } }
/-- The input falls below 34 V or is lost (R67, R454): in rest the retention ends; otherwise the device gives no
guarantee, and everything is lost. -/
def execSuddenInputLoss (s : State) : Host.Outcome State Fault Refusal :=
  run true s fun d =>
    if d.stage = 9 then { d.loseMemory with ltn := { d.ltn with retained := false } } else d.powerOff

end Sys2Proof.Machine
end

