-- ==== Sys2Proof/Machine/Partition.lean ====
section
/-! DEFINITION. The manager's writes to the Commons block, the coherence block and the refetch table (R209 to R216, R219,
R220, R228 to R233, R255, R256, R298). -/
namespace Sys2Proof.Machine

/-! ## Enabling a partition (R210 to R213) -/

/-- A field of CMN_PART_CFG outside its range when EN is set (R213). A locked store must name the replica cache partition
of its own die, and a die holds one replica cache (R210). -/
def Dev.partField (d : Dev) (p : Nat) (v : Word) : Bool :=
  let t := fld v 2 0
  let cnt := fld v 24 16
  let die := fld v 5 3
  let q := fld v 13 8
  decide (t = 0 ∨ t ≥ 5) || (decide (t ≠ 2) && decide (die ≥ d.part.dies)) || decide (fld v 28 25 > 14) ||
  (decide (t ≠ 3) && decide (fld v 28 25 ≠ 0)) ||
  (if t = 4 then decide (cnt ≠ 0) || decide (d.partType q ≠ 3) || !(d.rb (oPart q) 6) || decide (d.rf (oPart q) 5 3 ≠ die) ||
      decide (d.rf (oPart q) 28 25 = 0)
    else if t = 3 then decide (cnt = 0 ∨ cnt > 64) ||
      (List.range 64).any fun o => decide (o ≠ p) && d.partActive o && decide (d.partType o = 3) && decide (d.rf (oPart o) 5 3 = die)
    else decide (cnt = 0 ∨ cnt > 256))
/-- The granules or the addresses run past their end. -/
def Dev.partRange (d : Dev) (p : Nat) (v : Word) : Bool :=
  let t := fld v 2 0
  (decide (t ≠ 4) && decide (fld v 15 8 + fld v 24 16 > 256)) ||
  (isStoreType t && decide (d.partBase p - commonsBase + d.cfgSize v > d.part.commonsBytes))
/-- Two configurations use a die in common. -/
def onSameDie (a b : Word) : Bool := decide (fld a 2 0 = 2) || decide (fld b 2 0 = 2) || decide (fld a 5 3 = fld b 5 3)
/-- Granules shared with another enabled partition: granules of a die, or the locked ways of one cache. -/
def Dev.partGranules (d : Dev) (p : Nat) (v : Word) : Bool :=
  (List.range 64).any fun o =>
    let w := d.reg (oPart o)
    decide (o ≠ p) && bitAt w 6 &&
    (if fld v 2 0 = 4 ∨ fld w 2 0 = 4 then decide (fld v 2 0 = 4) && decide (fld w 2 0 = 4) && decide (fld v 13 8 = fld w 13 8)
      else onSameDie v w && decide (fld v 15 8 < fld w 15 8 + fld w 24 16) && decide (fld w 15 8 < fld v 15 8 + fld v 24 16))
/-- Addresses shared with another enabled store partition. -/
def Dev.partAddresses (d : Dev) (p : Nat) (v : Word) : Bool :=
  isStoreType (fld v 2 0) && (List.range 64).any fun o =>
    let w := d.reg (oPart o)
    decide (o ≠ p) && bitAt w 6 && isStoreType (fld w 2 0) &&
    decide (d.partBase p < d.partBase o + d.cfgSize w) && decide (d.partBase o < d.partBase p + d.cfgSize v)
/-- ERR_CODE of a write that sets EN, in the order 4, 3, 1, 2. -/
def Dev.partCode (d : Dev) (p : Nat) (v : Word) : Option Nat :=
  if d.partField p v then some 4 else if d.partRange p v then some 3 else if d.partGranules p v then some 1
  else if d.partAddresses p v then some 2 else none

/-- CFG_ERR and ERR_CODE. -/
def Dev.partErr (d : Dev) (p code : Nat) : Dev := (d.setRb (oPart p + 8) 2 true).setRf (oPart p + 8) 5 3 code
/-- First word and end of a store partition, by word number. -/
def Dev.partWords (d : Dev) (p : Nat) : Nat × Nat :=
  (d.partBase p / 8, (d.partBase p + d.cfgSize (d.reg (oPart p))) / 8)
/-- Whether a line lies in a store partition's range. -/
def Dev.partHolds (d : Dev) (p line : Nat) : Bool :=
  decide (d.partBase p ≤ lineAddr line) && decide (lineAddr line < d.partBase p + d.cfgSize (d.reg (oPart p)))

/-! ## Disabling a partition (R215, R256) -/

/-- A line as it is now, in its newest copy. -/
def Dev.lineNow (d : Dev) (line : Nat) : LineData := (d.newerCopy line).getD (d.homeLine line).1
/-- An atomic of an agent that its partition's old contents serve. -/
def Dev.oldAtom (d : Dev) (a : Agent) (t : Atm) : Dev :=
  match (d.recallAll (lineOf t.addr) true).applyAtm t with
  | (d, some r) => d.giveAtom a t r false
  | (d, none) => d.giveAtom a t [] true
/-- What an agent waits for in a partition that goes off is served from the old contents (R215). -/
def Dev.serveOld (d : Dev) (inP : Nat → Bool) (a : Agent) : Dev :=
  match d.waitOf a with
  | .load _ _ need _ => (need.filter inP).foldl (fun (d : Dev) l => d.giveLine a l (d.lineNow l)) d
  | .atom rd n len unsent todo res =>
    let here (t : Atm) : Bool := decide (commonsBase ≤ t.addr) && inP (lineOf t.addr)
    let sent := (d.cl a.cluster).misses.filterMap fun m => match m.kind with
      | .atom t => if here t = true ∧ m.agents.contains a = true then some t else none
      | _ => none
    let now := unsent.filter here
    let d := d.setWait a (.atom rd n len (unsent.filter fun t => !(here t)) (todo ++ now.map Atm.addr) res)
    (sent ++ now).foldl (fun (d : Dev) t => d.oldAtom a t) d
  | _ => d
/-- The accesses of a cluster that are in flight as a store partition goes off: loads and atomics take the old contents, and what its
stores asked for is lost with them (R215). -/
def Dev.endMisses (d : Dev) (inP : Nat → Bool) (n : Nat) : Dev :=
  let d := ((d.cl n).agents n).foldl (fun (d : Dev) a => d.serveOld inP a) d
  let d := d.onCl n fun c => { c with
    buf := c.buf.filter fun b => !(inP b.line)
    misses := c.misses.filter fun m => !(inP m.line)
    l1rPf := c.l1rPf.filter fun y => !(inP y.1)
    orphans := c.orphans.filter fun t => !(inP (lineOf t.addr)) }
  d.settle n
/-- A request that waited for the directory way of a line which has lost its partition goes on (R240). -/
def Dev.freeVictims (d : Dev) (inP : Nat → Bool) : Dev :=
  (d.coh.dir.filterMap fun (e : Nat × DirEntry) => match e.2.txn with
    | some t => if (t.victim.any inP) = true then t.req.map fun r => (e.1, r) else none
    | none => none).foldl (fun (d : Dev) x => ((d.dropEntry x.1).accept x.2).wakeTickets x.1) d
/-- FUNCS of a PAGE_HEAL event: the functions that map a page, bit f for function f. -/
def Dev.pageFuncs (d : Dev) (page : Nat) : Nat :=
  match d.partAt (commonsBase + 0x10000 * page) with
  | none => 0
  | some p =>
    if d.partRo p then (List.range 256).foldl (fun v f => if d.funcExists f then v + 2 ^ f else v) 0 else 2 ^ d.partFunc p
/-- The healing episode of a page ends, with its lines healed, its lines not healed and its outcome: one PAGE_HEAL event tells the
manager (R399). -/
def Dev.episodeOver (d : Dev) (page : Nat) (e : Nat × Nat × Nat) : Dev :=
  let entry := (d.refetch (commonsBase + 0x10000 * page)).getD 0
  let x := detail [(8, 8, commonsBase + 0x10000 * page), (16, 1, if e.2.2 = 0 then 1 else e.2.2), (17, 1, entry), (18, 2, e.1),
    (20, 2, e.2.1), (24, 32, d.pageFuncs page)]
  ({ d with episodes := NMap.del d.episodes page } : Dev).raise 0 6 x
/-- A store partition goes off: accesses in flight take its old contents, every copy of its lines is dropped with its data, what the
coherence of those lines has under way ends, healing episodes of its pages end, a line that was still healing counting as one that
missed its bound (DESIGN CHOICE, log entry 103), and its words count as unwritten (R215, R256, R399). -/
def Dev.dropStore (d : Dev) (p : Nat) : Dev :=
  let inP := d.partHolds p
  let w := d.partWords p
  let d := (d.clusters.map Prod.fst).foldl (fun (d : Dev) n => d.endMisses inP n) d
  let held := (d.coh.reps.map fun r => (r.2.lines.filter fun x => inP x.line).map fun x => (r.1, x)).flatten
  let d := held.foldl (fun (d : Dev) x => (d.dropRepLine x.1 x.2.line).countLeave x.1 x.2) d
  let d := d.onCoh fun c => { c with
    reps := c.reps.map fun (r : Nat × Replica) =>
      (r.1, { lines := r.2.lines, wb := r.2.wb.filter fun x => !(inP x.line), sent := r.2.sent.filter fun l => !(inP l)
              pf := r.2.pf.filter fun l => !(inP l) })
    dir := c.dir.filter fun (e : Nat × DirEntry) => !(inP e.1)
    lru := c.lru.filter fun l => !(inP l)
    net := c.net.filter fun m => !(inP m.line) || (match m.body with
      | .kill _ => true
      | _ => false)
    tickets := c.tickets.filter fun t => !(inP t.r.line)
    retryq := c.retryq.filter fun r => !(inP r.line)
    resv := c.resv.filter fun r => !(inP r.line) }
  let d := (List.range d.part.dies).foldl (fun (d : Dev) k => d.sendPuts k) (d.freeVictims inP)
  let d := (d.episodes.filter fun (e : Nat × Nat × Nat × Nat) => inP (512 * e.1)).foldl (fun (d : Dev) e =>
    let open_ := (d.heals.filter fun h => decide (h.1 / 512 = e.1) && !h.2.failed).length
    d.episodeOver e.1 (if open_ = 0 then e.2 else (e.2.1, e.2.2.1 + open_, if e.2.2.2 = 0 then 3 else e.2.2.2))) d
  let d := { d with commons := d.commons.lose w.1 w.2, heals := d.heals.filter (fun (h : Nat × Heal) => !(inP h.1)),
                    heldBy := d.heldBy.filter fun (h : Nat × Holder) => !(inP h.1) }
  d.setRb (oPart p + 8) 0 false
/-- A replica cache goes off: BUSY, and every line leaves it, M and O lines through a write-back (R215, R256). A line that the
die's own request for M still needs leaves when that is granted. -/
def Dev.flushReplica (d : Dev) (p : Nat) : Dev :=
  let die := d.rf (oPart p) 5 3
  let d := d.setRb (oPart p + 8) 1 true
  (d.rep die).lines.foldl (fun (d : Dev) x => if d.ownPending die x.line then d else d.evictLine die x) d
/-- EN of a partition is cleared. -/
def Dev.disablePart (d : Dev) (p : Nat) : Dev :=
  if !(d.rb (oPart p) 6) then d
  else
    let d := { (d.setRb (oPart p) 6 false) with oldWays := NMap.del d.oldWays p }
    if !(d.partActive p) then d
    else if d.partType p = 3 then d.flushReplica p
    else d.dropStore p
/-- The write-back buffer of a partition's die is empty. -/
def Dev.wbEmpty (d : Dev) (p : Nat) : Bool := (d.rep (d.rf (oPart p) 5 3)).wb.isEmpty
/-- The write-back of a disabled replica cache finishes. -/
def execReplicaDisableComplete (p : Nat) (s : State) : Host.Outcome State Fault Refusal :=
  run (decide (p < 64)) s fun d =>
    if d.full && d.rb (oPart p + 8) 1 && !(d.rb (oPart p) 6) && decide (d.partType p = 3) && d.wbEmpty p &&
        (d.rep (d.rf (oPart p) 5 3)).lines.isEmpty then
      (d.setRb (oPart p + 8) 1 false).setRb (oPart p + 8) 0 false
    else d

/-! ## LOCK_WAYS (R216) -/

/-- The newly locked ways are emptied: which lines of a set they held is open, at most as many as the ways newly locked, and
each set keeps no more lines than it has ways left, nor more persistent lines than R220 allows; `again` only brings the sets down to that. A line that the die's own request for M still needs stays until it is
granted. -/
def Dev.lockOut (d : Dev) (p : Nat) (again : Bool) : Dev :=
  let die := d.rf (oPart p) 5 3
  let sets := d.repSets p
  let ways := 16 - d.rf (oPart p) 28 25
  let keep (d : Dev) (line : Nat) : Bool :=
    let before := (d.rep die).lines.takeWhile fun y => decide (y.line ≠ line)
    decide ((before.filter fun y => decide (y.line % sets = line % sets)).length < ways)
  let newly := d.rf (oPart p) 28 25 - (NMap.find d.oldWays p).getD 0
  let d := ((d.rep die).lines.reverse.foldl (fun (acc : Dev × List Nat) x =>
    let (o, d) := if again = true ∨ newly ≤ (acc.2.filter fun l => decide (l % sets = x.line % sets)).length then (0, acc.1) else acc.1.choose 2
    if (o = 1 ∨ keep d x.line = false) ∧ d.ownPending die x.line = false then (d.evictLine die x, acc.2 ++ [x.line]) else (d, acc.2))
    (d, [])).1
  let r := d.rep die
  let demoted := r.lines.foldl (fun (acc : List RepLine) (x : RepLine) =>
    let same := acc.filter fun y => decide (y.cls = 2) && decide (y.line % sets = x.line % sets)
    if x.cls = 2 ∧ same.length + d.rf (oPart p) 28 25 ≥ 14 then acc ++ [{ x with cls := 1 }] else acc ++ [x]) []
  d.setRep die { r with lines := demoted }
/-- An enabled locked store names a replica cache partition. -/
def Dev.lockNamed (d : Dev) (p : Nat) : Bool :=
  (List.range 64).any fun o => d.rb (oPart o) 6 && decide (d.partType o = 4) && decide (d.rf (oPart o) 13 8 = p)
/-- A write of another LOCK_WAYS to an active replica cache. One during a write-back is refused as well (DEDUCED). -/
def Dev.writeLockWays (d : Dev) (p ways : Nat) : Dev :=
  let old := d.rf (oPart p) 28 25
  if ways > 14 ∨ d.rb (oPart p + 8) 1 = true ∨ (ways < old ∧ d.lockNamed p = true) then d.partErr p 5
  else
    let d := d.setRf (oPart p) 28 25 ways
    if ways > old then { (d.setRb (oPart p + 8) 1 true) with oldWays := NMap.put d.oldWays p old }.lockOut p false else d
/-- No set of a replica cache holds more lines than it has ways left. -/
def Dev.setsFit (d : Dev) (p : Nat) : Bool :=
  let sets := d.repSets p
  let ls := (d.rep (d.rf (oPart p) 5 3)).lines
  ls.all fun x => decide ((ls.filter fun y => decide (y.line % sets = x.line % sets)).length ≤ 16 - d.rf (oPart p) 28 25)
/-- The write-back of newly locked ways finishes: the ways pass to the locked store. A line that had to stay leaves now. -/
def execLockWaysWritebackDone (p : Nat) (s : State) : Host.Outcome State Fault Refusal :=
  run (decide (p < 64)) s fun d =>
    if d.full && d.rb (oPart p + 8) 1 && d.rb (oPart p) 6 && decide (d.partType p = 3) && d.wbEmpty p then
      if d.setsFit p then { (d.setRb (oPart p + 8) 1 false) with oldWays := NMap.del d.oldWays p } else d.lockOut p true
    else d

/-! ## Writes of the partition registers -/

/-- A partition is enabled: its class counters are zero, and so are their snapshots (R227, R228). -/
def Dev.clearCounters (d : Dev) (p : Nat) : Dev :=
  (List.range 3).foldl (fun (d : Dev) c =>
    let d := [0x80, 0x88, 0x90].foldl (fun (d : Dev) o => d.setReg (oPart p + o + 0x20 * c) 0) d
    { d with snaps := NMap.set d.snaps 0 (4 * p + c) 0 }) d
/-- A write of CMN_PART_CFG (R213, R216). -/
def Dev.writePartCfg (d : Dev) (p : Nat) (v : Word) : Dev :=
  let o := oPart p
  let old := d.reg o
  let v := BitVec.ofNat 64 (fld v 29 0)
  let diff := setBit (old ^^^ v) 6 false
  if d.partActive p then
    if bitAt v 6 && bitAt old 6 && decide (d.partType p = 3) && decide (diff ≠ 0) && decide (setFld diff 28 25 0 = 0) then
      d.writeLockWays p (fld v 28 25)
    else
      let d := if diff = 0 then d else d.partErr p 5
      if bitAt v 6 then d else d.disablePart p
  else if bitAt v 6 then
    match d.partCode p v with
    | some k => d.partErr p k
    | none =>
      if fld v 2 0 = 4 ∧ d.rb (oPart (fld v 13 8) + 8) 1 = true then
        -- the named cache is still BUSY (R216); which code says so is open
        let (k, d) := d.choose 5
        d.partErr p (k + 1)
      else
        let d := ((d.setReg o v).setRb (o + 8) 0 true).clearCounters p
        if fld v 2 0 = 4 then let w := d.partWords p; { d with commons := d.commons.lose w.1 w.2 } else d
  else d.setReg o v
/-- A write of CMN_PART_BASE (R213). -/
def Dev.writePartBase (d : Dev) (p : Nat) (v : Word) : Dev :=
  let o := oPart p + 4
  let v := setFld (setFld (0 : Word) 10 0 (fld v 10 0)) 24 16 (fld v 24 16)
  if d.partActive p then (if v = d.reg o then d else d.partErr p 5) else d.setReg o v

/-- CMN_PART_CFG. -/
def execCmnPartCfgWrite (p : Nat) (v : BitVec 32) (s : State) : Host.Outcome State Fault Refusal :=
  run (decide (p < 64)) s fun d => d.mgrFull fun d => d.writePartCfg p (zext v)
/-- CMN_PART_CFG with another LOCK_WAYS. -/
def execLockWaysWrite (p : Nat) (v : BitVec 32) (s : State) : Host.Outcome State Fault Refusal :=
  run (decide (p < 64)) s fun d => d.mgrFull fun d => d.writePartCfg p (zext v)

/-! ## Windows (R219, R220) -/

/-- The persistent lines of a window that a die's cache holds beyond what the window allows turn into normal lines,
beginning with the least recently used. -/
def Dev.trimWindow (d : Dev) (n : Nat) : Dev :=
  (List.range d.part.dies).foldl (fun (d : Dev) die =>
    match d.replicaOf die with
    | none => d
    | some p =>
      let cls := d.rf (oWin n + 8) 1 0
      let allowed := if cls = 2 then min 56 (d.rf (oWin n + 8) 9 4) * d.repSets p * 16 / 64 else 0
      let r := d.rep die
      let mine (x : RepLine) : Bool := decide (x.cls = 2) && decide (d.winAt (lineAddr x.line) = some n)
      let out := r.lines.foldl (fun (acc : List RepLine) (x : RepLine) =>
        if mine x = true ∧ (acc.filter mine).length ≥ allowed then acc ++ [{ x with cls := 1 }] else acc ++ [x]) []
      d.setRep die { r with lines := out }) d
/-- A write of CMN_WIN_CFG. -/
def Dev.writeWinCfg (d : Dev) (n : Nat) (v : Word) : Dev := (d.setReg (oWin n + 8) (BitVec.ofNat 64 (fld v 9 0))).trimWindow n
/-- CMN_WIN_CFG. -/
def execCmnWinCfgWrite (n : Nat) (v : BitVec 32) (s : State) : Host.Outcome State Fault Refusal :=
  run (decide (n < 256)) s fun d => d.mgrFull fun d => d.writeWinCfg n (zext v)

/-! ## Regulators (R230 to R233) -/

/-- Whether a partition has slices on a die. -/
def Dev.partOn (d : Dev) (p die : Nat) : Bool :=
  let t := d.partType p
  decide (t = 2) || (decide (t = 1 ∨ t = 3 ∨ t = 4) && decide (d.rf (oPart p) 5 3 = die))
/-- Bytes per step that an entry guarantees: master 0x1F0 stands for every cluster. -/
def Dev.entBytes (d : Dev) (v : Word) : Nat :=
  if !(bitAt v 9) then 0 else fld v 19 10 * 16 * (if fld v 8 0 = 0x1F0 then d.part.clusters else 1)
/-- Guarantees of the enabled regulators with slices on a die, in bytes per step. -/
def Dev.guaranteed (d : Dev) (die : Nat) : Nat :=
  ((List.range 64).filter fun p => d.rb (oPart p + 0x10) 0 && d.partOn p die).foldl (fun (t : Nat) p =>
    (List.range 16).foldl (fun (t : Nat) e => t + d.entBytes (d.reg (oPart p + 0x40 + 4 * e))) t) 0
/-- A write of CMN_REG_ENT (R231). -/
def Dev.writeRegEnt (d : Dev) (p e : Nat) (v : Word) : Dev :=
  let x := d.setReg (oPart p + 0x40 + 4 * e) (BitVec.ofNat 64 (fld v 20 0))
  if (List.range d.part.dies).any fun die => decide (x.guaranteed die > 14336) then d.setRb (oPart p + 0x14) 13 true else x
/-- CMN_REG_ENT. -/
def execCmnRegEntWrite (p e : Nat) (v : BitVec 32) (s : State) : Host.Outcome State Fault Refusal :=
  run (decide (p < 64) && decide (e < 16)) s fun d => d.mgrFull fun d => d.writeRegEnt p e (zext v)

/-- Requests that have reached a partition's slices on a die and wait there: the master and the bytes of each. -/
def Dev.waitingAt (d : Dev) (p die : Nat) : List (Nat × Nat) :=
  d.coh.net.filterMap fun x => match x.body with
    | .req r =>
      if (d.arrived x || d.taken x) && !r.prefetch && decide (r.kind ≠ .putE ∧ r.kind ≠ .putM ∧ r.kind ≠ .putO) &&
          decide (d.partAt (lineAddr r.line) = some p) && decide (d.homeDie r.line = die) then some (r.cl, r.bytes)
      else none
    | _ => none
/-- Masters with requests at a partition's slices on a die in the current window, ascending. -/
def Dev.mastersAt (d : Dev) (p die : Nat) : List Nat :=
  (List.range 512).filter fun m => (NMap.find d.coh.tally (tallyKey p die m)).isSome || (d.waitingAt p die).any fun x => decide (x.1 = m)
/-- A master's window is judged (R233): it misses its guarantee when fewer bytes were served than the lesser of its credit and
what it delivered. -/
def Dev.judge (d : Dev) (p die m served delivered : Nat) : Dev :=
  let o := oPart p
  match (if d.rb (o + 0x10) 0 then d.creditOf p m else none) with
  | none => d
  | some c =>
    if served < min c delivered then
      let d := (d.setRb (o + 0x14) 0 true).setRf (o + 0x14) 12 4 m
      d.fault (origin 8 (p + 64 * die + 512 * m)) 0x0A 0 (origin 4 die) die 0 (d.reg (o + 0x18))
    else d
/-- One cluster's window at a partition's slices of a die (R233): what it delivered there is what was served and what waits,
less what waited already when the window began. -/
def Dev.regWindow (d : Dev) (p die m : Nat) : Dev :=
  let t := d.regTally p die m
  let waits := (d.waitingAt p die).foldl (fun (k : Nat) x => if x.1 = m then k + x.2 else k) 0
  (d.judge p die m t.1 (t.1 + waits - t.2)).onCoh fun c => { c with tally := if waits = 0 then NMap.del c.tally (tallyKey p die m) else NMap.put c.tally (tallyKey p die m) (0, waits) }
/-- The window of a Porter, a gather engine, a host port or the twin mirror (Table 7.8): their accesses act at the slices at
once (log entry 10), so the row brings what they were given there (log entry 90). -/
def Dev.regOther (d : Dev) (p die : Nat) (t : RegTally) : Dev :=
  let m := t.master.toNat
  if 0x180 ≤ m ∧ m ≤ 0x192 then (d.bump (oPart p + 0x18) 0xFFFFFFFF t.late).judge p die m t.served t.delivered else d
/-- The end of a regulator window: every master that had requests there is judged, and credit is renewed. -/
def execRegulatorWindowEnd (p die : Nat) (tally : List RegTally) (s : State) : Host.Outcome State Fault Refusal :=
  run (decide (p < 64) && decide (die < 8)) s fun d =>
    if d.full && d.partActive p && d.partOn p die then
      tally.foldl (fun (d : Dev) t => d.regOther p die t) ((d.mastersAt p die).foldl (fun (d : Dev) m => d.regWindow p die m) d)
    else d

/-! ## Directory lookup (R255) -/

/-- What COH_PEEK_DATA shows of a line. -/
def Dev.peek (d : Dev) (line : Nat) : Word :=
  let v : Word := match d.entry line with
    | none => 0
    | some e =>
      let st := match e.st with
        | .unc => 0
        | .shr => 1
        | .exc => 2
        | .own => 3
      let w := setFld (setFld (setFld (setFld (0 : Word) 1 0 st) 2 2 (bit e.txn.isSome)) 3 3 (bit e.bcast)) 6 4
        (if st ≥ 2 then e.owner else 0)
      (List.range 4).foldl (fun (w : Word) k => match e.ptrs[k]? with
        | some x => setFld (setBit w (7 + k) true) (13 + 3 * k) (11 + 3 * k) x
        | none => w) w
  let v := setFld v 29 23 (min 64 (d.ticketsFor line).length)
  let v := setFld v 36 30 (min 64 (d.coh.resv.filter fun r => decide (d.granule r.line = d.granule line) && decide (d.home (lineAddr r.line) = d.home (lineAddr line))).length)
  setBit v 63 true
/-- A write of COH_PEEK_ADDR: the lookup completes at once. -/
def Dev.writePeek (d : Dev) (v : Word) : Dev :=
  let a := fld v 47 0
  let d := d.setReg 0x208000 (BitVec.ofNat 64 a)
  d.setReg 0x208008 (if commonsBase ≤ a then d.peek (lineOf a) else setBit 0 63 true)
/-- COH_PEEK_ADDR. -/
def execCohPeekAddrWrite (v : BitVec 64) (s : State) : Host.Outcome State Fault Refusal :=
  run true s fun d => d.mgrFull fun d => d.writePeek v

/-! ## Refetch table (R298) -/

/-- A page lies in a read-only part of the Commons. -/
def Dev.pageRo (d : Dev) (page : Nat) : Bool :=
  (match d.partAt (commonsBase + page * 0x10000) with
    | some p => d.partRo p
    | none => false) ||
  (List.range 256).any fun n => d.rb (oWin n + 8) 2 && decide (d.rf (oWin n) 18 0 ≤ page) &&
    decide (page < d.rf (oWin n) 18 0 + d.rf (oWin n + 4) 19 0)
/-- Whether entry k, as it stands, breaks the rules. -/
def Dev.rfsBad (d : Dev) (k : Nat) : Bool :=
  let first (j : Nat) : Nat := d.rf (0x380000 + 16 * j) 18 0
  let pages (j : Nat) : Nat := d.rf (0x380004 + 16 * j) 19 0
  (decide (d.rf (0x380004 + 16 * k) 21 20 = 2) && !d.part.twin) ||
  ((List.range 64).any fun j => decide (j ≠ k ∧ 0 < pages j ∧ 0 < pages k) && decide (first j < first k + pages k) && decide (first k < first j + pages j)) ||
  !((List.range (pages k)).all fun i => d.pageRo (first k + i))
/-- A write of a register of entry k: refused, and the entry unchanged, when the entry would break the rules. -/
def Dev.writeRfs (d : Dev) (k : Nat) (which : RfsReg) (v : Word) : Dev :=
  let o := 0x380000 + 16 * k
  let x := match which with
    | .base => d.setReg o (BitVec.ofNat 64 (fld v 18 0))
    | .size => d.setRf (o + 4) 21 0 (fld v 21 0)
    | .src => d.setReg (o + 8) (BitVec.ofNat 64 (fld v 47 0))
  if x.rfsBad k then d.setRb (o + 4) 22 true else x.setRb (o + 4) 22 false
/-- PTR_RFS_BASE, PTR_RFS_SIZE, PTR_RFS_SRC. -/
def execPtrRfsWrite (k : Nat) (which : RfsReg) (v : BitVec 64) (s : State) : Host.Outcome State Fault Refusal :=
  run (decide (k < 64)) s fun d => d.mgrFull fun d => d.writeRfs k which v

end Sys2Proof.Machine
end

