-- ==== Sys2Proof/Machine/Takeover.lean ====
section
/-! DEFINITION. Failed clusters: the probe, spare takeover and absent slots (R20, R21, R361, R362, R407, R408). -/
namespace Sys2Proof.Machine

/-- Change the self-test controllers. -/
def Dev.onBist (d : Dev) (f : Bist → Bist) : Dev := { d with bist := f d.bist }
/-- A cluster is found to have failed (R407). -/
def Dev.clusterFailed (d : Dev) (n : Nat) : Dev :=
  if d.present n ∧ !(d.bist.failed.contains n) then d.onBist fun b => { b with failed := b.failed ++ [n] } else d
/-- The scheduler's probe of a cluster: one that does not answer has failed. A cluster that a slice holds is not probed. -/
def execClusterProbe (n : Nat) (answered : Bool) (s : State) : Host.Outcome State Fault Refusal :=
  run (decide (n < 384)) s fun d =>
    if d.full && !answered && !(d.bist.slices.any fun x => decide (x.2.cl = some n)) then d.clusterFailed n else d

/-- Contexts with a share on a cluster. -/
def Dev.sharesOn (d : Dev) (n : Nat) : List Nat := (List.range 64).filter fun c => d.ctxOn c && d.maskHas c n
/-- A failed cluster is cut off: its reservations end, and everything in its cores and queues is gone. What the scheduler
and the Keeper area hold stays; requests on their way are answered late (R362). -/
def Dev.cutOff (d : Dev) (n : Nat) : Dev :=
  let d := ((d.cl n).agents n).foldl (fun (d : Dev) a => d.endResv a) d
  let d := d.onCl n fun c => { Cluster.reset with
    turn := c.turn
    debt := c.debt
    seeds := c.seeds
    late := c.late
    cmdq := c.cmdq
    tokens := c.tokens.map fun (t : Nat × Token) => (t.1, { t.2 with st := TokSt.free })
    lost := c.lost ++ (c.misses.filter fun m => m.data.isNone).map fun (m : Miss) =>
      m.late n }
  { d with regs := d.regs.filter fun (x : Nat × Word) => !(decide (oClu n < x.1) && decide (x.1 < oClu n + 0x1000)) }
/-- The command that ran on a failed cluster is lost (R408): its record waits for the alias of its placement, if there is
one, the turn ends with it (R376), and its context is marked in error with cause 5. -/
def Dev.loseCmd (d : Dev) (n : Nat) (r : RunCmd) (moved : Bool) : Dev :=
  let d := ({ d with recs := d.recs ++ [{ (d.runRec n r 7 0 0 0 0 0) with moved := moved }] } : Dev).passTurn n
  d.ctxError r.q.ctx 5 r.q.win r.q.seq
/-- CLUSTER_FENCED: what took over, and the old and new positions. -/
def Dev.fencedRecord (d : Dev) (n sub old new : Nat) : Dev :=
  d.fault (origin 1 n) 6 sub (origin 0 0) (dieOf n) 0 (BitVec.ofNat 64 (old + 16 * new))
/-- A position is fenced in DEV_ROW_MAP. -/
def Dev.fence (d : Dev) (n pos : Nat) : Dev := d.setRb (oRow (rowOf n)) (8 + pos) true
/-- The failed position's banks do not answer: every word of the spare's Local is written poisoned, and the contexts'
seeds, which lie there, are lost (R408). -/
def Dev.poisonLocal (d : Dev) (n : Nat) : Dev :=
  let m := d.mem (.loc n)
  let d := d.setMem (.loc n) { cells := [], marks := (List.range (localSize / 8)).map fun w => (w, Mark.poisoned), gen := m.gen + 1 }
  (d.sharesOn n).foldl (fun (d : Dev) c => let (x, d) := d.fresh; d.onCl n fun k => { k with seeds := NMap.set k.seeds 0 c x }) d

/-- A Local copied through the code into the spare (Table 14.10, order 4): words that read uncorrectable are written poisoned, to be
reported to the first consumer that reads them, and every word is written (R408). -/
def Mem.copyOut (m : Mem) (id : Nat) : Mem :=
  (List.range (localSize / 8)).foldl (fun (x : Mem) w => match m.readW id w with
    | .ok v => x.putWord w v
    | .bad _ => x.poison w) m
/-- Takeover by the row's spare (Table 14.10). -/
def Dev.spareServes (d : Dev) (n pos : Nat) (banksDead : Bool) : Dev :=
  let r := (d.cl n).run
  let d := match NMap.find d.bist.slices (dieOf n) with
    | some x => if x.pos % 54 = 9 * (rowOf n % 6) + 8 then d.abandonSlice (dieOf n) else d
    | none => d
  let d := match r with
    | some r => d.loseCmd n r true
    | none => d
  let d := (d.fence n pos).cutOff n
  let d := if banksDead then d.poisonLocal n else d.setMem (.loc n) ((d.mem (.loc n)).copyOut (MSpace.id (.loc n)))
  let d := (d.setCluId n 8 true).setRf (oRow (rowOf n)) 3 0 (n % 8)
  let d := (d.sharesOn n).foldl (fun (d : Dev) c => d.moveCtx c 0 n pos n) d
  let d := d.onCl n fun c => { c with held := true }
  (d.onBist fun b => { b with failed := b.failed.filter fun x => decide (x ≠ n) }).fencedRecord n 0 pos 8
/-- No spare can serve: the slot becomes absent (R20, R21). Commands on their way to the cluster wait again. -/
def Dev.slotAbsent (d : Dev) (n pos : Nat) : Dev :=
  let r := (d.cl n).run
  let d := match r with
    | some r => d.loseCmd n r false
    | none => d
  let d := ((d.fence n pos).cutOff n).recall fun k _ => decide (k = n)
  let d := if pos = 8 then d.setRf (oRow (rowOf n)) 3 0 15 else d
  let d := ((d.onCl n fun c => { c with turn := none }).setCluId n pos false).countPresent
  (d.onBist fun b => { b with failed := b.failed.filter fun x => decide (x ≠ n) }).fencedRecord n 1 pos pos
/-- Takeover of a failed cluster. One that needs more aliases than are free, or whose placement an alias still names, waits
(R363). -/
def Dev.takeOver (d : Dev) (n : Nat) (banksDead : Bool) : Dev :=
  if !d.full ∨ !(d.present n) ∨ !(d.bist.failed.contains n) then d
  else
    let pos := d.posOf n
    let row := d.reg (oRow (rowOf n))
    if decide (pos ≠ 8) && bitAt row 4 && decide (fld row 3 0 = 15) && !(bitAt row 16) then
      let ctxs := d.sharesOn n
      if (ctxs.any fun c => d.aliasTo c n) ∨ d.aliases.length + ctxs.length > 64 then d.setRb 0x518000 7 true
      else (d.setRb 0x518000 7 false).spareServes n pos banksDead
    else d.slotAbsent n pos
/-- The spare takes over, or the slot becomes absent. -/
def execSpareTakeover (n : Nat) (banksDead : Bool) (s : State) : Host.Outcome State Fault Refusal :=
  run (decide (n < 384)) s fun d => d.takeOver n banksDead
/-- The spare's Keeper clears BLOCK and enters the command loop (Table 14.10, order 6). -/
def execSpareTakeoverComplete (n : Nat) (s : State) : Host.Outcome State Fault Refusal :=
  run (decide (n < 384)) s fun d =>
    if d.full && d.present n && (d.cl n).held && decide (d.posOf n = 8) && !(d.bist.slices.any fun x => decide (x.2.cl = some n))
    then d.keeperLoop n else d

end Sys2Proof.Machine
end

