-- ==== Sys2Proof/Machine/Errors.lean ====
section
/-! DEFINITION. The error aggregator's commands, the scrubber, row repair, the vote over triplicated words, healing and the
stop of R411 (R386 to R406, R411). -/
namespace Sys2Proof.Machine

/-! ## The aggregator (R400 to R405) -/

/-- A record is freed: it reads all zero. -/
def Dev.freeRec (d : Dev) (k : Nat) : Dev := d.onErrs fun e => { e with recs := NMap.del e.recs k }
/-- A write of ERR_CTL with FREE = 1. -/
def execFree (k : Nat) (s : State) : Host.Outcome State Fault Refusal :=
  run (decide (k < 256)) s fun d => d.mgrFull fun d => (d.setReg 0x708000 (BitVec.ofNat 64 k)).freeRec k
/-- A report of another source reaches the aggregator. -/
def execErrorReport (r : Report) (s : State) : Host.Outcome State Fault Refusal :=
  run true s fun d => if d.stage = 0 then d else d.aggregate r
/-- A reporter's 100 µs end: with sightings folded, one report that stands for them is sent, and a new 100 µs begins. -/
def Dev.foldEnd (d : Dev) (reporter : BitVec 32) (key : ErrKey) : Dev :=
  let here := fun x : Fold => decide (x.r.reporter = reporter) && decide (x.r.key = key)
  match d.errs.folds.find? here with
  | none => d
  | some x =>
    if x.folded = 0 then d.onErrs fun e => { e with folds := eraseFirst e.folds here }
    else (d.onErrs fun e => { e with folds := updFirst e.folds here fun y => { y with folded := 0 } }).aggregate { x.r with rep := x.folded }
/-- The 100 µs end. -/
def execReportFoldEnd (reporter : BitVec 32) (key : ErrKey) (s : State) : Host.Outcome State Fault Refusal :=
  run true s fun d => d.foldEnd reporter key

/-! ## Corrected reads and row repair (R388, R389) -/

/-- Spare rows of a slice or bank. -/
def spareRows (unit : Nat) : Nat := if unit < 100000 then 256 else 16
/-- Position index of the position that serves a cluster. -/
def Dev.posIndex (d : Dev) (n : Nat) : Nat := 54 * dieOf n + 9 * (rowOf n % 6) + d.posOf n
/-- The slice or bank of a word, as `rowsUsed` numbers them. -/
def Dev.rowUnit (d : Dev) (sp : MSpace) (w : Nat) : Nat :=
  match sp with
  | .loc n => 100000 + 32 * d.posIndex n + 8 * w / 64 % 32
  | .com => let h := d.home (8 * w); 64 * h.1 + h.2
/-- First address of the row of 1 KiB that holds a word: 16 units of 64 B in a bank (R204), 8 lines of a slice (R209). -/
def Dev.rowAddr (d : Dev) (sp : MSpace) (w : Nat) : Nat :=
  let a := 8 * w
  match sp with
  | .loc _ => a / 0x8000 * 0x8000 + a / 64 % 32 * 64
  | .com => match d.partAt a with
    | none => a
    | some p =>
      let i := (a - d.partBase p) / 128
      let dies := if d.partType p = 2 then d.part.dies else 1
      let g := i / dies / 64 / 8 * 8
      d.partBase p + 128 * (dies * (64 * g + (sliceOf (i / dies) ^^^ (g % 64))) + i % dies)
/-- The fewest spare rows left in any slice or bank of a die. -/
def Dev.leftMin (d : Dev) (die : Nat) : Nat :=
  (d.rowsUsed.filter fun x => if x.1 < 100000 then decide (x.1 / 64 = die) else decide ((x.1 - 100000) / 32 / 54 = die)).foldl
    (fun (m : Nat) x => min m (spareRows x.1 - x.2)) 16
/-- A row is repaired in service, or has no spare row left (R389). -/
def Dev.repairRow (d : Dev) (sp : MSpace) (w : Nat) : Dev :=
  let u := d.rowUnit sp w
  let used := NMap.get d.rowsUsed 0 u
  let org := d.wordOrigin sp w
  let die := d.wordDie sp w
  let a := BitVec.ofNat 64 (d.rowAddr sp w)
  if used < spareRows u then
    let d := { d with rowsUsed := NMap.put d.rowsUsed u (used + 1) }
    let o := 0x70A018 + 0x40 * die
    let d := (d.setRf o 15 0 ((d.rf o 15 0 + 1) % 65536)).setRf o 31 16 (d.leftMin die)
    d.fault org 2 0 org die a (BitVec.ofNat 64 (spareRows u - used - 1))
  else d.fault org 3 0 org die a 0
/-- An upset of one symbol of a good word may be met by a read, and the re-read may show a hard fault: both are open, as
the environment decides them (R388). -/
def Dev.upset (d : Dev) (sp : MSpace) (w : Nat) : Dev :=
  let (k, d) := d.choose 3
  if k = 0 then d
  else
    let o := 0x709000 + 0x20 * d.wordDie sp w
    let d := match sp with
      | .com => d.bumpRf o 31 0 1
      | .loc _ => d.bumpRf o 63 32 1
    if k = 2 then d.repairRow sp w else d

/-! ## The scrubber (R391 to R393) -/

/-- The MASK and LOCAL with which a die's present pass began. -/
def Dev.passMask (d : Dev) (die : Nat) : Nat := NMap.get d.scrub 0 (100 + die)
/-- Lines of a store partition on a die. -/
def Dev.linesOn (d : Dev) (p die : Nat) : Nat :=
  let n := d.cfgSize (d.reg (oPart p)) / 128
  if d.partType p = 2 then n / d.part.dies else if d.rf (oPart p) 5 3 = die then n else 0
/-- Lines of a part of a pass. -/
def ScrubUnit.size : ScrubUnit → Nat
  | .store _ n => n
  | .replica ls => ls.length
  | .loc _ => localSize / 128
/-- The parts of a die's pass. -/
def Dev.passUnits (d : Dev) (die : Nat) : List ScrubUnit :=
  let m := d.passMask die
  let stores := ((List.range 64).filter fun p => m.testBit p && d.partActive p && isStoreType (d.partType p)).map fun p =>
    ScrubUnit.store p (d.linesOn p die)
  let cache := match d.replicaOf die with
    | some p => if m.testBit p then [ScrubUnit.replica ((d.rep die).lines.map fun x => x.line)] else []
    | none => []
  let locs := if m.testBit 64 then ((List.range 48).filter fun k => d.present (48 * die + k)).map fun k => ScrubUnit.loc (48 * die + k) else []
  stores ++ cache ++ locs
/-- The line at a place of a pass. -/
def unitAt : List ScrubUnit → Nat → Option (ScrubUnit × Nat)
  | [], _ => none
  | u :: us, k => if k < u.size then some (u, k) else unitAt us (k - u.size)
/-- A line of a die's replica cache fails its code (R395). One in S or E is invalidated and no consumer sees the error: one in S is
fetched again at once, by a prefetch, and one in E when it is read after its eviction (DEDUCED, log entry 103). The words of one in
M or O are poisoned, to be written home so, and the word found bad, which is open, is reported with SUBKIND 3. -/
def Dev.replicaFails (d : Dev) (die line : Nat) : Dev :=
  match d.repLine die line with
  | none => d
  | some x =>
    if d.ownPending die line then d
    else if x.st = .e then d.evictLine die x
    else if x.st = .s then
      let d := (d.dropRepLine die line).countLeave die x
      if d.fillOut die line then d
      else
        let d := d.sendReq (48 * die) line .rdS .none true
        d.setRep die { d.rep die with pf := (d.rep die).pf ++ [line] }
    else
      let (k, d) := d.choose 16
      if x.d.poison.getLsbD k then d
      else
        let d := d.onRepLine die line fun y => { y with d := { y.d with poison := BitVec.allOnes 16 } }
        let org := origin 2 (64 * die + sliceOf line)
        d.fault org 1 3 org die (BitVec.ofNat 64 (lineAddr line + 8 * k)) (BitVec.ofNat 64 ((d.refetch (lineAddr line)).getD 0x80))
/-- A read may find that a replica line has failed, or one bad symbol of it, which is corrected and counted (R388, R391): which is
open. -/
def Dev.replicaRead (d : Dev) (die line : Nat) : Dev :=
  let (k, d) := d.choose 3
  if k = 1 then d.replicaFails die line
  else if k = 2 ∧ (d.repLine die line).isSome = true then d.bumpRf (0x709000 + 0x20 * die) 31 0 1 else d
/-- Read one line of memory through the code (R393): an uncorrectable word is poisoned and reported with SUBKIND 1. -/
def Dev.scrubLine (d : Dev) (sp : MSpace) (addr : Nat) : Dev :=
  let d := (List.range 16).foldl (fun (d : Dev) k => (d.readW sp (addr / 8 + k) 1).2) d
  let (k, d) := d.choose 16
  if (d.mem sp).mark (addr / 8 + k) = .poisoned ∨ (d.mem sp).mark (addr / 8 + k) = .damaged then d else d.upset sp (addr / 8 + k)
/-- Read the scrubber's next line, unless the partition or the cluster has gone since the pass began. A Commons line with an
uncorrectable word starts to heal where a refetch source covers it; one that another die owns takes its owner's data by a Recall
(R395). -/
def Dev.scrubUnit (d : Dev) (die : Nat) (u : ScrubUnit) (k : Nat) : Dev :=
  match u with
  | .loc n => if d.present n then d.scrubLine (.loc n) (128 * k) else d
  | .replica ls => match ls[k]? with
    | some line => d.replicaRead die line
    | none => d
  | .store p _ =>
    if !(d.partActive p && isStoreType (d.partType p)) then d else
    let i := if d.partType p = 2 then d.part.dies * k + die else k
    let addr := d.partBase p + 128 * i
    let heal := d.needsHeal (lineOf addr)
    let d := d.scrubLine .com addr
    if heal then d.startHeal (lineOf addr)
    else match d.entry (lineOf addr) with
      | some e => if (e.st = .exc ∨ e.st = .own) ∧ e.txn.isNone ∧ (d.badWords (lineOf addr)).isEmpty = false then d.clearEntry (lineOf addr) e else d
      | none => d
/-- The scrubber of a die reads its next line; a pass that has covered everything counts, and the next takes MASK and LOCAL
as they are then, and with them the lines that it covers. -/
def Dev.scrubRead (d : Dev) (die : Nat) : Dev :=
  let o := 0x70A000 + 0x40 * die
  let latch (d : Dev) : Dev :=
    let m := (d.reg (o + 8)).toNat + 2 ^ 64 * d.rf o 1 1
    let d := { d with scrub := NMap.put (NMap.put d.scrub die 0) (100 + die) m }
    { d with scrubPass := NMap.put d.scrubPass die (d.passUnits die) }
  let d := if d.rb (o + 0x10) 0 then d else (latch d).setRb (o + 0x10) 0 true
  let pos := NMap.get d.scrub 0 die
  match unitAt (NMap.get d.scrubPass [] die) pos with
  | some (u, k) => { (d.scrubUnit die u k) with scrub := NMap.put d.scrub die (pos + 1) }
  | none =>
    let d := d.setRf (o + 0x10) 31 16 ((d.rf (o + 0x10) 31 16 + 1) % 65536)
    (latch d).setRb (o + 0x10) 0 false
/-- The scrubber reads its next line. -/
def execScrubRead (die : Nat) (s : State) : Host.Outcome State Fault Refusal :=
  run (decide (die < 8)) s fun d =>
    if d.full && decide (die < d.part.dies) && d.rb (0x70A000 + 0x40 * die) 0 then d.scrubRead die else d
/-- A write of SCR_CTL: clearing EN ends the pass under way (DESIGN CHOICE, log entry 53). -/
def Dev.writeScrCtl (d : Dev) (die : Nat) (v : Word) : Dev :=
  let o := 0x70A000 + 0x40 * die
  let d := d.setReg o (BitVec.ofNat 64 (fld v 9 0))
  if bitAt v 0 then d else d.setRb (o + 0x10) 0 false
/-- SCR_CTL. -/
def execScrCtlWrite (die : Nat) (v : BitVec 32) (s : State) : Host.Outcome State Fault Refusal :=
  run (decide (die < 8)) s fun d => if die < d.part.dies then d.mgrFull fun d => d.writeScrCtl die (zext v) else d

/-! ## Triplicated words (R386) -/

/-- What Table 14.2 makes of a word that has no majority. -/
inductive Safe where
  | keep
  | part (ps : List Nat)
  | field (hi lo x : Nat)
  deriving DecidableEq, Repr
/-- The triplicated word at an offset and its safe value; a window's partitions are those that its pages lie in. -/
def Dev.safeOf (d : Dev) (o : Nat) : Option Safe :=
  if 0x400 ≤ o ∧ o < 0x400 + 24 * d.part.dies ∧ o % 4 = 0 then some .keep
  else if 0x1000000 ≤ o ∧ o < 0x1000000 + 0x1000 * d.part.clusters ∧ o % 0x1000 = 0 then some .keep
  else if 0x100000 ≤ o ∧ o < 0x104000 ∧ o % 4 = 0 then
    let q := o % 0x100
    if q = 0 ∨ q = 4 ∨ q = 0x10 ∨ (0x40 ≤ q ∧ q < 0x80) then some (.part [(o - 0x100000) / 0x100]) else none
  else if 0x108000 ≤ o ∧ o < 0x109000 ∧ o % 4 = 0 ∧ o % 16 < 12 then
    let n := (o - 0x108000) / 16
    let lo := d.rf (oWin n) 18 0
    let hi := lo + d.rf (oWin n + 4) 19 0
    some (.part ((List.range 64).filter fun p => d.partActive p && isStoreType (d.partType p) &&
      decide (commonsBase + 0x10000 * lo < d.partBase p + d.cfgSize (d.reg (oPart p))) && decide (d.partBase p < commonsBase + 0x10000 * hi)))
  else if o = 0x480000 then some (.field 12 12 0)
  else if 0x490000 ≤ o ∧ o < 0x494000 ∧ o % 4 = 0 then some (.field 27 27 0)
  else if 0x500000 ≤ o ∧ o < 0x510000 ∧ o % 4 = 0 then
    let q := o % 0x100
    if q = 0 then some (.field 16 16 1) else if 0x40 ≤ q ∧ q < 0x60 then some (.field 6 6 0) else none
  else if 0x380000 ≤ o ∧ o < 0x380400 ∧ (o % 16 = 0 ∨ o % 16 = 4 ∨ o % 16 = 8) then some (.field 0 0 0)
  else none
/-- A word without a majority takes its safe value. -/
def Dev.makeSafe (d : Dev) (o : Nat) : Safe → Dev
  | .keep => d
  | .part ps => ps.foldl (fun (d : Dev) p => d.disablePart p) d
  | .field hi lo x => if 0x380000 ≤ o ∧ o < 0x380400 then d.setRf (o / 16 * 16 + 4) 19 0 0 else d.setRf o hi lo x
/-- The die that holds a configuration word, where its name says so; else it is open. -/
def Dev.wordDieOf (d : Dev) (o : Nat) : Nat × Dev :=
  if 0x400 ≤ o ∧ o < 0x10000 then ((o - 0x400) / 24, d)
  else if 0x1000000 ≤ o then (dieOf ((o - 0x1000000) / 0x1000), d)
  else d.choose d.part.dies
/-- A configuration register under parity whose block has more than one bad bit reads as its reset value (Table 14.2). -/
def Dev.configReset (d : Dev) (o : Nat) : Dev :=
  match regInfo d.part o with
  | none => d
  | some x => if x.base ≠ o ∨ x.rw = 0 then d else d.setReg o ((d.reg o &&& ~~~x.rw) ||| (x.reset &&& x.rw))
/-- The vote over the three copies of a word: the majority stands and a copy that disagrees is rewritten; with no majority
the word takes its safe value and CONFIG_LOST is raised. For a register that has no three copies, three that all disagree
stand for a parity block with more than one bad bit (DESIGN CHOICE, log entry 104). -/
def Dev.vote (d : Dev) (o : Nat) (c0 c1 c2 : Word) : Dev :=
  match d.safeOf o with
  | none => if c0 ≠ c1 ∧ c1 ≠ c2 ∧ c0 ≠ c2 then d.configReset o else d
  | some x =>
    let (die, d) := d.wordDieOf o
    let fix (d : Dev) (v : Word) : Dev := if d.reg o = v then d else d.setReg o v
    let mended (d : Dev) : Dev := d.bumpRf (0x709008 + 0x20 * die) 63 32 1
    if c0 = c1 ∧ c1 = c2 then fix d c0
    else if c0 = c1 ∨ c0 = c2 then mended (fix d c0)
    else if c1 = c2 then mended (fix d c1)
    else (d.makeSafe o x).fault (origin 10 (o / 4)) 5 0 (origin 4 die) die 0 0
/-- A triplicated word is read and voted. -/
def execTriplicateCheck (off : Nat) (c0 c1 c2 : BitVec 64) (s : State) : Host.Outcome State Fault Refusal :=
  run (decide (off < 0x2000000)) s fun d => if d.hostAlive then d.vote off c0 c1 c2 else d

/-! ## Healing (R299, R396 to R399) -/

/-- A request meets an uncorrectable word in a page with a refetch source. -/
def execHealRequest (line : Nat) (s : State) : Host.Outcome State Fault Refusal :=
  run (decide (line < 2 ^ 28)) s fun d => if d.full && d.needsHeal line then d.startHeal line else d
/-- A line's healing ends. The episode of its page ends with it when no line of the page has healing in flight, and one
PAGE_HEAL event tells the manager. -/
def Dev.healEnd (d : Dev) (line outcome : Nat) : Dev :=
  let page := line / 512
  let (ok, bad, was) := (NMap.find d.episodes page).getD (0, 0, 0)
  let (mix, d) := if outcome ≠ 0 ∧ was ≠ 0 ∧ was ≠ outcome then d.choose 2 else (0, d)
  let now := if outcome = 0 then was else if was = 0 ∨ mix = 1 then outcome else was
  let e : Nat × Nat × Nat := if outcome = 0 then (ok + 1, bad, now) else (ok, bad + 1, now)
  if d.heals.any fun h => decide (h.1 / 512 = page) && !h.2.failed then { d with episodes := NMap.put d.episodes page e }
  else
    d.episodeOver page e
/-- The healed line is written whole; the requests that were held can be served. -/
def execHealComplete (line : Nat) (data : BitVec 1024) (s : State) : Host.Outcome State Fault Refusal :=
  run (decide (line < 2 ^ 28)) s fun d =>
    if d.full && d.healing line then
      let h := (NMap.find d.heals line).getD (d.healSource line)
      -- from the twin the line comes as RD_DATA over a twin link (R326)
      match (if h.kind = 2 then h.got else some data) with
      | none => d
      | some data =>
      let d := { (d.putLine .com (lineAddr line) { v := data, poison := 0 }) with heals := NMap.del d.heals line }
      d.healEnd line 0
    else d
/-- The line is not healed within 1 ms, or both reads of its source have failed: each consumer is given its outcome. -/
def execHealTimeout (line : Nat) (sourceFailed : Bool) (s : State) : Host.Outcome State Fault Refusal :=
  run (decide (line < 2 ^ 28)) s fun d =>
    if d.full && d.healing line then
      (({ d with heals := NMap.put d.heals line { (d.healSource line) with failed := true } }).healEnd line (if sourceFailed then 2 else 3)).healOver line
    else d

/-! ## DIE_OUT (R411) -/

/-- Every die stops at once without a drain: starts are blocked, the twin is told, slices stop without a result, and the
module stays in the safe state until it is exchanged. -/
def Dev.dieStop (d : Dev) : Dev :=
  let d := { d with bist := { d.bist with slices := [], want := none } }.setRb 0x800008 0 false
  (((d.notify 1).onPwr fun p => { p with stopped := true, drain := none }).refreshStep).setStage 3
/-- A permanent fault of an edge, or of a die structure, which is a parity block with more than one bad bit (Table 14.7). -/
def Dev.dieOut (d : Dev) (edge : Option Nat) (die : Nat) : Dev :=
  if !d.full ∨ die ≥ d.part.dies then d
  else match edge with
    | some e => (d.fault (origin 5 (4 * die + e)) 7 0 (origin 4 die) die 0 0).dieStop
    | none => ((d.fault (origin 4 die) 4 6 (origin 4 die) die 0 0).fault (origin 4 die) 7 1 (origin 4 die) die 0 0).dieStop
/-- A permanent edge or die-structure fault. -/
def execDieOut (edge : Option Nat) (die : Nat) (s : State) : Host.Outcome State Fault Refusal :=
  run (decide (die < 8) && (match edge with
    | some e => decide (e < 4)
    | none => true)) s fun d => d.dieOut edge die

end Sys2Proof.Machine
end

