-- ==== Sys2Proof/Machine/SelfTest.lean ====
section
/-! DEFINITION. Self-test in service: periodic, recovery and requested slices (R456 to R463, R467). A position index is
54 × die + 9 × row + position. -/
namespace Sys2Proof.Machine

/-! ## Positions -/

/-- Offset of BIST_POS_STS of a position. -/
def oPos (i : Nat) : Nat := 0x800100 + 4 * i
/-- A position that is present: not fenced. -/
def Dev.posPresent (d : Dev) (i : Nat) : Bool := decide (i < 54 * d.part.dies) && !(d.rb (oRow (i / 9)) (8 + i % 9))
/-- The cluster that a position serves. -/
def Dev.clusterAt (d : Dev) (i : Nat) : Option Nat :=
  ((List.range 8).map fun k => 8 * (i / 9) + k).find? fun n => d.present n && decide (d.posOf n = i % 9)
/-- A position whose cluster lies in the mask of an admitted real-time context (R460). -/
def Dev.rtHeld (d : Dev) (i : Nat) : Bool :=
  match d.clusterAt i with
  | none => false
  | some n => (List.range 64).any fun c => d.rtAdmitted c && d.maskHas c n
/-- A position at a command boundary (R457): its S-core is in `wfc`, with nothing running and nothing on its way. -/
def Dev.atCommandEnd (d : Dev) (i : Nat) : Bool :=
  match d.clusterAt i with
  | none => true
  | some n =>
    let c := d.cl n
    d.idle n && c.misses.isEmpty && c.qS.isEmpty && c.q0.isEmpty && c.q1.isEmpty && c.buf.isEmpty && c.outq.isEmpty
/-- A core of the cluster is out of service until a slice is passed (R138, R169). -/
def Cluster.dead (c : Cluster) : Bool := c.v0Dead || c.v1Dead || c.mDead
/-- A cluster of a die waits for a recovery slice. -/
def Dev.recoveryDue (d : Dev) (die : Nat) : Bool :=
  d.clusters.any fun c => decide (dieOf c.1 = die) && d.present c.1 && c.2.dead && !(d.bist.failed.contains c.1)

/-! ## A slice starts (Table 17.2, orders 1 to 3) -/

/-- State is saved, blocking mode is set and every latch, queue and array of the position is cleared. -/
def Dev.startSlice (d : Dev) (i kind : Nat) : Dev :=
  let cl := d.clusterAt i
  let put (d : Dev) (saved : Word) : Dev := d.onBist fun b => { b with
    slices := NMap.put b.slices (i / 54) { pos := i, cl := cl, kind := kind, again := false, saved := saved } }
  match cl with
  | none => put d 0
  | some n =>
    let saved := d.reg (oClu n + 0x40)
    let d := ((d.endResv (.sCore n)).setRb (oClu n + 0x40) 0 true).onCl n fun c => { c with
      held := true
      tokens := []
      l1r := []
      l1rPf := []
      trackers := []
      v0Retired := 0
      v1Retired := 0 }
    put d saved
/-- A slice that the manager has requested on a die. -/
def Dev.wantedOn (d : Dev) (die : Nat) : Option Nat :=
  match d.bist.want with
  | some i => if i / 54 = die then some i else none
  | none => none
/-- The present position of a die with the greatest AGE_H that the controller may take on its own; among equals the choice
is open. -/
def Dev.oldest (d : Dev) (die : Nat) : Option Nat × Dev :=
  let mine := ((List.range 54).map fun k => 54 * die + k).filter fun i => d.posPresent i && !(d.rtHeld i)
  let age (i : Nat) : Nat := d.rf (oPos i) 15 8
  let top := mine.foldl (fun m i => max m (age i)) 0
  let best := mine.filter fun i => decide (age i = top)
  let (k, d) := d.choose best.length
  (best[k]?, d)
/-- No slice runs on a die and the device is in full function. -/
def Dev.sliceFree (d : Dev) (die : Nat) : Bool :=
  d.full && d.pwr.drain.isNone && decide (die < d.part.dies) && (NMap.find d.bist.slices die).isNone
/-- The controller of a die takes a position: the one the manager asked for, or the oldest. A request for a position that
has been fenced since is abandoned. -/
def execPeriodicSlice (die : Nat) (s : State) : Host.Outcome State Fault Refusal :=
  run (decide (die < 8)) s fun d =>
    if !(d.sliceFree die) ∨ d.recoveryDue die = true then d
    else match d.wantedOn die with
      | some i =>
        if d.posPresent i = false then d.requestOver i 3
        else if d.atCommandEnd i then d.startSlice i 2 else d
      | none =>
        if !(d.rb 0x800000 0) then d
        else match d.oldest die with
          | (some i, d') => if d.atCommandEnd i then d'.startSlice i 0 else d
          | (none, _) => d
/-- A recovery slice after INTERNAL_ERROR or INTERNAL (R461). -/
def execRecoverySlice (n : Nat) (s : State) : Host.Outcome State Fault Refusal :=
  run (decide (n < 384)) s fun d =>
    let i := d.posIndex n
    if d.sliceFree (dieOf n) && d.present n && (d.cl n).dead && !(d.bist.failed.contains n) && d.atCommandEnd i then
      d.startSlice i 1
    else d
/-- A write of BIST_SLICE_CTL with GO. -/
def Dev.goSlice (d : Dev) (v : Word) : Dev :=
  let d := d.setRf 0x800004 9 0 (fld v 9 0)
  if !(bitAt v 10) then d
  else
    let die := fld v 2 0
    let row := fld v 5 3
    let pos := fld v 9 6
    let i := 54 * die + 9 * row + pos
    let runs := match NMap.find d.bist.slices die with
      | some x => decide (x.pos = i)
      | none => false
    if die ≥ d.part.dies ∨ row > 5 ∨ pos > 8 ∨ d.posPresent i = false ∨ runs = true then d.setRb 0x800008 3 true
    else
      let d := (d.onBist fun b => { b with want := some i }).setRb 0x800008 0 true
      if d.sliceFree die && !(d.recoveryDue die) && d.atCommandEnd i then d.startSlice i 2 else d
/-- BIST_SLICE_CTL. -/
def execGo (v : BitVec 32) (s : State) : Host.Outcome State Fault Refusal := run true s fun d => d.mgrFull fun d => d.goSlice (zext v)

/-! ## A slice ends (Table 17.2, orders 6 and 7; R458, R459) -/

/-- A SELF_TEST record of a position (R467): keyed by the cluster it serves, or by the die for a spare that serves none. -/
def Dev.selfTest (d : Dev) (x : Slice) (sub addr sig : Nat) : Dev :=
  let org := match x.cl with
    | some n => origin 1 n
    | none => origin 4 (x.pos / 54)
  d.fault org 0x12 sub (origin 4 (x.pos / 54)) (x.pos / 54) (BitVec.ofNat 64 addr)
    (BitVec.ofNat 64 (x.pos % 9 + 16 * (x.pos / 9 % 6) + 256 * sig))
/-- The position has failed (R459): the cluster it serves fails, and a spare is no longer good. -/
def Dev.positionFails (d : Dev) (x : Slice) : Dev :=
  let d := d.setRb (oPos x.pos) 0 false
  let d := if x.pos % 9 = 8 then d.setRb (oRow (x.pos / 9)) 4 false else d
  let d := if x.kind = 2 then d.requestOver x.pos 2 else d
  let d := d.releaseSlice (x.pos / 54) x
  match x.cl with
  | some n => (d.clusterFailed n).onCl n fun c => { c with held := true }
  | none => (d.setRb (oRow (x.pos / 9)) (8 + x.pos % 9) true).selfTest x 3 0 0
/-- The position passes: its cores are in service again, and the saved state is restored. A save area that reads
uncorrectable makes the Keeper start from its image entry with reset values. -/
def Dev.positionPasses (d : Dev) (x : Slice) (saveOk : Bool) : Dev :=
  let d := (d.setRb (oPos x.pos) 0 true).setRf (oPos x.pos) 15 8 0
  let d := if x.kind = 2 then d.requestOver x.pos 1 else d
  let d := d.releaseSlice (x.pos / 54) x
  match x.cl with
  | none => d
  | some n =>
    let d := d.onCl n fun c => { c with v0Dead := false, v1Dead := false, mDead := false }
    if saveOk then d
    else
      let (a, d) := d.fresh
      let addr := keeperArea + a.toNat % (localSize - keeperArea) / 8 * 8
      let d := (d.setReg (oClu n + 0x20) 0).setReg (oClu n + 0x40) 1
      let d := (d.onCl n fun c => { c with s := SCore.reset, srSeed := 0 }).keeperLoop n
      d.fault (origin 1 n) 0x12 4 (origin 4 (dieOf n)) (dieOf n) (BitVec.ofNat 64 addr) 0
/-- The results of a run of orders 3 to 6 are compared. -/
def Dev.compareSlice (d : Dev) (x : Slice) (r : SliceResult) : Dev :=
  let die := x.pos / 54
  let sig := r.signature.toNat
  let count (d : Dev) : Dev := d.setRf 0x800008 31 16 ((d.rf 0x800008 31 16 + 1) % 65536)
  let inter := d.bist.inter.contains x.pos
  let clean (d : Dev) : Dev := d.onBist fun b => { b with inter := b.inter.filter fun i => decide (i ≠ x.pos) }
  if r.sigOk && r.marchOk then
    if !x.again then (count (clean d)).positionPasses x r.saveOk
    else
      let d := ((count d).setRb (oPos x.pos) 1 true).selfTest x 2 0 sig
      if inter then d.positionFails x
      else (d.onBist fun b => { b with inter := b.inter ++ [x.pos] }).positionPasses x r.saveOk
  else if d.rb 0x800000 9 && !x.again then
    d.onBist fun b => { b with slices := NMap.put b.slices die { x with again := true } }
  else
    let d := count d
    let d := if r.sigOk then d else d.selfTest x 0 0 sig
    let d := if r.marchOk then d else d.selfTest x 1 r.arrayIdx 0
    d.positionFails x
/-- A slice compares its signature and march result. -/
def execSliceComplete (die : Nat) (r : SliceResult) (s : State) : Host.Outcome State Fault Refusal :=
  run (decide (die < 8)) s fun d =>
    match NMap.find d.bist.slices die with
    | none => d
    | some x => if d.full then d.compareSlice x r else d
/-- An event of Table 17.3 abandons a slice (R462). -/
def execSliceAbandoned (die : Nat) (s : State) : Host.Outcome State Fault Refusal :=
  run (decide (die < 8)) s fun d => d.abandonSlice die

end Sys2Proof.Machine
end

