-- ==== Sys2Proof/Machine/Twin.lean ====
section
/-! DEFINITION. The twin bridge: pairing, heartbeats, mirroring, shadowing, takeover and handover (R412 to R428). -/
namespace Sys2Proof.Machine

/-! ## Pairing (R413, R416) -/

/-- STATE of TWN_STS changes. -/
def Dev.setTwinState (d : Dev) (k : Nat) : Dev := d.setRf 0x14004 2 0 k
/-- Commands and records that wait for the partner go on (R420). -/
def Dev.unmirror (d : Dev) : Dev :=
  { d with wins := d.wins.map fun (w : Nat × Window) =>
      (w.1, { w.2 with waiting := w.2.waiting.map fun (q : CmdRec) => { q with mirrored := true } }) }
/-- A new partner's mirror store holds no command. -/
def Dev.freshMirror (d : Dev) : Dev :=
  { d with wins := d.wins.map fun (w : Nat × Window) =>
      (w.1, { w.2 with waiting := w.2.waiting.map fun (q : CmdRec) => { q with atTwin := false } }) }
/-- A handover begins (R428): commands that wait and that the partner's mirror store lacks are mirrored first, so that none is
lost (log entry 105). -/
def Dev.mirrorRest (d : Dev) : Dev :=
  let ask (q : CmdRec) : CmdRec := if d.primary q.ctx && !q.atTwin then { q with mirrored := false } else q
  { d with wins := d.wins.map fun (w : Nat × Window) => (w.1, { w.2 with waiting := w.2.waiting.map ask }) }
/-- A TWIN record of the device. -/
def Dev.twinRecord (d : Dev) (sub : Nat) : Dev := d.fault (origin 0 0) 0x13 sub (origin 0 0) 0 0 0
/-- A write of TWN_CFG: EN starts pairing and ends it; another PEER_ID starts it again (DEDUCED). -/
def Dev.writeTwnCfg (d : Dev) (v : Word) : Dev :=
  if !d.part.twin then d
  else
    let old := d.reg 0x14000
    let d := d.setReg 0x14000 (BitVec.ofNat 64 (fld v 18 0))
    if !(bitAt v 0) then ((d.setReg 0x14004 0).onTwin fun t => { t with heard := 0, handing := false, handPoint := none }).unmirror
    else if !(bitAt old 0) then d.setTwinState 1
    else if fld old 12 1 ≠ fld v 12 1 then (d.setTwinState 1).unmirror
    else d
/-- TWN_CFG. -/
def execTwnCfgWrite (v : BitVec 32) (s : State) : Host.Outcome State Fault Refusal :=
  run true s fun d => d.mgr fun d => d.writeTwnCfg (zext v)
/-- CODE of DEV_CAP0 (Table 19.3). -/
def Code.num : Code → Nat
  | .gh880s => 1
  | .gh880m => 2
  | .gh840m => 3
/-- The partner's identity and proof arrive: the pair forms, or pairing is refused. -/
def execTwinIdentityExchange (x : TwinProof) (s : State) : Host.Outcome State Fault Refusal :=
  run true s fun d =>
    if !d.part.twin ∨ d.stage = 0 ∨ d.twinState ≠ 1 then d
    else if x.id.toNat = d.rf 0x14000 12 1 ∧ d.idValid = true ∧ x.peerId.toNat = d.ownId ∧ x.code.toNat = d.part.code.num ∧ x.proofOk = true ∧
        (d.linkUp 64 = true ∨ d.linkUp 65 = true) then
      (((d.setTwinState 2).setRf 0x14004 8 6 0).onTwin fun t => { t with took := false, mirror := [] }).freshMirror.markAll
    else (d.setRb 0x1400C 3 true).twinRecord 5
/-- A write of TWN_CTL.REJOIN. -/
def Dev.rejoin (d : Dev) : Dev :=
  if d.part.twin && decide (d.twinState = 3 ∨ d.twinState = 4) then (d.setTwinState 1).setRf 0x14004 8 6 0 else d
/-- REJOIN. -/
def execRejoin (s : State) : Host.Outcome State Fault Refusal := run true s fun d => d.mgr fun d => d.rejoin

/-! ## Heartbeats and the loss of the partner (R414 to R416) -/

/-- The partner is declared lost. -/
def Dev.partnerLost (d : Dev) (cause : Nat) : Dev :=
  (((d.setRb 0x1400C 0 true).setTwinState 3).onTwin fun t =>
    { t with cause := cause, took := false, handing := false, handPoint := none }).unmirror
/-- Bit of a path in TWN_STS.PATHS. -/
def twinPathNo : TwinPath → Nat
  | .t0 => 0
  | .t1 => 1
  | .sideband => 2
/-- Windows that this module serves for itself or has taken over. -/
def Dev.servedWins (d : Dev) : List (Nat × Nat) :=
  ((List.range 256).map fun f => ((List.range 8).filter fun n =>
    let o := oFunc f + 0x40 + 4 * n
    d.rb o 6 && (d.rb 0x14010 (d.rf o 5 0) || d.rb 0x14018 (d.rf o 5 0)) && (d.win f n).enabled).map fun n => (f, n)).flatten
/-- Contact returns after both modules took over: CONFLICT, and the rings that both served hold open contents (R416). -/
def Dev.conflict (d : Dev) : Dev :=
  let d := ((d.setRb 0x1400C 5 true).setTwinState 4).twinRecord 4
  d.servedWins.foldl (fun (d : Dev) w =>
    let (bs, d) := d.freshBytes 4096
    d.hostPut w.1 (d.win w.1 w.2).ringBase.toNat bs) d
/-- A heartbeat arrives. The return of a twin link after both were lost marks every page of the ranges (R415). -/
def execHeartbeat (path : TwinPath) (s : State) : Host.Outcome State Fault Refusal :=
  run true s fun d =>
    if !d.part.twin ∨ d.twinState = 0 then d
    else
      let k := twinPathNo path
      let back := decide (d.twinState = 2) && decide (k < 2) && decide (d.rf 0x14004 4 3 = 0)
      let d := (d.onTwin fun t => { t with heard := setBit t.heard k true }).setRb 0x14004 (3 + k) true
      if d.twinState = 3 ∧ d.twin.took = true ∧ d.twin.cause = 0 then d.conflict
      else if back then d.markAll else d
/-- An interval of 50 µs ends: paths without a heartbeat are lost, and four intervals in a row without any lose the
partner. Until then an interval without any changes nothing but MISSED on a paired module: PATHS stays, so that a path which is still
lost when another returns is told then (R415; DEDUCED, log entry 105). -/
def Dev.intervalEnd (d : Dev) : Dev :=
  let old := d.rf 0x14004 5 3
  let heard := d.twin.heard
  let quiet := decide (heard = 0) && decide (d.twinState = 2) && decide (d.rf 0x14004 8 6 < 3)
  let d := d.onTwin fun t => { t with heard := 0 }
  let d := if quiet then d else d.setRf 0x14004 5 3 heard.toNat
  let lost := (List.range 3).any fun k => old.testBit k && !(heard.getLsbD k)
  if heard ≠ 0 then
    let d := d.setRf 0x14004 8 6 0
    let d := if lost ∧ d.twinState = 2 then d.twinRecord 2 else d
    if fld heard 1 0 = 0 then d.unmirror else d
  else if d.twinState = 2 then
    let m := min 4 (d.rf 0x14004 8 6 + 1)
    let d := d.setRf 0x14004 8 6 m
    if m = 4 then d.partnerLost 0 else d
  else d.setRf 0x14004 8 6 (min 4 (d.rf 0x14004 8 6 + 1))
/-- An interval ends. -/
def execHeartbeatIntervalEnd (s : State) : Host.Outcome State Fault Refusal :=
  run true s fun d => if !d.part.twin ∨ d.twinState = 0 then d else d.intervalEnd
/-- A notice arrives over the sideband: cause 2 is the end of a handover, every other a drain, a power-down or a stop. -/
def execSidebandNotice (cause : BitVec 8) (s : State) : Host.Outcome State Fault Refusal :=
  run true s fun d => if d.part.twin && decide (d.twinState = 2) then d.partnerLost (if cause = 2 then 2 else 1) else d

/-! ## The mirror (R418, R419) -/

/-- What the mirror and the shadow engine send travels over the twin links, of which one at least must be up (R326). -/
def Dev.twinPath (d : Dev) : Bool := d.mirrors && (d.linkUp 64 || d.linkUp 65)
/-- A window feeds a context that stands by. -/
def Dev.standbyWin (d : Dev) (f n : Nat) : Bool :=
  let o := oFunc f + 0x40 + 4 * n
  d.rb o 6 && d.standby (d.rf o 5 0)
/-- A window of the mirror store. -/
def Twin.mir (t : Twin) (f n : Nat) : MirWin :=
  (t.mirror.find? fun m => decide (m.func = f) && decide (m.win = n)).getD
    { func := f, win := n, seq := 0, credits := 64, ringPos := 0, phase := true, cmds := [], ring := [] }
/-- The place of a window in the mirror store: windows take their 9 KiB in the order in which they first come (DESIGN CHOICE, log
entry 105). -/
def Twin.mirIdx (t : Twin) (f n : Nat) : Nat := (t.mirror.takeWhile fun x => !(decide (x.func = f) && decide (x.win = n))).length
/-- Replace a window of the mirror store. -/
def Twin.setMir (t : Twin) (m : MirWin) : Twin :=
  { t with mirror := t.mirror.take (t.mirIdx m.func m.win) ++ [m] ++ t.mirror.drop (t.mirIdx m.func m.win + 1) }
/-- Where a part of a window's 9 KiB lies in partition MIRROR_PART (R418): `none` unless that is an active near store partition
that holds it. Commands come first, then the ring copy, then the state (DESIGN CHOICE, log entry 105). -/
def Dev.mirAddr (d : Dev) (f n off : Nat) : Option Nat :=
  let p := d.rf 0x14000 18 13
  let o := 9216 * d.twin.mirIdx f n
  if d.partActive p && decide (d.partType p = 1) && decide (o + 9216 ≤ d.cfgSize (d.reg (oPart p))) then some (d.partBase p + o + off) else none
/-- Write bytes of the mirror store, at a multiple of 8, at their home. -/
def Dev.mirPut (d : Dev) (addr : Nat) (bs : List Byte) : Dev :=
  (List.range (bs.length / 8)).foldl (fun (d : Dev) k =>
    d.syncStore { addr := addr + 8 * k, n := 8, val := BitVec.ofNat 64 (natOfBytes ((bs.drop (8 * k)).take 8)) }) d
/-- The Commons lines of a range that the mirror store writes: `some` while one of them must come home first. -/
def Dev.mirHeld (d : Dev) (addr n : Nat) : Option Dev := d.heldLines ((linesOf addr n).map fun l => lineOf (128 * l))
/-- The bytes of a window's state in the mirror store: the manual gives no layout, so they are open (log entry 105). -/
def Dev.mirState (d : Dev) (f n : Nat) : Dev :=
  match d.mirAddr f n 8192 with
  | none => d
  | some a => let (bs, d) := d.freshBytes 1024; d.mirPut a bs
/-- Either end of the command mirror. A window's SEQ there is that of its latest command. -/
def execMirrorCommand (x : MirrorMsg) (s : State) : Host.Outcome State Fault Refusal :=
  run (match x with
    | .acked f n _ => winOk f n
    | .received f n _ _ credits pos _ _ => winOk f n && decide (credits ≤ 64) && decide (pos < 64)) s fun d =>
    if !d.twinPath then d
    else match x with
      | .acked f n seq => (d.onWin f n fun w =>
        { w with waiting := updFirst w.waiting (fun q => decide (q.seq = seq)) (fun q => { q with mirrored := true, atTwin := true }) }).handProgress
      | .received f n seq slot credits pos phase c =>
        match (if d.standbyWin f n then d.mirAddr f n (64 * (seq.toNat % 64)) else none) with
        | none => d
        | some a => match d.mirHeld a 64 with
          | some y => y
          | none =>
            let d := (d.mirPut a (toBytes 64 (HostCmdWord c))).mirState f n
            d.onTwin fun t =>
              let m := t.mir f n
              t.setMir { m with
                seq := seq
                credits := credits
                ringPos := pos
                phase := phase
                cmds := m.cmds ++ [{ seq := seq, slot := slot, c := c }] }
/-- Either end of the record mirror: the record is in the ring copy, at the entry it will occupy, and frees its command. -/
def execMirrorRecord (x : MirrorRec) (s : State) : Host.Outcome State Fault Refusal :=
  run (match x with
    | .acked f n => winOk f n
    | .received f n entry _ _ _ => winOk f n && decide (entry < 64)) s fun d =>
    if !d.twinPath then d
    else match x with
      | .acked f n =>
        let next (r : Rec) : Bool := decide (r.func = f ∧ r.win = n) && !r.mirrored && d.recReady { r with mirrored := true }
        { d with recs := updFirst d.recs next (fun r => { r with mirrored := true }) }
      | .received f n entry seq irq w =>
        match (if d.standbyWin f n then d.mirAddr f n (4096 + 64 * entry) else none) with
        | none => d
        | some a => match d.mirHeld a 64 with
          | some y => y
          | none =>
            let d := (d.mirPut a (toBytes 64 w)).mirState f n
            d.onTwin fun t =>
              let m := t.mir f n
              t.setMir { m with
                credits := min 64 (m.credits + 1)
                ringPos := (entry + 1) % 64
                phase := if entry = 63 then !(bitAt w 8) else bitAt w 8
                cmds := m.cmds.filter fun c => decide (c.seq ≠ seq)
                ring := NMap.put m.ring entry (w, irq) }

/-! ## Shadowing (R421, R422) -/

/-- A page is in a store partition of a function with a standby context. -/
def Dev.standbyPage (d : Dev) (page : Nat) : Bool :=
  match d.partAt (commonsBase + 0x10000 * page) with
  | none => false
  | some p => (List.range 64).any fun c => d.standby c && decide (d.rf (oCtx c) 8 1 = d.partFunc p)
/-- The shadow engine copies a page to the partner, or a line of a page arrives from it. -/
def execShadowPageCopy (x : ShadowMsg) (s : State) : Host.Outcome State Fault Refusal :=
  run (match x with
    | .sent page _ => decide (page < 2 ^ 19)
    | .received line _ => decide (line < 2 ^ 28)) s fun d =>
    if !d.full ∨ !d.twinPath then d
    else match x with
      | .sent page ok =>
        if !(NMap.get d.twin.shadow false page && d.shadowed page) then d
        else
          let d := d.onTwin fun t => { t with
            shadow := NMap.del t.shadow page
            runs := t.runs.map fun (r : ShadowRun) => { r with pages := r.pages.filter fun p => decide (p ≠ page) } }
          if ok then d else (d.setRb 0x1400C 4 true).twinRecord 3
      | .received line data =>
        if !(d.standbyPage (line / 512)) then d
        else match d.heldLines [line] with
          | some y => y
          | none => (((d.killResv line).recallAll line false).notePage line).putLine .com (lineAddr line) { v := data, poison := 0 }
/-- MARK. -/
def execShadowMark (s : State) : Host.Outcome State Fault Refusal :=
  run true s fun d => d.mgr fun d => if d.part.twin then d.markPoint else d
/-- A shadow point whose pages have all been copied is acknowledged, or the partner's latest point is held here. -/
def execShadowPointDone (x : ShadowPoint) (s : State) : Host.Outcome State Fault Refusal :=
  run true s fun d =>
    if !d.twinPath then d
    else match x with
      | .acked p =>
        match d.twin.runs.head? with
        | some r =>
          if r.point = p ∧ (d.pointWaits r).isEmpty then
            ((d.onTwin fun t => { t with runs := t.runs.drop 1 }).setRf 0x14028 55 32 p.toNat).handProgress
          else d
        | none => d
      | .received p => d.setReg 0x14030 (BitVec.ofNat 64 p.toNat)

/-! ## Takeover and handover (R424 to R428) -/

/-- Contexts that stand by here. -/
def Dev.standbyMask (d : Dev) : Word := d.reg 0x14018 &&& ~~~(d.reg 0x14010)
/-- A context is taken over: it is enabled, and its epoch is incremented (Table 15.2, order 3). -/
def Dev.adopt (d : Dev) (c : Nat) : Dev :=
  let d := if d.ctxOn c then d else d.writeCtxCfg c (setBit (d.reg (oCtx c)) 0 true)
  let e := d.nextEpoch c
  { d with ctxs := NMap.put d.ctxs c { (NMap.get d.ctxs CtxRt.reset c) with epoch := e } }
/-- A window of a context that is taken over (orders 3 to 6): its state and ring come from the mirror store; held commands
wait again with their SEQ, or are recorded as lost when they are not idempotent. At a handover none has run, and all that the
mirror store holds wait again (DEDUCED, log entry 105). -/
def Dev.adoptWindow (d : Dev) (m : MirWin) : Dev :=
  let f := m.func
  let n := m.win
  let w := d.win f n
  let ctx := d.rf (oFunc f + 0x40 + 4 * n) 5 0
  let d := m.ring.foldl (fun (d : Dev) (x : Nat × (BitVec 512 × Bool)) => d.hostWrite f (w.ringBase.toNat + 64 * x.1) (toBytes 64 x.2.1)) d
  let d := if m.ring.any fun x => x.2.2 then d.msix f (fld w.ringCfg 5 1) else d
  let (acc, d) := d.readDur 100
  let hand := decide (d.twin.cause = 2)
  let qs := m.cmds.map fun (x : MirCmd) =>
    ({ op := x.c.op.toNat, c := x.c, func := f, win := n, slot := x.slot.toNat % 64, port := d.portOf f, seq := x.seq, ctx := ctx, waitNs := 0,
       reissued := !hand && x.c.flags.getLsbD 2, acc := acc, mirrored := true, atTwin := false } : CmdRec)
  let again := qs.filter fun q => hand || q.reissued
  let lost := (qs.filter fun q => !(hand || q.reissued)).map fun q => q.plainRec 7
  let d := d.setWin f n { w with
    ringCfg := w.ringCfg ||| 1
    enabled := true
    credits := 64 - m.cmds.length
    ringPos := m.ringPos
    phase := m.phase
    seq := m.seq + 1
    waiting := again }
  { d with recs := d.recs ++ lost }
/-- The standby contexts are taken over. -/
def Dev.takeoverTwin (d : Dev) : Dev :=
  let mask := d.standbyMask
  let cause := d.twin.cause
  let d := ((List.range 64).filter fun c => bitAt mask c).foldl (fun (d : Dev) c => d.adopt c) d
  let d := (d.twin.mirror.filter fun m => bitAt mask (d.rf (oFunc m.func + 0x40 + 4 * m.win) 5 0) && d.rb (oFunc m.func + 0x40 + 4 * m.win) 6).foldl
    (fun (d : Dev) m => d.adoptWindow m) d
  let owners := (0 :: ((List.range 64).filter fun c => bitAt mask c).map fun c => d.rf (oCtx c) 8 1).eraseDups
  let d := owners.foldl (fun (d : Dev) f => d.raise f 7 (detail [(8, 1, cause), (16, 8, mask.toNat)])) d
  let d := (d.setRb 0x1400C 1 true).onTwin fun t => { t with took := true, mirror := [] }
  if cause = 2 then d else d.twinRecord cause
/-- The twin takes over, once, after the partner has been declared lost. -/
def execTakeover (s : State) : Host.Outcome State Fault Refusal :=
  run true s fun d => if d.full && d.part.twin && decide (d.twinState = 3) && !d.twin.took then d.takeoverTwin else d
/-- A write of TWN_CTL.HANDOVER. -/
def Dev.startHandover (d : Dev) : Dev :=
  if d.part.twin && decide (d.twinState = 2) && !d.twin.handing then (d.onTwin fun t => { t with handing := true }).mirrorRest.handProgress else d
/-- HANDOVER. -/
def execHandover (s : State) : Host.Outcome State Fault Refusal := run true s fun d => d.mgr fun d => d.startHandover

end Sys2Proof.Machine
end

