-- ==== Sys2Proof/Machine/Start.lean ====
section
/-! DEFINITION. The staged start, rest and wake, insertion and removal, SPDM, flash and the TAP (R25, R434 to R455, R464 to
R470, R477 to R480, R488). STAGE during order k of Table 16.1 is k − 1. -/
namespace Sys2Proof.Machine

/-! ## Orders 1 and 2: images, record and identity key (R439 to R444) -/

/-- The images of the flash slots of the Lantern or the Keeper: what was written to flash since stands, else what the start
finds; an empty slot does not verify. -/
def Dev.images (d : Dev) (p : PowerOn) (keeper : Bool) : List FlashImage :=
  [0, 1].map fun k =>
    match NMap.find d.ltn.flash (2 * bit keeper + k) with
    | some i => i
    | none => (if keeper then p.keeper else p.lantern).getD k { verifies := false, svn := 0, digest := 0 }
/-- The first slot that verifies and is not below the floor (R440, R442). -/
def pickSlot (floor : Nat) : List FlashImage → Nat → Option (Nat × FlashImage)
  | [], _ => none
  | i :: rest, k => if i.verifies && decide (floor ≤ i.svn.toNat) then some (k, i) else pickSlot floor rest (k + 1)
/-- Fields of LTN_BOOT for an image that runs. -/
def Dev.bootSlot (d : Dev) (keeper : Bool) : Option (Nat × FlashImage) → Dev
  | some (k, i) =>
    let d := d.onLtn fun l => if keeper then { l with keeperImg := some i } else { l with lanternImg := some i }
    (d.setRf 0x10008 (bit keeper) (bit keeper) k).setRf 0x10008 (15 + 8 * bit keeper) (8 + 8 * bit keeper) i.svn.toNat
  | none => d
/-- The record binds this device (R442): its DEV_KEY_HASH is the hash of the identity key that the Lantern has derived. -/
def Dev.bound (d : Dev) (r : CfgRecord) : Bool := d.ltn.seed.isSome && decide (r.keyHash = d.ltn.idHash)
/-- The ordering code that a configuration record names (Table 16.4). -/
def codeOf (n : Nat) : Option Code :=
  if n = 1 then some .gh880s else if n = 2 then some .gh880m else if n = 3 then some .gh840m else none
/-- The PUF block gives the seed, and with it the identity key, at power-on only: the ROM then overwrites it (R443). -/
def Dev.deriveKey (d : Dev) (p : PowerOn) : Dev :=
  d.onLtn fun l => { l with seed := if p.keyOk then some p.seed else none, idHash := p.idHash }
/-- Verification (order 2, and the Lantern's own image of order 1 unless RESTART kept it running: FLOOR then stands against the
image that runs). Where several things fail at once, which CAUSE stands is open. No value of the record takes effect before it
has verified (R439), and CODE and UNITS say what the part is once the record is accepted (R441, R442); a CODE of none of the
three fails as the signature does (DESIGN CHOICE, log entry 70). -/
def Dev.verifyOrder (d : Dev) (p : PowerOn) (fromOne : Bool) : Dev :=
  let lan := d.images p false
  if fromOne && !(lan.any fun x => x.verifies) then ((d.setStage 10).setRf 0x10000 7 4 0).setRf 0x10000 15 8 1
  else
    let r := p.record
    let kpr := d.images p true
    let floor := if p.recordOk then r.floor.toNat else 0
    let l := pickSlot floor lan 0
    let k := pickSlot floor kpr 0
    let low := if fromOne then l.isNone else decide (d.rf 0x10008 15 8 < floor)
    let d := if fromOne then d.bootSlot false l else d
    let d := if p.recordOk then d.setRf 0x10008 31 24 floor else d
    let d := match codeOf r.code.toNat with
      | some k => if p.recordOk && d.bound r then
          ({ d with part := { code := k, units := r.units } } : Dev).onLtn fun l => { l with record := some r } else d
      | none => d
    let causes := (if p.recordOk && (codeOf r.code.toNat).isSome then [] else [3]) ++
      (if d.ltn.seed.isNone then [6] else if p.recordOk && !(d.bound r) then [4] else []) ++
      (if low then [5] else []) ++ (if !(kpr.any fun x => x.verifies) then [2] else if k.isNone then [5] else [])
    if causes.isEmpty then d.bootSlot true k
    else
      let (i, d) := d.choose causes.length
      d.safeFault (causes.getD i 3) 1

/-! ## Orders 3 to 5: paths, host ports and rails -/

/-- A port has trained with its partner, at most ×8 where X8 is set; what the partner reaches is open. -/
def Dev.trainPort (d : Dev) (p : Nat) : Dev :=
  let (x, d) := d.fresh
  let w := if d.rb (0x520000 + 0x100 * p) 0 then 8 else 16
  d.setRf (0x520004 + 0x100 * p) 17 0 (1 + 2 * w + 64 * (x.toNat % 4096))
/-- The first sample of a sensor at a start. -/
def firstSample (p : PowerOn) (k : Nat) : Nat := fld p.sensors (16 * k + 15) (16 * k)
/-- Order 3: the Lantern's sensors are sampled and acted on (R434, R451). -/
def Dev.sensorsOrder (d : Dev) (p : PowerOn) : Dev :=
  let mv := BitVec.ofNat 16 (firstSample p 0)
  let d := [1, 3, 4, 5, 64].foldl (fun (d : Dev) k => d.sens k (firstSample p k)) ((d.inputIs mv).powerSample (firstSample p 2))
  if mv.toNat < 44000 then d.belowWarning else d
/-- Order 4: the host-interface domains come up, in SAFE_FAULT too, whose stage and cause stand (R435, R436). -/
def Dev.pathsOrder (d : Dev) (p : PowerOn) : Dev :=
  if d.stage = 10 ∨ d.stage = 2 then d
  else if p.hostDomainOk then ((d.onLtn fun l => { l with hostDown := false }).trainPort 0).trainPort 1
  else
    let d := d.onLtn fun l => { l with hostDown := true }
    if d.stage = 11 then (d.setReg 0x520004 0).setReg 0x520104 0 else d.safeFault 0x0A 3
/-- Order 5: the rails of the memory layers and of the core come up, with them the sensors of the compute dies are sampled, and
the thermal governor acts (R434, R438, R451). -/
def Dev.railsOrder (d : Dev) (p : PowerOn) : Dev :=
  if !p.railsOk then d.safeFault 9 4
  else
    let d := (List.range d.part.dies).foldl (fun (d : Dev) k => d.sens (56 + k) (firstSample p (56 + k))) d
    (List.range (6 * d.part.dies)).foldl (fun (d : Dev) k => (d.sens (8 + k) (firstSample p (8 + k))).thermal) d

/-! ## Order 6: straps and edges (R25, R447 to R450) -/

/-- Logical edge, N 0, E 1, S 2, W 3, of the physical edge A 0, B 1, C 2 or D 3 (Table 16.6). -/
def logicalEdge (rot mir : Bool) (e : Nat) : Nat :=
  (match rot, mir with
    | false, false => [0, 1, 2, 3]
    | false, true => [0, 3, 2, 1]
    | true, false => [2, 3, 0, 1]
    | true, true => [2, 1, 0, 3]).getD e 0
/-- Rotation of a strap byte. -/
def strapRot (x : DieStrap) : Bool := x.strap.getLsbD 3
/-- Mirroring of a strap byte. -/
def strapMir (x : DieStrap) : Bool := x.strap.getLsbD 4
/-- The strap checks (R447, R442), of which only the first that fails is recorded. The dies of the straps must be the DIES of
the record, `n`, and those of its CODE. -/
def strapFault (k : Part) (n : Nat) (die : Nat) (x : DieStrap) : Nat :=
  let ones := ((List.range 8).filter fun i => x.strap.getLsbD i).length
  if !x.answers then 4
  else if x.padsOk ≠ 0xFF then 1
  else if ones % 2 = 0 ∨ x.strap.getLsbD 6 = true then 2
  else if strapRot x ≠ decide (k.columns ≤ die) then 3
  else if x.strap.toNat % 8 ≠ die then 4
  else if n ≠ k.dies ∨ (if x.strap.getLsbD 5 then 4 else 8) ≠ n then 7
  else 0
/-- What discovery finds on the edge B, C or D (`i` 0, 1 or 2) of a die (R449): 0 passed, 5 or 6. -/
def edgeFault (k : Part) (p : PowerOn) (die : Nat) (x : DieStrap) (i : Nat) : Nat :=
  let e := logicalEdge (strapRot x) (strapMir x) (i + 1)
  match neighbour k die e, x.heard.getD i none with
  | none, none => 0
  | none, some _ => 6
  | some _, none => 5
  | some n, some (s, le) =>
    if x.subFail.getLsbD i then 5
    else if s = (p.dies.getD n default).strap ∧ le = (e + 2) % 4 then 0 else 5
/-- A sub-channel towards a neighbour failed every attempt. -/
def subChannelFailed (k : Part) (die : Nat) (x : DieStrap) (i : Nat) : Bool :=
  x.subFail.getLsbD i && (neighbour k die (logicalEdge (strapRot x) (strapMir x) (i + 1))).isSome
/-- DEV_DIE_ID of a die (Table 16.7); of a die that does not answer only FAULT is known (DEDUCED, log entry 60). -/
def dieIdWord (x : DieStrap) (disc fault : Nat) : Nat :=
  if !x.answers then fault * 2 ^ 25
  else
    let ed (e : Nat) : Nat := logicalEdge (strapRot x) (strapMir x) e
    x.strap.toNat + x.strap.toNat % 8 * 2 ^ 8 + bit (strapRot x) * 2 ^ 11 + bit (strapMir x) * 2 ^ 12 + ed 0 * 2 ^ 13 + ed 1 * 2 ^ 15 +
      ed 2 * 2 ^ 17 + ed 3 * 2 ^ 19 + bit (strapRot x ≠ strapMir x) * 2 ^ 21 + disc * 2 ^ 22 + fault * 2 ^ 25
/-- Order 6: straps are read, then edges are discovered. -/
def Dev.identityOrder (d : Dev) (p : PowerOn) : Dev :=
  let k := d.part
  let n := (d.ltn.record.map fun r => r.dies.toNat).getD 0
  let dies := (List.range k.dies).map fun n => (n, p.dies.getD n { (default : DieStrap) with answers := false })
  let bad := dies.any fun x => decide (strapFault k n x.1 x.2 ≠ 0)
  let d := dies.foldl (fun (d : Dev) x =>
    let edges := if bad then [] else [0, 1, 2].map fun i => edgeFault k p x.1 x.2 i
    let disc := (List.range 3).foldl (fun v i => if edges.getD i 1 = 0 then v + 2 ^ i else v) 0
    let fault := if bad then strapFault k n x.1 x.2 else (edges.find? fun f => decide (f ≠ 0)).getD 0
    d.setReg (0x300 + 4 * x.1) (BitVec.ofNat 64 (dieIdWord x.2 disc fault))) d
  let d := if bad then d else
    dies.foldl (fun (d : Dev) x => [0, 1, 2].foldl (fun (d : Dev) i =>
      if subChannelFailed k x.1 x.2 i then
        d.fault (origin 5 (4 * x.1 + logicalEdge (strapRot x.2) (strapMir x.2) (i + 1))) 7 0 (origin 4 x.1) x.1 0 0
      else d) d) d
  if dies.any fun x => decide (d.rf (0x300 + 4 * x.1) 27 25 ≠ 0) then d.safeFault 7 5 else d

/-! ## Order 7: self-test and soft repair (R464 to R466) -/

/-- A unit of memory as `rowsUsed` numbers it. -/
def failUnit (x : MemFail) : Nat := if x.isLocal then 100000 + x.unit else x.unit
/-- Failing rows of a unit: of its own, or among its spares. -/
def failRows (l : List MemFail) (u : Nat) (spare : Bool) : Nat :=
  (((l.filter fun x => decide (failUnit x = u) && decide (x.inSpare = spare)).map fun x => x.row).eraseDups).length
/-- A slice or bank has more failing rows than good spare rows. -/
def beyondRepair (l : List MemFail) (u : Nat) : Bool := decide (spareRows u - failRows l u true < failRows l u false)
/-- BIST_MEM_LOG and BIST_MEM_CNT (Table 17.4). -/
def Dev.logFails (d : Dev) (l : List MemFail) : Dev :=
  let d := (List.range 512).foldl (fun (d : Dev) k =>
    match l[k]? with
    | none => { d with regs := NMap.del d.regs (0x801000 + 8 * k) }
    | some x =>
      let fixed := !x.inSpare && !(beyondRepair l (failUnit x))
      d.setReg (0x801000 + 8 * k) (BitVec.ofNat 64 (x.bitIdx % 128 + bit x.isLocal * 2 ^ 7 + x.unit % 2 ^ 14 * 2 ^ 8 + x.row % 2 ^ 16 * 2 ^ 22 +
        bit fixed * 2 ^ 38 + bit x.inSpare * 2 ^ 39))) d
  d.setReg 0x800010 (BitVec.ofNat 64 (min (2 ^ 24 - 1) l.length))
/-- Spare rows are taken for the failing rows; the Commons keeps its repairs at a wake (R455). -/
def Dev.softRepair (d : Dev) (l : List MemFail) (keep : Bool) : Dev :=
  let old := if keep then d.rowsUsed.filter fun x => decide (x.1 < 100000) else []
  let us := ((l.map failUnit).eraseDups).mergeSort
  let d := { d with rowsUsed := us.foldl (fun (m : NMap Nat) u => NMap.put m u (min (spareRows u) (failRows l u false + failRows l u true))) old }
  (List.range d.part.dies).foldl (fun (d : Dev) die =>
    let mine := d.rowsUsed.filter fun x => if x.1 < 100000 then decide (x.1 / 64 = die) else decide ((x.1 - 100000) / 32 / 54 = die)
    let used := mine.foldl (fun (s : Nat) x => s + x.2) 0
    d.setReg (0x70A018 + 0x40 * die) (BitVec.ofNat 64 (used % 65536 + 2 ^ 16 * d.leftMin die))) d
/-- Order 7. -/
def Dev.testOrder (d : Dev) (p : PowerOn) (keep : Bool) : Dev :=
  let l := p.memFails.filter fun x => x.isLocal || !keep
  let d := ((if keep then d.loseLocals else d.loseMemory).logFails l).softRepair l keep
  let us := ((l.map failUnit).eraseDups).filter fun u => beyondRepair l u
  let banks := us.filter fun u => decide (100000 ≤ u)
  let d := match p.structFail with
    | some n => d.fault (origin 4 (n / 256)) 0x12 5 (origin 4 (n / 256)) (n / 256) 0 (BitVec.ofNat 64 (n % 256))
    | none => d
  let d := match p.edgeWireFail with
    | some n =>
      let (x, d) := d.fresh
      let d := d.fault (origin 4 (n / 4)) 0x12 5 (origin 4 (n / 4)) (n / 4) 0 x
      d.fault (origin 5 n) 7 0 (origin 4 (n / 4)) (n / 4) 0 0
    | none => d
  let d := us.foldl (fun (d : Dev) u =>
    let rows := BitVec.ofNat 64 (failRows l u false)
    if u < 100000 then d.fault (origin 4 (u / 64)) 0x12 6 (origin 4 (u / 64)) (u / 64) (BitVec.ofNat 64 (u % 64)) rows
    else
      let die := (u - 100000) / 32 / 54
      d.fault (origin 4 die) 0x12 7 (origin 4 die) die (BitVec.ofNat 64 (u - 100000)) rows) d
  if p.structFail.isSome ∨ p.edgeWireFail.isSome = true ∨ us.any (fun u => decide (u < 100000)) = true then d.safeFault 8 6
  else
    let failed := (p.failedPos ++ banks.map fun u => (u - 100000) / 32).eraseDups
    let d := (List.range (54 * d.part.dies)).foldl (fun (d : Dev) i =>
      if failed.contains i then d.setRb (oPos i) 0 false else ((d.setRb (oPos i) 0 true).setRf (oPos i) 15 8 0)) d
    d.buildRemap failed

/-! ## Order 8: full function (R488) -/

/-- DEV_CAP0 to DEV_CAP3 take their values. -/
def Dev.capOrder (d : Dev) : Dev :=
  let k := d.part
  let revision := (d.ltn.record.map fun r => r.revision.toNat).getD 0
  let d := d.setReg 0 (BitVec.ofNat 64 (1 + k.code.num * 2 ^ 8 + k.dies * 2 ^ 12 + bit k.fp64 * 2 ^ 16 + bit k.twin * 2 ^ 17 + 15 * 2 ^ 18 +
    8 * k.dies * 2 ^ 24 + 2 * 2 ^ 32))
  let d := (d.setReg 8 (BitVec.ofNat 64 (k.clusters * 2 ^ 9 + k.commonsBytes / 2 ^ 30 * 2 ^ 24 + 116 * 2 ^ 32 + 64 * 2 ^ 40 + 255 * 2 ^ 48))).countPresent
  let d := d.setReg 16 (BitVec.ofNat 64 (16 + 64 * 2 ^ 5 + 16 * 2 ^ 16 + 32 * 2 ^ 32 + 16 * 2 ^ 40))
  d.setReg 24 (BitVec.ofNat 64 (k.granLog + 8 * 2 ^ 4 + revision * 2 ^ 32))
/-- STAGE reads FULL, with however few clusters present (R22): every fitted link has its lane equalisation stored, the Keepers
run, and the rail stands at the step that the governors allow. -/
def Dev.enterFull (d : Dev) : Dev :=
  let d := d.onLtn fun l => { l with equalised := List.range d.part.links ++ (if d.part.twin then [64, 65] else []) }
  let d := d.capOrder.setStage 8
  let d := (List.range d.part.clusters).foldl (fun (d : Dev) n => if d.present n then d.keeperLoop n else d) d
  let d := (d.onPwr fun x => { x with stopped := false }).refreshStep
  (d.setRf 0x20004 2 0 d.pwr.target).setRb 0x20004 3 false
/-- One of the orders 5 to 8, by its STAGE. -/
def Dev.order (d : Dev) (p : PowerOn) (keep : Bool) (k : Nat) : Dev :=
  if k = 4 then d.railsOrder p else if k = 5 then d.identityOrder p else if k = 6 then d.testOrder p keep else d.enterFull
/-- Orders 5 to 8 from a STAGE on (R438). Each waits while the input is below the warning level, and one that meets a dip stops
there: it goes on after the recovery interval, or, where the input fell below the reset level, from order 5 on. -/
def Dev.runOrders (p : PowerOn) (keep : Bool) : Nat → Nat → Dev → Dev
  | 0, _, d => d
  | fuel + 1, k, d =>
    let d := d.setStage k
    if d.pwr.dip = 1 ∨ d.pwr.dip = 2 then d.onLtn fun l => { l with starting := some (k, keep) }
    else match p.dips with
      | x :: rest =>
        if x.1 = k then
          let d := d.onLtn fun l => { l with found := some { p with dips := rest }, starting := some (k, keep) }
          if x.2.toNat < 38000 then d.fallInStart x.2 else (d.inputIs x.2).belowWarning
        else go fuel k d
      | [] => go fuel k d
where
  /-- The order itself, and those after it unless it fails. -/
  go (fuel k : Nat) (d : Dev) : Dev :=
    let d := d.order p keep k
    if d.stage = k then Dev.runOrders p keep fuel (k + 1) d else d
/-- Orders 5 to 8. -/
def Dev.fullOrders (d : Dev) (p : PowerOn) (keep : Bool) : Dev :=
  Dev.runOrders p keep 4 4 (d.onLtn fun l => { l with starting := none, falls := 0 })
/-- A start that a dip has stopped goes on. -/
def Dev.resumeStart (d : Dev) : Dev :=
  match d.ltn.starting, d.ltn.found with
  | some (k, keep), some p => Dev.runOrders p keep (8 - k) k (d.onLtn fun l => { l with starting := none })
  | _, _ => d
/-- Orders 1 to 8, or 2 to 8 after RESTART. A low BST_EN halts the start after order 3 (R470). -/
def Dev.startUp (d : Dev) (p : PowerOn) (fromOne : Bool) : Dev :=
  let d := (d.onLtn fun l => { l with found := some p, record := none, starting := none, dbgWritten := false }).setReg 0x10000 0
  let d := (if fromOne then d.deriveKey p else d).verifyOrder p fromOne
  let d := if d.stage = 10 then d else d.sensorsOrder p
  let d := d.goOn fun d => d.setStage (if d.ltn.boardTest then 2 else 3)
  let d := d.pathsOrder p
  if d.stage = 3 then d.fullOrders p false else d

/-! ## Power-on, restart, rest and wake -/

/-- A module that had no power starts: the input switch is fully on, BST_EN is sampled (R434, R470). -/
def Dev.switchOn (d : Dev) (p : PowerOn) : Dev :=
  if d.ltn.found.isSome then d
  else (d.onLtn fun l => { l with
    present := true
    switchOn := true
    indicator := false
    boardTest := !p.bstEn }).startUp p true
/-- The staged start. What the part is comes from the configuration record (R4), once it has been accepted. -/
def execPowerOn (p : PowerOn) (s : State) : Host.Outcome State Fault Refusal := runStart s fun d => d.switchOn p
/-- A write of LTN_CTL.RESTART, accepted in SAFE_FAULT only; the running Lantern firmware stays, and ARRIVAL starts again
(Table 14.8). -/
def execRestart (p : PowerOn) (s : State) : Host.Outcome State Fault Refusal :=
  runStart s fun d =>
    if d.hostAlive && decide (d.stage = 11) then (d.onErrs fun e => { e with arrival := 1 }).startUp p false else d
/-- Some context is enabled, or twinned here. -/
def Dev.inUse (d : Dev) : Bool := decide (d.reg 0x14010 ≠ 0) || (List.range 64).any fun c => d.rb (oCtx c) 0
/-- A write of LTN_CTL.REST (R453), which acts below FULL as it does there (R437): from the safe function, where nothing is left
to drain, the module rests at once. SAFE_FAULT is left by a restart only (R436), so REST is refused there (log entry 108). -/
def Dev.goToRest (d : Dev) : Dev :=
  if d.inUse ∨ d.stage = 11 then d.setRb 0x10004 3 true
  else if d.stage = 9 then d
  else if d.full then
    let d := d.beginDrain 5
    if d.pwr.drain = some 5 then d.enterRest else d
  else (d.onLtn fun l => { l with starting := none }).enterRest
/-- REST. -/
def execRest (s : State) : Host.Outcome State Fault Refusal := run true s fun d => d.mgr fun d => d.goToRest
/-- A write of LTN_CTL.WAKE (R455): orders 5 to 8 again, under the record that the start accepted (R439). Where retention was
lost it is a full start of the memories, and DEVICE_RESET is written with cause 1 (R454). -/
def Dev.wakeUp (d : Dev) (p : PowerOn) : Dev :=
  let keep := d.ltn.retained
  let d := d.onLtn fun l => { l with found := some p, retained := false }
  let d := if keep then d else d.deviceReset 1
  d.fullOrders p keep
/-- WAKE. -/
def execWake (p : PowerOn) (s : State) : Host.Outcome State Fault Refusal :=
  run true s fun d => if d.stage = 9 then d.wakeUp p else d

/-! ## The input during a start (R67, R438) -/

/-- The recovery interval is complete: the rail rises, and where it has no way to go the dip is over. A start that waited for it
goes on. -/
def execRecoveryIntervalEnd (s : State) : Host.Outcome State Fault Refusal :=
  run true s fun d =>
    if d.pwr.dip ≠ 2 then d
    else
      let d := (d.onPwr fun p => { p with dip := 3 }).refreshStep
      let d := if d.rb 0x20004 3 then d else (d.onPwr fun p => { p with dip := 0 }).refreshStep
      if 4 ≤ d.stage ∧ d.stage ≤ 7 then d.resumeStart else d
/-- The input falls below 38.0 V (R67): an orderly drain from full function; during orders 5 to 8 the rails are removed (R438). -/
def execInputBelowReset (mv : BitVec 16) (s : State) : Host.Outcome State Fault Refusal :=
  run true s fun d =>
    if !(decide (d.stage ≥ 2)) ∨ mv.toNat ≥ 38000 then d
    else if d.ltn.starting.isSome ∧ 4 ≤ d.stage ∧ d.stage ≤ 7 then d.fallInStart mv
    else
      let d := d.inputIs mv
      let d := (if d.pwr.dip = 1 then d else d.belowWarning).powerEvent 1
      if d.full then d.beginDrain 1 else d
/-- Input above 46.0 V for 100 ms, after a warm reset (R67) or after a fall during a start, which begins order 5 again (R438). -/
def execRailSequencingRestart (s : State) : Host.Outcome State Fault Refusal :=
  run true s fun d =>
    if d.stage ≠ 3 ∨ d.ltn.found.isNone then d
    else if d.ltn.starting.isSome then ((d.onPwr fun p => { p with dip := 0 }).refreshStep).resumeStart
    else if d.pwr.stopped then d
    else d.reenter

/-! ## Insertion and removal (R477 to R480) -/

/-- PRESENT_N goes low and the input is qualified: the switch closes. -/
def execInsertion (s : State) : Host.Outcome State Fault Refusal :=
  run true s fun d => d.onLtn fun l => { l with
    present := true
    switchOn := true
    indicator := false }
/-- PRESENT_N goes high: the switch opens. -/
def execPresentNHigh (s : State) : Host.Outcome State Fault Refusal :=
  run true s fun d => d.powerOff.onLtn fun l => { l with present := false }
/-- The Lantern opens the input switch of a module that has been powered down, and lights the removal indicator (R429,
R480). -/
def execRemovalDischarge (s : State) : Host.Outcome State Fault Refusal :=
  run true s fun d =>
    if d.stage = 3 ∧ d.pwr.stopped = true ∧ d.ltn.switchOn = true then d.powerOff.onLtn fun l => { l with indicator := true } else d
/-- The input switch opens on an overcurrent or a short (R479); it blocks reverse current without opening. -/
def execInputSwitchOvercurrent (kind : SwitchFault) (s : State) : Host.Outcome State Fault Refusal :=
  run true s fun d => match kind with
    | .reverseCurrent => d
    | .overcurrent => if d.ltn.switchOn then d.powerOff else d
    | .railShort => if d.ltn.switchOn then d.powerOff else d

/-! ## Flash (R440) -/

/-- The slot whose image runs: of the Lantern from order 1 on but in RECOVERY, of the Keeper unless the compute dies are
unpowered after a failed start. -/
def Dev.slotRuns (d : Dev) (keeper slot : Bool) : Bool :=
  if keeper then decide (d.stage ≠ 11) && decide (d.rb 0x10008 1 = slot) else decide (d.stage ≠ 10) && decide (d.rb 0x10008 0 = slot)
/-- An image is written to a slot that is not running; it takes effect at the next start. In RECOVERY only Lantern firmware
can be written (R436). -/
def execFlashUpdateWrite (keeper slot : Bool) (image : FlashImage) (s : State) : Host.Outcome State Fault Refusal :=
  run true s fun d =>
    if d.stage < 2 ∨ d.slotRuns keeper slot = true ∨ (d.stage = 10 ∧ keeper = true) then d
    else d.onLtn fun l => { l with flash := NMap.put l.flash (2 * bit keeper + bit slot) image }

/-! ## SPDM (R444 to R446)

Request and response codes are those of SPDM 1.2 (PRESUMED, log entry 61: the manual names the messages and the standard,
not the codes). -/

/-- The request reaches the responder: over the DOE mailbox of a trained port, or over the management path. -/
def Dev.spdmReached (d : Dev) : Option Nat → Bool
  | some p => d.hostAlive && d.rb (0x520004 + 0x100 * p) 0
  | none => decide (2 ≤ d.stage) && decide (d.stage ≠ 10)
/-- The words of a bit string. -/
def wordsOf (n : Nat) (x : BitVec w) : List Word := (List.range n).map fun k => BitVec.ofNat 64 (fld x (64 * k + 63) (64 * k))
/-- The words of a configuration record. -/
def recordWords (r : CfgRecord) : List Word :=
  [r.format.setWidth 64, r.revision.setWidth 64, r.serial, r.code.setWidth 64, r.dies.setWidth 64, r.units.setWidth 64, r.floor.setWidth 64] ++
    wordsOf 6 r.keyHash ++ wordsOf 119 r.trims
/-- A measurement block (Table 16.5): of an image that runs its digest, of the record the digest of its contents, and what no
image or record stands for is zero (log entry 108). -/
def Dev.measure (d : Dev) (i : Nat) : List Word :=
  if i = 1 then [(d.ltn.lanternImg.map FlashImage.digest).getD 0]
  else if i = 2 then [(d.ltn.keeperImg.map FlashImage.digest).getD 0]
  else if i = 3 then [(d.ltn.record.map fun r => Config.digest 0 (recordWords r)).getD 0]
  else if i = 4 then [d.reg 0x10008]
  else if i = 5 then [d.reg 0x10000, BitVec.ofNat 64 (d.rf 8 8 0)]
  else if i = 6 then [BitVec.ofNat 64 (bit d.ltn.dbgWritten)]
  else []
/-- The alias key (R444): it follows from the seed and the SHA-384 of measurements 1 to 4. -/
def Dev.aliasKey (d : Dev) : Word :=
  Config.digest 1 ((d.ltn.seed.map (wordsOf 6)).getD [] ++ [Config.digest 0 (d.measure 1 ++ d.measure 2 ++ d.measure 3 ++ d.measure 4)])
/-- The chain presented (R444): Valgiat's root and device CA, the device identity certificate, and the alias certificate, which
the identity key signs. -/
def Dev.certChain (d : Dev) : List Word :=
  [Config.digest 2 [], Config.digest 3 [], Config.digest 4 (wordsOf 6 d.ltn.idHash), Config.digest 5 [d.aliasKey, Config.digest 4 (wordsOf 6 d.ltn.idHash)]]
/-- The responder answers with a code and what it carries. -/
def Dev.spdmSay (d : Dev) (code : Nat) (payload : List Word) : Dev := d.onLtn fun l => { l with answer := some (code, payload) }
/-- The responder answers ERROR. -/
def Dev.spdmError (d : Dev) (e : Nat) : Dev := d.spdmSay 0x7F [BitVec.ofNat 64 e]
/-- A request about the certificate chain of a slot: slot 0 only, and none without an identity key. -/
def Dev.spdmChain (d : Dev) (slot : Nat) (say : Dev → Dev) : Dev :=
  if slot ≠ 0 then d.spdmError 1
  else if d.stage = 11 ∧ d.rf 0x10000 15 8 = 6 then d.spdmError 5
  else say d
/-- An answer that the alias key signs, over a nonce or an exchange key of its own. -/
def Dev.spdmSigned (d : Dev) (code : Nat) (payload : List Word) : Dev :=
  let (x, d) := d.fresh
  d.spdmSay code (payload ++ [x, Config.digest 6 (d.aliasKey :: x :: payload)])
/-- Capabilities (R445), as SPDM 1.2 numbers them (PRESUMED, log entry 61): certificates, challenge, signed measurements,
encryption, message authentication and key exchange; no mutual authentication and no pre-shared key. -/
def spdmFlags : Word := 0x2D6
/-- The algorithms (R445), as SPDM 1.2 numbers them (PRESUMED, log entry 61): SHA-384 for hash and measurements, no basic asymmetric
algorithm and brainpoolP384r1 as the extended one, secp384r1 and AES-256-GCM. -/
def spdmAlgorithms : List Word := [2, 4, 0, 0x31, 0x10, 2]
/-- One of the supported requests is served, once version and algorithms have been agreed where that is due. -/
def Dev.spdm (d : Dev) (r : SpdmReq) : Dev :=
  let ready := d.ltn.spdmAlg
  match r with
  | .getVersion => (d.onLtn fun l => { l with
      spdmVer := true
      spdmAlg := false
      session := false }).spdmSay 0x04 [0x12]
  | .getCapabilities => if d.ltn.spdmVer then d.spdmSay 0x61 [spdmFlags] else d.spdmError 4
  | .negotiateAlgorithms =>
    if d.ltn.spdmVer then (d.onLtn fun l => { l with spdmAlg := true }).spdmSay 0x63 spdmAlgorithms else d.spdmError 4
  | .getDigests => if ready then d.spdmChain 0 (fun d => d.spdmSay 0x01 [1, Config.digest 0 d.certChain]) else d.spdmError 4
  | .getCertificate slot => if ready then d.spdmChain slot (fun d => d.spdmSay 0x02 d.certChain) else d.spdmError 4
  | .challenge slot => if ready then d.spdmChain slot (fun d => d.spdmSigned 0x03 [Config.digest 0 d.certChain]) else d.spdmError 4
  | .getMeasurements i =>
    if !ready then d.spdmError 4
    else if i = 0 then d.spdmSay 0x60 [6]
    else if i = 0xFF then d.spdmSay 0x60 ((List.range 6).map fun k => d.measure (k + 1)).flatten
    else if 6 < i then d.spdmError 1
    else d.spdmSay 0x60 (d.measure i)
  | .keyExchange slot =>
    if ready then d.spdmChain slot (fun d => (d.onLtn fun l => { l with session := true }).spdmSigned 0x64 [Config.digest 0 d.certChain])
    else d.spdmError 4
  | .finish => if d.ltn.session then d.spdmSay 0x65 [] else d.spdmError 4
  | .endSession => if d.ltn.session then (d.onLtn fun l => { l with session := false }).spdmSay 0x6C [] else d.spdmError 4
  | .other _ => d.spdmError 7
/-- An SPDM request. -/
def execSpdmRequest (port : Option Nat) (r : SpdmReq) (s : State) : Host.Outcome State Fault Refusal :=
  run (match port with
    | some p => decide (p < 2)
    | none => true) s fun d => if d.spdmReached port then d.spdm r else d

/-! ## The TAP (R469, R470) -/

/-- The dies of the chain: the Lantern and the compute dies. -/
def Dev.chain (d : Dev) : Nat := 1 + d.part.dies
/-- IDCODE of each die of the chain. -/
def Dev.idcodes (d : Dev) : List Word :=
  0x1880096B :: List.replicate d.part.dies (if d.part.code = .gh880s then 0x1880196B else 0x1880296B)
/-- An instruction is taken by every die of the chain: BYPASS and IDCODE at all times, the others in board test only, where
the pins supply what they show. -/
def execTapInstruction (i : TapInstr) (s : State) : Host.Outcome State Fault Refusal :=
  run true s fun d =>
    if d.ltn.found.isNone then d
    else
      let eff := if i = .idcode ∨ d.ltn.boardTest = true then i else .bypass
      match eff with
      | .idcode => d.onLtn fun l => { l with tap := .idcode, tapOut := d.idcodes }
      | .samplePreload | .extest | .extestPulse | .extestTrain =>
        let (x, d) := d.fresh
        d.onLtn fun l => { l with tap := eff, tapOut := [x] }
      | _ => d.onLtn fun l => { l with tap := eff, tapOut := List.replicate d.chain 0 }

end Sys2Proof.Machine
end

