-- ==== Sys2Proof/Machine/Debug.lean ====
section
/-! DEFINITION. The debug block (R101 to R104, R139 to R141, Tables 3.9 and 4.8). -/
namespace Sys2Proof.Machine

/-! ## The target -/

/-- The target that DBG_SEL names: a present cluster's S-core or a resident group. CORE 3 is reserved and names none. -/
def Dev.dbgTarget (d : Dev) : Option Agent :=
  let n := d.rf 0x900000 8 0
  let core := d.rf 0x900000 10 9
  if n ≥ d.part.clusters ∨ d.present n = false ∨ core = 3 then none
  else if core = 0 then some (.sCore n)
  else
    let a := Agent.group n (decide (core = 2)) (d.rf 0x900000 14 11)
    if (d.grp a).isSome then some a else none
/-- Do something to the target; with no target the block has no effect (R139). -/
def Dev.onTarget (d : Dev) (f : Agent → Dev → Dev) : Dev :=
  match d.dbgTarget with
  | some a => f a d
  | none => d
/-- A write of a register of the debug block (Table 16.5, index 6). The block acts in full function only (R437). -/
def Dev.dbgWrite (d : Dev) (f : Dev → Dev) : Dev := d.mgrFull fun d => f (d.onLtn fun l => { l with dbgWritten := true })

/-! ## HALT, RESUME and STEP -/

/-- HALT: a running target halts at its next instruction boundary. -/
def Dev.reqHalt (d : Dev) (a : Agent) : Dev :=
  if (d.dbg a).halted then d else d.onDbg a fun x => { x with haltReq := true }
/-- A write of DBG_CTL.HALT. -/
def Dev.halt (d : Dev) : Dev := d.onTarget fun a d => d.reqHalt a
/-- HALT. -/
def execHalt (s : State) : Host.Outcome State Fault Refusal := run true s fun d => d.dbgWrite fun d => d.halt

/-- An agent stands at an instruction boundary, or waits in an instruction that a halt abandons (R102). -/
def Wait.yields : Wait → Bool
  | .none => true
  | .token _ _ => true
  | .queueRoom _ => true
  | .wfc _ => true
  | _ => false
/-- The halt takes effect: what was pending is abandoned and executes again on resume, and the reservation ends (R275). -/
def Dev.haltNow (d : Dev) (a : Agent) : Dev :=
  ((d.endResv a).setWait a .none).onDbg a fun x => { x with haltReq := false, stepping := false, halted := true, reason := 1, cause := 0 }
/-- A requested halt takes effect at an instruction boundary; a slice of the position ends first (Table 17.3). -/
def execHaltTakesEffect (a : Agent) (s : State) : Host.Outcome State Fault Refusal :=
  run (Agent.ok a) s fun d =>
    let there := match a with
      | .sCore _ => true
      | .group _ _ _ => (d.grp a).isSome
    if d.running a.cluster && there && (d.dbg a).haltReq && !(d.dbg a).halted && (d.waitOf a).yields then d.haltNow a else d

/-- The Keeper's code at KTVEC goes on after a halt there: it performs the service of an `ecall` from Guest level and returns
(R84), after which the trap registers hold what they held before; the end of a trapped command follows in `settle`. -/
def Dev.resumeKeeper (d : Dev) (n : Nat) : Dev :=
  let s := (d.cl n).s
  match s.ecallTr with
  | some tr =>
    if s.level = .keeper ∧ s.pc = BitVec.ofNat 48 s.ktvec.toNat ∧ s.tr.tcause.toNat = cECALL ∧ (d.cl n).run.isSome = true then
      let (v, d) := d.service n
      (d.wr (.sCore n) 10 v).onS n fun x => { x with
        tr := tr
        ecallTr := none
        level := .guest
        pc := BitVec.ofNat 48 (s.tr.tpc.toNat + 4) }
    else d
  | none => d
/-- The target runs again. A halt request that has not yet taken effect stays: the spec does not say that RESUME withdraws it
(DESIGN CHOICE, log entry 101). -/
def Dev.unhalt (d : Dev) (a : Agent) : Dev :=
  if (d.dbg a).halted then
    let d := d.onDbg a fun x => { x with halted := false, reason := 0, cause := 0 }
    let d := match a with
      | .sCore n => d.resumeKeeper n
      | .group _ _ _ => d
    d.settle a.cluster
  else d
/-- A write of DBG_CTL.RESUME. -/
def Dev.resume (d : Dev) : Dev := d.onTarget fun a d => d.unhalt a
/-- RESUME. -/
def execResume (s : State) : Host.Outcome State Fault Refusal := run true s fun d => d.dbgWrite fun d => d.resume

/-- A write of DBG_CTL.STEP: a halted target executes one instruction; a running one halts. After an ecall that halted at KTVEC the
step executes the instruction there, and the pending service is performed by RESUME alone (DEDUCED, log entry 59). -/
def Dev.stepTarget (d : Dev) : Dev :=
  d.onTarget fun a d =>
    if (d.dbg a).halted then d.onDbg a fun x => { x with halted := false, stepping := true, reason := 0, cause := 0 } else d.reqHalt a
/-- STEP. -/
def execStep (s : State) : Host.Outcome State Fault Refusal := run true s fun d => d.dbgWrite fun d => d.stepTarget

/-! ## DBG_ACC (R103, R140) -/

/-- The token that a token word describes (Table 5.6), owned by the running command. -/
def Cluster.tokenOf (c : Cluster) (w : Word) : Token :=
  { st := if fld w 1 0 = 1 then .pending else if fld w 1 0 = 2 then .done else .free
    status := BitVec.ofNat 8 (fld w 15 8), tag := BitVec.ofNat 16 (fld w 31 16), source := fld w 33 32, issuer := fld w 35 34,
    group := fld w 39 36, epoch := BitVec.ofNat 64 (fld w 63 40), cid := c.cid }
/-- Read target state; an index that the tables do not list reads an open value. -/
def Dev.accRead (d : Dev) (a : Agent) (idx space lane : Nat) : Word × Dev :=
  match space, d.grp a with
  | 0, none =>
    if idx < 64 then (d.rd a idx, d) else if idx = 0x3FF then (BitVec.ofNat 64 (d.pc a), d) else d.fresh
  | 0, some g =>
    if idx < 64 then (d.rd a idx, d) else if idx = 0x3FF then (BitVec.ofNat 64 (d.pc a), d)
    else if idx = 0x3FE then (BitVec.ofNat 64 (g.live.toNat + g.waiting.toNat * 2 ^ 32), d) else d.fresh
  | 1, some g =>
    if idx < 256 then (if g.has idx 1 then zext (g.v idx lane) else 0, d)
    else if idx = 0x3FF then (BitVec.ofNat 64 (g.pcOf lane).toNat, d) else d.fresh
  | 2, _ => if (csrAccess idx .keeper).isSome then d.csrRead a idx else d.fresh
  | 3, o =>
    if 0x100 ≤ idx ∧ idx < 0x140 then (((d.cl a.cluster).tok (idx - 0x100)).word, d)
    else match o with
      | some g => if idx < 8 then (zext (g.pred idx), d) else d.fresh
      | none => d.fresh
  | _, _ => d.fresh
/-- Write target state; what the tables mark RO, or do not list, ignores the write. -/
def Dev.accWrite (d : Dev) (a : Agent) (idx space lane : Nat) (v : Word) : Dev :=
  match space, d.grp a with
  | 0, none => if idx < 64 then d.wr a idx v else if idx = 0x3FF then d.setPc a (fld v 47 0) else d
  | 0, some _ => if idx < 64 then d.wr a idx v else d
  | 1, some g =>
    if idx < 256 then (if g.has idx 1 then d.setGrp a (g.setV idx lane (v.setWidth 32)) else d)
    else if idx = 0x3FF then d.setGrp a (g.setPcs (BitVec.ofNat 32 (2 ^ lane)) (fld v 47 0)) else d
  | 2, _ => if csrAccess idx .keeper = some .rw then d.csrWrite a idx v else d
  | 3, o =>
    if 0x100 ≤ idx ∧ idx < 0x140 then d.onCl a.cluster fun c => c.setTok (idx - 0x100) (c.tokenOf v)
    else match o with
      | some g => if idx < 8 then d.setGrp a (g.setPred idx (v.setWidth 32)) else d
      | none => d
  | _, _ => d
/-- A write of DBG_ACC: INDEX, SPACE and LANE are kept, and the access is made at a halted target. -/
def Dev.dbgAcc (d : Dev) (v : Word) (write : Bool) : Dev :=
  let d := d.setReg 0x90000C (BitVec.ofNat 64 (fld v 16 0))
  d.onTarget fun a d =>
    if !(d.dbg a).halted then
      let d := d.onDbg a fun x => { x with accErr := true }
      if write then d else d.setReg 0x900010 0
    else if write then d.accWrite a (fld v 9 0) (fld v 11 10) (fld v 16 12) (d.reg 0x900010)
    else
      let (x, d) := d.accRead a (fld v 9 0) (fld v 11 10) (fld v 16 12)
      d.setReg 0x900010 x
/-- DBG_ACC with OP = 01. -/
def execDbgAccRead (v : BitVec 32) (s : State) : Host.Outcome State Fault Refusal :=
  run true s fun d => d.dbgWrite fun d => d.dbgAcc (zext v) false
/-- DBG_ACC with OP = 10. -/
def execDbgAccWrite (v : BitVec 32) (s : State) : Host.Outcome State Fault Refusal :=
  run true s fun d => d.dbgWrite fun d => d.dbgAcc (zext v) true

/-- A write of DBG_CTL: the two settings of the target, and its requests in the order of their bits (DESIGN CHOICE, log
entry 62). -/
def Dev.writeDbgCtl (d : Dev) (v : Word) : Dev :=
  let d := d.onTarget fun a d => d.onDbg a fun x => { x with onBreak := bitAt v 3, onTrap := bitAt v 4 }
  let d := if bitAt v 0 then d.halt else d
  let d := if bitAt v 1 then d.resume else d
  if bitAt v 2 then d.stepTarget else d
/-- A write of DBG_STS: ACC_ERR is W1C. -/
def Dev.writeDbgSts (d : Dev) (v : Word) : Dev :=
  if bitAt v 4 then d.onTarget fun a d => d.onDbg a fun x => { x with accErr := false } else d
/-- What DBG_CTL reads (R14: its WO bits read an open value). -/
def Dev.readDbgCtl (d : Dev) : Word :=
  match d.dbgTarget with
  | some a => BitVec.ofNat 64 (8 * bit (d.dbg a).onBreak + 16 * bit (d.dbg a).onTrap)
  | none => 0
/-- What DBG_STS reads. -/
def Dev.readDbgSts (d : Dev) : Word :=
  match d.dbgTarget with
  | some a =>
    let x := d.dbg a
    BitVec.ofNat 64 (bit x.halted + 2 * x.reason + 16 * bit x.accErr + 256 * (if x.reason = 4 then x.cause else 0))
  | none => 32

end Sys2Proof.Machine
end

