-- ==== Sys2Proof/Machine/Groups.lean ====
section
/-! DEFINITION. Thread groups: branch, join and exit (R120 to R122), and the start of the groups of a launch (R107 to
R112). -/
namespace Sys2Proof.Machine

/-- Release the waiting set once no thread runs (R122): the set at the lowest PC among the waiting threads moves past
its `v.join`. -/
def Group.release (g : Group) : Group :=
  if g.live ≠ 0 ∨ g.waiting = 0 then g
  else
    let low := (lanesOf g.waiting).foldl (fun acc l => min acc (g.pcOf l).toNat) (2 ^ 48)
    let set := maskOf fun l => g.waiting.getLsbD l && decide ((g.pcOf l).toNat = low)
    { g with live := set, waiting := g.waiting &&& ~~~set }.setPcs set (low + 8)

/-- A GC instruction: `f.rsv` must be zero, and OFF32 where it is not used (R121). -/
def gcInstr (a : Agent) (f : FmtGC) (fn : Nat) (s : State) (body : Dev → Group → Out) : Host.Outcome State Fault Refusal :=
  instr8 a s (encGC fn f) fun d g =>
    if f.rsv ≠ 0 ∨ guardOk f.gd f.neg f.pred = false ∨ (fn ≠ 0 ∧ f.off ≠ 0) then .trap cILLEGAL (encGC fn f) else body d g

/-- `v.bra`: the threads whose guard is true move to the target, the other active threads past the instruction. -/
def execVBra (a : Agent) (f : FmtGC) (s : State) : Host.Outcome State Fault Refusal :=
  gcInstr a f 0 s fun d g =>
    let act := g.active
    let m := g.participating f.gd f.neg f.pred
    let t := d.targetGC a f
    let pc := d.pc a
    if m = 0 then .moved (d.setGrp a (g.setPcs act (pc + 8)))
    else match targetTrap t with
      | some c => .trap c t
      | none => .moved (d.setGrp a ((g.setPcs (act &&& ~~~m) (pc + 8)).setPcs m t.toNat))
/-- `v.join`: the threads on which it acts wait; the waiting set is released when every live thread waits. -/
def execVJoin (a : Agent) (f : FmtGC) (s : State) : Host.Outcome State Fault Refusal :=
  gcInstr a f 1 s fun d g =>
    let act := g.active
    let m := g.participating f.gd f.neg f.pred
    let g := g.setPcs (act &&& ~~~m) (d.pc a + 8)
    .moved (d.setGrp a { g with live := g.live &&& ~~~m, waiting := g.waiting ||| m }.release)
/-- `v.exit`: the threads on which it acts are exited; the group ends with its last live thread (R111). -/
def execVExit (a : Agent) (f : FmtGC) (s : State) : Host.Outcome State Fault Refusal :=
  gcInstr a f 2 s fun d g =>
    let act := g.active
    let m := g.participating f.gd f.neg f.pred
    let g := g.setPcs (act &&& ~~~m) (d.pc a + 8)
    let g := { g with live := g.live &&& ~~~m }.release
    if g.live = 0 then .moved ((d.endResv a).onCl a.cluster fun c => c.groupEnd a.groupIdx false)
    else .moved (d.setGrp a g)

/-! ## Launches (Table 4.1) -/

/-- ENTRY. -/
def lENTRY (r : BitVec 512) : Nat := bytesAt r 0 8
/-- VREGS. -/
def lVREGS (r : BitVec 512) : Nat := bytesAt r 10 1
/-- CORES. -/
def lCORES (r : BitVec 512) : Nat := bytesAt r 11 1
/-- FLAGS. -/
def lFLAGS (r : BitVec 512) : Nat := bytesAt r 12 4

/-- Whether a Guest fetch of a context would find an address unmapped (R109). -/
def Dev.entryUnmapped (d : Dev) (ctx func addr : Nat) : Bool :=
  if addr < localSize then !(d.inShare ctx addr 4)
  else if commonsBase ≤ addr ∧ addr < commonsBase + d.part.commonsBytes then (d.commonsMapped func addr 4).isNone
  else !(decide (devBase ≤ addr) && decide (addr < devBase + devSize))
/-- Whether a launch record passes R109 for the context that runs on the cluster. -/
def Dev.launchOk (d : Dev) (n : Nat) (r : BitVec 512) : Bool :=
  let s := (d.cl n).s
  let e := lENTRY r
  decide (e < 2 ^ 48) && decide (e % 4 = 0) && !(d.entryUnmapped s.ctx.toNat s.func.toNat e)
    && decide (1 ≤ bytesAt r 8 2) && decide (bytesAt r 8 2 ≤ 4096) && decide (1 ≤ lVREGS r) && decide (lVREGS r ≤ 8)
    && decide (1 ≤ lCORES r) && decide (lCORES r ≤ 3) && decide (lFLAGS r ≤ 1)

/-- Free lane registers of a V-core, in units of 32 (R115): 64 in all. -/
def Cluster.freeRegs (c : Cluster) (v1 : Bool) : Nat :=
  64 - ((c.groups.filter fun g => decide (g.1 / 16 = bit v1)).map fun g => g.2.vregs).sum
/-- Resident groups of a scheduler of a V-core (R117). -/
def Cluster.onSched (c : Cluster) (v1 : Bool) (k : Nat) : Nat :=
  (c.groups.filter fun g => decide (g.1 / 16 = bit v1) && decide (g.1 % 2 = k)).length
/-- The slot a group takes on a V-core (R110). -/
def Cluster.freeSlot (c : Cluster) (v1 : Bool) : Option Nat :=
  let k := if c.onSched v1 1 < c.onSched v1 0 then 1 else 0
  (List.range 16).find? fun i => decide (i % 2 = k) && (NMap.find c.groups (16 * bit v1 + i)).isNone
/-- Whether a V-core can take a group of a launch. -/
def Cluster.canTake (c : Cluster) (v1 : Bool) (r : BitVec 512) : Bool :=
  (lCORES r).testBit (bit v1) && !(if v1 then c.v1Dead else c.v0Dead) && (c.freeSlot v1).isSome
    && decide (c.freeRegs v1 ≥ lVREGS r)
/-- The V-core that takes the next group of a launch: the one with the most free registers, V-core 0 when equal. -/
def Cluster.pickCore (c : Cluster) (r : BitVec 512) : Option Bool :=
  match c.canTake false r, c.canTake true r with
  | true, true => some (decide (c.freeRegs true > c.freeRegs false))
  | true, false => some false
  | false, true => some true
  | false, false => none

/-- A group as it starts (R111). R111 gives its GSCRATCH no value: zero (DESIGN CHOICE, log entry 4). -/
def Launch.group (l : Launch) : Group :=
  let r := l.record
  let init : NMap Word := (List.range 6).foldl (fun m k => NMap.set m 0 (k + 1) (BitVec.ofNat 64 (bytesAt r (16 + 8 * k) 8))) []
  let u7 : Word := BitVec.ofNat 64 (l.next + l.count * 2 ^ 32)
  let lanes : NMap Half := (List.range 32).foldl (fun m k => NMap.set m 0 k (BitVec.ofNat 32 k)) []
  { launch := l.id, tok := l.tok, vregs := lVREGS r, regs := lanes, u := NMap.set init 0 7 u7, p := [],
    pcs := List.replicate 32 (BitVec.ofNat 48 (lENTRY r)), live := BitVec.allOnes 32, waiting := 0,
    tr := { TrapRegs.zero with gtvec := l.gtvec, gdeleg := l.gdeleg }, exact := (lFLAGS r).testBit 0, wait := .none, resv := none, stFail := false }

/-- The device starts the next waiting group of the oldest launch that still has one (R110), after checking the launch's
record (R109): a bad one starts no group, and its token completes with LAUNCH_INVALID. -/
def Dev.startGroup (d : Dev) (n : Nat) : Dev :=
  let c := d.cl n
  let waiting := fun l : Launch => !l.stopped && decide (l.next < l.count ∨ !l.checked)
  match c.launches.find? waiting with
  | none => d
  | some l =>
    if !l.checked ∧ !(d.launchOk n l.record) then
      (d.onCl n fun c => { c with launches := eraseFirst c.launches fun x => decide (x.id = l.id) }.complete l.tok l.cid 0x20).settle n
    else match c.pickCore l.record with
      | none => d
      | some v1 => match c.freeSlot v1 with
        | none => d
        | some k =>
          let d := d.freshen (.group n v1 k) none
          d.onCl n fun c =>
            { c with
              groups := NMap.put c.groups (16 * bit v1 + k) l.group
              dbg := match NMap.find c.dbg (1 + 16 * bit v1 + k) with
                | some x => NMap.put c.dbg (1 + 16 * bit v1 + k) { Dbg.none with onBreak := x.onBreak, onTrap := x.onTrap, accErr := x.accErr }
                | none => c.dbg
              launches := updFirst c.launches (fun x => decide (x.id = l.id)) fun x =>
                { x with checked := true, next := x.next + 1, resident := x.resident + 1 } }

/-- The next waiting group of a launch starts (R110). -/
def execGroupLaunch (n : Nat) (s : State) : Host.Outcome State Fault Refusal :=
  run (decide (n < 384)) s fun d => if d.running n then d.startGroup n else d

end Sys2Proof.Machine
end

