-- ==== Sys2Proof/Machine/LaneMem.lean ====
section
/-! DEFINITION. Lane loads, stores and atomics (R127 to R133, R491, format GM) and the fragment instructions (R134,
R172 to R175, Tables 5.8 and 4.7). -/
namespace Sys2Proof.Machine

/-! ## Format GM -/

/-- An SV-G instruction of format GM. -/
def gmInstr (a : Agent) (f : FmtGM) (op : Nat) (s : State) (body : Dev → Group → Out) : Host.Outcome State Fault Refusal :=
  instr8 a s (encGM op f) fun d g => if guardOk f.gd f.neg f.pred then body d g else .trap cILLEGAL (encGM op f)
/-- Participating lanes of a GM instruction. -/
def Group.partM (g : Group) (f : FmtGM) : List Nat := lanesOf (g.participating f.gd f.neg f.pred)

/-- The trap of a set of lane accesses (R127): the cause of the highest priority, and among the lanes with that
cause the lowest lane; TVAL is its address. -/
def laneTrap (ts : List (Nat × Option Nat × Nat)) : Option (Nat × Word) :=
  ts.foldl (fun (best : Option (Nat × Word)) t =>
    match t.2.1 with
    | none => best
    | some c =>
      let v : Word := BitVec.ofNat 64 t.2.2
      match best with
      | none => some (c, v)
      | some b => if trapPriority c < trapPriority b.1 then some (c, v) else best) none
/-- The trap of lane accesses of one size. -/
def Dev.gmTrap (d : Dev) (a : Agent) (g : Group) (f : FmtGM) (k : Acc) (n : Nat) : Option (Nat × Word) :=
  laneTrap ((g.partM f).map fun l => let x := d.addrGM a g f l; (l, d.accessTrap a k (decide (f.mark ≠ 0)) true x n, x))

/-- The register of a GM value: a pair for 8 B, with an even first register (R491). -/
def gmRegOk (g : Group) (f : FmtGM) : Bool :=
  g.has f.va.toNat 1 &&
  (if f.size.toNat = 3 then decide (f.vd.toNat % 2 = 0) && g.has f.vd.toNat 2 else g.has f.vd.toNat 1)

/-- The parts of a lane load (R491): 8 B go to a register pair. -/
def Dev.gmPieces (d : Dev) (a : Agent) (g : Group) (f : FmtGM) : List Piece :=
  let size := f.size.toNat
  let n := sizeBytes size
  ((g.partM f).map fun l =>
    let x := d.addrGM a g f l
    let p : Piece := { addr := x, n := min n 4, reg := f.vd.toNat, lane := l, sh := 0, w := 32, signed := decide (size < 4), trapAddr := x }
    if n = 8 then [p, { p with addr := x + 4, reg := f.vd.toNat + 1 }] else [p]).flatten

/-- A lane load. -/
def opLaneLoad (a : Agent) (f : FmtGM) (op : Nat) (ro : Bool) (s : State) : Host.Outcome State Fault Refusal :=
  gmInstr a f op s fun d g =>
    if decide (f.aop = 0) && decide (f.size.toNat ≠ 7) && marksOk (!ro) false f.mark f.scope && gmRegOk g f then
      match d.gmTrap a g f (if ro then .loadRo else .load) (sizeBytes f.size.toNat) with
      | some (c, v) => .trap c v
      | none =>
        let k : LoadKind := { ro := ro, plain := decide (f.mark = 0), acqSy := decide (f.mark = 1 ∧ f.scope = 2), len := 8 }
        d.load a k (d.gmPieces a g f)
    else .trap cILLEGAL (encGM op f)
/-- `v.ld`. -/
def execVLd (a : Agent) (f : FmtGM) (s : State) : Host.Outcome State Fault Refusal := opLaneLoad a f 0x09 false s
/-- `v.ld.ro`: no mark is legal. -/
def execVLdRo (a : Agent) (f : FmtGM) (s : State) : Host.Outcome State Fault Refusal := opLaneLoad a f 0x0D true s

/-- `v.st` (R128): lanes in ascending order, so that of lanes with one address the highest stays. -/
def execVSt (a : Agent) (f : FmtGM) (s : State) : Host.Outcome State Fault Refusal :=
  gmInstr a f 0x0B s fun d g =>
    if decide (f.aop = 0) && decide (f.size.toNat < 4) && marksOk false true f.mark f.scope && gmRegOk g f then
      let n := sizeBytes f.size.toNat
      match d.gmTrap a g f .store n with
      | some (c, v) => .trap c v
      | none =>
        let runs := (g.partM f).map fun l =>
          let v := if n = 8 then g.v64 f.vd.toNat l else zext (g.v f.vd.toNat l)
          ({ addr := d.addrGM a g f l, n := n, val := v } : ByteRun)
        match d.commit a runs (decide (f.mark = 2 ∧ f.scope = 2)) with
        | some d => .done d
        | none => .stall
    else .trap cILLEGAL (encGM 0x0B f)

/-- The requests of a `v.atom` (R130): one for each distinct address, its lanes in ascending order. -/
def Dev.gmAtms (d : Dev) (a : Agent) (g : Group) (f : FmtGM) (fn : AmoFn) (n : Nat) : List Atm :=
  let ls := g.partM f
  let addrs := (ls.map fun l => d.addrGM a g f l).eraseDups
  let r := f.vd.toNat
  let val (k l : Nat) : Word := if n = 8 then g.v64 (r + 2 * k) l else zext (g.v (r + k) l)
  addrs.map fun x =>
    { by_ := a, fn := fn, addr := x, n := n, exact := g.exact,
      lanes := (ls.filter fun l => decide (d.addrGM a g f l = x)).map fun l =>
        if fn = .cas then (l, val 1 l, val 0 l) else (l, val 0 l, 0) }
/-- A lane atomic (R130 to R133). -/
def opLaneAtom (a : Agent) (f : FmtGM) (fn : AmoFn) (s : State) : Host.Outcome State Fault Refusal :=
  gmInstr a f 0x0F s fun d g =>
    let n := sizeBytes f.size.toNat
    let regs := if fn = .cas then g.has f.vd.toNat (if n = 8 then 4 else 2) else true
    if (decide (f.size.toNat = 2) || decide (f.size.toNat = 3)) && marksOk true true f.mark f.scope && gmRegOk g f && regs then
      match d.gmTrap a g f .atomic n with
      | some (c, v) => .trap c v
      | none => d.atom a f.vd.toNat n 8 f.mark.toNat f.scope.toNat (d.gmAtms a g f fn n)
    else .trap cILLEGAL (encGM 0x0F f)
/-- `v.atom.add`. -/
def execVAtomAdd (a : Agent) (f : FmtGM) (s : State) : Host.Outcome State Fault Refusal := opLaneAtom a f .add s
/-- `v.atom.and`. -/
def execVAtomAnd (a : Agent) (f : FmtGM) (s : State) : Host.Outcome State Fault Refusal := opLaneAtom a f .and s
/-- `v.atom.or`. -/
def execVAtomOr (a : Agent) (f : FmtGM) (s : State) : Host.Outcome State Fault Refusal := opLaneAtom a f .or s
/-- `v.atom.xor`. -/
def execVAtomXor (a : Agent) (f : FmtGM) (s : State) : Host.Outcome State Fault Refusal := opLaneAtom a f .xor s
/-- `v.atom.min`. -/
def execVAtomMin (a : Agent) (f : FmtGM) (s : State) : Host.Outcome State Fault Refusal := opLaneAtom a f .min s
/-- `v.atom.max`. -/
def execVAtomMax (a : Agent) (f : FmtGM) (s : State) : Host.Outcome State Fault Refusal := opLaneAtom a f .max s
/-- `v.atom.minu`. -/
def execVAtomMinu (a : Agent) (f : FmtGM) (s : State) : Host.Outcome State Fault Refusal := opLaneAtom a f .minu s
/-- `v.atom.maxu`. -/
def execVAtomMaxu (a : Agent) (f : FmtGM) (s : State) : Host.Outcome State Fault Refusal := opLaneAtom a f .maxu s
/-- `v.atom.swap`. -/
def execVAtomSwap (a : Agent) (f : FmtGM) (s : State) : Host.Outcome State Fault Refusal := opLaneAtom a f .swap s
/-- `v.atom.cas`. -/
def execVAtomCas (a : Agent) (f : FmtGM) (s : State) : Host.Outcome State Fault Refusal := opLaneAtom a f .cas s
/-- `v.atom.fadd`. -/
def execVAtomFadd (a : Agent) (f : FmtGM) (s : State) : Host.Outcome State Fault Refusal := opLaneAtom a f .fadd s

/-! ## Fragments (R172, Table 5.8) -/

/-- An element of a fragment: lane, register offset, row, column, byte of the element, bytes, low bit in the
register. -/
structure FragElem where
  lane : Nat
  r : Nat
  row : Nat
  col : Nat
  byte : Nat
  n : Nat
  sh : Nat
  deriving DecidableEq, Repr

/-- Bytes of an element of a TYPE code, for the roles A and B. -/
def fragBytes (ty : Nat) : Nat := if ty = 5 then 8 else if ty = 1 ∨ ty = 2 then 2 else 1
/-- Registers of a fragment of a role. -/
def fragRegs (ty role : Nat) : Nat := if ty = 5 then (if role = 2 then 4 else 2) else (if role = 2 then 8 else 4)
/-- The elements that lane l holds (Table 5.8); for B, of its transpose. -/
def fragLane (ty role l : Nat) : List FragElem :=
  if role = 2 then
    if ty = 5 then (List.range 4).map fun r =>
      { lane := l, r := r, row := 2 * (l % 4) + r / 2, col := l / 4, byte := 4 * (r % 2), n := 4, sh := 0 }
    else (List.range 8).map fun r =>
      { lane := l, r := r, row := 2 * (l % 8) + r / 4, col := 4 * (l / 8) + r % 4, byte := 0, n := 4, sh := 0 }
  else if ty = 5 then (List.range 2).map fun r =>
    { lane := l, r := r, row := l % 8, col := l / 8, byte := 4 * r, n := 4, sh := 0 }
  else
    let n := fragBytes ty
    let k := 4 / n
    ((List.range 4).map fun r => (List.range k).map fun e =>
      ({ lane := l, r := r, row := 2 * (l % 8) + r / 2, col := 2 * k * (l / 8) + k * (r % 2) + e, byte := 0, n := n, sh := 8 * n * e } : FragElem)).flatten
/-- All elements of a fragment. -/
def fragElems (ty role : Nat) : List FragElem := ((List.range 32).map (fragLane ty role)).flatten
/-- Bytes of an element in memory. -/
def fragMemBytes (ty role : Nat) : Nat := if role = 2 ∧ ty ≠ 5 then 4 else fragBytes ty
/-- Address of an element: A is stored M × K, B K × N, C M × N, row-major (R173). -/
def fragAddr (ty role base stride : Nat) (e : FragElem) : Nat :=
  let b := fragMemBytes ty role
  (BitVec.ofNat 64 ((if role = 1 then base + e.col * stride + e.row * b else base + e.row * stride + e.col * b) + e.byte)).toNat

/-- TYPE codes of the fragments (Table 6.2). -/
def fragTypeOk (ty : Nat) : Bool := decide (1 ≤ ty) && decide (ty ≤ 5)

/-- The traps that every fragment instruction may take before its own (R85, R134, R172): an illegal form, FP64 where
the part has none, fewer than 32 lanes. -/
def Dev.fragTrap (d : Dev) (g : Group) (f : FmtGL) (ok : Bool) : Option (Nat × Word) :=
  let m := g.participating f.gd f.neg f.pred
  if !(ok && fragTypeOk f.ty.toNat && decide (f.rnd = 0)) then some (cILLEGAL, encGL 0x07 f)
  else if f.ty.toNat = 5 ∧ !d.part.fp64 then some (cABSENT, encGL 0x07 f)
  else if m ≠ BitVec.allOnes 32 then some (cDIVERGED, zext m)
  else none

/-- Operand rules of `frag.ld` and `frag.st` (R173). -/
def fragMemOk (g : Group) (f : FmtGL) : Bool :=
  decide (f.ub = 1) && decide (f.va.toNat < 64) && decide (f.vb.toNat < 64) && decide (f.vc.toNat < 3)
    && g.has f.vd.toNat (fragRegs f.ty.toNat f.vc.toNat)
/-- The traps of a fragment's memory accesses: base and stride must be multiples of 16 B (R173), then R127. Where only the stride is
not, TVAL holds the stride: Table 3.7 says no more than the address (DESIGN CHOICE, log entry 118). -/
def Dev.fragMemTrap (d : Dev) (a : Agent) (f : FmtGL) (k : Acc) : Option (Nat × Word) :=
  let base := (d.rd a f.vb.toNat).toNat
  let stride := (d.rd a f.va.toNat).toNat
  let ty := f.ty.toNat
  let role := f.vc.toNat
  if base % 16 ≠ 0 then some (cMISALIGNED, BitVec.ofNat 64 base)
  else if stride % 16 ≠ 0 then some (cMISALIGNED, BitVec.ofNat 64 stride)
  else laneTrap ((fragElems ty role).map fun e =>
    let x := fragAddr ty role base stride e; (e.lane, d.accessTrap a k false true x e.n, x))

/-- `frag.ld`. -/
def execFragLd (a : Agent) (f : FmtGL) (s : State) : Host.Outcome State Fault Refusal :=
  glInstr a f 0x07 s fun d g =>
    match d.fragTrap g f (fragMemOk g f) with
    | some (c, v) => .trap c v
    | none => match d.fragMemTrap a f .load with
      | some (c, v) => .trap c v
      | none =>
        let base := (d.rd a f.vb.toNat).toNat
        let stride := (d.rd a f.va.toNat).toNat
        let ps := (fragElems f.ty.toNat f.vc.toNat).map fun e =>
          let x := fragAddr f.ty.toNat f.vc.toNat base stride e
          ({ addr := x, n := e.n, reg := f.vd.toNat + e.r, lane := e.lane, sh := e.sh, w := 8 * e.n, signed := false, trapAddr := x } : Piece)
        d.load a { ro := false, plain := true, acqSy := false, len := 8 } ps
/-- `frag.st`. -/
def execFragSt (a : Agent) (f : FmtGL) (s : State) : Host.Outcome State Fault Refusal :=
  glInstr a f 0x07 s fun d g =>
    match d.fragTrap g f (fragMemOk g f) with
    | some (c, v) => .trap c v
    | none => match d.fragMemTrap a f .store with
      | some (c, v) => .trap c v
      | none =>
        let base := (d.rd a f.vb.toNat).toNat
        let stride := (d.rd a f.va.toNat).toNat
        let runs := (fragElems f.ty.toNat f.vc.toNat).map fun e =>
          ({ addr := fragAddr f.ty.toNat f.vc.toNat base stride e, n := e.n,
             val := zext ((g.v (f.vd.toNat + e.r) e.lane) >>> e.sh) } : ByteRun)
        match d.commit a runs false with
        | some d => .done d
        | none => .stall

/-- The value of an element of a fragment register tile. -/
def fragVal (g : Group) (ty role base row col : Nat) : Num :=
  let es := (fragElems ty role).filter fun e => decide (e.row = row) && decide (e.col = col)
  let bits := es.foldl (fun acc e => acc + fld (g.v (base + e.r) e.lane) (e.sh + 8 * e.n - 1) e.sh * 256 ^ e.byte) 0
  let fmt := if ty = 5 then fp64 else if role = 2 then fp32
    else if ty = 1 then fp16 else if ty = 2 then bf16 else if ty = 3 then e4m3 else e5m2
  fmt.decode bits
/-- One element of `frag.mma` (R174): exact products, exact sum, one rounding to nearest-even. -/
def fragMac (g : Group) (ty va vb vc m n : Nat) : Nat × FFlags :=
  let kk := if ty = 5 then 4 else if fragBytes ty = 2 then 16 else 32
  let ps := (List.range kk).map fun k => (fragVal g ty 0 va m k).mul (fragVal g ty 1 vb n k)
  let t := Num.sum false (fragVal g ty 2 vc m n :: ps.map Prod.fst)
  let z := (if ty = 5 then fp64 else fp32).round .ne false 0 t.1
  (z.1, (ps.foldl (fun acc p => acc ||| p.2) 0) ||| t.2 ||| z.2)
/-- Whether two runs of registers meet. -/
def regsMeet (x n y m : Nat) : Bool := decide (x < y + m) && decide (y < x + n)
/-- Operand rules of `frag.mma` (R173). -/
def fragMmaOk (g : Group) (f : FmtGL) : Bool :=
  let na := fragRegs f.ty.toNat 0
  let nc := fragRegs f.ty.toNat 2
  let (vd, va, vb, vc) := (f.vd.toNat, f.va.toNat, f.vb.toNat, f.vc.toNat)
  decide (f.ub = 0) && decide (va % na = 0) && decide (vb % na = 0) && decide (vc % nc = 0) && decide (vd % nc = 0)
    && g.has va na && g.has vb na && g.has vc nc && g.has vd nc
    && !regsMeet vd nc va na && !regsMeet vd nc vb na && (decide (vd = vc) || !regsMeet vd nc vc nc)
/-- `frag.mma` (R173, R174). Its flags are the M-core's. -/
def execFragMma (a : Agent) (f : FmtGL) (s : State) : Host.Outcome State Fault Refusal :=
  glInstr a f 0x07 s fun d g =>
    match d.fragTrap g f (fragMmaOk g f) with
    | some (c, v) => .trap c v
    | none =>
      let ty := f.ty.toNat
      let dim := if ty = 5 then 8 else 16
      let rs := ((List.range dim).map fun m => (List.range dim).map fun n => ((m, n), fragMac g ty f.va.toNat f.vb.toNat f.vc.toNat m n)).flatten
      let h := rs.foldl (fun h x =>
        ((fragElems ty 2).filter fun e => decide (e.row = x.1.1) && decide (e.col = x.1.2)).foldl (fun h e =>
          h.setV (f.vd.toNat + e.r) e.lane (BitVec.ofNat 32 (x.2.1 >>> (8 * e.byte)))) h) g
      .done ((d.setGrp a h).setFlags a.cluster 0 (rs.foldl (fun acc x => acc ||| x.2.2) 0))
/-- `frag.fill` (R173): u(VB) into every element of a C fragment. -/
def execFragFill (a : Agent) (f : FmtGL) (s : State) : Host.Outcome State Fault Refusal :=
  glInstr a f 0x07 s fun d g =>
    let ok := decide (f.va = 0) && decide (f.vc = 0) && decide (f.ub = 1) && decide (f.vb.toNat < 64) && g.has f.vd.toNat (fragRegs f.ty.toNat 2)
    match d.fragTrap g f ok with
    | some (c, v) => .trap c v
    | none =>
      let u := d.rd a f.vb.toNat
      .done (d.setGrp a ((fragElems f.ty.toNat 2).foldl (fun h e =>
        h.setV (f.vd.toNat + e.r) e.lane (BitVec.ofNat 32 (u.toNat >>> (8 * e.byte)))) g))

end Sys2Proof.Machine
end

