-- ==== Sys2Proof/Machine/Regs.lean ====
section
/-! DEFINITION. Register accesses: the manager's writes to the link block (R307, R314, R316, R327 to R329), blocking mode
(R225, R226), what a register of the device register space reads and what a write of it does (R14, R485 to R487), and the
function page and MSI-X structures of BAR0 (R344, R347, R348, R360). -/
namespace Sys2Proof.Machine

/-! ## Links -/

/-- RETRAIN: every lane is tested again (R314). -/
def Dev.retrainLink (d : Dev) (l : Nat) : Dev :=
  if d.rb (oLink l) 0 then (d.onLink l fun x => { x with badLanes := 0 }).startRetrain l else d
/-- A write of LNK_CFG: setting EN starts training; clearing it takes the link down. -/
def Dev.writeLnkCfg (d : Dev) (l : Nat) (v : Word) : Dev :=
  let was := d.rb (oLink l) 0
  let d := d.setReg (oLink l) (BitVec.ofNat 64 (fld v 3 0))
  let d := if was && !(bitAt v 0) then (d.linkDown l false).gRunAll else if !was && bitAt v 0 then d.startRetrain l else d
  if bitAt v 4 then d.retrainLink l else d
/-- LNK_CFG. -/
def execLnkCfgEnWrite (l : Nat) (v : BitVec 32) (s : State) : Host.Outcome State Fault Refusal :=
  run (linkOk l) s fun d => d.mgrFull fun d => if l < d.part.links then d.writeLnkCfg l (zext v) else d
/-- RETRAIN. -/
def execRetrain (l : Nat) (s : State) : Host.Outcome State Fault Refusal :=
  run (linkOk l) s fun d => d.mgrFull fun d => if l < d.part.links then d.retrainLink l else d
/-- A write of LNK_DEV_ID is ignored while any link has EN = 1 (R328). -/
def Dev.writeDevId (d : Dev) (v : Word) : Dev :=
  if (List.range d.part.links).any fun l => d.rb (oLink l) 0 then d else d.setReg oDevId (BitVec.ofNat 64 (fld v 25 0))
/-- LNK_DEV_ID. -/
def execLnkDevIdWrite (v : BitVec 32) (s : State) : Host.Outcome State Fault Refusal :=
  run true s fun d => d.mgrFull fun d => d.writeDevId (zext v)

/-- The entries of a member list, or nothing when a line of it is in no active store partition or cannot be read. -/
def Dev.memberList (d : Dev) (addr n : Nat) : Option (List Nat) × Dev :=
  let lines := (List.range (ceilDiv n 32)).map fun k => lineOf addr + k
  let r := lines.foldl (fun (acc : Option (List Nat) × Dev) line =>
    match acc.1 with
    | none => acc
    | some es =>
      if (acc.2.partAt (lineAddr line)).isNone then (none, acc.2)
      else
        let (x, d) := acc.2.peekLine line
        if x.poison ≠ 0 then (none, d)
        else (some (es ++ (List.range 32).map fun k => fld x.v (32 * k + 31) (32 * k)), d)) (some [], d)
  if addr % 128 ≠ 0 ∨ addr < commonsBase then (none, d) else (r.1.map fun es => es.take n, r.2)
/-- A list without the repeats that follow one another. -/
def collapse : List Nat → List Nat
  | [] => []
  | x :: xs =>
    match collapse xs with
    | [] => [x]
    | y :: ys => if x = y then y :: ys else x :: y :: ys
/-- A member list that R329 refuses. -/
def Dev.listBad (d : Dev) (g kind : Nat) (es : List Nat) : Bool :=
  let ids := es.map fun e => e % 4096
  let spans := collapse (es.map fun e => e / 4096 % 4096)
  decide (ids[d.grpSelf g]? ≠ some d.ownId) || decide (ids.eraseDups.length ≠ ids.length) ||
  decide (spans.eraseDups.length ≠ spans.length) || (decide (kind = 1) && decide (1 < spans.length))
/-- A write of LNK_GRP_CFG (R329): the list is read when KIND is set, and SEQ starts at 1 (R334). While a host may hold a line of
the list the write waits for it (R342, log entry 10). -/
def Dev.writeGrpCfg (d : Dev) (g : Nat) (v : Word) : Dev :=
  let o := oGrp g
  let kind := fld v 1 0
  let new : Word := setFld (setFld (setFld (0 : Word) 1 0 kind) 15 8 (fld v 15 8)) 28 16 (fld v 28 16)
  if kind = 0 then d.setReg o new
  else match d.hostLines fun l => decide (lineOf (d.rf (o + 8) 47 0) ≤ l) && decide (l < lineOf (d.rf (o + 8) 47 0) + ceilDiv (fld v 28 16) 32) with
  | some d => d
  | none =>
    let (es, d) := d.memberList (d.rf (o + 8) 47 0) (fld v 28 16)
    match es with
    | none => d.setRb (o + 0x10) 15 true
    | some es =>
      if d.listBad g kind es then d.setRb (o + 0x10) 15 true
      else
        let d := (d.setReg o new).onGrpRt g fun x => { x with ready := [], nextSeq := 1, lost := [], members := es }
        d.setRf (o + 4) 25 13 (d.grpRt g).headOf
/-- LNK_GRP_CFG. -/
def execLnkGrpCfgWrite (g : Nat) (v : BitVec 32) (s : State) : Host.Outcome State Fault Refusal :=
  run (grpOk g) s fun d => d.mgrFull fun d => d.writeGrpCfg g (zext v)

/-! ## Blocking mode -/

/-- A write of CLU_MISS_CTL (R225, R226): a set BLOCK lets no new request begin until those outstanding are complete, and the
mode is in force from then on. -/
def Dev.writeMissCtl (d : Dev) (n : Nat) (v : Word) : Dev :=
  let was := d.blocking n
  (d.onCl n fun c => { c with preBlock := bitAt v 0 && (if was then c.preBlock else !c.misses.isEmpty) }).setReg (oClu n + 0x40) (setFld (setFld (0 : Word) 1 0 (fld v 1 0)) 28 16 (fld v 28 16))
/-- CLU_MISS_CTL. -/
def execCluMissCtlWrite (n : Nat) (v : BitVec 32) (s : State) : Host.Outcome State Fault Refusal :=
  run (decide (n < 384)) s fun d => if d.full && decide (n < d.part.clusters) then d.writeMissCtl n (zext v) else d

/-! ## What a register reads -/

/-- The word at an offset of ERR_REC (Table 14.8). -/
def Dev.errWord (d : Dev) (o : Nat) : Word :=
  match NMap.find d.errs.recs ((o - 0x700000) / 0x40) with
  | none => 0
  | some x =>
    let k := o % 0x40 / 8
    let n : Nat :=
      if k = 0 then x.key.kind.toNat + x.key.sub.toNat * 2 ^ 8 + x.witness * 2 ^ 16 + x.key.origin.toNat * 2 ^ 32
      else if k = 1 then x.reporter.toNat + x.seq.toNat * 2 ^ 32
      else if k = 2 then x.arrival.toNat + (1 + 2 * bit (decide (x.witness = 65535))) * 2 ^ 32
      else if k = 3 then fld x.map 63 0
      else if k = 4 then fld x.map 127 64
      else if k = 5 then x.addr.toNat
      else if k = 6 then x.detail.toNat
      else 0
    BitVec.ofNat 64 n
/-- BIST_OVERDUE (Table 17.4). -/
def Dev.overdue (d : Dev) : Word :=
  let late := (List.range (54 * d.part.dies)).filter fun i =>
    d.posPresent i && decide (max 1 (d.rf 0x800000 8 1) < d.rf (oPos i) 15 8)
  BitVec.ofNat 64 (late.length % 512 + 512 * bit (late.any fun i => d.rtHeld i))
/-- What the register at its own offset holds, computed where it shows other state. -/
def Dev.liveReg (d : Dev) (b : Nat) : Word :=
  let v := d.reg b
  let q := b % 0x100
  if b = 0x14028 then setFld v 23 0 d.shadowPages.length
  else if 0x300000 ≤ b ∧ b < 0x380000 ∧ q = 4 then
    let eng := bit (decide (0x4000 ≤ b % 0x10000))
    let ch := (if eng = 1 then 16 else 32) * ((b - 0x300000) / 0x10000) + b % 0x4000 / 0x100
    let cs := (d.chan eng ch).cmds
    setFld (setFld v 1 1 (bit (cs.any fun c => c.started))) 22 16 (min 64 (cs.filter fun c => !c.started).length)
  else if 0x500000 ≤ b ∧ b < 0x510000 ∧ q = 4 then
    let f := (b - 0x500000) / 0x100
    setFld (setFld v 1 1 (bit (d.quiesced f))) 10 2 (d.runningOf f)
  else if b = 0x518000 then setFld v 6 0 d.aliases.length
  else if 0x600000 ≤ b ∧ b < 0x604000 ∧ q = 0x10 then setBit v 0 (d.ctxActive ((b - 0x600000) / 0x100))
  else if 0x600000 ≤ b ∧ b < 0x604000 ∧ 0x20 ≤ q ∧ q < 0x50 then d.maskReads ((b - 0x600000) / 0x100) ((q - 0x20) / 4)
  else if 0x700000 ≤ b ∧ b < 0x704000 then d.errWord b
  else if b = 0x708004 then setFld v 8 0 d.errs.recs.length
  else if b = 0x80000C then d.overdue
  else if b = 0x900004 then d.readDbgCtl
  else if b = 0x900008 then d.readDbgSts
  else if 0x1000000 ≤ b ∧ b % 0x1000 = 0x44 then
    let n := (b - 0x1000000) / 0x1000
    let k := (d.cl n).misses.length
    BitVec.ofNat 64 (k + 2 ^ 11 * bit (d.blocking n && !((d.cl n).preBlock && decide (k ≠ 0))))
  else v
/-- A block that acts below full function (R437): identity, Lantern, twin, power, scheduler and host interface. -/
def actsEarly (o : Nat) : Bool :=
  decide (o < 0x400) || decide (0x10000 ≤ o ∧ o < 0x100000) || decide (0x500000 ≤ o ∧ o < 0x700000)
/-- A block that reads as zero for functions other than the manager. -/
def mgrReads (o : Nat) : Bool :=
  decide (0x14000 ≤ o ∧ o < 0x109000) || decide (0x200000 ≤ o ∧ o < 0x500000) || decide (0x600000 ≤ o ∧ o < 0x1000000)
/-- A block that only the manager writes. -/
def mgrWrites (o : Nat) : Bool := mgrReads o || decide (0x10000 ≤ o ∧ o < 0x14000) || decide (0x500000 ≤ o ∧ o < 0x600000)
/-- The whole value of the register at an offset as function `f` reads it: RSV and WO bits are open (R14). -/
def Dev.readReg (d : Dev) (f : Nat) (o : Nat) : Option RegInfo × Word × Dev :=
  match regInfo d.part o with
  | none => (none, 0, d)
  | some r =>
    if (f ≠ 0 ∧ mgrReads o = true) ∨ (d.full = false ∧ actsEarly o = false) then (some r, 0, d)
    else
      let known := r.rw ||| r.ro ||| r.w1c
      let (x, d) := d.fresh
      (some r, (d.liveReg r.base &&& known) ||| (x &&& ~~~known), d)
/-- A 4-byte read (R487): an offset that holds no register reads zero (R30). -/
def Dev.devRead4 (d : Dev) (f o : Nat) : Word × Dev :=
  match d.readReg f o with
  | (none, _, d) => (0, d)
  | (some r, v, d) =>
    if r.wide then (BitVec.ofNat 64 (fld v (8 * (o - r.base) + 31) (8 * (o - r.base))), d) else (BitVec.ofNat 64 (fld v 31 0), d)
/-- A read of 4 or 8 bytes at an aligned offset. -/
def Dev.devRead (d : Dev) (f o n : Nat) : Word × Dev :=
  if n = 4 then d.devRead4 f o
  else
    match d.readReg f o with
    | (some r, v, d') =>
      if r.wide then (v, d')
      else
        let (lo, d) := d.devRead4 f o
        let (hi, d) := d.devRead4 f (o + 4)
        (lo + (hi <<< 32), d)
    | (none, _, _) =>
      let (hi, d) := d.devRead4 f (o + 4)
      (hi <<< 32, d)

/-! ## What a write of a register does -/

/-- Fields of a register without other effects: RW bits take the value, W1C bits are cleared by 1. -/
def Dev.writePlain (d : Dev) (r : RegInfo) (v : Word) : Dev :=
  let old := d.reg r.base
  d.setReg r.base (((old &&& ~~~r.rw) ||| (v &&& r.rw)) &&& ~~~(v &&& r.w1c))
/-- A write of CMN_PART_STS: clearing EBR_EVT takes a new snapshot of its counter (R228). -/
def Dev.writePartSts (d : Dev) (p : Nat) (r : RegInfo) (v : Word) : Dev :=
  (List.range 3).foldl (fun (d : Dev) c =>
    if bitAt v (6 + c) then { d with snaps := NMap.set d.snaps 0 (4 * p + c) (d.reg (oPart p + 0x90 + 0x20 * c)).toNat } else d)
    (d.writePlain r v)
/-- A write of COH_STS: clearing DIR_PRESSURE starts its count again (Table 8.7). -/
def Dev.writeCohSts (d : Dev) (die : Nat) (r : RegInfo) (v : Word) : Dev :=
  let d := d.writePlain r v
  if bitAt v 1 then { d with snaps := NMap.set d.snaps 0 (1000 + die) (d.reg (oCoh die + 0x128)).toNat } else d
/-- A write of LTN_CTL. What a wake or a restart finds is, on this path, what the latest start found (DESIGN CHOICE, log
entry 64). -/
def Dev.writeLtnCtl (d : Dev) (v : Word) : Dev :=
  let d := if bitAt v 3 then d.setRb 0x10004 3 false else d
  let d := if bitAt v 0 then d.goToRest else d
  match d.ltn.found with
  | none => d
  | some p =>
    let d := if bitAt v 1 && decide (d.stage = 9) then d.wakeUp { p with dips := [] } else d
    if bitAt v 2 && decide (d.stage = 11) then
      (d.onErrs fun e => { e with arrival := 1 }).startUp { p with dips := [] } false
    else d
/-- A write of TWN_CTL. -/
def Dev.writeTwnCtl (d : Dev) (v : Word) : Dev :=
  let d := if bitAt v 0 then d.startHandover else d
  if bitAt v 1 then d.rejoin else d
/-- A write of SCH_CTX_CTL. -/
def Dev.writeCtxCtl (d : Dev) (c : Nat) (v : Word) : Dev :=
  let d := if bitAt v 0 then d.clearErr c else d
  let d := if bitAt v 2 then d.dropRt c else d
  if bitAt v 1 then d.reqRt c else d
/-- A write of HIF_LDG_CTL. -/
def Dev.writeLdgCtl (d : Dev) (v : Word) : Dev :=
  let f := fld v 7 0
  let d := d.setRf 0x510018 7 0 f
  let d := if bitAt v 8 then d.ldgRearm f else d
  if bitAt v 9 then d.ldgMark f else d
/-- A write of ERR_CTL. -/
def Dev.writeErrCtl (d : Dev) (v : Word) : Dev :=
  let d := d.setReg 0x708000 (BitVec.ofNat 64 (fld v 7 0))
  if bitAt v 8 then d.freeRec (fld v 7 0) else d
/-- A write of DBG_ACC. -/
def Dev.writeDbgAcc (d : Dev) (v : Word) : Dev :=
  let op := fld v 18 17
  if op = 1 then d.dbgAcc v false else if op = 2 then d.dbgAcc v true else d.setReg 0x90000C (BitVec.ofNat 64 (fld v 16 0))

/-- The effect of writing a whole register, by its block. -/
def Dev.writeReg (d : Dev) (r : RegInfo) (v : Word) : Dev :=
  let b := r.base
  let q := b % 0x100
  let plain := d.writePlain r v
  if b = 0x10004 then d.writeLtnCtl v
  else if b = 0x14000 then d.writeTwnCfg v
  else if b = 0x14008 then d.writeTwnCtl v
  else if b = 0x14020 then (if bitAt v 0 then d.markPoint else d)
  else if b = 0x20000 then d.writeStepCtl v
  else if b = 0x2000C then d.writeLimit v
  else if b = 0x20014 then (if bitAt v 31 then d.rearm else d)
  else if 0x100000 ≤ b ∧ b < 0x104000 then
    let p := (b - 0x100000) / 0x100
    if q = 0 then d.writePartCfg p v
    else if q = 4 then d.writePartBase p v
    else if q = 8 then d.writePartSts p r v
    else if 0x40 ≤ q ∧ q < 0x80 then d.writeRegEnt p ((q - 0x40) / 4) v
    else if q = 0x98 ∨ q = 0xB8 ∨ q = 0xD8 then plain.checkEbr p ((q - 0x98) / 0x20)
    else plain
  else if 0x108000 ≤ b ∧ b < 0x109000 ∧ b % 16 = 8 then d.writeWinCfg ((b - 0x108000) / 16) v
  else if 0x200000 ≤ b ∧ b < 0x208000 ∧ b % 0x1000 = 4 then d.writeCohSts ((b - 0x200000) / 0x1000) r v
  else if b = 0x208000 then d.writePeek v
  else if 0x300000 ≤ b ∧ b < 0x380000 ∧ q = 8 then
    let eng := bit (decide (0x4000 ≤ b % 0x10000))
    let ch := (if eng = 1 then 16 else 32) * ((b - 0x300000) / 0x10000) + b % 0x4000 / 0x100
    if bitAt v 0 then d.clearChan eng ch else d
  else if 0x380000 ≤ b ∧ b < 0x380400 then
    d.writeRfs ((b - 0x380000) / 16) (if b % 16 = 0 then .base else if b % 16 = 4 then .size else .src) v
  else if 0x400000 ≤ b ∧ b < 0x442000 ∧ b % 0x1000 = 0 then d.writeLnkCfg ((b - 0x400000) / 0x1000) v
  else if b = oDevId then d.writeDevId v
  else if 0x4C0000 ≤ b ∧ b < 0x4C0800 ∧ b % 0x20 = 0 then d.writeGrpCfg ((b - 0x4C0000) / 0x20) v
  else if 0x500000 ≤ b ∧ b < 0x510000 ∧ q = 0 then d.writeVfTbl ((b - 0x500000) / 0x100) v
  else if b = 0x510000 then d.writeLdgCfg v
  else if b = 0x510018 then d.writeLdgCtl v
  else if 0x600000 ≤ b ∧ b < 0x604000 then
    let c := (b - 0x600000) / 0x100
    if q = 0 then d.writeCtxCfg c v
    else if q = 4 ∨ q = 8 ∨ q = 0x50 ∨ q = 0x58 then d.writeCtxOther c q (v &&& r.rw)
    else if q = 0xC then d.writeCtxCtl c v
    else if 0x20 ≤ q ∧ q < 0x50 then d.writeCtxClu c ((q - 0x20) / 4) v
    else plain
  else if b = 0x608010 then (if bitAt v 26 then d.setRb b 26 false else d).moveGo v
  else if b = 0x708000 then d.writeErrCtl v
  else if 0x70A000 ≤ b ∧ b < 0x70A200 ∧ b % 0x40 = 0 then d.writeScrCtl ((b - 0x70A000) / 0x40) v
  else if b = 0x800004 then d.goSlice v
  else if b = 0x900004 then d.writeDbgCtl v
  else if b = 0x900008 then d.writeDbgSts v
  else if b = 0x90000C then d.writeDbgAcc v
  else if 0x1000000 ≤ b ∧ b % 0x1000 = 0x40 then d.writeMissCtl ((b - 0x1000000) / 0x1000) v
  else plain

/-- Whether function `f` may write the register at an offset: what only the manager writes, and CLEAR of a channel that the
function owns (R297). -/
def Dev.mayWrite (d : Dev) (f o : Nat) : Bool :=
  decide (f = 0) || !(mgrWrites o) ||
  (decide (0x300000 ≤ o ∧ o < 0x380000) && decide (o % 0x100 = 8) && decide (d.rf (o - 8) 15 8 = f))
/-- A write of `n` bytes, 4 or 8, at an aligned offset of a register: of the whole register, or of one half of a 64-bit
one (R487). A register block that does not act yet ignores it (R437). -/
def Dev.devWrite1 (d : Dev) (f o n : Nat) (v : Word) : Dev :=
  match regInfo d.part o with
  | none => d
  | some r =>
    if !(d.mayWrite f o) ∨ (d.full = false ∧ actsEarly o = false) then d
    else
      let d := if 0x900000 ≤ o ∧ o < 0x1000000 then d.onLtn fun l => { l with dbgWritten := true } else d
      if r.wide then
        if n = 8 then d.writeReg r v
        else
          let k := 8 * (o - r.base)
          d.writeReg r (setFld (d.reg r.base) (k + 31) k (fld v 31 0))
      else d.writeReg r (BitVec.ofNat 64 (fld v 31 0))
/-- A write of 4 or 8 bytes at an aligned offset: 8 bytes over two 32-bit registers are two writes, lower offset first. -/
def Dev.devWrite (d : Dev) (f o n : Nat) (v : Word) : Dev :=
  if n = 4 then d.devWrite1 f o 4 v
  else match regInfo d.part o with
    | some r => if r.wide then d.devWrite1 f o 8 v else (d.devWrite1 f o 4 v).devWrite1 f (o + 4) 4 (v >>> 32)
    | none => d.devWrite1 f (o + 4) 4 (v >>> 32)

/-! ## BAR0 of a function (Tables 12.4 and 12.5) -/

/-- A 4-byte write to the function page or the MSI-X table. -/
def Dev.bar0Write4 (d : Dev) (f o : Nat) (v : Half) : Dev :=
  let half (old : Word) : Word := setFld old (8 * (o % 8) + 31) (8 * (o % 8)) v.toNat
  if o = 0x8028 ∨ o = 0x802C then d.setFn f { (d.fn f) with evtBase := half (d.fn f).evtBase }
  else if o = 0x8030 then d.writeEvtCfg f v
  else if o = 0x8034 then d.writeEvtHead f v
  else if 0x8040 ≤ o ∧ o < 0x8140 then
    let n := (o - 0x8040) / 0x20
    let q := o % 0x20
    if q < 8 then d.onWin f n fun w => { w with ringBase := half w.ringBase }
    else if q = 8 then d.writeRingCfg f n v
    else d
  else if 0xC000 ≤ o ∧ o < 0xC200 then
    let k := (o - 0xC000) / 16
    let q := o % 16
    if q < 8 then d.onVec f k fun x => { x with addr := half x.addr }
    else if q = 8 then d.onVec f k fun x => { x with data := v }
    else d.maskVec f k (v.getLsbD 0)
  else d
/-- A host write to BAR0 of a function through a port: to a command window it is discarded and counted, as it is not 64 bytes
long (R350), and so is one through a port to which the function is not bound (R343); elsewhere the widths of R487 apply. -/
def Dev.bar0Write (d : Dev) (f port o n : Nat) (v : Word) : Dev :=
  if !(d.portUp port) then d
  else if o < 0x8000 then
    d.windowWrite { port := port, func := f, win := o / 0x1000, slot := 0, len := n, aligned := decide (o % 64 = 0), single := true }
      { op := 0, flags := 0, tag := 0, cluster := 0, rsv0 := 0, maxDur := 0, rsv1 := 0, entry := 0, args := 0 }
  else if !(d.onPort f port) then d.bumpRf (oFunc f + 8) 31 0 1
  else if n < 4 ∨ o % n ≠ 0 then d
  else
    let d := d.bar0Write4 f o (v.setWidth 32)
    if n = 8 then d.bar0Write4 f (o + 4) ((v >>> 32).setWidth 32) else d

/-- What 4 bytes of BAR0 of a function read (Tables 12.4 and 12.5); a window, and every other offset, reads zero. RSV bits are
open (R14). -/
def Dev.bar0Read4 (d : Dev) (f o : Nat) : BitVec 64 × Dev :=
  let part (v : Word) : Word := BitVec.ofNat 64 (fld v (8 * (o % 8) + 31) (8 * (o % 8)))
  let bits (n v : Nat) : Word × Dev := let (x, d) := d.fresh; (BitVec.ofNat 64 (v + fld x 31 n * 2 ^ n), d)
  if 0x8000 ≤ o ∧ o < 0x8020 then
    let (v, d) := d.devRead 0 ((o - 0x8000) / 8 * 8) 8
    (part v, d)
  else if o = 0x8020 then bits 19 (f + 2 ^ 8 * d.windowsOf f + 2 ^ 12 * d.vectorsOf f + 2 ^ 18 * d.portOf f)
  else if o = 0x8028 ∨ o = 0x802C then (part (d.fn f).evtBase, d)
  else if o = 0x8030 then bits 6 (bit (d.fn f).evtEn + 2 * (d.fn f).evtVec)
  else if o = 0x8034 then bits 7 (d.fn f).head
  else if 0x8040 ≤ o ∧ o < 0x8140 then
    let w := d.win f ((o - 0x8040) / 0x20)
    let q := o % 0x20
    if q < 8 then (part w.ringBase, d)
    else if q = 8 then bits 16 (fld w.ringCfg 15 0)
    else if q = 0xC then bits 8 (w.credits + 2 ^ 7 * bit w.enabled)
    else if q = 0x10 then (BitVec.ofNat 64 w.drop, d)
    else (0, d)
  else if 0xC000 ≤ o ∧ o < 0xC200 then
    let x := d.vec f ((o - 0xC000) / 16)
    let q := o % 16
    (if q < 8 then part x.addr else if q = 8 then zext x.data else BitVec.ofNat 64 (bit x.masked), d)
  else if o = 0xD000 then
    (BitVec.ofNat 64 ((List.range 32).foldl (fun v k => v + bit (d.vec f k).pend * 2 ^ k) 0), d)
  else (0, d)
/-- A read of a width that a host can make, from reads of 4 bytes (R487): 1 and 2 bytes are those of the containing register, and
one of 4 or 8 bytes that is misaligned returns zero. -/
def readWidth (r4 : Dev → Nat → Word × Dev) (d : Dev) (o n : Nat) : Word × Dev :=
  if n < 4 then
    let (v, d) := r4 d (o / 4 * 4)
    (BitVec.ofNat 64 (fld v (8 * (o % 4) + 8 * n - 1) (8 * (o % 4))), d)
  else if o % n ≠ 0 then (0, d)
  else
    let (lo, d) := r4 d o
    if n = 8 then let (hi, d) := r4 d (o + 4); (lo + hi <<< 32, d) else (lo, d)
/-- A host read of BAR0 of a function (R347, R348). The table of commands has no row for a read; that its widths follow R487 is
DEDUCED (log entry 112). -/
def Dev.bar0Read (d : Dev) (f o n : Nat) : Word × Dev := readWidth (fun d o => d.bar0Read4 f o) d o n
/-- A read of the device register space through the manager's BAR2 (R485, R487): the table of commands has no row for it. -/
def Dev.bar2Read (d : Dev) (o n : Nat) : Word × Dev :=
  if n = 8 ∧ o % 8 = 0 then d.devRead 0 o 8 else readWidth (fun d o => d.devRead4 0 o) d o n
/-- A read of LTN_STAGE and LTN_BOOT (R435): by the manager from order 4 on, over the management path from order 3 on. -/
def Dev.bootRead (d : Dev) (path : Bool) (o : Nat) : Option (Word × Dev) :=
  if (o = 0x10000 ∨ o = 0x10008) ∧ (if path then 2 ≤ d.stage else d.hostAlive = true) then some (d.devRead4 0 o) else none

/-- The function for which a Keeper acts: that of its FUNC register (DESIGN CHOICE, log entry 63). -/
def Dev.keeperFunc (d : Dev) (n : Nat) : Nat := (d.cl n).s.func.toNat
/-- A register access of a size that a host or core can make. -/
def accessOk (path : RegPath) (off size : Nat) : Bool :=
  (decide (size = 1) || decide (size = 2) || decide (size = 4) || decide (size = 8)) && (match path with
    | .bar2 => decide (off < 0x2000000)
    | .vf f p => decide (f < 256) && decide (p < 2) && decide (off < 0x10000)
    | .keeper n => decide (n < 384) && decide (off < 0x2000000))
/-- A write of a register by any path (R485, R487): through the manager's BAR2, by a Keeper, or through BAR0 of a function.
One of 1 or 2 bytes, or misaligned, reaches no register. -/
def execRegisterWrite (path : RegPath) (off size : Nat) (v : BitVec 64) (s : State) : Host.Outcome State Fault Refusal :=
  run (accessOk path off size) s fun d =>
    match path with
    | .bar2 => if size < 4 ∨ off % size ≠ 0 then d else d.mgr fun d => d.devWrite 0 off size v
    | .keeper n => if size < 4 ∨ off % size ≠ 0 then d else if d.running n then d.devWrite (d.keeperFunc n) off size v else d
    | .vf f p => d.mgr fun d => if d.funcExists f then d.bar0Write f p off size v else d

end Sys2Proof.Machine
end

