-- ==== Sys2Proof/Machine/Scalar.lean ====
section
/-! DEFINITION. The SV-S integer instructions: formats RR, RI and UI, branches and jumps (R87, R88, R91,
R106, Table 3.11). On a V-core their register fields name uniform registers (R70, R123). -/
namespace Sys2Proof.Machine

/-- Shift left by bits [6:0]; 64 and more give 0. -/
def shl64 (a : Word) (n : Nat) : Word := if n ≥ 64 then 0 else a <<< n
/-- Logical shift right. -/
def shr64 (a : Word) (n : Nat) : Word := if n ≥ 64 then 0 else a >>> n
/-- Arithmetic shift right; 64 and more give copies of bit 63. -/
def sra64 (a : Word) (n : Nat) : Word := a.sshiftRight (min n 64)
/-- Bits [127:64] of the signed product. -/
def mulh64 (a b : Word) : Word := BitVec.ofInt 64 ((a.toInt * b.toInt) / 2 ^ 64)
/-- Bits [127:64] of the unsigned product. -/
def mulhu64 (a b : Word) : Word := BitVec.ofNat 64 (a.toNat * b.toNat / 2 ^ 64)
/-- The most positive value. -/
def maxPos64 : Word := 0x7FFFFFFFFFFFFFFF
/-- The most negative value. -/
def maxNeg64 : Word := 0x8000000000000000
/-- `div` (R87): truncates toward zero; a quotient that cannot be represented saturates. -/
def div64 (a b : Word) : Word :=
  if b = 0 then (if a.toInt < 0 then maxNeg64 else maxPos64)
  else if a = maxNeg64 ∧ b.toInt = -1 then maxPos64
  else BitVec.ofInt 64 (Int.tdiv a.toInt b.toInt)
/-- `divu` (R87): by zero gives all ones. -/
def divu64 (a b : Word) : Word := if b = 0 then BitVec.allOnes 64 else BitVec.ofNat 64 (a.toNat / b.toNat)
/-- `rem` (R87): the sign of the dividend; by zero gives zero. -/
def rem64 (a b : Word) : Word := if b = 0 then 0 else BitVec.ofInt 64 (Int.tmod a.toInt b.toInt)
/-- `remu` (R87). -/
def remu64 (a b : Word) : Word := if b = 0 then 0 else BitVec.ofNat 64 (a.toNat % b.toNat)
/-- One or zero. -/
def ofBool64 (c : Bool) : Word := if c then 1 else 0

/-- An instruction of format RR (R106). -/
def opRR (a : Agent) (f : FmtRR) (op : Word → Word → Word) (d : Dev) : Out :=
  .done (d.wr a f.rd.toNat (op (d.rd a f.rs1.toNat) (d.rd a f.rs2.toNat)))
/-- An instruction of format RI with an operation on RS1. -/
def opRI (a : Agent) (f : FmtRI) (op : Word → Word) (d : Dev) : Out :=
  .done (d.wr a f.rd.toNat (op (d.rd a f.rs1.toNat)))
/-- A shift by an immediate: IMM13[12:6] must be zero (Table 3.10). -/
def opShiftI (a : Agent) (f : FmtRI) (code : Nat) (op : Word → Nat → Word) (d : Dev) : Out :=
  if f.imm.toNat < 64 then .done (d.wr a f.rd.toNat (op (d.rd a f.rs1.toNat) f.imm.toNat))
  else .trap cILLEGAL (encRI code f)
/-- A constant (R78). -/
def opUI (a : Agent) (f : FmtUI) (v : Dev → Word) (d : Dev) : Out := .done (d.wr a f.rd.toNat (v d))
/-- A branch (R91): its target is formed in 64 bits (R78); no register changes when it traps. -/
def opBR (a : Agent) (f : FmtBR) (c : Nat) (d : Dev) : Out :=
  if condHolds c (d.rd a f.rs1.toNat) (d.rd a f.rs2.toNat) then
    match targetTrap (d.targetBR a f) with
    | some t => .trap t (d.targetBR a f)
    | none => .goto d (d.targetBR a f).toNat
  else .done d
/-- The link value: the instruction address + 4. -/
def Dev.linkVal (d : Dev) (a : Agent) : Word := BitVec.ofNat 64 (d.pc a + 4)
/-- A jump to a target, linking into RD. -/
def opJump (a : Agent) (rd : Nat) (t : Word) (d : Dev) : Out :=
  match targetTrap t with
  | some c => .trap c t
  | none => .goto (d.wr a rd (d.linkVal a)) t.toNat

/-- `add`. -/
def execAdd (a : Agent) (f : FmtRR) (s : State) : Host.Outcome State Fault Refusal :=
  instr4 a s (opRR a f (fun x y => x + y))
/-- `sub`. -/
def execSub (a : Agent) (f : FmtRR) (s : State) : Host.Outcome State Fault Refusal :=
  instr4 a s (opRR a f (fun x y => x - y))
/-- `and`. -/
def execAnd (a : Agent) (f : FmtRR) (s : State) : Host.Outcome State Fault Refusal :=
  instr4 a s (opRR a f (fun x y => x &&& y))
/-- `or`. -/
def execOr (a : Agent) (f : FmtRR) (s : State) : Host.Outcome State Fault Refusal :=
  instr4 a s (opRR a f (fun x y => x ||| y))
/-- `xor`. -/
def execXor (a : Agent) (f : FmtRR) (s : State) : Host.Outcome State Fault Refusal :=
  instr4 a s (opRR a f (fun x y => x ^^^ y))
/-- `sll`. -/
def execSll (a : Agent) (f : FmtRR) (s : State) : Host.Outcome State Fault Refusal :=
  instr4 a s (opRR a f (fun x y => shl64 x (fld y 6 0)))
/-- `srl`. -/
def execSrl (a : Agent) (f : FmtRR) (s : State) : Host.Outcome State Fault Refusal :=
  instr4 a s (opRR a f (fun x y => shr64 x (fld y 6 0)))
/-- `sra`. -/
def execSra (a : Agent) (f : FmtRR) (s : State) : Host.Outcome State Fault Refusal :=
  instr4 a s (opRR a f (fun x y => sra64 x (fld y 6 0)))
/-- `slt`. -/
def execSlt (a : Agent) (f : FmtRR) (s : State) : Host.Outcome State Fault Refusal :=
  instr4 a s (opRR a f (fun x y => ofBool64 (decide (x.toInt < y.toInt))))
/-- `sltu`. -/
def execSltu (a : Agent) (f : FmtRR) (s : State) : Host.Outcome State Fault Refusal :=
  instr4 a s (opRR a f (fun x y => ofBool64 (decide (x.toNat < y.toNat))))
/-- `mul`. -/
def execMul (a : Agent) (f : FmtRR) (s : State) : Host.Outcome State Fault Refusal :=
  instr4 a s (opRR a f (fun x y => x * y))
/-- `mulh`. -/
def execMulh (a : Agent) (f : FmtRR) (s : State) : Host.Outcome State Fault Refusal :=
  instr4 a s (opRR a f (mulh64))
/-- `mulhu`. -/
def execMulhu (a : Agent) (f : FmtRR) (s : State) : Host.Outcome State Fault Refusal :=
  instr4 a s (opRR a f (mulhu64))
/-- `div`. -/
def execDiv (a : Agent) (f : FmtRR) (s : State) : Host.Outcome State Fault Refusal :=
  instr4 a s (opRR a f (div64))
/-- `divu`. -/
def execDivu (a : Agent) (f : FmtRR) (s : State) : Host.Outcome State Fault Refusal :=
  instr4 a s (opRR a f (divu64))
/-- `rem`. -/
def execRem (a : Agent) (f : FmtRR) (s : State) : Host.Outcome State Fault Refusal :=
  instr4 a s (opRR a f (rem64))
/-- `remu`. -/
def execRemu (a : Agent) (f : FmtRR) (s : State) : Host.Outcome State Fault Refusal :=
  instr4 a s (opRR a f (remu64))
/-- `min`. -/
def execMin (a : Agent) (f : FmtRR) (s : State) : Host.Outcome State Fault Refusal :=
  instr4 a s (opRR a f (fun x y => if x.toInt ≤ y.toInt then x else y))
/-- `max`. -/
def execMax (a : Agent) (f : FmtRR) (s : State) : Host.Outcome State Fault Refusal :=
  instr4 a s (opRR a f (fun x y => if x.toInt ≤ y.toInt then y else x))
/-- `minu`. -/
def execMinu (a : Agent) (f : FmtRR) (s : State) : Host.Outcome State Fault Refusal :=
  instr4 a s (opRR a f (fun x y => if x.toNat ≤ y.toNat then x else y))
/-- `maxu`. -/
def execMaxu (a : Agent) (f : FmtRR) (s : State) : Host.Outcome State Fault Refusal :=
  instr4 a s (opRR a f (fun x y => if x.toNat ≤ y.toNat then y else x))
/-- `addi`. -/
def execAddi (a : Agent) (f : FmtRI) (s : State) : Host.Outcome State Fault Refusal :=
  instr4 a s (opRI a f (fun x => x + sext f.imm))
/-- `andi`. -/
def execAndi (a : Agent) (f : FmtRI) (s : State) : Host.Outcome State Fault Refusal :=
  instr4 a s (opRI a f (fun x => x &&& zext f.imm))
/-- `ori`. -/
def execOri (a : Agent) (f : FmtRI) (s : State) : Host.Outcome State Fault Refusal :=
  instr4 a s (opRI a f (fun x => x ||| zext f.imm))
/-- `xori`. -/
def execXori (a : Agent) (f : FmtRI) (s : State) : Host.Outcome State Fault Refusal :=
  instr4 a s (opRI a f (fun x => x ^^^ zext f.imm))
/-- `slti`. -/
def execSlti (a : Agent) (f : FmtRI) (s : State) : Host.Outcome State Fault Refusal :=
  instr4 a s (opRI a f (fun x => ofBool64 (decide (x.toInt < (sext f.imm).toInt))))
/-- `sltiu`. -/
def execSltiu (a : Agent) (f : FmtRI) (s : State) : Host.Outcome State Fault Refusal :=
  instr4 a s (opRI a f (fun x => ofBool64 (decide (x.toNat < f.imm.toNat))))
/-- `slli`. -/
def execSlli (a : Agent) (f : FmtRI) (s : State) : Host.Outcome State Fault Refusal :=
  instr4 a s (opShiftI a f 0x10 shl64)
/-- `srli`. -/
def execSrli (a : Agent) (f : FmtRI) (s : State) : Host.Outcome State Fault Refusal :=
  instr4 a s (opShiftI a f 0x12 shr64)
/-- `srai`. -/
def execSrai (a : Agent) (f : FmtRI) (s : State) : Host.Outcome State Fault Refusal :=
  instr4 a s (opShiftI a f 0x14 sra64)
/-- `cst.m`. -/
def execCstM (a : Agent) (f : FmtUI) (s : State) : Host.Outcome State Fault Refusal :=
  instr4 a s (opUI a f (fun _ => sext f.imm <<< 13))
/-- `cst.h`. -/
def execCstH (a : Agent) (f : FmtUI) (s : State) : Host.Outcome State Fault Refusal :=
  instr4 a s (opUI a f (fun _ => sext f.imm <<< 32))
/-- `cst.pc`. -/
def execCstPc (a : Agent) (f : FmtUI) (s : State) : Host.Outcome State Fault Refusal :=
  instr4 a s (opUI a f (fun d => BitVec.ofNat 64 (d.pc a) + (sext f.imm <<< 13)))
/-- `beq`. -/
def execBeq (a : Agent) (f : FmtBR) (s : State) : Host.Outcome State Fault Refusal :=
  instr4 a s (opBR a f 0)
/-- `bne`. -/
def execBne (a : Agent) (f : FmtBR) (s : State) : Host.Outcome State Fault Refusal :=
  instr4 a s (opBR a f 1)
/-- `blt`. -/
def execBlt (a : Agent) (f : FmtBR) (s : State) : Host.Outcome State Fault Refusal :=
  instr4 a s (opBR a f 2)
/-- `bge`. -/
def execBge (a : Agent) (f : FmtBR) (s : State) : Host.Outcome State Fault Refusal :=
  instr4 a s (opBR a f 3)
/-- `bltu`. -/
def execBltu (a : Agent) (f : FmtBR) (s : State) : Host.Outcome State Fault Refusal :=
  instr4 a s (opBR a f 4)
/-- `bgeu`. -/
def execBgeu (a : Agent) (f : FmtBR) (s : State) : Host.Outcome State Fault Refusal :=
  instr4 a s (opBR a f 5)
/-- `jal`. -/
def execJal (a : Agent) (f : FmtJL) (s : State) : Host.Outcome State Fault Refusal :=
  instr4 a s fun d => opJump a f.rd.toNat (d.targetJL a f) d
/-- `jalr`: RS1 is read before RD is written. -/
def execJalr (a : Agent) (f : FmtRI) (s : State) : Host.Outcome State Fault Refusal :=
  instr4 a s fun d => opJump a f.rd.toNat (d.rd a f.rs1.toNat + sext f.imm) d

end Sys2Proof.Machine
end

