-- ==== Sys2Proof/Machine/ScalarMem.lean ====
section
/-! DEFINITION. Scalar loads, stores, reservations and atomics (R78 to R80, R86, R89, R90, R106, R251 to R253, R264, R272,
R274, R275). On a V-core their register fields name uniform registers (R70). -/
namespace Sys2Proof.Machine

/-! ## Loads and stores -/

/-- Whether an address lies in the device register space. -/
def inDevSpace (addr : Nat) : Bool := decide (devBase ≤ addr) && decide (addr < devBase + devSize)
/-- The one part of a scalar load. -/
def scalarPiece (rd addr n : Nat) (signed : Bool) : Piece :=
  { addr := addr, n := n, reg := rd, lane := 32, sh := 0, w := 64, signed := signed, trapAddr := addr }
/-- A completed load from Local may have met a corrected symbol (R388). -/
def Out.afterLoad (o : Out) (n addr : Nat) : Out :=
  match o with
  | .done d => .done (if addr < localSize then d.upset (.loc n) (addr / 8) else d)
  | o => o
/-- A load of `n` bytes into RD: its trap checks, then the read. `marked` is any access that is not a plain MB load of 4 or
8 bytes; such a load of the device register space is performed at once (R80, R272). -/
def opLoad (a : Agent) (rd addr n : Nat) (signed : Bool) (k : LoadKind) (marked : Bool) (d : Dev) : Out :=
  match d.accessTrap a (if k.ro then .loadRo else .load) marked false addr n with
  | some c => .trap c (BitVec.ofNat 64 addr)
  | none =>
    if inDevSpace addr then
      let (v, d) := d.devRead (d.keeperFunc a.cluster) (addr - devBase) n
      .done (d.wr a rd ((scalarPiece rd addr n signed).ext v))
    else (d.load a k [scalarPiece rd addr n signed]).afterLoad a.cluster addr
/-- A store of the low `n` bytes of a register: it commits to the core's store queue (R259), or reaches its register block
at once (R272). -/
def opStore (a : Agent) (rs2 addr n : Nat) (relSy marked : Bool) (d : Dev) : Out :=
  match d.accessTrap a .store marked false addr n with
  | some c => .trap c (BitVec.ofNat 64 addr)
  | none =>
    let v := lowBytes n (d.rd a rs2)
    if inDevSpace addr then .done (d.devWrite (d.keeperFunc a.cluster) (addr - devBase) n v)
    else match d.commit a [{ addr := addr, n := n, val := v }] relSy with
      | some d => .done d
      | none => .stall

/-- `ld.<size>` (R89). `parity` is a parity block of the core found with more than one bad bit at this instruction. -/
def execLd (a : Agent) (f : FmtMB) (parity : Bool) (s : State) : Host.Outcome State Fault Refusal :=
  run (Agent.ok a) s fun d =>
    if parity then (if d.ready a then d.internalError a else d)
    else d.issue a 4 fun d =>
      let n := sizeBytes f.size.toNat
      if f.size = 7 then .trap cILLEGAL (encMB 0x1A f)
      else opLoad a f.rd.toNat (d.addrMB a f) n (decide (f.size.toNat < 4)) { ro := false, plain := true, acqSy := false, len := 4 }
        (decide (n < 4)) d
/-- `st.<size>`: the field of RD names RS2. -/
def execSt (a : Agent) (f : FmtMB) (s : State) : Host.Outcome State Fault Refusal :=
  instr4 a s fun d =>
    let n := sizeBytes f.size.toNat
    if f.size.toNat ≥ 4 then .trap cILLEGAL (encMB 0x1C f)
    else opStore a f.rd.toNat (d.addrMB a f) n false (decide (n < 4)) d
/-- `ld.ro.<size>`. -/
def execLdRo (a : Agent) (f : FmtMB) (s : State) : Host.Outcome State Fault Refusal :=
  instr4 a s fun d =>
    if f.size = 7 then .trap cILLEGAL (encMB 0x1E f)
    else opLoad a f.rd.toNat (d.addrMB a f) (sizeBytes f.size.toNat) (decide (f.size.toNat < 4))
      { ro := true, plain := false, acqSy := false, len := 4 } true d
/-- `ld` of format MA, `ld.acq` with MARK 01. -/
def execLdAcq (a : Agent) (f : FmtMA) (s : State) : Host.Outcome State Fault Refusal :=
  instr4 a s fun d =>
    if marksOk true false f.mark f.scope then
      opLoad a f.rd.toNat (d.addrMA a f) (szBytes f.sz) true
        { ro := false, plain := decide (f.mark = 0), acqSy := decide (f.mark = 1 ∧ f.scope = 2), len := 4 } true d
    else .trap cILLEGAL (encMA 0x20 0 f)
/-- `st` of format MA, `st.rel` with MARK 10. -/
def execStRel (a : Agent) (f : FmtMA) (s : State) : Host.Outcome State Fault Refusal :=
  instr4 a s fun d =>
    if marksOk false true f.mark f.scope then
      opStore a f.rs2.toNat (d.addrMA a f) (szBytes f.sz) (decide (f.mark = 2 ∧ f.scope = 2)) true d
    else .trap cILLEGAL (encMA 0x20 1 f)

/-! ## Reservations -/

/-- The lines of a reservation's granule in the Commons (R251). -/
def Dev.granuleLines (d : Dev) (line : Nat) : List Nat :=
  let k := 2 ^ (d.part.granLog - 7)
  (List.range k).map fun i => line / k * k + i
/-- A home takes its line back from an owner, which keeps it in S (R252). Data that come back changed end the reservations that it
records for the line: the owner has stored into it since (R253). -/
def Dev.disown (d : Dev) (line : Nat) : Dev :=
  match d.entry line with
  | some e =>
    if e.st = .exc ∨ e.st = .own then
      let d := match d.dirtyCopy line with
        | some x => (d.killResv line).putLine .com (lineAddr line) x
        | none => d
      let d := d.onRepLine e.owner line fun x => { x with st := .s }
      d.setEntry line (d.addSharer { e with st := .shr, owner := 0 } e.owner)
    else d
  | none => d
/-- A home records a reservation of a line, in its slice's table of 64 entries (R252). -/
def Dev.armHome (d : Dev) (a : Agent) (line : Nat) : Dev :=
  let slice := d.home (lineAddr line)
  if (d.coh.resv.filter fun r => decide (d.home (lineAddr r.line) = slice)).length < 64 then
    d.onCoh fun c => { c with resv := c.resv ++ [{ a := a, line := line }] }
  else d
/-- The access of a reservation pair as a request, for the stores that it must follow (R262, R263). -/
def resvAtm (a : Agent) (addr n : Nat) : Atm := { by_ := a, fn := .swap, addr := addr, n := n, lanes := [], exact := false }
/-- `ld.resv` in the Commons, at the homes of its granule (R252). -/
def Dev.loadResvCom (d : Dev) (a : Agent) (rd addr n : Nat) : Out :=
  let line := lineOf addr
  let ls := d.granuleLines line
  match (match d.healHold (.agent a) line with
    | some d => some d
    | none => d.heldLines ls) with
  | some d => .wait d
  | none =>
      let d := d.healServed (.agent a) line
      let d := ls.foldl (fun (d : Dev) l => (d.disown l).armHome a l) (d.endResv a)
      match d.readW .com (addr / 8) 0 with
      | (none, d) => .trapOn (d.endResv a) cLOAD (BitVec.ofNat 64 addr)
      | (some v, d) =>
        .done (((d.freshen a none).setResv a (some { addr := addr, n := n, commons := true })).wr a rd
          (extendSz n (lowBytes n (v >>> (8 * (addr % 8))))))
/-- `ld.resv` in Local. -/
def Dev.loadResvLocal (d : Dev) (a : Agent) (rd addr n : Nat) : Out :=
  match d.readW (.loc a.cluster) (addr / 8) 0 with
  | (none, d) => .trapOn d cLOAD (BitVec.ofNat 64 addr)
  | (some v, d) =>
    .done ((((d.endResv a).freshen a none).setResv a (some { addr := addr, n := n, commons := false })).wr a rd
      (extendSz n (lowBytes n (v >>> (8 * (addr % 8))))))
/-- `ld.resv` (R274). -/
def execLdResv (a : Agent) (f : FmtMA) (s : State) : Host.Outcome State Fault Refusal :=
  instr4 a s fun d =>
    let addr := d.addrMA a f
    let n := szBytes f.sz
    if !(marksOk true false f.mark f.scope) then .trap cILLEGAL (encMA 0x20 2 f)
    else match d.accessTrap a .load true false addr n with
      | some c => .trap c (BitVec.ofNat 64 addr)
      | none =>
        if d.atomWaits a 0 0 [resvAtm a addr n] || (decide (addr ≥ localSize) && !(d.missFree a.cluster 1 (!a.isGroup))) then .stall
        else if addr < localSize then d.loadResvLocal a f.rd.toNat addr n
        else d.loadResvCom a f.rd.toNat addr n

/-- Whether the reservation of an agent lets a `st.cond` of `n` bytes at an address succeed (R253, R274): it is held on the
granule, of the same size, and recorded at the word's own home. -/
def Dev.resvHolds (d : Dev) (a : Agent) (addr n : Nat) : Bool :=
  match d.resvOf a with
  | none => false
  | some r =>
    let g := d.resvGranule r
    decide (r.n = n) && decide (g.1 ≤ addr) && decide (addr < g.1 + g.2) &&
      (!r.commons || d.coh.resv.any fun h => decide (h.a = a) && decide (h.line = lineOf addr))
/-- A `st.cond` failed for no reason visible to software, or not (R276). -/
def Dev.setStFail (d : Dev) (a : Agent) (b : Bool) : Dev :=
  match a with
  | .sCore n => d.onS n fun s => { s with stFail := b }
  | .group _ _ _ => d.onGrp a fun g => { g with stFail := b }
/-- Whether the agent's latest `st.cond` failed so. -/
def Dev.stFailed (d : Dev) (a : Agent) : Bool :=
  match a with
  | .sCore n => (d.cl n).s.stFail
  | .group _ _ _ => match d.grp a with
    | some g => g.stFail
    | none => false
/-- The store of a successful `st.cond`: it writes memory at once and every other reservation on the granule ends. -/
def Dev.condStore (d : Dev) (a : Agent) (addr n : Nat) (v : Word) : Dev :=
  let r : ByteRun := { addr := addr, n := n, val := v }
  if addr < localSize then (d.endResv a).localStore a.cluster (some a) r else (d.endResv a).syncStore r
/-- `st.cond` (R274). It may fail for no reason visible to software (R275): which, is a free choice, but it does not fail so
twice in a row (R276). In the Commons a line that a die has stored to since fails it (R253). -/
def execStCond (a : Agent) (f : FmtMA) (s : State) : Host.Outcome State Fault Refusal :=
  instr4 a s fun d =>
    let addr := d.addrMA a f
    let n := szBytes f.sz
    if !(marksOk false true f.mark f.scope) then .trap cILLEGAL (encMA 0x20 3 f)
    else match d.accessTrap a .store true false addr n with
      | some c => .trap c (BitVec.ofNat 64 addr)
      | none =>
        let com := decide (addr ≥ localSize)
        if d.atomWaits a f.mark.toNat f.scope.toNat [resvAtm a addr n] || (com && !(d.missFree a.cluster 1 (!a.isGroup))) then .stall
        else if !(d.resvHolds a addr n) || (com && (d.dirtyCopy (lineOf addr)).isSome) then .done ((d.endResv a).wr a f.rd.toNat 1)
        else match (if addr < localSize then none else match d.healHold (.agent a) (lineOf addr) with
          | some d => some d
          | none => d.heldLines [lineOf addr]) with
          | some d => .wait d
          | none =>
            let d := if addr < localSize then d else d.healServed (.agent a) (lineOf addr)
            let (k, d) := if d.stFailed a then (0, d) else d.choose 2
            let d := d.setStFail a (decide (k = 1))
            if k = 1 then .done ((d.endResv a).wr a f.rd.toNat 1)
            else .done ((d.condStore a addr n (lowBytes n (d.rd a f.rs2.toNat))).wr a f.rd.toNat 0)

/-! ## Atomics -/

/-- A scalar atomic (R90, Table 3.11): its operand is RS2, and RD is the compare value of `amo.cas`. -/
def opAmo (a : Agent) (f : FmtMA) (op sub : Nat) (fn : AmoFn) (s : State) : Host.Outcome State Fault Refusal :=
  instr4 a s fun d =>
    let addr := d.addrMA a f
    let n := szBytes f.sz
    if !(marksOk true true f.mark f.scope) then .trap cILLEGAL (encMA op sub f)
    else match d.accessTrap a .atomic true false addr n with
      | some c => .trap c (BitVec.ofNat 64 addr)
      | none =>
        d.atom a f.rd.toNat n 4 f.mark.toNat f.scope.toNat
          [{ by_ := a, fn := fn, addr := addr, n := n, lanes := [(32, d.rd a f.rs2.toNat, d.rd a f.rd.toNat)], exact := false }]
/-- `amo.add`. -/
def execAmoAdd (a : Agent) (f : FmtMA) (s : State) : Host.Outcome State Fault Refusal := opAmo a f 0x22 0 .add s
/-- `amo.and`. -/
def execAmoAnd (a : Agent) (f : FmtMA) (s : State) : Host.Outcome State Fault Refusal := opAmo a f 0x22 1 .and s
/-- `amo.or`. -/
def execAmoOr (a : Agent) (f : FmtMA) (s : State) : Host.Outcome State Fault Refusal := opAmo a f 0x22 2 .or s
/-- `amo.xor`. -/
def execAmoXor (a : Agent) (f : FmtMA) (s : State) : Host.Outcome State Fault Refusal := opAmo a f 0x22 3 .xor s
/-- `amo.min`. -/
def execAmoMin (a : Agent) (f : FmtMA) (s : State) : Host.Outcome State Fault Refusal := opAmo a f 0x24 0 .min s
/-- `amo.max`. -/
def execAmoMax (a : Agent) (f : FmtMA) (s : State) : Host.Outcome State Fault Refusal := opAmo a f 0x24 1 .max s
/-- `amo.minu`. -/
def execAmoMinu (a : Agent) (f : FmtMA) (s : State) : Host.Outcome State Fault Refusal := opAmo a f 0x24 2 .minu s
/-- `amo.maxu`. -/
def execAmoMaxu (a : Agent) (f : FmtMA) (s : State) : Host.Outcome State Fault Refusal := opAmo a f 0x24 3 .maxu s
/-- `amo.swap`. -/
def execAmoSwap (a : Agent) (f : FmtMA) (s : State) : Host.Outcome State Fault Refusal := opAmo a f 0x26 0 .swap s
/-- `amo.cas`. -/
def execAmoCas (a : Agent) (f : FmtMA) (s : State) : Host.Outcome State Fault Refusal := opAmo a f 0x26 1 .cas s
/-- `amo.fadd`. -/
def execAmoFadd (a : Agent) (f : FmtMA) (s : State) : Host.Outcome State Fault Refusal := opAmo a f 0x26 2 .fadd s

end Sys2Proof.Machine
end

