-- ==== Sys2Proof/Machine/Dispatch.lean ====
section
/-! DEFINITION. One arm for each constructor of Instr: a direct call of its meaning. -/
namespace Sys2Proof.Machine

/-- The effect of a command on everything but the queue. -/
def exec (i : Instr) (s : State) : Host.Outcome State Fault Refusal :=
  match i with
  | .add a f => Sys2Proof.Machine.execAdd a f s
  | .sub a f => Sys2Proof.Machine.execSub a f s
  | .and a f => Sys2Proof.Machine.execAnd a f s
  | .or a f => Sys2Proof.Machine.execOr a f s
  | .xor a f => Sys2Proof.Machine.execXor a f s
  | .sll a f => Sys2Proof.Machine.execSll a f s
  | .srl a f => Sys2Proof.Machine.execSrl a f s
  | .sra a f => Sys2Proof.Machine.execSra a f s
  | .slt a f => Sys2Proof.Machine.execSlt a f s
  | .sltu a f => Sys2Proof.Machine.execSltu a f s
  | .mul a f => Sys2Proof.Machine.execMul a f s
  | .mulh a f => Sys2Proof.Machine.execMulh a f s
  | .mulhu a f => Sys2Proof.Machine.execMulhu a f s
  | .div a f => Sys2Proof.Machine.execDiv a f s
  | .divu a f => Sys2Proof.Machine.execDivu a f s
  | .rem a f => Sys2Proof.Machine.execRem a f s
  | .remu a f => Sys2Proof.Machine.execRemu a f s
  | .min a f => Sys2Proof.Machine.execMin a f s
  | .max a f => Sys2Proof.Machine.execMax a f s
  | .minu a f => Sys2Proof.Machine.execMinu a f s
  | .maxu a f => Sys2Proof.Machine.execMaxu a f s
  | .addi a f => Sys2Proof.Machine.execAddi a f s
  | .andi a f => Sys2Proof.Machine.execAndi a f s
  | .ori a f => Sys2Proof.Machine.execOri a f s
  | .xori a f => Sys2Proof.Machine.execXori a f s
  | .slti a f => Sys2Proof.Machine.execSlti a f s
  | .sltiu a f => Sys2Proof.Machine.execSltiu a f s
  | .slli a f => Sys2Proof.Machine.execSlli a f s
  | .srli a f => Sys2Proof.Machine.execSrli a f s
  | .srai a f => Sys2Proof.Machine.execSrai a f s
  | .cstM a f => Sys2Proof.Machine.execCstM a f s
  | .cstH a f => Sys2Proof.Machine.execCstH a f s
  | .cstPc a f => Sys2Proof.Machine.execCstPc a f s
  | .ld a f parity => Sys2Proof.Machine.execLd a f parity s
  | .st a f => Sys2Proof.Machine.execSt a f s
  | .ldRo a f => Sys2Proof.Machine.execLdRo a f s
  | .ldAcq a f => Sys2Proof.Machine.execLdAcq a f s
  | .stRel a f => Sys2Proof.Machine.execStRel a f s
  | .ldResv a f => Sys2Proof.Machine.execLdResv a f s
  | .stCond a f => Sys2Proof.Machine.execStCond a f s
  | .amoAdd a f => Sys2Proof.Machine.execAmoAdd a f s
  | .amoAnd a f => Sys2Proof.Machine.execAmoAnd a f s
  | .amoOr a f => Sys2Proof.Machine.execAmoOr a f s
  | .amoXor a f => Sys2Proof.Machine.execAmoXor a f s
  | .amoMin a f => Sys2Proof.Machine.execAmoMin a f s
  | .amoMax a f => Sys2Proof.Machine.execAmoMax a f s
  | .amoMinu a f => Sys2Proof.Machine.execAmoMinu a f s
  | .amoMaxu a f => Sys2Proof.Machine.execAmoMaxu a f s
  | .amoSwap a f => Sys2Proof.Machine.execAmoSwap a f s
  | .amoCas a f => Sys2Proof.Machine.execAmoCas a f s
  | .amoFadd a f => Sys2Proof.Machine.execAmoFadd a f s
  | .beq a f => Sys2Proof.Machine.execBeq a f s
  | .bne a f => Sys2Proof.Machine.execBne a f s
  | .blt a f => Sys2Proof.Machine.execBlt a f s
  | .bge a f => Sys2Proof.Machine.execBge a f s
  | .bltu a f => Sys2Proof.Machine.execBltu a f s
  | .bgeu a f => Sys2Proof.Machine.execBgeu a f s
  | .jal a f => Sys2Proof.Machine.execJal a f s
  | .jalr a f => Sys2Proof.Machine.execJalr a f s
  | .csrr a f => Sys2Proof.Machine.execCsrr a f s
  | .csrw a f => Sys2Proof.Machine.execCsrw a f s
  | .csrs a f => Sys2Proof.Machine.execCsrs a f s
  | .csrc a f => Sys2Proof.Machine.execCsrc a f s
  | .clearPorterChannel a f => Sys2Proof.Machine.execClearPorterChannel a f s
  | .clearGatherChannel a f => Sys2Proof.Machine.execClearGatherChannel a f s
  | .startCollective a f => Sys2Proof.Machine.execStartCollective a f s
  | .ecallUnassignedService a f => Sys2Proof.Machine.execEcallUnassignedService a f s
  | .eret a f => Sys2Proof.Machine.execEret a f s
  | .ebreak a f parity => Sys2Proof.Machine.execEbreak a f parity s
  | .fenceCo a f => Sys2Proof.Machine.execFenceCo a f s
  | .fenceCl a f => Sys2Proof.Machine.execFenceCl a f s
  | .fenceSy a f => Sys2Proof.Machine.execFenceSy a f s
  | .fenceComplete a => Sys2Proof.Machine.execFenceComplete a s
  | .fenceI a f => Sys2Proof.Machine.execFenceI a f s
  | .wfc a f => Sys2Proof.Machine.execWfc a f s
  | .cmdDone a f => Sys2Proof.Machine.execCmdDone a f s
  | .cpIssue a f => Sys2Proof.Machine.execCpIssue a f s
  | .gtIssue a f => Sys2Proof.Machine.execGtIssue a f s
  | .grpStart a f => Sys2Proof.Machine.execGrpStart a f s
  | .mxIssue a f parity => Sys2Proof.Machine.execMxIssue a f parity s
  | .tokWait a f => Sys2Proof.Machine.execTokWait a f s
  | .tokTest a f => Sys2Proof.Machine.execTokTest a f s
  | .tokClr a f => Sys2Proof.Machine.execTokClr a f s
  | .vAdd a f => Sys2Proof.Machine.execVAdd a f s
  | .vSub a f => Sys2Proof.Machine.execVSub a f s
  | .vMul a f => Sys2Proof.Machine.execVMul a f s
  | .vAnd a f => Sys2Proof.Machine.execVAnd a f s
  | .vOr a f => Sys2Proof.Machine.execVOr a f s
  | .vXor a f => Sys2Proof.Machine.execVXor a f s
  | .vShl a f => Sys2Proof.Machine.execVShl a f s
  | .vShr a f => Sys2Proof.Machine.execVShr a f s
  | .vSra a f => Sys2Proof.Machine.execVSra a f s
  | .vMin a f => Sys2Proof.Machine.execVMin a f s
  | .vMax a f => Sys2Proof.Machine.execVMax a f s
  | .vSetp a f => Sys2Proof.Machine.execVSetp a f s
  | .vSel a f => Sys2Proof.Machine.execVSel a f s
  | .vMov a f => Sys2Proof.Machine.execVMov a f s
  | .vFadd a f => Sys2Proof.Machine.execVFadd a f s
  | .vFmul a f => Sys2Proof.Machine.execVFmul a f s
  | .vFma a f => Sys2Proof.Machine.execVFma a f s
  | .vFmin a f => Sys2Proof.Machine.execVFmin a f s
  | .vFmax a f => Sys2Proof.Machine.execVFmax a f s
  | .vCvt a f => Sys2Proof.Machine.execVCvt a f s
  | .vRcp a f => Sys2Proof.Machine.execVRcp a f s
  | .vRsqrt a f => Sys2Proof.Machine.execVRsqrt a f s
  | .vExp2 a f => Sys2Proof.Machine.execVExp2 a f s
  | .vLog2 a f => Sys2Proof.Machine.execVLog2 a f s
  | .vFsetp a f => Sys2Proof.Machine.execVFsetp a f s
  | .xchPick a f => Sys2Proof.Machine.execXchPick a f s
  | .xchLo a f => Sys2Proof.Machine.execXchLo a f s
  | .xchHi a f => Sys2Proof.Machine.execXchHi a f s
  | .xchSwz a f => Sys2Proof.Machine.execXchSwz a f s
  | .pollAny a f => Sys2Proof.Machine.execPollAny a f s
  | .pollAll a f => Sys2Proof.Machine.execPollAll a f s
  | .pollMask a f => Sys2Proof.Machine.execPollMask a f s
  | .fragLd a f => Sys2Proof.Machine.execFragLd a f s
  | .fragSt a f => Sys2Proof.Machine.execFragSt a f s
  | .fragMma a f => Sys2Proof.Machine.execFragMma a f s
  | .fragFill a f => Sys2Proof.Machine.execFragFill a f s
  | .vLd a f => Sys2Proof.Machine.execVLd a f s
  | .vSt a f => Sys2Proof.Machine.execVSt a f s
  | .vLdRo a f => Sys2Proof.Machine.execVLdRo a f s
  | .vAtomAdd a f => Sys2Proof.Machine.execVAtomAdd a f s
  | .vAtomAnd a f => Sys2Proof.Machine.execVAtomAnd a f s
  | .vAtomOr a f => Sys2Proof.Machine.execVAtomOr a f s
  | .vAtomXor a f => Sys2Proof.Machine.execVAtomXor a f s
  | .vAtomMin a f => Sys2Proof.Machine.execVAtomMin a f s
  | .vAtomMax a f => Sys2Proof.Machine.execVAtomMax a f s
  | .vAtomMinu a f => Sys2Proof.Machine.execVAtomMinu a f s
  | .vAtomMaxu a f => Sys2Proof.Machine.execVAtomMaxu a f s
  | .vAtomSwap a f => Sys2Proof.Machine.execVAtomSwap a f s
  | .vAtomCas a f => Sys2Proof.Machine.execVAtomCas a f s
  | .vAtomFadd a f => Sys2Proof.Machine.execVAtomFadd a f s
  | .vBra a f => Sys2Proof.Machine.execVBra a f s
  | .vJoin a f => Sys2Proof.Machine.execVJoin a f s
  | .vExit a f => Sys2Proof.Machine.execVExit a f s
  | .groupLaunch n => Sys2Proof.Machine.execGroupLaunch n s
  | .mma n => Sys2Proof.Machine.execMma n s
  | .mmaZ n => Sys2Proof.Machine.execMmaZ n s
  | .xpFin n => Sys2Proof.Machine.execXpFin n s
  | .xpSum n => Sys2Proof.Machine.execXpSum n s
  | .waybillWaitResolved n => Sys2Proof.Machine.execWaybillWaitResolved n s
  | .waybillComplete n parity => Sys2Proof.Machine.execWaybillComplete n parity s
  | .waybillQueueRoom n => Sys2Proof.Machine.execWaybillQueueRoom n s
  | .tokenArbitration n claims => Sys2Proof.Machine.execTokenArbitration n claims s
  | .tokWaitRelease a => Sys2Proof.Machine.execTokWaitRelease a s
  | .missReturn n line => Sys2Proof.Machine.execMissReturn n line s
  | .storeQueueDrain n core => Sys2Proof.Machine.execStoreQueueDrain n core s
  | .storeBufferPerform n line => Sys2Proof.Machine.execStoreBufferPerform n line s
  | .streamTrackerTimeout n k => Sys2Proof.Machine.execStreamTrackerTimeout n k s
  | .prefetchDrop die line => Sys2Proof.Machine.execPrefetchDrop die line s
  | .rds m => Sys2Proof.Machine.execRds m s
  | .rdx m => Sys2Proof.Machine.execRdx m s
  | .upg m => Sys2Proof.Machine.execUpg m s
  | .rdu m => Sys2Proof.Machine.execRdu m s
  | .wrt m => Sys2Proof.Machine.execWrt m s
  | .atm m => Sys2Proof.Machine.execAtm m s
  | .pute m => Sys2Proof.Machine.execPute m s
  | .putm m => Sys2Proof.Machine.execPutm m s
  | .puto m => Sys2Proof.Machine.execPuto m s
  | .fwds m => Sys2Proof.Machine.execFwds m s
  | .fwdx m => Sys2Proof.Machine.execFwdx m s
  | .fwdu m => Sys2Proof.Machine.execFwdu m s
  | .recall m => Sys2Proof.Machine.execRecall m s
  | .inv m => Sys2Proof.Machine.execInv m s
  | .invack m => Sys2Proof.Machine.execInvack m s
  | .fwdack m => Sys2Proof.Machine.execFwdack m s
  | .data m => Sys2Proof.Machine.execData m s
  | .recalldata m => Sys2Proof.Machine.execRecalldata m s
  | .wbpending m => Sys2Proof.Machine.execWbpending m s
  | .retry m => Sys2Proof.Machine.execRetry m s
  | .retryResend m => Sys2Proof.Machine.execRetryResend m s
  | .cohWake m => Sys2Proof.Machine.execCohWake m s
  | .wback m => Sys2Proof.Machine.execWback m s
  | .comp m => Sys2Proof.Machine.execComp m s
  | .killNotice m => Sys2Proof.Machine.execKillNotice m s
  | .regulatorWindowEnd p die tally => Sys2Proof.Machine.execRegulatorWindowEnd p die tally s
  | .copy ch => Sys2Proof.Machine.execCopy ch s
  | .fill ch => Sys2Proof.Machine.execFill ch s
  | .writeImm ch => Sys2Proof.Machine.execWriteImm ch s
  | .reduce ch => Sys2Proof.Machine.execReduce ch s
  | .fence ch => Sys2Proof.Machine.execFence ch s
  | .engineCommandDequeue n k => Sys2Proof.Machine.execEngineCommandDequeue n k s
  | .porterCommandComplete ch k => Sys2Proof.Machine.execPorterCommandComplete ch k s
  | .clear eng ch => Sys2Proof.Machine.execClear eng ch s
  | .engineAbandon eng ch k => Sys2Proof.Machine.execEngineAbandon eng ch k s
  | .gather ch => Sys2Proof.Machine.execGather ch s
  | .rowFetchReturn ch k place row failed => Sys2Proof.Machine.execRowFetchReturn ch k place row failed s
  | .gatherComplete ch k => Sys2Proof.Machine.execGatherComplete ch k s
  | .sourceHealWaitEnd eng ch k healed => Sys2Proof.Machine.execSourceHealWaitEnd eng ch k healed s
  | .dataFrame l f => Sys2Proof.Machine.execDataFrame l f s
  | .idleFrame l f => Sys2Proof.Machine.execIdleFrame l f s
  | .nakFrame l f => Sys2Proof.Machine.execNakFrame l f s
  | .trainingFrame l t => Sys2Proof.Machine.execTrainingFrame l t s
  | .wr l m => Sys2Proof.Machine.execWr l m s
  | .linkAtm l m => Sys2Proof.Machine.execLinkAtm l m s
  | .rd l m => Sys2Proof.Machine.execRd l m s
  | .milestone l m => Sys2Proof.Machine.execMilestone l m s
  | .close l m => Sys2Proof.Machine.execClose l m s
  | .abort l m => Sys2Proof.Machine.execAbort l m s
  | .rdData l m => Sys2Proof.Machine.execRdData l m s
  | .wack l m => Sys2Proof.Machine.execWack l m s
  | .nakUndeliv l m => Sys2Proof.Machine.execNakUndeliv l m s
  | .nakBusy l m => Sys2Proof.Machine.execNakBusy l m s
  | .nakBusyResend chan dst req => Sys2Proof.Machine.execNakBusyResend chan dst req s
  | .attemptTimeout chan dst req => Sys2Proof.Machine.execAttemptTimeout chan dst req s
  | .laneFailed l lane => Sys2Proof.Machine.execLaneFailed l lane s
  | .frameLockLost l => Sys2Proof.Machine.execFrameLockLost l s
  | .retrainComplete l working => Sys2Proof.Machine.execRetrainComplete l working s
  | .trainingRetry l => Sys2Proof.Machine.execTrainingRetry l s
  | .peerLost dev => Sys2Proof.Machine.execPeerLost dev s
  | .collReady g member r => Sys2Proof.Machine.execCollReady g member r s
  | .collGo g seq => Sys2Proof.Machine.execCollGo g seq s
  | .allReduce g inputs => Sys2Proof.Machine.execAllReduce g inputs s
  | .reduceScatter g inputs => Sys2Proof.Machine.execReduceScatter g inputs s
  | .allGather g inputs => Sys2Proof.Machine.execAllGather g inputs s
  | .broadcast g inputs => Sys2Proof.Machine.execBroadcast g inputs s
  | .barrier g => Sys2Proof.Machine.execBarrier g s
  | .collectiveComplete g status => Sys2Proof.Machine.execCollectiveComplete g status s
  | .run w c => Sys2Proof.Machine.execRun w c s
  | .nop w c => Sys2Proof.Machine.execNop w c s
  | .fnQuiesce w c => Sys2Proof.Machine.execFnQuiesce w c s
  | .fnCopy w c => Sys2Proof.Machine.execFnCopy w c s
  | .fnExport w c => Sys2Proof.Machine.execFnExport w c s
  | .fnImport w c => Sys2Proof.Machine.execFnImport w c s
  | .fnResume w c => Sys2Proof.Machine.execFnResume w c s
  | .commandPlacement func win seq => Sys2Proof.Machine.execCommandPlacement func win seq s
  | .commandDelivery n => Sys2Proof.Machine.execCommandDelivery n s
  | .completionRecord func win => Sys2Proof.Machine.execCompletionRecord func win s
  | .msixMessage func vec => Sys2Proof.Machine.execMsixMessage func vec s
  | .eventWrite func => Sys2Proof.Machine.execEventWrite func s
  | .hostMemRead port addr size => Sys2Proof.Machine.execHostMemRead port addr size s
  | .hostMemWrite port addr size data => Sys2Proof.Machine.execHostMemWrite port addr size data s
  | .bisnpinvResponse port line dirty => Sys2Proof.Machine.execBisnpinvResponse port line dirty s
  | .hostGo k => Sys2Proof.Machine.execHostGo k s
  | .portDown p => Sys2Proof.Machine.execPortDown p s
  | .perstAssert p => Sys2Proof.Machine.execPerstAssert p s
  | .aliasRelease k => Sys2Proof.Machine.execAliasRelease k s
  | .sliceExpiry n => Sys2Proof.Machine.execSliceExpiry n s
  | .timeoutCheck n => Sys2Proof.Machine.execTimeoutCheck n s
  | .clearErr c => Sys2Proof.Machine.execClearErr c s
  | .rtReq c => Sys2Proof.Machine.execRtReq c s
  | .rtDrop c => Sys2Proof.Machine.execRtDrop c s
  | .schMoveGo v => Sys2Proof.Machine.execSchMoveGo v s
  | .moveComplete => Sys2Proof.Machine.execMoveComplete s
  | .schCtxCfgWrite c v => Sys2Proof.Machine.execSchCtxCfgWrite c v s
  | .schCtxCluWrite c w v => Sys2Proof.Machine.execSchCtxCluWrite c w v s
  | .clusterProbe n answered => Sys2Proof.Machine.execClusterProbe n answered s
  | .spareTakeover n banksDead => Sys2Proof.Machine.execSpareTakeover n banksDead s
  | .spareTakeoverComplete n => Sys2Proof.Machine.execSpareTakeoverComplete n s
  | .pwrStepCtlWrite v => Sys2Proof.Machine.execPwrStepCtlWrite v s
  | .stepChangeComplete => Sys2Proof.Machine.execStepChangeComplete s
  | .sustainedEvaluation meanW msW fits => Sys2Proof.Machine.execSustainedEvaluation meanW msW fits s
  | .peakMeasurement inputW => Sys2Proof.Machine.execPeakMeasurement inputW s
  | .junctionSample die sensor t => Sys2Proof.Machine.execJunctionSample die sensor t s
  | .thermalTrip => Sys2Proof.Machine.execThermalTrip s
  | .paceWindow met => Sys2Proof.Machine.execPaceWindow met s
  | .alert src => Sys2Proof.Machine.execAlert src s
  | .alertRelease => Sys2Proof.Machine.execAlertRelease s
  | .inputBelowWarning mv => Sys2Proof.Machine.execInputBelowWarning mv s
  | .inputRecovered mv => Sys2Proof.Machine.execInputRecovered mv s
  | .recoveryIntervalEnd => Sys2Proof.Machine.execRecoveryIntervalEnd s
  | .inputBelowReset mv => Sys2Proof.Machine.execInputBelowReset mv s
  | .railMonitorLow die mv => Sys2Proof.Machine.execRailMonitorLow die mv s
  | .warmReset => Sys2Proof.Machine.execWarmReset s
  | .rearm => Sys2Proof.Machine.execRearm s
  | .pwrLimitCfgWrite v => Sys2Proof.Machine.execPwrLimitCfgWrite v s
  | .halt => Sys2Proof.Machine.execHalt s
  | .haltTakesEffect a => Sys2Proof.Machine.execHaltTakesEffect a s
  | .resume => Sys2Proof.Machine.execResume s
  | .step => Sys2Proof.Machine.execStep s
  | .dbgAccRead v => Sys2Proof.Machine.execDbgAccRead v s
  | .dbgAccWrite v => Sys2Proof.Machine.execDbgAccWrite v s
  | .cmnPartCfgWrite p v => Sys2Proof.Machine.execCmnPartCfgWrite p v s
  | .replicaDisableComplete p => Sys2Proof.Machine.execReplicaDisableComplete p s
  | .lockWaysWrite p v => Sys2Proof.Machine.execLockWaysWrite p v s
  | .cmnWinCfgWrite n v => Sys2Proof.Machine.execCmnWinCfgWrite n v s
  | .cmnRegEntWrite p e v => Sys2Proof.Machine.execCmnRegEntWrite p e v s
  | .cluMissCtlWrite n v => Sys2Proof.Machine.execCluMissCtlWrite n v s
  | .cohPeekAddrWrite v => Sys2Proof.Machine.execCohPeekAddrWrite v s
  | .ptrRfsWrite k which v => Sys2Proof.Machine.execPtrRfsWrite k which v s
  | .lnkCfgEnWrite l v => Sys2Proof.Machine.execLnkCfgEnWrite l v s
  | .retrain l => Sys2Proof.Machine.execRetrain l s
  | .lnkDevIdWrite v => Sys2Proof.Machine.execLnkDevIdWrite v s
  | .lnkGrpCfgWrite g v => Sys2Proof.Machine.execLnkGrpCfgWrite g v s
  | .hifVfTblWrite f v => Sys2Proof.Machine.execHifVfTblWrite f v s
  | .hifFnRingCfgWrite f n v => Sys2Proof.Machine.execHifFnRingCfgWrite f n v s
  | .hifFnEvtCfgWrite f v => Sys2Proof.Machine.execHifFnEvtCfgWrite f v s
  | .hifFnEvtHeadWrite f v => Sys2Proof.Machine.execHifFnEvtHeadWrite f v s
  | .hifLdgCfgWrite v => Sys2Proof.Machine.execHifLdgCfgWrite v s
  | .ledgerRearm f => Sys2Proof.Machine.execLedgerRearm f s
  | .ledgerMark f => Sys2Proof.Machine.execLedgerMark f s
  | .free k => Sys2Proof.Machine.execFree k s
  | .errorReport r => Sys2Proof.Machine.execErrorReport r s
  | .reportFoldEnd reporter key => Sys2Proof.Machine.execReportFoldEnd reporter key s
  | .scrubRead die => Sys2Proof.Machine.execScrubRead die s
  | .scrCtlWrite d v => Sys2Proof.Machine.execScrCtlWrite d v s
  | .triplicateCheck off c0 c1 c2 => Sys2Proof.Machine.execTriplicateCheck off c0 c1 c2 s
  | .healRequest line => Sys2Proof.Machine.execHealRequest line s
  | .healComplete line data => Sys2Proof.Machine.execHealComplete line data s
  | .healTimeout line sourceFailed => Sys2Proof.Machine.execHealTimeout line sourceFailed s
  | .dieOut edge die => Sys2Proof.Machine.execDieOut edge die s
  | .twnCfgWrite v => Sys2Proof.Machine.execTwnCfgWrite v s
  | .heartbeat path => Sys2Proof.Machine.execHeartbeat path s
  | .heartbeatIntervalEnd => Sys2Proof.Machine.execHeartbeatIntervalEnd s
  | .sidebandNotice cause => Sys2Proof.Machine.execSidebandNotice cause s
  | .takeover => Sys2Proof.Machine.execTakeover s
  | .mirrorCommand x => Sys2Proof.Machine.execMirrorCommand x s
  | .mirrorRecord x => Sys2Proof.Machine.execMirrorRecord x s
  | .shadowPageCopy x => Sys2Proof.Machine.execShadowPageCopy x s
  | .shadowMark => Sys2Proof.Machine.execShadowMark s
  | .shadowPointDone x => Sys2Proof.Machine.execShadowPointDone x s
  | .handover => Sys2Proof.Machine.execHandover s
  | .rejoin => Sys2Proof.Machine.execRejoin s
  | .powerOn p => Sys2Proof.Machine.execPowerOn p s
  | .insertion => Sys2Proof.Machine.execInsertion s
  | .rest => Sys2Proof.Machine.execRest s
  | .wake p => Sys2Proof.Machine.execWake p s
  | .restart p => Sys2Proof.Machine.execRestart p s
  | .lanternOvertemperature => Sys2Proof.Machine.execLanternOvertemperature s
  | .removalDischarge => Sys2Proof.Machine.execRemovalDischarge s
  | .periodicSlice die => Sys2Proof.Machine.execPeriodicSlice die s
  | .recoverySlice n => Sys2Proof.Machine.execRecoverySlice n s
  | .sliceComplete die r => Sys2Proof.Machine.execSliceComplete die r s
  | .sliceAbandoned die => Sys2Proof.Machine.execSliceAbandoned die s
  | .go v => Sys2Proof.Machine.execGo v s
  | .registerWrite path off size v => Sys2Proof.Machine.execRegisterWrite path off size v s
  | .portLinkTrained p width pbr => Sys2Proof.Machine.execPortLinkTrained p width pbr s
  | .suddenInputLoss => Sys2Proof.Machine.execSuddenInputLoss s
  | .railSequencingRestart => Sys2Proof.Machine.execRailSequencingRestart s
  | .presentNHigh => Sys2Proof.Machine.execPresentNHigh s
  | .orderlyPowerDown => Sys2Proof.Machine.execOrderlyPowerDown s
  | .warmResetWithoutDrain => Sys2Proof.Machine.execWarmResetWithoutDrain s
  | .spdmRequest port r => Sys2Proof.Machine.execSpdmRequest port r s
  | .hostSnoop port line inval => Sys2Proof.Machine.execHostSnoop port line inval s
  | .vfEnableWrite enable numVfs => Sys2Proof.Machine.execVfEnableWrite enable numVfs s
  | .tapInstruction t => Sys2Proof.Machine.execTapInstruction t s
  | .flashUpdateWrite keeper slot image => Sys2Proof.Machine.execFlashUpdateWrite keeper slot image s
  | .twinIdentityExchange x => Sys2Proof.Machine.execTwinIdentityExchange x s
  | .lockWaysWritebackDone p => Sys2Proof.Machine.execLockWaysWritebackDone p s
  | .msixVectorUnmask func vec => Sys2Proof.Machine.execMsixVectorUnmask func vec s
  | .inputSwitchOvercurrent kind => Sys2Proof.Machine.execInputSwitchOvercurrent kind s

end Sys2Proof.Machine
end

