-- ==== Sys2Proof/Machine/Fetch.lean ====
section
/-! DEFINITION. The instruction set's words (R72, R76, R105): bit 0 of the first parcel gives the length, OP and the selector of
the format pick the row, and a word that no row has takes ILLEGAL_INSTRUCTION where an agent meets it. -/
namespace Sys2Proof.Machine

/-! ## Fields of a word (Tables 3.4 and 3.5) -/

/-- OP, in every format. -/
def opOf (w : Word) : Nat := (w.extractLsb' 0 7).toNat
/-- Format RR. -/
def asRR (w : Word) : FmtRR := { rd := w.extractLsb' 7 6, rs1 := w.extractLsb' 13 6, rs2 := w.extractLsb' 19 6 }
/-- Format RI. -/
def asRI (w : Word) : FmtRI := { rd := w.extractLsb' 7 6, rs1 := w.extractLsb' 13 6, imm := w.extractLsb' 19 13 }
/-- Format UI. -/
def asUI (w : Word) : FmtUI := { rd := w.extractLsb' 7 6, imm := w.extractLsb' 13 19 }
/-- Format MB. -/
def asMB (w : Word) : FmtMB :=
  { rd := w.extractLsb' 7 6, rs1 := w.extractLsb' 13 6, size := w.extractLsb' 19 3, imm := w.extractLsb' 22 10 }
/-- Format MA. -/
def asMA (w : Word) : FmtMA :=
  { rd := w.extractLsb' 7 6, rs1 := w.extractLsb' 13 6, rs2 := w.extractLsb' 19 6, sz := w.extractLsb' 25 1
    mark := w.extractLsb' 26 2, scope := w.extractLsb' 28 2 }
/-- Format BR. -/
def asBR (w : Word) : FmtBR := { rs1 := w.extractLsb' 10 6, rs2 := w.extractLsb' 16 6, off := w.extractLsb' 22 10 }
/-- Format JL. -/
def asJL (w : Word) : FmtJL := { rd := w.extractLsb' 7 6, off := w.extractLsb' 13 19 }
/-- Format SY. -/
def asSY (w : Word) : FmtSY := { rd := w.extractLsb' 7 6, rs1 := w.extractLsb' 13 6, sys := w.extractLsb' 23 9 }
/-- Format TK. -/
def asTK (w : Word) : FmtTK := { ra := w.extractLsb' 7 6, tok := w.extractLsb' 13 6, rsv := w.extractLsb' 22 10 }
/-- Format GL. -/
def asGL (w : Word) : FmtGL :=
  { gd := w.extractLsb' 7 1, pred := w.extractLsb' 8 3, neg := w.extractLsb' 11 1, vd := w.extractLsb' 12 8, va := w.extractLsb' 20 8
    vb := w.extractLsb' 28 8, vc := w.extractLsb' 36 8, ty := w.extractLsb' 52 4, rnd := w.extractLsb' 56 3, ub := w.extractLsb' 59 1
    rsv := w.extractLsb' 60 4 }
/-- Format GM. -/
def asGM (w : Word) : FmtGM :=
  { gd := w.extractLsb' 7 1, pred := w.extractLsb' 8 3, neg := w.extractLsb' 11 1, vd := w.extractLsb' 12 8, va := w.extractLsb' 20 8
    ubase := w.extractLsb' 28 6, size := w.extractLsb' 34 3, mark := w.extractLsb' 37 2, scope := w.extractLsb' 39 2
    aop := w.extractLsb' 41 4, imm := w.extractLsb' 45 19 }
/-- Format GC. -/
def asGC (w : Word) : FmtGC :=
  { gd := w.extractLsb' 7 1, pred := w.extractLsb' 8 3, neg := w.extractLsb' 11 1, rsv := w.extractLsb' 16 16, off := w.extractLsb' 32 32 }

/-! ## Words of a row -/

/-- All 64 bits of format GL. -/
def wordGL (op fn : Nat) (f : FmtGL) : Word :=
  encGL op f + BitVec.ofNat 64 (f.vb.toNat / 16 * 2 ^ 32 + f.vc.toNat * 2 ^ 36 + fn * 2 ^ 44 + f.ty.toNat * 2 ^ 52 + f.rnd.toNat * 2 ^ 56
    + f.ub.toNat * 2 ^ 59 + f.rsv.toNat * 2 ^ 60)
/-- All 64 bits of format GM. -/
def wordGM (op : Nat) (f : FmtGM) : Word :=
  encGM op f + BitVec.ofNat 64 (f.ubase.toNat / 16 * 2 ^ 32 + f.size.toNat * 2 ^ 34 + f.mark.toNat * 2 ^ 37 + f.scope.toNat * 2 ^ 39
    + f.aop.toNat * 2 ^ 41 + f.imm.toNat * 2 ^ 45)
/-- All 64 bits of format GC. -/
def wordGC (fn : Nat) (f : FmtGC) : Word := encGC fn f + BitVec.ofNat 64 (f.off.toNat * 2 ^ 32)

/-! ## Rows by OP and selector (Table 3.10) -/

/-- OP 0x02, by FUNCT7. -/
def rowRR (a : Agent) (k : Nat) (f : FmtRR) : Option Instr :=
  match k with
  | 0 => some (.add a f)
  | 1 => some (.sub a f)
  | 2 => some (.and a f)
  | 3 => some (.or a f)
  | 4 => some (.xor a f)
  | 5 => some (.sll a f)
  | 6 => some (.srl a f)
  | 7 => some (.sra a f)
  | 8 => some (.slt a f)
  | 9 => some (.sltu a f)
  | 10 => some (.mul a f)
  | 11 => some (.mulh a f)
  | 12 => some (.mulhu a f)
  | 13 => some (.div a f)
  | 14 => some (.divu a f)
  | 15 => some (.rem a f)
  | 16 => some (.remu a f)
  | 17 => some (.min a f)
  | 18 => some (.max a f)
  | 19 => some (.minu a f)
  | 20 => some (.maxu a f)
  | _ => none
/-- OP 0x20, by SUB. -/
def rowMA20 (a : Agent) (k : Nat) (f : FmtMA) : Option Instr :=
  match k with
  | 0 => some (.ldAcq a f)
  | 1 => some (.stRel a f)
  | 2 => some (.ldResv a f)
  | 3 => some (.stCond a f)
  | _ => none
/-- OP 0x22, by SUB. -/
def rowMA22 (a : Agent) (k : Nat) (f : FmtMA) : Option Instr :=
  match k with
  | 0 => some (.amoAdd a f)
  | 1 => some (.amoAnd a f)
  | 2 => some (.amoOr a f)
  | 3 => some (.amoXor a f)
  | _ => none
/-- OP 0x24, by SUB. -/
def rowMA24 (a : Agent) (k : Nat) (f : FmtMA) : Option Instr :=
  match k with
  | 0 => some (.amoMin a f)
  | 1 => some (.amoMax a f)
  | 2 => some (.amoMinu a f)
  | 3 => some (.amoMaxu a f)
  | _ => none
/-- OP 0x26, by SUB. -/
def rowMA26 (a : Agent) (k : Nat) (f : FmtMA) : Option Instr :=
  match k with
  | 0 => some (.amoSwap a f)
  | 1 => some (.amoCas a f)
  | 2 => some (.amoFadd a f)
  | _ => none
/-- OP 0x28, by COND. -/
def rowBR (a : Agent) (k : Nat) (f : FmtBR) : Option Instr :=
  match k with
  | 0 => some (.beq a f)
  | 1 => some (.bne a f)
  | 2 => some (.blt a f)
  | 3 => some (.bge a f)
  | 4 => some (.bltu a f)
  | 5 => some (.bgeu a f)
  | _ => none
/-- OP 0x2E, by FN4. The three fences are one by SYS9[1:0], and `ecall` names its service in s10 (R84). -/
def rowSY (a : Agent) (s10 : Word) (k : Nat) (f : FmtSY) : Option Instr :=
  match k with
  | 0 => some (.csrr a f)
  | 1 => some (.csrw a f)
  | 2 => some (.csrs a f)
  | 3 => some (.csrc a f)
  | 4 =>
    some (if s10 = 0x0101 then .clearPorterChannel a f else if s10 = 0x0102 then .clearGatherChannel a f
      else if s10 = 0x0201 then .startCollective a f else .ecallUnassignedService a f)
  | 5 => some (.eret a f)
  | 6 => some (.ebreak a f false)
  | 7 =>
    match f.sys.toNat % 4 with
    | 0 => some (.fenceCo a f)
    | 1 => some (.fenceCl a f)
    | 2 => some (.fenceSy a f)
    | _ => none
  | 8 => some (.fenceI a f)
  | 9 => some (.wfc a f)
  | 10 => some (.cmdDone a f)
  | _ => none
/-- OP 0x34, by FN3. -/
def rowTK34 (a : Agent) (k : Nat) (f : FmtTK) : Option Instr :=
  match k with
  | 0 => some (.cpIssue a f)
  | 1 => some (.gtIssue a f)
  | 2 => some (.grpStart a f)
  | _ => none
/-- OP 0x32, by FN3. -/
def rowTK32 (a : Agent) (k : Nat) (f : FmtTK) : Option Instr :=
  match k with
  | 0 => some (.mxIssue a f false)
  | 1 => some (.tokWait a f)
  | 2 => some (.tokTest a f)
  | 3 => some (.tokClr a f)
  | _ => none
/-- OP 0x01, by FN. -/
def rowGL1 (a : Agent) (k : Nat) (f : FmtGL) : Option Instr :=
  match k with
  | 0 => some (.vAdd a f)
  | 1 => some (.vSub a f)
  | 2 => some (.vMul a f)
  | 3 => some (.vAnd a f)
  | 4 => some (.vOr a f)
  | 5 => some (.vXor a f)
  | 6 => some (.vShl a f)
  | 7 => some (.vShr a f)
  | 8 => some (.vSra a f)
  | 9 => some (.vMin a f)
  | 10 => some (.vMax a f)
  | 11 => some (.vSetp a f)
  | 12 => some (.vSel a f)
  | 13 => some (.vMov a f)
  | _ => none
/-- OP 0x03, by FN. -/
def rowGL3 (a : Agent) (k : Nat) (f : FmtGL) : Option Instr :=
  match k with
  | 0 => some (.vFadd a f)
  | 1 => some (.vFmul a f)
  | 2 => some (.vFma a f)
  | 3 => some (.vFmin a f)
  | 4 => some (.vFmax a f)
  | 5 => some (.vCvt a f)
  | 6 => some (.vRcp a f)
  | 7 => some (.vRsqrt a f)
  | 8 => some (.vExp2 a f)
  | 9 => some (.vLog2 a f)
  | 10 => some (.vFsetp a f)
  | _ => none
/-- OP 0x05, by FN. -/
def rowGL5 (a : Agent) (k : Nat) (f : FmtGL) : Option Instr :=
  match k with
  | 0 => some (.xchPick a f)
  | 1 => some (.xchLo a f)
  | 2 => some (.xchHi a f)
  | 3 => some (.xchSwz a f)
  | 4 => some (.pollAny a f)
  | 5 => some (.pollAll a f)
  | 6 => some (.pollMask a f)
  | _ => none
/-- OP 0x07, by FN. -/
def rowGL7 (a : Agent) (k : Nat) (f : FmtGL) : Option Instr :=
  match k with
  | 0 => some (.fragLd a f)
  | 1 => some (.fragSt a f)
  | 2 => some (.fragMma a f)
  | 3 => some (.fragFill a f)
  | _ => none
/-- OP 0x0F, by AOP. -/
def rowGMF (a : Agent) (k : Nat) (f : FmtGM) : Option Instr :=
  match k with
  | 0 => some (.vAtomAdd a f)
  | 1 => some (.vAtomAnd a f)
  | 2 => some (.vAtomOr a f)
  | 3 => some (.vAtomXor a f)
  | 4 => some (.vAtomMin a f)
  | 5 => some (.vAtomMax a f)
  | 6 => some (.vAtomMinu a f)
  | 7 => some (.vAtomMaxu a f)
  | 8 => some (.vAtomSwap a f)
  | 9 => some (.vAtomCas a f)
  | 10 => some (.vAtomFadd a f)
  | _ => none
/-- OP 0x11, by FN. -/
def rowGC (a : Agent) (k : Nat) (f : FmtGC) : Option Instr :=
  match k with
  | 0 => some (.vBra a f)
  | 1 => some (.vJoin a f)
  | 2 => some (.vExit a f)
  | _ => none

/-- The row that a word is, for an agent whose s10 holds a value: `none` for an unassigned OP or selector, a reserved COND, and
the all-zero word. Fields that a row takes but may not hold are the row's own affair. -/
def decodeInstr (a : Agent) (s10 : Word) (w : Word) : Option Instr :=
  match opOf w with
  | 0x02 => rowRR a (w.extractLsb' 25 7).toNat (asRR w)
  | 0x04 => some (.addi a (asRI w))
  | 0x06 => some (.andi a (asRI w))
  | 0x08 => some (.ori a (asRI w))
  | 0x0A => some (.xori a (asRI w))
  | 0x0C => some (.slti a (asRI w))
  | 0x0E => some (.sltiu a (asRI w))
  | 0x10 => some (.slli a (asRI w))
  | 0x12 => some (.srli a (asRI w))
  | 0x14 => some (.srai a (asRI w))
  | 0x16 => some (.cstM a (asUI w))
  | 0x18 => some (.cstH a (asUI w))
  | 0x36 => some (.cstPc a (asUI w))
  | 0x1A => some (.ld a (asMB w) false)
  | 0x1C => some (.st a (asMB w))
  | 0x1E => some (.ldRo a (asMB w))
  | 0x20 => rowMA20 a (w.extractLsb' 30 2).toNat (asMA w)
  | 0x22 => rowMA22 a (w.extractLsb' 30 2).toNat (asMA w)
  | 0x24 => rowMA24 a (w.extractLsb' 30 2).toNat (asMA w)
  | 0x26 => rowMA26 a (w.extractLsb' 30 2).toNat (asMA w)
  | 0x28 => rowBR a (w.extractLsb' 7 3).toNat (asBR w)
  | 0x2A => some (.jal a (asJL w))
  | 0x2C => some (.jalr a (asRI w))
  | 0x2E => rowSY a s10 (w.extractLsb' 19 4).toNat (asSY w)
  | 0x32 => rowTK32 a (w.extractLsb' 19 3).toNat (asTK w)
  | 0x34 => rowTK34 a (w.extractLsb' 19 3).toNat (asTK w)
  | 0x01 => rowGL1 a (w.extractLsb' 44 8).toNat (asGL w)
  | 0x03 => rowGL3 a (w.extractLsb' 44 8).toNat (asGL w)
  | 0x05 => rowGL5 a (w.extractLsb' 44 8).toNat (asGL w)
  | 0x07 => rowGL7 a (w.extractLsb' 44 8).toNat (asGL w)
  | 0x09 => some (.vLd a (asGM w))
  | 0x0B => some (.vSt a (asGM w))
  | 0x0D => some (.vLdRo a (asGM w))
  | 0x0F => rowGMF a (w.extractLsb' 41 4).toNat (asGM w)
  | 0x11 => rowGC a (w.extractLsb' 12 4).toNat (asGC w)
  | _ => none

/-! ## What an agent meets at its pc -/

/-- The parcel at an address as an agent fetches it (R72): from Local directly, from the Commons through the L1R. `none` for
a word whose contents are not known: one that nothing has written, that is uncorrectable, or whose line the L1R lacks. -/
def Dev.parcel (d : Dev) (a : Agent) (pc : Nat) : Option Half :=
  let half (v : Word) : Half := (v >>> (8 * (pc % 8))).setWidth 32
  let known (m : Mem) : Option Half := if m.mark (pc / 8) = .written then some (half (m.word (pc / 8))) else none
  let ofLine (x : LineData) : Option Half :=
    if x.poison.getLsbD (pc % 128 / 8) then none else some (half (BitVec.ofNat 64 (fld x.v (8 * (pc % 128 / 8 * 8) + 63) (8 * (pc % 128 / 8 * 8)))))
  if pc < localSize then known (d.mem (.loc a.cluster))
  else if pc < commonsBase then none
  else
    match (d.cl a.cluster).l1rFind (lineOf pc) with
    | some x => ofLine x
    | none => none
/-- The word at an agent's pc and its length in bytes, where memory gives every parcel of it and its fetch takes no trap. -/
def Dev.fetched (d : Dev) (a : Agent) : Option (Nat × Word) :=
  let pc := d.pc a
  match d.fetchTrap a 4, d.parcel a pc with
  | none, some lo =>
    if lo.getLsbD 0 then
      match d.fetchTrap a 8, d.parcel a (pc + 4) with
      | none, some hi => some (8, zext lo ||| (zext hi <<< 32))
      | _, _ => none
    else some (4, zext lo)
  | _, _ => none
/-- The line that an agent's fetch at its pc lacks. -/
def Dev.fetchNeeds (d : Dev) (a : Agent) : Option Nat :=
  let len := match d.parcel a (d.pc a) with
    | some lo => if lo.getLsbD 0 then 8 else 4
    | none => 4
  if (d.fetchTrap a len).isNone then d.fetchMiss a len else none
/-- An agent that is ready asks for the line of its fetch that the L1R lacks (R72), and one whose word is no instruction takes ILLEGAL_INSTRUCTION, with bits [31:0] in TVAL (R76); the
block makes it on its tick (log entry 103). -/
def Dev.meetIllegal (d : Dev) (a : Agent) : Dev :=
  if d.ready a then
    match d.fetchNeeds a with
    | some l => d.askFetch a l
    | none =>
    match d.fetched a with
    | some (_, w) =>
      if (decodeInstr a (d.rd a 10) w).isNone then (d.trap a cILLEGAL (zext (w.setWidth 32))).settle a.cluster else d
    | none => d
  else d

end Sys2Proof.Machine
end

