-- ==== Sys2Proof/Machine/Tick.lean ====
section
/-! DEFINITION. What the block does of its own accord when no command waits (DESIGN CHOICE, log entry 11): everything here goes on
in the device whatever is commanded, and has no row of the table. -/
namespace Sys2Proof.Machine

/-- Something done for every cluster that State lists. -/
def Dev.eachCluster (d : Dev) (f : Dev → Nat → Dev) : Dev := (d.clusters.map Prod.fst).foldl f d
/-- A parity block of a die may have one bad bit, which is mended when the block is read, and counted (R385): which is open. -/
def Dev.mendParity (d : Dev) (die : Nat) : Dev :=
  let (k, d) := d.choose 2
  if k = 1 then d.bumpRf (0x709008 + 0x20 * die) 31 0 1 else d
/-- A word of memory goes bad in one symbol, which a read corrects (R388), or in more, which the next read finds (R387): which is
open. -/
def Dev.wordFails (d : Dev) (sp : MSpace) (w : Nat) : Dev :=
  if (d.mem sp).mark w = .poisoned ∨ (d.mem sp).mark w = .damaged then d
  else
    let (k, d) := d.choose 2
    if k = 0 then d.upset sp w else d.setMem sp ((d.mem sp).damage w)
/-- Memory of a die may go bad (R384): a word of its Commons or of a Local, or a replica line, which fails its code (R395); which,
and where, is open. -/
def Dev.meetUpset (d : Dev) (die : Nat) : Dev :=
  let (k, d) := d.choose 4
  if k = 0 then d
  else if k = 1 then
    let (x, d) := d.choose (d.part.commonsBytes / 8)
    let w := commonsBase / 8 + x
    if (d.partAt (8 * w)).isSome && decide (d.wordDie .com w = die) then d.wordFails .com w else d
  else if k = 2 then
    let (n, d) := d.choose 48
    let (w, d) := d.choose (localSize / 8)
    if d.present (48 * die + n) then d.wordFails (.loc (48 * die + n)) w else d
  else
    let ls := (d.rep die).lines
    let (i, d) := d.choose ls.length
    match ls[i]? with
    | some x => d.replicaFails die x.line
    | none => d
/-- An L1R line may fail its parity: it is invalidated, and fetched again when it is read (Table 14.1). -/
def Dev.l1rUpset (d : Dev) (n : Nat) : Dev :=
  let (k, d) := d.choose 2
  if k = 0 then d
  else
    let (i, d) := d.choose (d.cl n).l1r.length
    d.onCl n fun c => { c with l1r := c.l1r.eraseIdx i }
/-- The tick: messages advance in the fabric (log entry 86), a command that the Keeper has taken reaches its Guest entry point
(log entry 102), milestones whose lines are free again are performed (R323), the host ports perform what waits (R273), and an
agent whose fetch lacks its line asks for it (R72), one whose word is no instruction traps (log entry 103); upsets are mended and
counted, or found by a later read (R384, R385, R387, R388). An edge on which a message has failed its check 16 times is permanently
faulty, and dies that have stopped do nothing more (R411). -/
def Dev.tick (d : Dev) : Dev :=
  if d.pwr.stopped then d
  else
  let d := d.fabricTick
  match d.edgeOut with
  | some (die, e) => d.dieOut (some e) die
  | none =>
  let d := d.eachCluster fun d n => d.enterGuest n
  let d := (d.releaseAll.pumpHost 0).pumpHost 1
  let d := if d.full then (List.range d.part.dies).foldl (fun (d : Dev) k => (d.mendParity k).meetUpset k) d else d
  let d := d.eachCluster fun d n => d.l1rUpset n
  d.eachCluster fun d n => ((d.cl n).agents n).foldl (fun (d : Dev) a => d.meetIllegal a) d

end Sys2Proof.Machine
end

