-- ==== Sys2Proof/Safety.lean ====
section
/-! DEFINITION. The words that statements about the device use: when an instruction can issue, what a command leaves
behind, and what counts as a legal machine. Nothing here is part of the machine. -/
namespace Sys2Proof.Machine

/-! ## What a command leaves behind -/

/-- The next state of a command whose effect on the device is `f`: the queue stays as it is, and so does what the part is. -/
def State.onDev (s : State) (f : Dev → Dev) : State := { s with dev := { f s.dev with part := s.dev.part } }
/-- A command answers a next state, in which its effect `f` has happened. -/
abbrev State.gives (s : State) (f : Dev → Dev) : Host.Outcome State Fault Refusal := .next (s.onDev f)
/-- The outcome of a command that starts the device, after which the configuration record says what the part is (R441). -/
abbrev State.starts (s : State) (f : Dev → Dev) : Host.Outcome State Fault Refusal := .next { s with dev := f s.dev }

/-- An instruction of `len` bytes has completed and the agent has moved past it. -/
def Dev.past (d : Dev) (a : Agent) (len : Nat) : Dev := (d.setPc a (d.pc a + len)).complete a
/-- An instruction has completed and the agent has moved to a target. -/
def Dev.reached (d : Dev) (a : Agent) (t : Nat) : Dev := (d.setPc a t).complete a
/-- An instruction has taken a trap. -/
def Dev.trapped (d : Dev) (a : Agent) (cause : Nat) (val : Word) : Dev := (d.trap a cause val).settle a.cluster

/-! ## When an instruction executes -/

/-- The agent exists, can issue, and the fetch of its instruction of `len` bytes takes no trap and waits for nothing. -/
abbrev State.mayIssue (s : State) (a : Agent) (len : Nat) : Prop :=
  Agent.ok a = true ∧ s.dev.ready a = true ∧ s.dev.fetchTrap a len = none ∧ s.dev.fetchMiss a len = none
/-- The agent can issue a 4-byte instruction. -/
abbrev State.canIssue (s : State) (a : Agent) : Prop := s.mayIssue a 4
/-- A thread group can issue an 8-byte instruction; `g` is what its slot holds. -/
abbrev State.canIssueG (s : State) (a : Agent) (g : Group) : Prop := s.mayIssue a 8 ∧ s.dev.grp a = some g

/-- No launch of a cluster has ended without its token being completed, and its command is not ending: nothing but an
instruction's own effect happens when it completes. -/
def Dev.calm (d : Dev) (n : Nat) : Bool :=
  (d.cl n).launches.all (fun l => !l.over) && (match (d.cl n).run with
    | some r => r.ending.isNone
    | none => true)

/-- Store queues and the store buffer of a cluster hold no byte of a range. -/
def Dev.noStoreMeets (d : Dev) (a : Agent) (addr n : Nat) : Bool :=
  ((d.cl a.cluster).q a.core).all fun e => e.runs.all fun r => !(rangesMeet r.addr r.n addr n)

/-! ## Legal machines -/

/-- Every memory of the device is in canonical form. -/
def Dev.memoriesWf (d : Dev) : Prop := d.commons.wf = true ∧ ∀ n, (d.mem (.loc n)).wf = true

end Sys2Proof.Machine
end

