-- ==== Sys2Proof/WellFormed.lean ====
section
/-! DEFINITION. Which commands name units that some ordering code has (Table 0.1, R2): the numbers of clusters, dies,
links, functions, partitions and so on. A command that names another reaches nothing and changes nothing. -/
namespace Sys2Proof

/-- A logical cluster number of the largest part (R18). -/
def clusterOk (n : Nat) : Bool := decide (n < 384)
/-- An agent (R110). -/
def agentOk : Agent → Bool
  | .sCore n => clusterOk n
  | .group n _ k => clusterOk n && decide (k < 16)
/-- A compute die. -/
def dieOk (d : Nat) : Bool := decide (d < 8)
/-- A line of the Commons, at most 32 GiB. -/
def lineOk (l : Nat) : Bool := decide (l < 2 ^ 28)
/-- A coherence message. -/
def selectorOk (m : MsgSel) : Bool := dieOk m.src && dieOk m.dst && lineOk m.line && clusterOk m.cl
/-- A partition. -/
def partOk (p : Nat) : Bool := decide (p < 64)
/-- A Porter channel, by global number (R282). -/
def porterOk (ch : Nat) : Bool := decide (ch < 256)
/-- A gather channel, by global number. -/
def gatherOk (ch : Nat) : Bool := decide (ch < 128)
/-- A channel of an engine. -/
def channelOk : Engine → Nat → Bool
  | .porter, ch => porterOk ch
  | .gather, ch => gatherOk ch
/-- A link. -/
def linkNoOk (l : Nat) : Bool := decide (l < 66)
/-- A device identity. -/
def deviceOk (d : Nat) : Bool := decide (d < 4096)
/-- A remote request: channel, target and request number. -/
def remoteOk (chan dst req : Nat) : Bool := decide (chan < 256) && deviceOk dst && decide (req < 65536)
/-- A collective group. -/
def groupOk (g : Nat) : Bool := decide (g < 64)
/-- A function. -/
def functionOk (f : Nat) : Bool := decide (f < 256)
/-- A command window. -/
def windowOk (f n : Nat) : Bool := functionOk f && decide (n < 8)
/-- A host port. -/
def portOk (p : Nat) : Bool := decide (p < 2)
/-- A slot of a command window, written through a port. -/
def slotOk (w : WinWrite) : Bool := portOk w.port && windowOk w.func w.win && decide (w.slot < 64)
/-- An MSI-X vector. -/
def vectorOk (f v : Nat) : Bool := functionOk f && decide (v < 32)
/-- A context. -/
def ctxOk (c : Nat) : Bool := decide (c < 64)
/-- A host access of 1 to 64 bytes within one 64-byte line of the host address range. -/
def hostRangeOk (port addr size : Nat) : Bool :=
  portOk port && decide (1 ≤ size) && decide (addr % 64 + size ≤ 64) && decide (addr < 2 ^ 36)
/-- A source of ALERT. -/
def alertOk : AlertSource → Bool
  | .regulator die _ => dieOk die
  | .chassis => true
/-- An edge of a die, or none. -/
def edgeOk : Option Nat → Bool
  | some e => decide (e < 4)
  | none => true
/-- A command mirror message. -/
def mirrorMsgOk : MirrorMsg → Bool
  | .acked f n _ => windowOk f n
  | .received f n _ _ credits pos _ _ => windowOk f n && decide (credits ≤ 64) && decide (pos < 64)
/-- A record mirror message. -/
def mirrorRecOk : MirrorRec → Bool
  | .acked f n => windowOk f n
  | .received f n entry _ _ _ => windowOk f n && decide (entry < 64)
/-- A shadow copy. -/
def shadowMsgOk : ShadowMsg → Bool
  | .sent page _ => decide (page < 2 ^ 19)
  | .received line _ => lineOk line
/-- A register access (R485): its size, and an offset within the space its path reaches. -/
def accessRangeOk (path : RegPath) (off size : Nat) : Bool :=
  (decide (size = 1) || decide (size = 2) || decide (size = 4) || decide (size = 8)) && (match path with
    | .bar2 => decide (off < 0x2000000)
    | .vf f p => functionOk f && decide (p < 2) && decide (off < 0x10000)
    | .keeper n => clusterOk n && decide (off < 0x2000000))
/-- The OP byte of a command that a row brings (Table 12.6): the row's own, or one that is not assigned. -/
def opRowOk (c : HostCmd) (op : Nat) : Bool :=
  decide (c.op.toNat = op) || !(decide (c.op = 1) || decide (c.op = 2) || decide (0x90 ≤ c.op.toNat ∧ c.op.toNat ≤ 0x94))
/-- A DOE mailbox, or the management path. -/
def doeOk : Option Nat → Bool
  | some p => portOk p
  | none => true

/-- A command that names only units some ordering code has. -/
def Instr.wf : Instr → Bool
  | .add a _ => agentOk a
  | .sub a _ => agentOk a
  | .and a _ => agentOk a
  | .or a _ => agentOk a
  | .xor a _ => agentOk a
  | .sll a _ => agentOk a
  | .srl a _ => agentOk a
  | .sra a _ => agentOk a
  | .slt a _ => agentOk a
  | .sltu a _ => agentOk a
  | .mul a _ => agentOk a
  | .mulh a _ => agentOk a
  | .mulhu a _ => agentOk a
  | .div a _ => agentOk a
  | .divu a _ => agentOk a
  | .rem a _ => agentOk a
  | .remu a _ => agentOk a
  | .min a _ => agentOk a
  | .max a _ => agentOk a
  | .minu a _ => agentOk a
  | .maxu a _ => agentOk a
  | .addi a _ => agentOk a
  | .andi a _ => agentOk a
  | .ori a _ => agentOk a
  | .xori a _ => agentOk a
  | .slti a _ => agentOk a
  | .sltiu a _ => agentOk a
  | .slli a _ => agentOk a
  | .srli a _ => agentOk a
  | .srai a _ => agentOk a
  | .cstM a _ => agentOk a
  | .cstH a _ => agentOk a
  | .cstPc a _ => agentOk a
  | .ld a _ _ => agentOk a
  | .st a _ => agentOk a
  | .ldRo a _ => agentOk a
  | .ldAcq a _ => agentOk a
  | .stRel a _ => agentOk a
  | .ldResv a _ => agentOk a
  | .stCond a _ => agentOk a
  | .amoAdd a _ => agentOk a
  | .amoAnd a _ => agentOk a
  | .amoOr a _ => agentOk a
  | .amoXor a _ => agentOk a
  | .amoMin a _ => agentOk a
  | .amoMax a _ => agentOk a
  | .amoMinu a _ => agentOk a
  | .amoMaxu a _ => agentOk a
  | .amoSwap a _ => agentOk a
  | .amoCas a _ => agentOk a
  | .amoFadd a _ => agentOk a
  | .beq a _ => agentOk a
  | .bne a _ => agentOk a
  | .blt a _ => agentOk a
  | .bge a _ => agentOk a
  | .bltu a _ => agentOk a
  | .bgeu a _ => agentOk a
  | .jal a _ => agentOk a
  | .jalr a _ => agentOk a
  | .csrr a _ => agentOk a
  | .csrw a _ => agentOk a
  | .csrs a _ => agentOk a
  | .csrc a _ => agentOk a
  | .clearPorterChannel a _ => agentOk a
  | .clearGatherChannel a _ => agentOk a
  | .startCollective a _ => agentOk a
  | .ecallUnassignedService a _ => agentOk a
  | .eret a _ => agentOk a
  | .ebreak a _ _ => agentOk a
  | .fenceCo a _ => agentOk a
  | .fenceCl a _ => agentOk a
  | .fenceSy a _ => agentOk a
  | .fenceComplete a => agentOk a
  | .fenceI a _ => agentOk a
  | .wfc a _ => agentOk a
  | .cmdDone a _ => agentOk a
  | .cpIssue a _ => agentOk a
  | .gtIssue a _ => agentOk a
  | .grpStart a _ => agentOk a
  | .mxIssue a _ _ => agentOk a
  | .tokWait a _ => agentOk a
  | .tokTest a _ => agentOk a
  | .tokClr a _ => agentOk a
  | .vAdd a _ => agentOk a
  | .vSub a _ => agentOk a
  | .vMul a _ => agentOk a
  | .vAnd a _ => agentOk a
  | .vOr a _ => agentOk a
  | .vXor a _ => agentOk a
  | .vShl a _ => agentOk a
  | .vShr a _ => agentOk a
  | .vSra a _ => agentOk a
  | .vMin a _ => agentOk a
  | .vMax a _ => agentOk a
  | .vSetp a _ => agentOk a
  | .vSel a _ => agentOk a
  | .vMov a _ => agentOk a
  | .vFadd a _ => agentOk a
  | .vFmul a _ => agentOk a
  | .vFma a _ => agentOk a
  | .vFmin a _ => agentOk a
  | .vFmax a _ => agentOk a
  | .vCvt a _ => agentOk a
  | .vRcp a _ => agentOk a
  | .vRsqrt a _ => agentOk a
  | .vExp2 a _ => agentOk a
  | .vLog2 a _ => agentOk a
  | .vFsetp a _ => agentOk a
  | .xchPick a _ => agentOk a
  | .xchLo a _ => agentOk a
  | .xchHi a _ => agentOk a
  | .xchSwz a _ => agentOk a
  | .pollAny a _ => agentOk a
  | .pollAll a _ => agentOk a
  | .pollMask a _ => agentOk a
  | .fragLd a _ => agentOk a
  | .fragSt a _ => agentOk a
  | .fragMma a _ => agentOk a
  | .fragFill a _ => agentOk a
  | .vLd a _ => agentOk a
  | .vSt a _ => agentOk a
  | .vLdRo a _ => agentOk a
  | .vAtomAdd a _ => agentOk a
  | .vAtomAnd a _ => agentOk a
  | .vAtomOr a _ => agentOk a
  | .vAtomXor a _ => agentOk a
  | .vAtomMin a _ => agentOk a
  | .vAtomMax a _ => agentOk a
  | .vAtomMinu a _ => agentOk a
  | .vAtomMaxu a _ => agentOk a
  | .vAtomSwap a _ => agentOk a
  | .vAtomCas a _ => agentOk a
  | .vAtomFadd a _ => agentOk a
  | .vBra a _ => agentOk a
  | .vJoin a _ => agentOk a
  | .vExit a _ => agentOk a
  | .groupLaunch n => clusterOk n
  | .mma n => clusterOk n
  | .mmaZ n => clusterOk n
  | .xpFin n => clusterOk n
  | .xpSum n => clusterOk n
  | .waybillWaitResolved n => clusterOk n
  | .waybillComplete n _ => clusterOk n
  | .waybillQueueRoom n => clusterOk n
  | .tokenArbitration n claims => clusterOk n && claims.all fun c => agentOk c.a
  | .tokWaitRelease a => agentOk a
  | .missReturn n line => clusterOk n && lineOk line
  | .storeQueueDrain n _ => clusterOk n
  | .storeBufferPerform n line => clusterOk n && lineOk line
  | .streamTrackerTimeout n k => clusterOk n && decide (k < 8)
  | .prefetchDrop die line => dieOk die && lineOk line
  | .rds m => selectorOk m
  | .rdx m => selectorOk m
  | .upg m => selectorOk m
  | .rdu m => selectorOk m
  | .wrt m => selectorOk m
  | .atm m => selectorOk m
  | .pute m => selectorOk m
  | .putm m => selectorOk m
  | .puto m => selectorOk m
  | .fwds m => selectorOk m
  | .fwdx m => selectorOk m
  | .fwdu m => selectorOk m
  | .recall m => selectorOk m
  | .inv m => selectorOk m
  | .invack m => selectorOk m
  | .fwdack m => selectorOk m
  | .data m => selectorOk m
  | .recalldata m => selectorOk m
  | .wbpending m => selectorOk m
  | .retry m => selectorOk m
  | .retryResend m => selectorOk m
  | .cohWake m => selectorOk m
  | .wback m => selectorOk m
  | .comp m => selectorOk m
  | .killNotice m => selectorOk m
  | .regulatorWindowEnd p die _ => partOk p && dieOk die
  | .copy ch => porterOk ch
  | .fill ch => porterOk ch
  | .writeImm ch => porterOk ch
  | .reduce ch => porterOk ch
  | .fence ch => porterOk ch
  | .engineCommandDequeue n _ => clusterOk n
  | .porterCommandComplete ch _ => porterOk ch
  | .clear eng ch => channelOk eng ch
  | .engineAbandon eng ch _ => channelOk eng ch
  | .gather ch => gatherOk ch
  | .rowFetchReturn ch _ _ _ _ => gatherOk ch
  | .gatherComplete ch _ => gatherOk ch
  | .sourceHealWaitEnd eng ch _ _ => channelOk eng ch
  | .dataFrame l _ => linkNoOk l
  | .idleFrame l _ => linkNoOk l
  | .nakFrame l _ => linkNoOk l
  | .trainingFrame l _ => linkNoOk l
  | .wr l _ => linkNoOk l
  | .linkAtm l _ => linkNoOk l
  | .rd l _ => linkNoOk l
  | .milestone l _ => linkNoOk l
  | .close l _ => linkNoOk l
  | .abort l _ => linkNoOk l
  | .rdData l _ => linkNoOk l
  | .wack l _ => linkNoOk l
  | .nakUndeliv l _ => linkNoOk l
  | .nakBusy l _ => linkNoOk l
  | .nakBusyResend chan dst req => remoteOk chan dst req
  | .attemptTimeout chan dst req => remoteOk chan dst req
  | .laneFailed l lane => linkNoOk l && decide (lane < 4)
  | .frameLockLost l => linkNoOk l
  | .retrainComplete l _ => linkNoOk l
  | .trainingRetry l => linkNoOk l
  | .peerLost dev => deviceOk dev
  | .collReady g member _ => groupOk g && deviceOk member
  | .collGo g _ => groupOk g
  | .allReduce g _ => groupOk g
  | .reduceScatter g _ => groupOk g
  | .allGather g _ => groupOk g
  | .broadcast g _ => groupOk g
  | .barrier g => groupOk g
  | .collectiveComplete g _ => groupOk g
  | .run w c => slotOk w && opRowOk c 1
  | .nop w c => slotOk w && opRowOk c 2
  | .fnQuiesce w c => slotOk w && opRowOk c 0x90
  | .fnCopy w c => slotOk w && opRowOk c 0x91
  | .fnExport w c => slotOk w && opRowOk c 0x92
  | .fnImport w c => slotOk w && opRowOk c 0x93
  | .fnResume w c => slotOk w && opRowOk c 0x94
  | .commandPlacement func win _ => windowOk func win
  | .commandDelivery n => clusterOk n
  | .completionRecord func win => windowOk func win
  | .msixMessage func vec => vectorOk func vec
  | .eventWrite func => functionOk func
  | .hostMemRead port addr size => hostRangeOk port addr size
  | .hostMemWrite port addr size _ => hostRangeOk port addr size
  | .bisnpinvResponse port line _ => portOk port && decide (line < 2 ^ 30)
  | .hostGo _ => true
  | .portDown p => portOk p
  | .perstAssert p => portOk p
  | .aliasRelease k => decide (k < 64)
  | .sliceExpiry n => clusterOk n
  | .timeoutCheck n => clusterOk n
  | .clearErr c => ctxOk c
  | .rtReq c => ctxOk c
  | .rtDrop c => ctxOk c
  | .schMoveGo _ => true
  | .moveComplete => true
  | .schCtxCfgWrite c _ => ctxOk c
  | .schCtxCluWrite c w _ => ctxOk c && decide (w < 12)
  | .clusterProbe n _ => clusterOk n
  | .spareTakeover n _ => clusterOk n
  | .spareTakeoverComplete n => clusterOk n
  | .pwrStepCtlWrite _ => true
  | .stepChangeComplete => true
  | .sustainedEvaluation _ _ _ => true
  | .peakMeasurement _ => true
  | .junctionSample die sensor _ => dieOk die && decide (sensor < 6)
  | .thermalTrip => true
  | .paceWindow _ => true
  | .alert src => alertOk src
  | .alertRelease => true
  | .inputBelowWarning _ => true
  | .inputRecovered _ => true
  | .recoveryIntervalEnd => true
  | .inputBelowReset _ => true
  | .railMonitorLow die _ => dieOk die
  | .warmReset => true
  | .rearm => true
  | .pwrLimitCfgWrite _ => true
  | .halt => true
  | .haltTakesEffect a => agentOk a
  | .resume => true
  | .step => true
  | .dbgAccRead _ => true
  | .dbgAccWrite _ => true
  | .cmnPartCfgWrite p _ => partOk p
  | .replicaDisableComplete p => partOk p
  | .lockWaysWrite p _ => partOk p
  | .cmnWinCfgWrite n _ => decide (n < 256)
  | .cmnRegEntWrite p e _ => partOk p && decide (e < 16)
  | .cluMissCtlWrite n _ => clusterOk n
  | .cohPeekAddrWrite _ => true
  | .ptrRfsWrite k _ _ => decide (k < 64)
  | .lnkCfgEnWrite l _ => linkNoOk l
  | .retrain l => linkNoOk l
  | .lnkDevIdWrite _ => true
  | .lnkGrpCfgWrite g _ => groupOk g
  | .hifVfTblWrite f _ => functionOk f
  | .hifFnRingCfgWrite f n _ => windowOk f n
  | .hifFnEvtCfgWrite f _ => functionOk f
  | .hifFnEvtHeadWrite f _ => functionOk f
  | .hifLdgCfgWrite _ => true
  | .ledgerRearm f => functionOk f
  | .ledgerMark f => functionOk f
  | .free k => decide (k < 256)
  | .errorReport _ => true
  | .reportFoldEnd _ _ => true
  | .scrubRead die => dieOk die
  | .scrCtlWrite d _ => dieOk d
  | .triplicateCheck off _ _ _ => decide (off < 0x2000000)
  | .healRequest line => lineOk line
  | .healComplete line _ => lineOk line
  | .healTimeout line _ => lineOk line
  | .dieOut edge die => dieOk die && edgeOk edge
  | .twnCfgWrite _ => true
  | .heartbeat _ => true
  | .heartbeatIntervalEnd => true
  | .sidebandNotice _ => true
  | .takeover => true
  | .mirrorCommand x => mirrorMsgOk x
  | .mirrorRecord x => mirrorRecOk x
  | .shadowPageCopy x => shadowMsgOk x
  | .shadowMark => true
  | .shadowPointDone _ => true
  | .handover => true
  | .rejoin => true
  | .powerOn _ => true
  | .insertion => true
  | .rest => true
  | .wake _ => true
  | .restart _ => true
  | .lanternOvertemperature => true
  | .removalDischarge => true
  | .periodicSlice die => dieOk die
  | .recoverySlice n => clusterOk n
  | .sliceComplete die _ => dieOk die
  | .sliceAbandoned die => dieOk die
  | .go _ => true
  | .registerWrite path off size _ => accessRangeOk path off size
  | .portLinkTrained p width pbr => portOk p && decide (1 ≤ width) && decide (width ≤ 16) && decide (pbr < 4096)
  | .suddenInputLoss => true
  | .railSequencingRestart => true
  | .presentNHigh => true
  | .orderlyPowerDown => true
  | .warmResetWithoutDrain => true
  | .spdmRequest port _ => doeOk port
  | .hostSnoop port _ _ => portOk port
  | .vfEnableWrite _ numVfs => decide (numVfs ≤ 255)
  | .tapInstruction _ => true
  | .flashUpdateWrite _ _ _ => true
  | .twinIdentityExchange _ => true
  | .lockWaysWritebackDone p => partOk p
  | .msixVectorUnmask func vec => vectorOk func vec
  | .inputSwitchOvercurrent _ => true

end Sys2Proof
end

