-- ==== Sys2Proof/Certificates/Slice0/Obligations.lean ====
section
/-! DEFINITION. The statements about the device, for the provers. `s.gives f` says that a command answers the next state
in which its effect `f` on the device has happened and the queue is as it was; `d.past a len` that the agent's instruction
has completed and the agent has moved past it. -/
open Sys2Proof Sys2Proof.Machine

/-! ## The machine as a whole -/

/-- A step takes the command at the front of the queue and is that command's `exec` on the rest of the queue; with an
empty queue the block goes on by itself: the model's choice, log entry 11. -/
def Obligations.StepRunsFront : Prop :=
  ∀ s : State,
    (∀ (c : Instr) (rest : List Instr), s.pending = c :: rest → step s = exec c { s with pending := rest }) ∧
    (s.pending = [] → step s = s.gives fun d => d.tick)

/-- Every command answers a next state and leaves the queue alone: none is refused and none is a fault. One that names a
unit which no ordering code has changes nothing (log entry 7). -/
def Obligations.EveryCommandAnswers : Prop :=
  ∀ (c : Instr) (s : State),
    (∃ t, exec c s = .next t ∧ t.pending = s.pending) ∧ (c.wf = false → exec c s = .next s)

/-- What the part is, and with it every unit that it has or lacks, changes at no step but one that starts the device from
a configuration record, a power-on or a restart; it is then what the CODE and UNITS of that record say, the record has
verified, and it binds this device: its DEV_KEY_HASH is that of the identity key which this start, or the power-on
before the restart, derived. -/
def Obligations.PartChangesAtStart : Prop :=
  ∀ s t : State, step s = .next t →
    t.dev.part = s.dev.part ∨
    ∃ p : PowerOn, (s.pending.head? = some (.powerOn p) ∨ s.pending.head? = some (.restart p)) ∧
      p.recordOk = true ∧ codeOf p.record.code.toNat = some t.dev.part.code ∧ t.dev.part.units = p.record.units ∧
      (s.pending.head? = some (.powerOn p) → p.keyOk = true ∧ p.record.keyHash = p.idHash) ∧
      (s.pending.head? = some (.restart p) → s.dev.ltn.seed.isSome = true ∧ p.record.keyHash = s.dev.ltn.idHash)

/-- What reset leaves: no command waits; every S-core is at Keeper level, runs nothing and holds no reservation; every
token is FREE; no group, store or miss is there; nothing is held in Local or the Commons; every window has CREDITS,
SEQ and DROP zero; no error record is valid; and registers read their values of Table 19.2. -/
def Obligations.ResetLeaves : Prop :=
  State.reset.pending = [] ∧
  (∀ n, (State.reset.dev.cl n).s.level = .keeper ∧ (State.reset.dev.cl n).run = none ∧ (State.reset.dev.cl n).s.resv = none ∧
    (∀ k, ((State.reset.dev.cl n).tok k).st = .free) ∧ (State.reset.dev.cl n).groups = [] ∧ (State.reset.dev.cl n).qS = [] ∧
    (State.reset.dev.cl n).buf = [] ∧ (State.reset.dev.cl n).misses = []) ∧
  State.reset.dev.memoriesWf ∧ State.reset.dev.commons.cells = [] ∧
  (∀ f n, (State.reset.dev.win f n).credits = 0 ∧ (State.reset.dev.win f n).seq = 0 ∧ (State.reset.dev.win f n).drop = 0) ∧
  State.reset.dev.errs.recs = [] ∧
  State.reset.dev.reg 0x10000 = 0 ∧ State.reset.dev.reg 0x20008 = 0xF852 ∧ State.reset.dev.reg 0x20014 = 0xFFFF ∧
  State.reset.dev.reg 0x800000 = 0x231 ∧ State.reset.dev.reg 0x14000 = 0

/-- A store of bytes of a word writes exactly the bytes that its mask selects (R86): of every other byte of the memory,
and of the other bytes of the word, a read gives what it gave before. Into a word that reads uncorrectable, a store of
part of the word is discarded: a poisoned word stays as it is, and one met for the first time gets the poison pattern.
A store of the whole word replaces either and clears the mark. -/
def Obligations.MergeWritesItsBytes : Prop :=
  ∀ (m : Mem) (id w : Nat) (mask : BitVec 8) (v : Word), (m.mark w = .written →
    (m.mergeW id w mask v).2 = none ∧
    (m.mergeW id w mask v).1.mark w = .written ∧
    (∀ k, k < 8 → (m.mergeW id w mask v).1.byte (8 * w + k) =
      if mask.getLsbD k then BitVec.ofNat 8 (v.toNat >>> (8 * k)) else m.byte (8 * w + k)) ∧
    ∀ x, x / 8 ≠ w → (m.mergeW id w mask v).1.byte x = m.byte x ∧ (m.mergeW id w mask v).1.mark (x / 8) = m.mark (x / 8)) ∧
  (m.mark w = .poisoned ∨ m.mark w = .damaged →
    (mask ≠ 0xFF → mask ≠ 0 → (m.mark w = .poisoned → m.mergeW id w mask v = (m, some false)) ∧
      (m.mark w = .damaged → m.mergeW id w mask v = (m.poison w, some true) ∧ (m.poison w).mark w = .poisoned)) ∧
    (mask = 0xFF → (m.mergeW id w mask v).2 = none ∧ (m.mergeW id w mask v).1.mark w = .written ∧
      ∀ k, k < 8 → (m.mergeW id w mask v).1.byte (8 * w + k) = BitVec.ofNat 8 (v.toNat >>> (8 * k))))

/-- Every instruction's words, formed by the formats of Tables 3.4 and 3.5 with the OP and selector of Table 3.10, decode
to that instruction with every operand as it was, whatever the operands hold; `ecall` names its service in s10. A word
whose OP the table does not list is no instruction, and the all-zero word is none. -/
def Obligations.WordsDecode : Prop :=
  ∀ (a : Agent) (s10 : Word),
    (∀ f : FmtRR, ∀ p ∈ [(0x00, Instr.add a f), (0x01, Instr.sub a f), (0x02, Instr.and a f), (0x03, Instr.or a f), (0x04,
      Instr.xor a f), (0x05, Instr.sll a f), (0x06, Instr.srl a f), (0x07, Instr.sra a f), (0x08, Instr.slt a f), (0x09,
      Instr.sltu a f), (0x0A, Instr.mul a f), (0x0B, Instr.mulh a f), (0x0C, Instr.mulhu a f), (0x0D, Instr.div a f), (0x0E,
      Instr.divu a f), (0x0F, Instr.rem a f), (0x10, Instr.remu a f), (0x11, Instr.min a f), (0x12, Instr.max a f), (0x13,
      Instr.minu a f), (0x14, Instr.maxu a f)], decodeInstr a s10 (encRR 0x02 p.1 f) = some p.2) ∧
    (∀ f : FmtRI, ∀ p ∈ [(0x04, Instr.addi a f), (0x06, Instr.andi a f), (0x08, Instr.ori a f), (0x0A, Instr.xori a f), (0x0C,
      Instr.slti a f), (0x0E, Instr.sltiu a f), (0x10, Instr.slli a f), (0x12, Instr.srli a f), (0x14, Instr.srai a f), (0x2C,
      Instr.jalr a f)], decodeInstr a s10 (encRI p.1 f) = some p.2) ∧
    (∀ f : FmtUI, ∀ p ∈ [(0x16, Instr.cstM a f), (0x18, Instr.cstH a f), (0x36, Instr.cstPc a f)], decodeInstr a s10 (encUI
      p.1 f) = some p.2) ∧
    (∀ f : FmtMB, ∀ p ∈ [(0x1A, Instr.ld a f false), (0x1C, Instr.st a f), (0x1E, Instr.ldRo a f)], decodeInstr a s10 (encMB
      p.1 f) = some p.2) ∧
    (∀ f : FmtMA, ∀ p ∈ [(0, Instr.ldAcq a f), (1, Instr.stRel a f), (2, Instr.ldResv a f), (3, Instr.stCond a f)],
      decodeInstr a s10 (encMA 0x20 p.1 f) = some p.2) ∧
    (∀ f : FmtMA, ∀ p ∈ [(0, Instr.amoAdd a f), (1, Instr.amoAnd a f), (2, Instr.amoOr a f), (3, Instr.amoXor a f)],
      decodeInstr a s10 (encMA 0x22 p.1 f) = some p.2) ∧
    (∀ f : FmtMA, ∀ p ∈ [(0, Instr.amoMin a f), (1, Instr.amoMax a f), (2, Instr.amoMinu a f), (3, Instr.amoMaxu a f)],
      decodeInstr a s10 (encMA 0x24 p.1 f) = some p.2) ∧
    (∀ f : FmtMA, ∀ p ∈ [(0, Instr.amoSwap a f), (1, Instr.amoCas a f), (2, Instr.amoFadd a f)], decodeInstr a s10 (encMA 0x26
      p.1 f) = some p.2) ∧
    (∀ f : FmtBR, ∀ p ∈ [(0, Instr.beq a f), (1, Instr.bne a f), (2, Instr.blt a f), (3, Instr.bge a f), (4, Instr.bltu a f),
      (5, Instr.bgeu a f)], decodeInstr a s10 (encBR p.1 f) = some p.2) ∧
    (∀ f : FmtJL, decodeInstr a s10 (encJL f) = some (.jal a f)) ∧
    (∀ f : FmtSY, ∀ p ∈ [(0, Instr.csrr a f), (1, Instr.csrw a f), (2, Instr.csrs a f), (3, Instr.csrc a f), (5, Instr.eret a
      f), (6, Instr.ebreak a f false), (8, Instr.fenceI a f), (9, Instr.wfc a f), (10, Instr.cmdDone a f)], decodeInstr a s10
      (encSY p.1 f) = some p.2) ∧
    (∀ f : FmtSY, ∀ p ∈ [(0, Instr.fenceCo a f), (1, Instr.fenceCl a f), (2, Instr.fenceSy a f)], f.sys.toNat % 4 = p.1 →
      decodeInstr a s10 (encSY 7 f) = some p.2) ∧
    (∀ f : FmtSY, decodeInstr a s10 (encSY 4 f) = some (if s10 = 0x0101 then .clearPorterChannel a f
      else if s10 = 0x0102 then .clearGatherChannel a f else if s10 = 0x0201 then .startCollective a f else .ecallUnassignedService a f)) ∧
    (∀ f : FmtTK, ∀ p ∈ [(0, Instr.mxIssue a f false), (1, Instr.tokWait a f), (2, Instr.tokTest a f), (3, Instr.tokClr a f)],
      decodeInstr a s10 (encTK 0x32 p.1 f) = some p.2) ∧
    (∀ f : FmtTK, ∀ p ∈ [(0, Instr.cpIssue a f), (1, Instr.gtIssue a f), (2, Instr.grpStart a f)], decodeInstr a s10 (encTK
      0x34 p.1 f) = some p.2) ∧
    (∀ f : FmtGL, ∀ p ∈ [(0, Instr.vAdd a f), (1, Instr.vSub a f), (2, Instr.vMul a f), (3, Instr.vAnd a f), (4, Instr.vOr a
      f), (5, Instr.vXor a f), (6, Instr.vShl a f), (7, Instr.vShr a f), (8, Instr.vSra a f), (9, Instr.vMin a f), (10,
      Instr.vMax a f), (11, Instr.vSetp a f), (12, Instr.vSel a f), (13, Instr.vMov a f)], decodeInstr a s10 (wordGL 0x01 p.1 f)
      = some p.2) ∧
    (∀ f : FmtGL, ∀ p ∈ [(0, Instr.vFadd a f), (1, Instr.vFmul a f), (2, Instr.vFma a f), (3, Instr.vFmin a f), (4,
      Instr.vFmax a f), (5, Instr.vCvt a f), (6, Instr.vRcp a f), (7, Instr.vRsqrt a f), (8, Instr.vExp2 a f), (9, Instr.vLog2 a
      f), (10, Instr.vFsetp a f)], decodeInstr a s10 (wordGL 0x03 p.1 f) = some p.2) ∧
    (∀ f : FmtGL, ∀ p ∈ [(0, Instr.xchPick a f), (1, Instr.xchLo a f), (2, Instr.xchHi a f), (3, Instr.xchSwz a f), (4,
      Instr.pollAny a f), (5, Instr.pollAll a f), (6, Instr.pollMask a f)], decodeInstr a s10 (wordGL 0x05 p.1 f) = some p.2) ∧
    (∀ f : FmtGL, ∀ p ∈ [(0, Instr.fragLd a f), (1, Instr.fragSt a f), (2, Instr.fragMma a f), (3, Instr.fragFill a f)],
      decodeInstr a s10 (wordGL 0x07 p.1 f) = some p.2) ∧
    (∀ f : FmtGM, ∀ p ∈ [(0x09, Instr.vLd a f), (0x0B, Instr.vSt a f), (0x0D, Instr.vLdRo a f)], decodeInstr a s10 (wordGM p.1
      f) = some p.2) ∧
    (∀ f : FmtGM, ∀ p ∈ [(0, Instr.vAtomAdd a f), (1, Instr.vAtomAnd a f), (2, Instr.vAtomOr a f), (3, Instr.vAtomXor a f),
      (4, Instr.vAtomMin a f), (5, Instr.vAtomMax a f), (6, Instr.vAtomMinu a f), (7, Instr.vAtomMaxu a f), (8, Instr.vAtomSwap
      a f), (9, Instr.vAtomCas a f), (10, Instr.vAtomFadd a f)], f.aop.toNat = p.1 → decodeInstr a s10 (wordGM 0x0F f) = some
      p.2) ∧
    (∀ f : FmtGC, ∀ p ∈ [(0, Instr.vBra a f), (1, Instr.vJoin a f), (2, Instr.vExit a f)], decodeInstr a s10 (wordGC p.1 f) =
      some p.2) ∧
    (∀ w : Word, opOf w ∉ [0x01, 0x02, 0x03, 0x04, 0x05, 0x06, 0x07, 0x08, 0x09, 0x0A, 0x0B, 0x0C, 0x0D, 0x0E, 0x0F, 0x10, 0x11, 0x12, 0x14, 0x16,
      0x18, 0x1A, 0x1C, 0x1E, 0x20, 0x22, 0x24, 0x26, 0x28, 0x2A, 0x2C, 0x2E, 0x32, 0x34, 0x36] → decodeInstr a s10 w = none) ∧
    decodeInstr a s10 0 = none

/-! ## SV-S: registers, constants, branches -/

/-- The register forms of Table 3.11: each completes, writes the operation's result of rs1 and rs2 to rd, and the agent
moves past it. The immediate forms and the constants of Tables 3.6 and 3.11 complete with their results; a shift by an
immediate does so when IMM13[12:6] is zero, and is ILLEGAL_INSTRUCTION otherwise. -/
def Obligations.RegisterInstructionsComplete : Prop :=
  (∀ (s : State) (a : Agent) (f : FmtRR), s.canIssue a →
    let x := s.dev.rd a f.rs1.toNat
    let y := s.dev.rd a f.rs2.toNat
    let n := y.toNat % 128
    let R := fun v : Word => s.gives fun d => (d.wr a f.rd.toNat v).past a 4
    exec (.add a f) s = R (x + y) ∧ exec (.sub a f) s = R (x - y) ∧
    exec (.and a f) s = R (x &&& y) ∧ exec (.or a f) s = R (x ||| y) ∧ exec (.xor a f) s = R (x ^^^ y) ∧
    exec (.sll a f) s = R (if 64 ≤ n then 0 else x <<< n) ∧
    exec (.srl a f) s = R (if 64 ≤ n then 0 else x >>> n) ∧
    exec (.sra a f) s = R (if 64 ≤ n then (if x.msb then BitVec.allOnes 64 else 0) else x.sshiftRight n) ∧
    exec (.slt a f) s = R (if x.toInt < y.toInt then 1 else 0) ∧
    exec (.sltu a f) s = R (if x.toNat < y.toNat then 1 else 0) ∧
    exec (.mul a f) s = R (BitVec.ofNat 64 (x.toNat * y.toNat)) ∧
    exec (.mulh a f) s = R (BitVec.ofInt 64 (x.toInt * y.toInt / 2 ^ 64)) ∧
    exec (.mulhu a f) s = R (BitVec.ofNat 64 (x.toNat * y.toNat / 2 ^ 64)) ∧
    exec (.div a f) s = R (div64 x y) ∧ exec (.divu a f) s = R (divu64 x y) ∧
    exec (.rem a f) s = R (rem64 x y) ∧ exec (.remu a f) s = R (remu64 x y) ∧
    exec (.min a f) s = R (if x.toInt ≤ y.toInt then x else y) ∧ exec (.max a f) s = R (if x.toInt ≤ y.toInt then y else x) ∧
    exec (.minu a f) s = R (if x.toNat ≤ y.toNat then x else y) ∧ exec (.maxu a f) s = R (if x.toNat ≤ y.toNat then y else x)) ∧
  (∀ (s : State) (a : Agent), s.canIssue a →
    (∀ f : FmtRI,
      let x := s.dev.rd a f.rs1.toNat
      let R := fun v : Word => s.gives fun d => (d.wr a f.rd.toNat v).past a 4
      let n := f.imm.toNat
      exec (.addi a f) s = R (x + f.imm.signExtend 64) ∧ exec (.andi a f) s = R (x &&& f.imm.setWidth 64) ∧
      exec (.ori a f) s = R (x ||| f.imm.setWidth 64) ∧ exec (.xori a f) s = R (x ^^^ f.imm.setWidth 64) ∧
      exec (.slti a f) s = R (if x.toInt < f.imm.toInt then 1 else 0) ∧
      exec (.sltiu a f) s = R (if x.toNat < n then 1 else 0) ∧
      (n < 64 → exec (.slli a f) s = R (x <<< n) ∧ exec (.srli a f) s = R (x >>> n) ∧ exec (.srai a f) s = R (x.sshiftRight n)) ∧
      (64 ≤ n → exec (.slli a f) s = (s.gives fun d => d.trapped a cILLEGAL (encRI 0x10 f)) ∧
        exec (.srli a f) s = (s.gives fun d => d.trapped a cILLEGAL (encRI 0x12 f)) ∧
        exec (.srai a f) s = (s.gives fun d => d.trapped a cILLEGAL (encRI 0x14 f)))) ∧
    ∀ f : FmtUI,
      let R := fun v : Word => s.gives fun d => (d.wr a f.rd.toNat v).past a 4
      let k : Word := f.imm.signExtend 64
      exec (.cstM a f) s = R (k <<< 13) ∧ exec (.cstH a f) s = R (k <<< 32) ∧
      exec (.cstPc a f) s = R (BitVec.ofNat 64 (s.dev.pc a) + (k <<< 13)))

/-- Integer division as R87 states it, case by case, and quotient and remainder make up the dividend in all other cases.
An agent that issues a division completes it whatever the operands: it never traps. -/
def Obligations.DivisionCorners : Prop :=
  ∀ x y : Word,
    (0 ≤ x.toInt → div64 x 0 = 0x7FFFFFFFFFFFFFFF) ∧ (x.toInt < 0 → div64 x 0 = 0x8000000000000000) ∧
    divu64 x 0 = BitVec.allOnes 64 ∧ rem64 x 0 = 0 ∧ remu64 x 0 = 0 ∧
    div64 0x8000000000000000 (BitVec.ofInt 64 (-1)) = 0x7FFFFFFFFFFFFFFF ∧
    rem64 0x8000000000000000 (BitVec.ofInt 64 (-1)) = 0 ∧
    (y ≠ 0 → ¬(x = 0x8000000000000000 ∧ y.toInt = -1) →
      (div64 x y).toInt = x.toInt.tdiv y.toInt ∧ (rem64 x y).toInt = x.toInt.tmod y.toInt ∧
      (div64 x y).toInt * y.toInt + (rem64 x y).toInt = x.toInt) ∧
    (y ≠ 0 → (divu64 x y).toNat = x.toNat / y.toNat ∧ (remu64 x y).toNat = x.toNat % y.toNat) ∧
    ∀ (s : State) (a : Agent) (f : FmtRR), s.canIssue a → s.dev.rd a f.rs1.toNat = x → s.dev.rd a f.rs2.toNat = y →
      let R := fun v : Word => s.gives fun d => (d.wr a f.rd.toNat v).past a 4
      exec (.div a f) s = R (div64 x y) ∧ exec (.divu a f) s = R (divu64 x y) ∧
      exec (.rem a f) s = R (rem64 x y) ∧ exec (.remu a f) s = R (remu64 x y)

/-- The register files of R71: register 0 reads zero and discards writes; any other register reads what was last written
to it, and a write leaves every other register of its agent and every register of every other agent alone. -/
def Obligations.RegisterFile : Prop :=
  ∀ (d : Dev) (a : Agent) (v : Word) (r q : Nat), Agent.ok a = true → (a.isGroup = true → (d.grp a).isSome = true) →
    d.rd a 0 = 0 ∧ d.wr a 0 v = d ∧
    (d.wr a r v).rd a q = (if q = 0 then 0 else if q = r then v else d.rd a q) ∧
    ∀ b, Agent.ok b = true → b ≠ a → (d.wr a r v).rd b q = d.rd b q

/-- Branches complete (R91, Table 3.6): not taken they go past, taken they go to pc + sext(OFF10) × 4 when that is below
2^48 (R78); no register but the pc changes. Jumps complete: rd receives the instruction address + 4 and the agent is
at the target; rs1 is read before rd is written. A `jalr` to an address with bits [1:0] not zero takes MISALIGNED with
no register changed. -/
def Obligations.ControlFlowComplete : Prop :=
  (∀ (s : State) (a : Agent) (f : FmtBR), s.canIssue a →
    let x := s.dev.rd a f.rs1.toNat
    let y := s.dev.rd a f.rs2.toNat
    let t : Word := BitVec.ofNat 64 (s.dev.pc a) + f.off.signExtend 64 * 4
    let go := fun c : Bool => if c then s.gives fun d => d.reached a t.toNat else s.gives fun d => d.past a 4
    targetTrap t = none →
    exec (.beq a f) s = go (decide (x = y)) ∧ exec (.bne a f) s = go (decide (x ≠ y)) ∧
    exec (.blt a f) s = go (decide (x.toInt < y.toInt)) ∧ exec (.bge a f) s = go (decide (y.toInt ≤ x.toInt)) ∧
    exec (.bltu a f) s = go (decide (x.toNat < y.toNat)) ∧ exec (.bgeu a f) s = go (decide (y.toNat ≤ x.toNat))) ∧
  (∀ (s : State) (a : Agent), s.canIssue a →
    (∀ f : FmtJL, let t : Word := BitVec.ofNat 64 (s.dev.pc a) + f.off.signExtend 64 * 4
      targetTrap t = none →
      exec (.jal a f) s = s.gives fun d => (d.wr a f.rd.toNat (BitVec.ofNat 64 (s.dev.pc a + 4))).reached a t.toNat) ∧
    ∀ f : FmtRI, let t : Word := s.dev.rd a f.rs1.toNat + f.imm.signExtend 64
      (targetTrap t = none →
        exec (.jalr a f) s = s.gives fun d => (d.wr a f.rd.toNat (BitVec.ofNat 64 (s.dev.pc a + 4))).reached a t.toNat) ∧
      (t.toNat % 4 ≠ 0 → exec (.jalr a f) s = s.gives fun d => d.trapped a cMISALIGNED t))

/-- The frame of the register instructions of an S-core: a calm cluster's S-core changes nothing but rd, its pc and its
count of retired instructions. s0 stays zero. Where the debug block steps the core, the core is halted then and its
reservation has ended (R101, R275). -/
def Obligations.RegisterFormsFrame : Prop :=
  ∀ (s : State) (n : Nat) (f : FmtRR) (g : FmtRI) (u : FmtUI) (c : Instr) (rd : BitVec 6), s.canIssue (.sCore n) →
    s.dev.calm n = true →
    (c ∈ [Instr.add (.sCore n) f, .sub (.sCore n) f, .and (.sCore n) f, .or (.sCore n) f, .xor (.sCore n) f, .sll (.sCore n) f,
        .srl (.sCore n) f, .sra (.sCore n) f, .slt (.sCore n) f, .sltu (.sCore n) f, .mul (.sCore n) f, .mulh (.sCore n) f,
        .mulhu (.sCore n) f, .div (.sCore n) f, .divu (.sCore n) f, .rem (.sCore n) f, .remu (.sCore n) f, .min (.sCore n) f,
        .max (.sCore n) f, .minu (.sCore n) f, .maxu (.sCore n) f] ∧ rd = f.rd ∨
      c ∈ [Instr.addi (.sCore n) g, .andi (.sCore n) g, .ori (.sCore n) g, .xori (.sCore n) g, .slti (.sCore n) g,
        .sltiu (.sCore n) g] ∧ rd = g.rd ∨
      c ∈ [Instr.slli (.sCore n) g, .srli (.sCore n) g, .srai (.sCore n) g] ∧ g.imm.toNat < 64 ∧ rd = g.rd ∨
      c ∈ [Instr.cstM (.sCore n) u, .cstH (.sCore n) u, .cstPc (.sCore n) u] ∧ rd = u.rd) →
    ∃ t, exec c s = .next t ∧ t.pending = s.pending ∧
      (∀ r, r ≠ rd.toNat → t.dev.rd (.sCore n) r = s.dev.rd (.sCore n) r) ∧ t.dev.rd (.sCore n) 0 = 0 ∧
      (t.dev.cl n).s.retired = (s.dev.cl n).s.retired + 1 ∧
      (t.dev.cl n).s.pc = BitVec.ofNat 48 ((s.dev.cl n).s.pc.toNat + 4) ∧
      t.dev.tr (.sCore n) = s.dev.tr (.sCore n) ∧ t.dev.level (.sCore n) = s.dev.level (.sCore n) ∧
      (t.dev.cl n).s.ctx = (s.dev.cl n).s.ctx ∧ (t.dev.cl n).s.func = (s.dev.cl n).s.func ∧
      ((s.dev.dbg (.sCore n)).stepping = false → t.dev.resvOf (.sCore n) = s.dev.resvOf (.sCore n) ∧ t.dev.coh = s.dev.coh ∧
        t.dev.dbg (.sCore n) = s.dev.dbg (.sCore n)) ∧
      ((s.dev.dbg (.sCore n)).stepping = true → t.dev.resvOf (.sCore n) = none ∧ (t.dev.dbg (.sCore n)).halted = true ∧
        (t.dev.dbg (.sCore n)).reason = 2 ∧ t.dev.coh.net = s.dev.coh.net ∧ t.dev.coh.dir = s.dev.coh.dir ∧ t.dev.coh.reps = s.dev.coh.reps) ∧
      (t.dev.cl n).tokens = (s.dev.cl n).tokens ∧
      (t.dev.cl n).groups = (s.dev.cl n).groups ∧ (t.dev.cl n).qS = (s.dev.cl n).qS ∧ (t.dev.cl n).buf = (s.dev.cl n).buf ∧
      (∀ m, m ≠ n → t.dev.cl m = s.dev.cl m) ∧ (∀ o, t.dev.reg o = s.dev.reg o) ∧
      (∀ sp x, (t.dev.mem sp).byte x = (s.dev.mem sp).byte x) ∧ t.dev.errs = s.dev.errs

/-! ## Scalar memory -/

/-- A load from Local completes: with an aligned address that the agent may read, a word that has been written, and no
store of the word in the queue, `ld`, `ld.ro` and `ld` or `ld.acq` of format MA write the addressed bytes to rd,
extended as SIZE or SZ says; from an acquire on, data that were taken before it serve no later load. A read may meet a
corrected symbol (R388), which no register shows. A store completes when its core's queue has room: it puts the low
bytes of its register at the end of the queue, as one entry that names the address and the size, and writes no memory
yet. -/
def Obligations.LocalMemoryComplete : Prop :=
  (∀ (s : State) (a : Agent), s.canIssue a →
    let got := fun (addr n : Nat) => ((s.dev.mem (.loc a.cluster)).word (addr / 8)).toNat / 256 ^ (addr % 8) % 256 ^ n
    let readable := fun (addr : Nat) => addr < localSize ∧ (s.dev.mem (.loc a.cluster)).mark (addr / 8) = .written ∧
      s.dev.noStoreMeets a (addr / 8 * 8) 8 = true
    (∀ f : FmtMB, let addr := s.dev.addrMB a f
      let n := sizeBytes f.size.toNat
      f.size ≠ 7 → readable addr →
      (s.dev.accessTrap a .load (decide (n < 4)) false addr n = none →
        exec (.ld a f false) s = s.gives fun d =>
          ((d.wr a f.rd.toNat (extend f.size.toNat (got addr n))).upset (.loc a.cluster) (addr / 8)).past a 4) ∧
      (s.dev.accessTrap a .loadRo true false addr n = none →
        exec (.ldRo a f) s = s.gives fun d =>
          ((d.wr a f.rd.toNat (extend f.size.toNat (got addr n))).upset (.loc a.cluster) (addr / 8)).past a 4)) ∧
    ∀ f : FmtMA, let addr := s.dev.addrMA a f
      let n := szBytes f.sz
      marksOk true false f.mark f.scope = true → readable addr → s.dev.accessTrap a .load true false addr n = none →
      exec (.ldAcq a f) s = s.gives fun d =>
        (((if f.mark = 0 then d else d.freshen a none).wr a f.rd.toNat (extendSz n (BitVec.ofNat 64 (got addr n)))).upset
          (.loc a.cluster) (addr / 8)).past a 4) ∧
  (∀ (s : State) (a : Agent), s.canIssue a →
    let q := (s.dev.cl a.cluster).q a.core
    let entry := fun (c : Cluster) (addr n : Nat) (v : Word) (relSy : Bool) =>
      StoreEntry.mk c.sseq a [ByteRun.mk addr n (BitVec.ofNat 64 (v.toNat % 256 ^ n))] relSy
    let R := fun (addr n : Nat) (v : Word) (relSy : Bool) => s.gives fun d =>
      ((d.onCl a.cluster fun c => { c.setQ a.core (q ++ [entry c addr n v relSy]) with sseq := c.sseq + 1 }).ownStore a
        [(addr, n)]).past a 4
    q.length < queueCap a.core →
    (∀ f : FmtMB, let addr := s.dev.addrMB a f
      let n := sizeBytes f.size.toNat
      f.size.toNat < 4 → s.dev.accessTrap a .store (decide (n < 4)) false addr n = none → inDevSpace addr = false →
      exec (.st a f) s = R addr n (s.dev.rd a f.rd.toNat) false) ∧
    ∀ f : FmtMA, let addr := s.dev.addrMA a f
      let n := szBytes f.sz
      marksOk false true f.mark f.scope = true → s.dev.accessTrap a .store true false addr n = none →
      exec (.stRel a f) s = R addr n (s.dev.rd a f.rs2.toNat) (decide (f.mark = 2 ∧ f.scope = 2)))

/-- The frame of the scalar stores of an S-core outside the device register space: a calm cluster's S-core keeps every
register, and no byte of any memory and no device register changes. The bytes stored, at `addr`, wait in the queue. -/
def Obligations.StoreFrame : Prop :=
  ∀ (s : State) (n : Nat) (f : FmtMB) (t : State), s.canIssue (.sCore n) → s.dev.calm n = true → f.size.toNat < 4 →
    let addr := s.dev.addrMB (.sCore n) f
    let k := sizeBytes f.size.toNat
    s.dev.accessTrap (.sCore n) .store (decide (k < 4)) false addr k = none → inDevSpace addr = false →
    (s.dev.cl n).qS.length < 16 → exec (.st (.sCore n) f) s = .next t →
    (∀ r, t.dev.rd (.sCore n) r = s.dev.rd (.sCore n) r) ∧
    (∀ sp x, (t.dev.mem sp).byte x = (s.dev.mem sp).byte x ∧ (t.dev.mem sp).mark x = (s.dev.mem sp).mark x) ∧
    (∀ o, t.dev.reg o = s.dev.reg o) ∧ (t.dev.cl n).buf = (s.dev.cl n).buf ∧ (t.dev.cl n).q0 = (s.dev.cl n).q0 ∧
    (t.dev.cl n).q1 = (s.dev.cl n).q1 ∧ t.dev.tr (.sCore n) = s.dev.tr (.sCore n) ∧ (∀ m, m ≠ n → t.dev.cl m = s.dev.cl m) ∧
    ∃ e, (t.dev.cl n).qS = (s.dev.cl n).qS ++ [e] ∧ e.by_ = .sCore n ∧ e.runs.map ByteRun.addr = [addr] ∧
      e.runs.map ByteRun.n = [k]

/-- When a Local store at the head of an S-core's queue leaves it, the bytes it names, and only those, are written: every
other byte of that Local and every byte of every other memory stays. -/
def Obligations.DrainWritesItsBytes : Prop :=
  ∀ (s : State) (n : Nat) (e : StoreEntry) (r : ByteRun) (rest : List StoreEntry), n < 384 → s.dev.present n = true →
    s.dev.calm n = true → (s.dev.cl n).qS = e :: rest → e.runs = [r] → r.addr + r.n ≤ localSize → 1 ≤ r.n → r.addr % 8 + r.n ≤ 8 →
    e.relSy = false → s.dev.pwr.stopped = false → (s.dev.cl n).buf.length ≤ 64 → (s.dev.mem (.loc n)).mark (r.addr / 8) = .written →
    ∃ t, exec (.storeQueueDrain n .s) s = .next t ∧ (t.dev.cl n).qS = rest ∧
      (∀ x, r.addr ≤ x → x < r.addr + r.n → (t.dev.mem (.loc n)).byte x = BitVec.ofNat 8 (r.val.toNat >>> (8 * (x - r.addr)))) ∧
      (∀ x, x < r.addr ∨ r.addr + r.n ≤ x → (t.dev.mem (.loc n)).byte x = (s.dev.mem (.loc n)).byte x) ∧
      ∀ sp x, sp ≠ .loc n → (t.dev.mem sp).byte x = (s.dev.mem sp).byte x

/-- An atomic on a written word of Local completes at once: memory takes the operation's result of the old value and rs2
(and rd for `amo.cas`), rd receives the old value, sign-extended when SZ = 0, and `fadd` records its flags. `ld.resv`
of a written word of Local completes: rd receives the word's bytes and the agent holds a reservation of the address
and size. `st.cond` completes: without such a reservation it writes 1 to rd and stores nothing; with one it stores and
writes 0, unless it fails for a reason not visible to software (R275), which it does not twice in a row (R276); and no
reservation is left. -/
def Obligations.AtomicsComplete : Prop :=
  (∀ (s : State) (a : Agent) (f : FmtMA), s.canIssue a →
    let addr := s.dev.addrMA a f
    let n := szBytes f.sz
    let op := fun fn : AmoFn => Atm.mk a fn addr n [(32, s.dev.rd a f.rs2.toNat, s.dev.rd a f.rd.toNat)] false
    let R := fun fn : AmoFn => s.gives fun d =>
      let x := (d.ownStore a [(addr, n)]).localAtm a (op fn)
      (((x.1.atomFlags a (op fn) (x.2.getD [])).freshen a none).putAtom a f.rd.toNat n (x.2.getD [])).past a 4
    marksOk true true f.mark f.scope = true → s.dev.accessTrap a .atomic true false addr n = none → addr < localSize →
    (s.dev.mem (.loc a.cluster)).mark (addr / 8) = .written →
    s.dev.atomWaits a f.mark.toNat f.scope.toNat [op .add] = false →
    exec (.amoAdd a f) s = R .add ∧ exec (.amoAnd a f) s = R .and ∧ exec (.amoOr a f) s = R .or ∧ exec (.amoXor a f) s = R .xor ∧
    exec (.amoMin a f) s = R .min ∧ exec (.amoMax a f) s = R .max ∧ exec (.amoMinu a f) s = R .minu ∧
    exec (.amoMaxu a f) s = R .maxu ∧ exec (.amoSwap a f) s = R .swap ∧ exec (.amoCas a f) s = R .cas ∧
    exec (.amoFadd a f) s = R .fadd) ∧
  (∀ (s : State) (a : Agent) (f : FmtMA), s.canIssue a →
    let addr := s.dev.addrMA a f
    let n := szBytes f.sz
    addr < localSize →
    (marksOk true false f.mark f.scope = true → s.dev.accessTrap a .load true false addr n = none →
      s.dev.atomWaits a 0 0 [resvAtm a addr n] = false → (s.dev.mem (.loc a.cluster)).mark (addr / 8) = .written →
      exec (.ldResv a f) s = s.gives fun d =>
        (((((d.endResv a).freshen a none).setResv a (some { addr := addr, n := n, commons := false })).wr a f.rd.toNat
          (extendSz n (BitVec.ofNat 64 (((d.mem (.loc a.cluster)).word (addr / 8)).toNat / 256 ^ (addr % 8) % 256 ^ n))))).past a 4) ∧
    (marksOk false true f.mark f.scope = true → s.dev.accessTrap a .store true false addr n = none →
      s.dev.atomWaits a f.mark.toNat f.scope.toNat [resvAtm a addr n] = false →
      (s.dev.resvHolds a addr n = false → exec (.stCond a f) s = s.gives fun d => ((d.endResv a).wr a f.rd.toNat 1).past a 4) ∧
      (s.dev.resvHolds a addr n = true → exec (.stCond a f) s = s.gives fun d =>
        let x := if d.stFailed a then (0, d) else d.choose 2
        let y := (x.2.setStFail a (decide (x.1 = 1))).endResv a
        if x.1 = 1 then (y.wr a f.rd.toNat 1).past a 4
        else ((y.localStore a.cluster (some a)
          { addr := addr, n := n, val := BitVec.ofNat 64 ((d.rd a f.rs2.toNat).toNat % 256 ^ n) }).wr a f.rd.toNat 0).past a 4)))

/-- What the integer atomics of an S-core put into memory and into the lane that asked (Table 3.11, R90), as functions of
the old value and the operand of `n` bytes, 4 or 8. -/
def Obligations.AtomicResults : Prop :=
  ∀ (t : Atm) (l : Nat) (v cmp old : Word), (t.n = 4 ∨ t.n = 8) → t.lanes = [(l, v, cmp)] → old.toNat < 256 ^ t.n →
    let m := 256 ^ t.n
    (t.fn ≠ .fadd → (t.apply old).2 = [(l, old)]) ∧
    (t.fn = .add → (t.apply old).1.toNat = (old.toNat + v.toNat) % m) ∧
    (t.fn = .and → (t.apply old).1.toNat = Nat.land old.toNat (v.toNat % m)) ∧
    (t.fn = .or → (t.apply old).1.toNat = Nat.lor old.toNat (v.toNat % m)) ∧
    (t.fn = .xor → (t.apply old).1.toNat = Nat.xor old.toNat (v.toNat % m)) ∧
    (t.fn = .swap → (t.apply old).1.toNat = v.toNat % m) ∧
    (t.fn = .cas → (t.apply old).1.toNat = if old.toNat = cmp.toNat % m then v.toNat % m else old.toNat) ∧
    (t.fn = .minu → (t.apply old).1.toNat = min old.toNat (v.toNat % m)) ∧
    (t.fn = .maxu → (t.apply old).1.toNat = max old.toNat (v.toNat % m)) ∧
    (t.fn = .min → signedOf t.n (t.apply old).1 = min (signedOf t.n old) (signedOf t.n v)) ∧
    (t.fn = .max → signedOf t.n (t.apply old).1 = max (signedOf t.n old) (signedOf t.n v))

/-- Isolation: at Guest level, no scalar load, store, reservation or atomic reaches Local outside the context's share or
the Keeper area, the device register space, or a Commons address that R214 leaves unmapped. An aligned access there
takes ADDRESS_UNMAPPED (PRIVILEGE in the device register space) with TVAL the address, so that no register but the
trap's own and no memory changes: the next state is that of the trap alone. A command slot in a running command stays
readable. -/
def Obligations.GuestIsolation : Prop :=
  ∀ (s : State) (a : Agent) (b : FmtMB) (f : FmtMA), s.canIssue a → s.dev.level a = .guest →
    let ctx := (s.dev.cl a.cluster).s.ctx.toNat
    let slot := fun addr n : Nat => (s.dev.cl a.cluster).s.cmd.toNat ≤ addr ∧ addr + n ≤ (s.dev.cl a.cluster).s.cmd.toNat + 64
    let closed := fun (load : Bool) (addr n : Nat) => addr % n = 0 ∧
      ((addr < localSize ∧ (addr < (s.dev.share ctx).1 ∨ (s.dev.share ctx).2 < addr + n ∨ keeperArea < addr + n) ∧
          (load = true → ¬slot addr n)) ∨
        (localSize ≤ addr ∧ addr < commonsBase) ∨
        (commonsBase ≤ addr ∧ addr < devBase ∧ s.dev.partAt addr = none) ∨
        (commonsBase ≤ addr ∧ addr < devBase ∧ ∃ p, s.dev.partAt addr = some p ∧
          s.dev.partFunc p ≠ (s.dev.cl a.cluster).s.func.toNat ∧ s.dev.partRo p = false))
    let dies := fun (c : Instr) (addr : Nat) => exec c s = s.gives fun d => d.trapped a cUNMAPPED (BitVec.ofNat 64 addr)
    let kills := fun (c : Instr) (addr : Nat) => exec c s = s.gives fun d => d.trapped a cPRIVILEGE (BitVec.ofNat 64 addr)
    let x := s.dev.addrMB a b
    let n := sizeBytes b.size.toNat
    let y := s.dev.addrMA a f
    let m := szBytes f.sz
    (b.size ≠ 7 → closed true x n → dies (.ld a b false) x ∧ dies (.ldRo a b) x) ∧
    (b.size.toNat < 4 → closed false x n → dies (.st a b) x) ∧
    (marksOk true false f.mark f.scope = true → closed true y m → dies (.ldAcq a f) y ∧ dies (.ldResv a f) y) ∧
    (marksOk false true f.mark f.scope = true → closed false y m → dies (.stRel a f) y ∧ dies (.stCond a f) y) ∧
    (marksOk true true f.mark f.scope = true → closed false y m →
      ∀ c ∈ [Instr.amoAdd a f, .amoAnd a f, .amoOr a f, .amoXor a f, .amoMin a f, .amoMax a f, .amoMinu a f, .amoMaxu a f,
        .amoSwap a f, .amoCas a f, .amoFadd a f], dies c y) ∧
    (inDevSpace x = true → (b.size ≠ 7 → kills (.ld a b false) x ∧ kills (.ldRo a b) x) ∧ (b.size.toNat < 4 → kills (.st a b) x)) ∧
    (inDevSpace y = true → (marksOk true false f.mark f.scope = true → kills (.ldAcq a f) y ∧ kills (.ldResv a f) y) ∧
      (marksOk false true f.mark f.scope = true → kills (.stRel a f) y ∧ kills (.stCond a f) y) ∧
      (marksOk true true f.mark f.scope = true →
        ∀ c ∈ [Instr.amoAdd a f, .amoAnd a f, .amoOr a f, .amoXor a f, .amoMin a f, .amoMax a f, .amoMinu a f, .amoMaxu a f,
          .amoSwap a f, .amoCas a f, .amoFadd a f], kills c y))

/-! ## System registers, traps, fences -/

/-- System register instructions complete where Table 3.2 lets the level read, or write, the register: rd receives the old
value, and `csrw`, `csrs` and `csrc` then write rs1, set its bits and clear them. The fences complete in two steps:
the instruction makes its agent wait for the stores before it, and FENCE_COMPLETE, once they are ordered as the scope
asks, retires it; data read before then serve none of its later loads. `fence.i` invalidates the L1R first, and from
then on no agent of the cluster is served by data that were read before. `wfc` and `cmd.done` of an S-core complete
(R93, R94). At Keeper level with no command running, `wfc` returns with the oldest delivered command, or waits when
there is none or none may be taken, and COMMAND_DELIVERY then lets it return. `cmd.done` of a running command records
its status and waits for the end; with none running and every store left, it enters KTVEC + 0x40. -/
def Obligations.SystemInstructionsComplete : Prop :=
  (∀ (s : State) (a : Agent) (f : FmtSY), s.canIssue a →
    let num := f.sys.toNat
    let acc := csrAccess num (s.dev.level a)
    let W := fun g : Word → Word → Word => s.gives fun d =>
      (((d.csrRead a num).2.csrWrite a num (g (d.csrRead a num).1 (d.rd a f.rs1.toNat))).wr a f.rd.toNat (d.csrRead a num).1).past a 4
    ((acc = some .ro ∨ acc = some .rw) → exec (.csrr a f) s = s.gives fun d =>
      ((d.csrRead a num).2.wr a f.rd.toNat (d.csrRead a num).1).past a 4) ∧
    (acc = some .rw → exec (.csrw a f) s = W (fun _ x => x) ∧ exec (.csrs a f) s = W (fun old x => old ||| x) ∧
      exec (.csrc a f) s = W (fun old x => old &&& ~~~x)) ∧
    (acc = some .ro → ∀ c, (c = Instr.csrw a f ∨ c = .csrs a f ∨ c = .csrc a f) → ∃ v, exec c s = s.gives fun d => d.trapped a cILLEGAL v) ∧
    (acc = none → ∀ c, (c = Instr.csrr a f ∨ c = .csrw a f ∨ c = .csrs a f ∨ c = .csrc a f) →
      ∃ v, exec c s = s.gives fun d => d.trapped a cILLEGAL v) ∧
    (acc = some .none → ∀ c, (c = Instr.csrr a f ∨ c = .csrw a f ∨ c = .csrs a f ∨ c = .csrc a f) →
      exec c s = s.gives fun d => d.trapped a cPRIVILEGE (BitVec.ofNat 64 num))) ∧
  (∀ (s : State) (a : Agent) (f : FmtSY),
    (s.canIssue a →
      (f.sys = 0 → exec (.fenceCo a f) s = s.gives fun d => d.setWait a (.fence 0 (d.cl a.cluster).sseq)) ∧
      (f.sys = 1 → exec (.fenceCl a f) s = s.gives fun d => d.setWait a (.fence 1 (d.cl a.cluster).sseq)) ∧
      (f.sys = 2 → exec (.fenceSy a f) s = s.gives fun d => d.setWait a (.fence 2 (d.cl a.cluster).sseq)) ∧
      exec (.fenceI a f) s = s.gives fun d =>
        ((d.onCl a.cluster fun c => c.l1rInval).freshenAll a.cluster).setWait a (.fence 3 0)) ∧
    ∀ scope mark, Agent.ok a = true → s.dev.pwr.stopped = false → s.dev.waitOf a = .fence scope mark →
      (s.dev.cl a.cluster).fenceDone a.core scope mark = true →
      exec (.fenceComplete a) s = s.gives fun d => ((d.setWait a .none).freshen a none).past a 4) ∧
  (∀ (s : State) (n : Nat) (f : FmtSY),
    (s.canIssue (.sCore n) → s.dev.level (.sCore n) = .keeper → (s.dev.cl n).run = none →
      ((s.dev.cl n).cmdq ≠ [] → s.dev.blocked = false →
        exec (.wfc (.sCore n) f) s = s.gives fun d => (d.takeCmd n f.rd.toNat).past (.sCore n) 4) ∧
      ((s.dev.cl n).cmdq = [] ∨ s.dev.blocked = true → exec (.wfc (.sCore n) f) s = s.gives fun d => d.setWait (.sCore n) (.wfc f.rd.toNat)) ∧
      ∀ t, (s.dev.cl n).cmdq ≠ [] → s.dev.blocked = false → f.rd ≠ 0 → exec (.wfc (.sCore n) f) s = .next t →
        (t.dev.cl n).s.cmd = t.dev.rd (.sCore n) f.rd.toNat ∧ (t.dev.cl n).cmdq = (s.dev.cl n).cmdq.tail ∧
        (t.dev.cl n).s.level = .keeper ∧ (t.dev.cl n).s.yield = false ∧ (t.dev.cl n).l1r = []) ∧
    (∀ rd, n < 384 → (s.dev.cl n).s.wait = .wfc rd → s.dev.running n = true → (s.dev.dbg (.sCore n)).halted = false →
      (s.dev.cl n).cmdq ≠ [] → s.dev.blocked = false →
      exec (.commandDelivery n) s = s.gives fun d => (d.takeCmd n rd).past (.sCore n) 4) ∧
    (∀ r, s.canIssue (.sCore n) → (s.dev.cl n).run = some r → r.ending = none →
      exec (.cmdDone (.sCore n) f) s = s.gives fun d =>
        ((d.onRun n fun r => { r with ending := some (.done (s.dev.rd (.sCore n) f.rs1.toNat)) }).setWait (.sCore n) .cmdDone).settle n) ∧
    (s.canIssue (.sCore n) → (s.dev.cl n).run = none → (s.dev.cl n).qS = [] → (s.dev.cl n).q0 = [] → (s.dev.cl n).q1 = [] →
      (s.dev.cl n).buf = [] → exec (.cmdDone (.sCore n) f) s = s.gives fun d =>
        (d.onS n fun x => { x with level := .keeper }).reached (.sCore n) ((s.dev.cl n).s.ktvec.toNat + 0x40)))

/-- Trap entry of an S-core as R82 writes it: TPC, TCAUSE, TVAL and TSTATUS, then GTVEC at Guest level when the cause is
delegated, and KTVEC at Keeper level otherwise. A group's delegated trap does the same and moves the trapping threads.
`eret` takes the S-core to TPC, at the level of PPRIV, and clears DELEGATED; at Guest level it stays there. -/
def Obligations.TrapEntry : Prop :=
  ∀ (d : Dev) (n cause : Nat) (val : Word), cause < 64 →
    let s := (d.cl n).s
    let x := (d.trapS n cause val).cl n
    let deleg := s.level = .guest ∧ delegable cause = true ∧ s.tr.gdeleg.getLsbD cause = true
    x.s.tr.tpc = s.pc.setWidth 64 ∧ x.s.tr.tcause = BitVec.ofNat 64 cause ∧ x.s.tr.tval = val ∧
    x.s.tr.tstatus.getLsbD 0 = decide (s.level = .keeper) ∧ x.s.tr.tstatus.getLsbD 1 = decide (cause = cINTERNAL) ∧
    (deleg → x.s.tr.tstatus.getLsbD 2 = true ∧ x.s.level = .guest ∧ x.s.pc = s.tr.gtvec.setWidth 48) ∧
    (¬deleg → x.s.tr.tstatus.getLsbD 2 = false ∧ x.s.level = .keeper ∧ x.s.pc = s.ktvec.setWidth 48) ∧
    x.s.tr.gtvec = s.tr.gtvec ∧ x.s.tr.gdeleg = s.tr.gdeleg ∧ x.s.tr.gscratch = s.tr.gscratch ∧ x.s.regs = s.regs ∧
    x.s.resv = none ∧ (∀ m, m ≠ n → (d.trapS n cause val).cl m = d.cl m) ∧
    (∀ (v1 : Bool) (k : Nat) (g : Group), k < 16 → d.grp (.group n v1 k) = some g → delegable cause = true →
      g.tr.gdeleg.getLsbD cause = true → ∃ h, (d.trapG (.group n v1 k) g cause val).grp (.group n v1 k) = some h ∧
        h.tr.tpc = BitVec.ofNat 64 (g.lowPc.getD 0) ∧ h.tr.tcause = BitVec.ofNat 64 cause ∧ h.tr.tval = val ∧
        h.tr.tstatus.getLsbD 0 = false ∧ h.tr.tstatus.getLsbD 1 = decide (cause = cINTERNAL) ∧ h.tr.tstatus.getLsbD 2 = true ∧
        ∀ l, l < 32 → h.pcOf l = if g.active.getLsbD l then g.tr.gtvec.setWidth 48 else g.pcOf l) ∧
    ∀ (s : State) (f : FmtSY), s.canIssue (.sCore n) → s.dev.calm n = true → targetTrap (s.dev.tr (.sCore n)).tpc = none →
      ∃ t, exec (.eret (.sCore n) f) s = .next t ∧ t.dev.pc (.sCore n) = (s.dev.tr (.sCore n)).tpc.toNat ∧
        (t.dev.tr (.sCore n)).tstatus.getLsbD 2 = false ∧
        ((s.dev.level (.sCore n) = .guest → (s.dev.tr (.sCore n)).tstatus.getLsbD 0 = false) →
          (t.dev.level (.sCore n) = .keeper ↔ (s.dev.tr (.sCore n)).tstatus.getLsbD 0 = true)) ∧
        (s.dev.level (.sCore n) = .guest → t.dev.level (.sCore n) = .guest)

/-- `eret` of an S-core completes with the PC at TPC, DELEGATED clear, and the level PPRIV; at Guest level it never raises
the level (R79). `ebreak` takes BREAKPOINT, or halts under HALT_ON_BREAK (R101). -/
def Obligations.TrapReturnAndBreak : Prop :=
  ∀ (s : State) (n : Nat) (f : FmtSY), s.canIssue (.sCore n) →
    let t := s.dev.tr (.sCore n)
    (targetTrap t.tpc = none → s.dev.calm n = true → ∃ x, exec (.eret (.sCore n) f) s = .next x ∧
      (x.dev.cl n).s.pc = t.tpc.setWidth 48 ∧ (x.dev.tr (.sCore n)).tstatus.getLsbD 2 = false ∧
      (x.dev.tr (.sCore n)).tstatus.getLsbD 0 = t.tstatus.getLsbD 0 ∧ x.dev.resvOf (.sCore n) = none ∧
      (x.dev.level (.sCore n) = .keeper ↔ s.dev.level (.sCore n) = .keeper ∧ t.tstatus.getLsbD 0 = true) ∧
      ∀ r, x.dev.rd (.sCore n) r = s.dev.rd (.sCore n) r) ∧
    ((s.dev.dbg (.sCore n)).onBreak = false →
      exec (.ebreak (.sCore n) f false) s = s.gives fun d => d.trapped (.sCore n) cBREAK 0) ∧
    ((s.dev.dbg (.sCore n)).onBreak = true → exec (.ebreak (.sCore n) f false) s = s.gives fun d =>
      (d.endResv (.sCore n)).onDbg (.sCore n) fun x => { x with halted := true, stepping := false, reason := 3 })

/-! ## SV-G: lanes, groups, fragments -/

/-- The integer lane instructions complete with TYPE I32 or U32, RND 000 and registers of the group's allocation: in every
participating lane VD receives the result of VA and VB as they were, and every other lane keeps its value. `v.mov`
uses VA alone; `v.sel` chooses by a predicate; `v.setp` writes a predicate. A field that is not used and not zero
makes them illegal. The floating-point lane instructions complete in FP32, FP64 and packed FP16 and BF16: each element
of VD receives the operation's encoding under the rounding of RND, and the V-core's flags of CLU_FPFLAGS gather those
of every element. -/
def Obligations.LaneArithmeticComplete : Prop :=
  (∀ (s : State) (a : Agent) (g : Group) (f : FmtGL), s.canIssueG a g → intTypeOk f = true →
    (f.rsv ≠ 0 ∨ guardOk f.gd f.neg f.pred = false →
      ∀ c ∈ [Instr.vAdd a f, .vSub a f, .vMul a f, .vAnd a f, .vOr a f, .vXor a f, .vShl a f, .vShr a f, .vSra a f, .vMin a f,
        .vMax a f, .vMov a f, .vSel a f, .vSetp a f], exec c s = s.gives fun d => d.trapped a cILLEGAL (encGL 1 f)) ∧
    (f.rsv = 0 → guardOk f.gd f.neg f.pred = true →
    let va := fun l => g.v f.va.toNat l
    let vb := fun l => s.dev.vb a g f l
    let sg := f.ty.toNat = 7
    let R := fun op : Half → Half → Half => s.gives fun d =>
      (d.setGrp a (g.mapLanes (g.part f) f.vd.toNat fun l => op (va l) (vb l))).past a 8
    (f.vc = 0 → g.has f.vd.toNat 1 = true → g.has f.va.toNat 1 = true → ubOk g f 1 = true →
      exec (.vAdd a f) s = R (fun x y => x + y) ∧ exec (.vSub a f) s = R (fun x y => x - y) ∧
      exec (.vMul a f) s = R (fun x y => x * y) ∧ exec (.vAnd a f) s = R (fun x y => x &&& y) ∧
      exec (.vOr a f) s = R (fun x y => x ||| y) ∧ exec (.vXor a f) s = R (fun x y => x ^^^ y) ∧
      exec (.vShl a f) s = R (fun x y => if 32 ≤ y.toNat % 64 then 0 else x <<< (y.toNat % 64)) ∧
      exec (.vShr a f) s = R (fun x y => if 32 ≤ y.toNat % 64 then 0 else x >>> (y.toNat % 64)) ∧
      exec (.vSra a f) s = R (fun x y => x.sshiftRight (min (y.toNat % 64) 32)) ∧
      (sg → exec (.vMin a f) s = R (fun x y => if y.toInt < x.toInt then y else x) ∧
        exec (.vMax a f) s = R (fun x y => if x.toInt < y.toInt then y else x)) ∧
      (¬sg → exec (.vMin a f) s = R (fun x y => if y.toNat < x.toNat then y else x) ∧
        exec (.vMax a f) s = R (fun x y => if x.toNat < y.toNat then y else x))) ∧
    (f.vc = 0 → f.vb = 0 → f.ub = 0 → g.has f.vd.toNat 1 = true → g.has f.va.toNat 1 = true →
      exec (.vMov a f) s = R (fun x _ => x)) ∧
    (f.vc.toNat < 8 → g.has f.vd.toNat 1 = true → g.has f.va.toNat 1 = true → ubOk g f 1 = true →
      exec (.vSel a f) s = s.gives fun d => (d.setGrp a (g.mapLanes (g.part f) f.vd.toNat fun l =>
        if (g.pred f.vc.toNat).getLsbD l then va l else vb l)).past a 8) ∧
    (f.vd.toNat < 8 → f.vc.toNat < 6 → g.has f.va.toNat 1 = true → ubOk g f 1 = true →
      exec (.vSetp a f) s = s.gives fun d => (d.setGrp a (g.mapPred (g.part f) f.vd.toNat fun l =>
        condHolds f.vc.toNat (va l) (vb l))).past a 8))) ∧
  (∀ (s : State) (a : Agent) (g : Group) (f : FmtGL), s.canIssueG a g → f.rsv = 0 → guardOk f.gd f.neg f.pred = true →
    let L := g.part f
    let rnd := f.rnd.toNat
    let u := fun l => s.dev.laneRnd a f l
    let single := fun op : FpOp =>
      let r := fun l => op fp32 rnd (u l) (g.v f.va.toNat l).toNat (s.dev.vb a g f l).toNat (g.v f.vc.toNat l).toNat
      s.gives fun d => ((d.setGrp a (g.mapLanes L f.vd.toNat fun l => BitVec.ofNat 32 (r l).1)).setFlags a.cluster a.core
        (orFlags L fun l => (r l).2)).past a 8
    let double := fun op : FpOp =>
      let r := fun l => op fp64 rnd (u l) (g.v64 f.va.toNat l).toNat (s.dev.vb64 a g f l).toNat (g.v64 f.vc.toNat l).toNat
      s.gives fun d => ((d.setGrp a (g.mapLanes64 L f.vd.toNat fun l => BitVec.ofNat 64 (r l).1)).setFlags a.cluster a.core
        (orFlags L fun l => (r l).2)).past a 8
    let packed := fun (fmt : Fmt) (op : FpOp) =>
      let e := fun (k l : Nat) => op fmt rnd (u (l + 32 * k)) (fld (g.v f.va.toNat l) (16 * k + 15) (16 * k))
        (fld (s.dev.vb a g f l) (16 * k + 15) (16 * k)) (fld (g.v f.vc.toNat l) (16 * k + 15) (16 * k))
      s.gives fun d => ((d.setGrp a (g.mapLanes L f.vd.toNat fun l =>
        BitVec.ofNat 32 ((e 0 l).1 + (e 1 l).1 * 65536))).setFlags a.cluster a.core (orFlags L fun l => (e 0 l).2 ||| (e 1 l).2)).past a 8
    let all := fun R : FpOp → Host.Outcome State Fault Refusal =>
      (rnd ≤ 4 → f.vc = 0 → exec (.vFadd a f) s = R fpAdd ∧ exec (.vFmul a f) s = R fpMul) ∧
      (rnd = 0 → f.vc = 0 → exec (.vFmin a f) s = R (fpMinMax false) ∧ exec (.vFmax a f) s = R (fpMinMax true))
    let regs := fun wide useC => fpRegsOk g f wide useC = true
    (f.ty.toNat = 0 → (regs false false → all single) ∧ (rnd ≤ 4 → regs false true → exec (.vFma a f) s = single fpFma)) ∧
    (f.ty.toNat = 1 → (regs false false → all (packed fp16)) ∧ (rnd ≤ 4 → regs false true → exec (.vFma a f) s = packed fp16 fpFma)) ∧
    (f.ty.toNat = 2 → (regs false false → all (packed bf16)) ∧ (rnd ≤ 4 → regs false true → exec (.vFma a f) s = packed bf16 fpFma)) ∧
    (f.ty.toNat = 5 → (regs true false → all double) ∧ (rnd ≤ 4 → regs true true → exec (.vFma a f) s = double fpFma)))

/-- What writing the participating lanes of a register does to a group: the named lanes of VD take their values and every
other lane register, the uniform registers, the predicates and the PCs stay. -/
def Obligations.LaneFrame : Prop :=
  ∀ (g : Group) (f : FmtGL) (x : Nat → Half),
    let h := g.mapLanes (g.part f) f.vd.toNat x
    (∀ l, l < 32 → (g.participating f.gd f.neg f.pred).getLsbD l = true → h.v f.vd.toNat l = x l) ∧
    (∀ l, l < 32 → (g.participating f.gd f.neg f.pred).getLsbD l = false → h.v f.vd.toNat l = g.v f.vd.toNat l) ∧
    (∀ r l, l < 32 → r ≠ f.vd.toNat → h.v r l = g.v r l) ∧
    h.u = g.u ∧ h.p = g.p ∧ h.pcs = g.pcs ∧ h.live = g.live ∧ h.waiting = g.waiting ∧ h.tr = g.tr ∧ h.resv = g.resv

/-- A NaN operand of `v.fadd`, `v.fmul` or `v.fma` gives the format's one NaN and raises no flag (R177). -/
def Obligations.NanOperands : Prop :=
  ∀ (fmt : Fmt) (rnd r x y z : Nat), fmt ∈ [fp32, fp64, fp16, bf16] →
    ((fmt.decode x).isNaN = true ∨ (fmt.decode y).isNaN = true →
      fpAdd fmt rnd r x y z = (fmt.nanEnc, 0) ∧ fpMul fmt rnd r x y z = (fmt.nanEnc, 0)) ∧
    ((fmt.decode x).isNaN = true ∨ (fmt.decode y).isNaN = true ∨ (fmt.decode z).isNaN = true →
      fpFma fmt rnd r x y z = (fmt.nanEnc, 0))

/-- R185 on every pair of encodings: `v.fmin` and `v.fmax` return the lesser and the greater operand, −0 being less than
+0; with one NaN the other operand, with two the canonical NaN; no flag. `place` orders the encodings of numbers by
sign and magnitude. Both instructions apply this to each element. -/
def Obligations.LesserAndGreater : Prop :=
  (∀ (a : Agent) (f : FmtGL) (s : State), exec (.vFmin a f) s = opLaneFp a f false false (fpMinMax false) s ∧
    exec (.vFmax a f) s = opLaneFp a f false false (fpMinMax true) s) ∧
  ∀ (fmt : Fmt) (rnd r x y z : Nat), fmt ∈ [fp32, fp64, fp16, bf16] → x < 2 ^ (fmt.eb + fmt.mb + 1) → y < 2 ^ (fmt.eb + fmt.mb + 1) →
    let w := fmt.eb + fmt.mb
    let place := fun e : Nat => if e.testBit w then -((e % 2 ^ w : Nat) : Int) - 1 else (e : Int)
    let nanX := (fmt.decode x).isNaN
    let nanY := (fmt.decode y).isNaN
    let lesser := fpMinMax false fmt rnd r x y z
    let greater := fpMinMax true fmt rnd r x y z
    (nanX = false → nanY = false → lesser = (if place x ≤ place y then x else y, 0) ∧
      greater = (if place x ≤ place y then y else x, 0)) ∧
    (nanX = true → nanY = false → lesser = (y, 0) ∧ greater = (y, 0)) ∧
    (nanX = false → nanY = true → lesser = (x, 0) ∧ greater = (x, 0)) ∧
    (nanX = true → nanY = true → lesser = (fmt.nanEnc, 0) ∧ greater = (fmt.nanEnc, 0))

/-- The compare, conversion and function instructions complete in their legal forms. The last bit of the four functions is
open (R192): their results are those of `sfuRcp`, `sfuRsqrt`, `sfuExp2` and `sfuLog2` for every value of it. The
shuffles and polls complete in their legal forms (R125, R126): a lane whose source lane participates receives that
lane's VA, any other its own VC; a poll writes to every participating lane what the non-zero lanes of VA give. -/
def Obligations.LaneFunctionsAndShufflesComplete : Prop :=
  (∀ (s : State) (a : Agent) (g : Group) (f : FmtGL), s.canIssueG a g → f.rsv = 0 → guardOk f.gd f.neg f.pred = true →
    let L := g.part f
    let S := fun op : Half → Half × FFlags => s.gives fun d =>
      ((d.setGrp a (g.mapLanes L f.vd.toNat fun l => (op (g.v f.va.toNat l)).1)).setFlags a.cluster a.core
        (orFlags L fun l => (op (g.v f.va.toNat l)).2)).past a 8
    (f.ty = 0 → f.rnd = 0 → f.vb = 0 → f.ub = 0 → f.vc = 0 → g.has f.vd.toNat 1 = true → g.has f.va.toNat 1 = true →
      exec (.vRcp a f) s = S sfuRcp ∧ exec (.vRsqrt a f) s = S sfuRsqrt ∧ exec (.vExp2 a f) s = S sfuExp2 ∧
      exec (.vLog2 a f) s = S sfuLog2) ∧
    (f.ty = 0 → f.rnd = 0 → f.vd.toNat < 8 → f.vc.toNat < 8 → g.has f.va.toNat 1 = true → ubOk g f 1 = true →
      exec (.vFsetp a f) s = s.gives fun d => (d.setGrp a (g.mapPred L f.vd.toNat fun l =>
        fcond f.vc.toNat (fp32.decode (g.v f.va.toNat l).toNat) (fp32.decode (s.dev.vb a g f l).toNat))).past a 8) ∧
    (f.ty = 5 → f.rnd = 0 → f.vd.toNat < 8 → f.vc.toNat < 8 → g.has64 f.va.toNat = true → ubOk g f 2 = true →
      (f.ub = 1 ∨ f.vb.toNat % 2 = 0) →
      exec (.vFsetp a f) s = s.gives fun d => (d.setGrp a (g.mapPred L f.vd.toNat fun l =>
        fcond f.vc.toNat (fp64.decode (g.v64 f.va.toNat l).toNat) (fp64.decode (s.dev.vb64 a g f l).toNat))).past a 8) ∧
    (∀ dst src, cvtTy f.ty.toNat = some dst → cvtTy f.vb.toNat = some src → f.rnd.toNat ≤ 4 → f.vc = 0 → f.ub = 0 →
      f.ty.toNat ≠ f.vb.toNat → (f.ty.toNat = 0xE → f.rnd = 0) →
      (if f.ty.toNat = 5 then g.has64 f.vd.toNat else g.has f.vd.toNat 1) = true →
      (if f.vb.toNat = 5 then g.has64 f.va.toNat else g.has f.va.toNat 1) = true →
      let r := fun l => cvt f.vb.toNat src dst f.rnd.toNat (s.dev.laneRnd a f l)
        (if f.vb.toNat = 5 then g.v64 f.va.toNat l else (g.v f.va.toNat l).setWidth 64)
      exec (.vCvt a f) s = s.gives fun d => ((d.setGrp a (if f.ty.toNat = 5 then g.mapLanes64 L f.vd.toNat fun l => (r l).1
        else g.mapLanes L f.vd.toNat fun l => (r l).1.setWidth 32)).setFlags a.cluster a.core (orFlags L fun l => (r l).2)).past a 8)) ∧
  (∀ (s : State) (a : Agent) (g : Group) (f : FmtGL), s.canIssueG a g → f.rsv = 0 → guardOk f.gd f.neg f.pred = true → f.rnd = 0 → f.ty = 0 →
    g.has f.vd.toNat 1 = true → g.has f.va.toNat 1 = true →
    let m := g.participating f.gd f.neg f.pred
    let L := lanesOf m
    let X := fun src : Nat → Nat → Nat => s.gives fun d => (d.setGrp a (g.mapLanes L f.vd.toNat fun l =>
      if src l (s.dev.vb a g f l).toNat < 32 ∧ m.getLsbD (src l (s.dev.vb a g f l).toNat) = true
      then g.v f.va.toNat (src l (s.dev.vb a g f l).toNat) else g.v f.vc.toNat l)).past a 8
    let some_ := (L.any fun l => decide (g.v f.va.toNat l ≠ 0))
    let every := (L.all fun l => decide (g.v f.va.toNat l ≠ 0))
    let P := fun v : Half => s.gives fun d => (d.setGrp a (g.mapLanes L f.vd.toNat fun _ => v)).past a 8
    (g.has f.vc.toNat 1 = true → ubOk g f 1 = true →
      exec (.xchPick a f) s = X (fun _ b => b % 32) ∧
      (f.ub = 1 → exec (.xchLo a f) s = X (fun l b => if b ≤ l then l - b else 32) ∧ exec (.xchHi a f) s = X (fun l b => l + b) ∧
        exec (.xchSwz a f) s = X (fun l b => l ^^^ (b % 32)))) ∧
    (f.ub = 0 → f.vb = 0 → f.vc = 0 →
      exec (.pollAny a f) s = P (if some_ then 1 else 0) ∧ exec (.pollAll a f) s = P (if every then 1 else 0) ∧
      exec (.pollMask a f) s = P (maskOf fun l => m.getLsbD l && decide (g.v f.va.toNat l ≠ 0))))

/-- Group control completes (R121 to R124, R111). `v.bra` moves the participating threads to the target and the other
active threads past; `v.join` makes them wait; `v.exit` ends them, and the group with its last thread. GROUP_LAUNCH
completes (R110, R111): a waiting launch whose record is good and for which a V-core has a free slot gets its next
group in that slot, and the launch counts it as resident. No other group and no other cluster changes. -/
def Obligations.GroupsComplete : Prop :=
  (∀ (s : State) (a : Agent) (g : Group) (f : FmtGC), s.canIssueG a g → f.rsv = 0 → guardOk f.gd f.neg f.pred = true →
    let act := g.active
    let m := g.participating f.gd f.neg f.pred
    let pc := s.dev.pc a
    let t : Word := BitVec.ofNat 64 pc + f.off.signExtend 64
    let stay := g.setPcs (act &&& ~~~m) (pc + 8)
    let left := { stay with live := stay.live &&& ~~~m }.release
    (m = 0 → exec (.vBra a f) s = s.gives fun d => (d.setGrp a (g.setPcs act (pc + 8))).complete a) ∧
    (m ≠ 0 → targetTrap t = none → exec (.vBra a f) s = s.gives fun d => (d.setGrp a (stay.setPcs m t.toNat)).complete a) ∧
    (f.off = 0 → exec (.vJoin a f) s = s.gives fun d =>
      (d.setGrp a { stay with live := stay.live &&& ~~~m, waiting := stay.waiting ||| m }.release).complete a) ∧
    (f.off = 0 → left.live ≠ 0 → exec (.vExit a f) s = s.gives fun d => (d.setGrp a left).complete a) ∧
    (f.off = 0 → left.live = 0 → exec (.vExit a f) s = s.gives fun d =>
      ((d.endResv a).onCl a.cluster fun c => c.groupEnd a.groupIdx false).complete a)) ∧
  (∀ (s : State) (n k : Nat) (v1 : Bool) (l : Launch) (rest : List Launch), n < 384 → s.dev.running n = true →
    (s.dev.cl n).launches = l :: rest → l.stopped = false →
    l.next < l.count → (l.checked = true ∨ s.dev.launchOk n l.record = true) → (s.dev.cl n).pickCore l.record = some v1 →
    (s.dev.cl n).freeSlot v1 = some k →
    ∃ t, exec (.groupLaunch n) s = .next t ∧
      NMap.find (t.dev.cl n).groups (16 * bit v1 + k) = some l.group ∧
      (t.dev.cl n).launches = { l with checked := true, next := l.next + 1, resident := l.resident + 1 } :: rest ∧
      (∀ i, i ≠ 16 * bit v1 + k → NMap.find (t.dev.cl n).groups i = NMap.find (s.dev.cl n).groups i) ∧
      ∀ m, m ≠ n → t.dev.cl m = s.dev.cl m)

/-- Lane loads, stores and atomics complete in their legal forms once no lane traps (R127 to R133): a load does what its
pieces' reading does, a store puts one entry with a run for each participating lane into the queue, an atomic issues
one request for each distinct address. The fragment instructions complete in their legal forms with 32 participating
lanes (R173, R174). `frag.mma` writes to each element of the destination the once-rounded sum of `fragMac`, and the
M-core's flags gather its flags; `frag.fill` writes u(VB). -/
def Obligations.LaneMemoryAndFragmentsComplete : Prop :=
  (∀ (s : State) (a : Agent) (g : Group) (f : FmtGM) (x : Dev), s.canIssueG a g → gmRegOk g f = true → guardOk f.gd f.neg f.pred = true →
    let n := sizeBytes f.size.toNat
    let K := fun ro : Bool => LoadKind.mk ro (decide (f.mark = 0)) (decide (f.mark = 1 ∧ f.scope = 2)) 8
    let runs := (g.partM f).map fun l =>
      ByteRun.mk (s.dev.addrGM a g f l) n (if n = 8 then g.v64 f.vd.toNat l else (g.v f.vd.toNat l).setWidth 64)
    let A := fun fn : AmoFn => s.dev.atom a f.vd.toNat n 8 f.mark.toNat f.scope.toNat (s.dev.gmAtms a g f fn n)
    let R := s.gives fun _ => x.past a 8
    (f.aop = 0 → f.size ≠ 7 → marksOk true false f.mark f.scope = true → s.dev.gmTrap a g f .load n = none →
      s.dev.load a (K false) (s.dev.gmPieces a g f) = .done x → exec (.vLd a f) s = R) ∧
    (f.aop = 0 → f.size ≠ 7 → marksOk false false f.mark f.scope = true → s.dev.gmTrap a g f .loadRo n = none →
      s.dev.load a (K true) (s.dev.gmPieces a g f) = .done x → exec (.vLdRo a f) s = R) ∧
    (f.aop = 0 → f.size.toNat < 4 → marksOk false true f.mark f.scope = true → s.dev.gmTrap a g f .store n = none →
      s.dev.commit a runs (decide (f.mark = 2 ∧ f.scope = 2)) = some x → exec (.vSt a f) s = R) ∧
    ((f.size.toNat = 2 ∨ f.size.toNat = 3) → marksOk true true f.mark f.scope = true → s.dev.gmTrap a g f .atomic n = none →
      (A .add = .done x → exec (.vAtomAdd a f) s = R) ∧ (A .and = .done x → exec (.vAtomAnd a f) s = R) ∧
      (A .or = .done x → exec (.vAtomOr a f) s = R) ∧ (A .xor = .done x → exec (.vAtomXor a f) s = R) ∧
      (A .min = .done x → exec (.vAtomMin a f) s = R) ∧ (A .max = .done x → exec (.vAtomMax a f) s = R) ∧
      (A .minu = .done x → exec (.vAtomMinu a f) s = R) ∧ (A .maxu = .done x → exec (.vAtomMaxu a f) s = R) ∧
      (A .swap = .done x → exec (.vAtomSwap a f) s = R) ∧ (A .fadd = .done x → exec (.vAtomFadd a f) s = R) ∧
      (g.has f.vd.toNat (if n = 8 then 4 else 2) = true → A .cas = .done x → exec (.vAtomCas a f) s = R))) ∧
  (∀ (s : State) (a : Agent) (g : Group) (f : FmtGL) (x : Dev), s.canIssueG a g → f.rsv = 0 → guardOk f.gd f.neg f.pred = true →
    let ty := f.ty.toNat
    let base := (s.dev.rd a f.vb.toNat).toNat
    let stride := (s.dev.rd a f.va.toNat).toNat
    let at_ := fun e : FragElem => fragAddr ty f.vc.toNat base stride e
    let pieces := (fragElems ty f.vc.toNat).map fun e =>
      Piece.mk (at_ e) e.n (f.vd.toNat + e.r) e.lane e.sh (8 * e.n) false (at_ e)
    let runs := (fragElems ty f.vc.toNat).map fun e =>
      ByteRun.mk (at_ e) e.n (((g.v (f.vd.toNat + e.r) e.lane) >>> e.sh).setWidth 64)
    let dim := if ty = 5 then 8 else 16
    let mac := fun i j => fragMac g ty f.va.toNat f.vb.toNat f.vc.toNat i j
    let cells := ((List.range dim).map fun i => (List.range dim).map fun j => ((i, j), mac i j)).flatten
    let put := fun (h : Group) (e : FragElem) (v : Nat) => h.setV (f.vd.toNat + e.r) e.lane (BitVec.ofNat 32 (v >>> (8 * e.byte)))
    (s.dev.fragTrap g f (fragMemOk g f) = none → s.dev.fragMemTrap a f .load = none →
      s.dev.load a (LoadKind.mk false true false 8) pieces = .done x → exec (.fragLd a f) s = s.gives fun _ => x.past a 8) ∧
    (s.dev.fragTrap g f (fragMemOk g f) = none → s.dev.fragMemTrap a f .store = none →
      s.dev.commit a runs false = some x → exec (.fragSt a f) s = s.gives fun _ => x.past a 8) ∧
    (s.dev.fragTrap g f (fragMmaOk g f) = none → exec (.fragMma a f) s = s.gives fun d =>
      ((d.setGrp a (cells.foldl (fun h c => ((fragElems ty 2).filter fun e =>
        decide (e.row = c.1.1) && decide (e.col = c.1.2)).foldl (fun h e => put h e c.2.1) h) g)).setFlags a.cluster 0
        (cells.foldl (fun acc c => acc ||| c.2.2) 0)).past a 8) ∧
    (f.va = 0 → f.vc = 0 → f.ub = 1 → f.vb.toNat < 64 → g.has f.vd.toNat (fragRegs ty 2) = true → s.dev.fragTrap g f true = none →
      exec (.fragFill a f) s = s.gives fun d =>
        (d.setGrp a ((fragElems ty 2).foldl (fun h e => put h e (s.dev.rd a f.vb.toNat).toNat) g)).past a 8))

/-! ## Tokens, issues, waybills, services of the Keeper -/

/-- The token instructions complete (R161 to R163): `tok.test` at once, `tok.wait` at once unless the token is PENDING and
not that of the agent's own launch, and otherwise when TOK_WAIT_RELEASE finds it no longer PENDING: rd receives the
token word, and DONE is an acquire (R165, R269). `tok.clr` makes a token that is not PENDING FREE, and takes
TOKEN_BUSY with the token as TVAL for one that is. The four issues complete when none of their traps holds, their
queue has room, no earlier store keeps them back and the 64 bytes read well: the work is queued against the token. The
traps come in the order of R95: a bad form, a misaligned address, one outside the issuer's own Local, one in Local
that a Guest may not reach (R206), a token that is PENDING. A parity block with more than one bad bit makes `mx.issue`
INTERNAL_ERROR (R85). -/
def Obligations.TokensAndIssuesComplete : Prop :=
  (∀ (s : State) (a : Agent) (f : FmtTK),
    let t := (s.dev.cl a.cluster).tok f.tok.toNat
    let got := s.gives fun d => ((d.sawToken a t).wr a f.ra.toNat t.word).past a 4
    (s.canIssue a → f.rsv = 0 →
      exec (.tokTest a f) s = got ∧ (t.st ≠ .pending ∨ s.dev.ownLaunch a f.tok.toNat = true → exec (.tokWait a f) s = got) ∧
      (t.st = .pending → s.dev.ownLaunch a f.tok.toNat = false →
        exec (.tokWait a f) s = s.gives fun d => d.setWait a (.token f.ra.toNat f.tok.toNat)) ∧
      (f.ra = 0 → t.st ≠ .pending → exec (.tokClr a f) s = s.gives fun d =>
        (d.onCl a.cluster fun c => c.setTok f.tok.toNat Token.free).past a 4) ∧
      (f.ra = 0 → t.st = .pending → exec (.tokClr a f) s = s.gives fun d => d.trapped a cBUSY (BitVec.ofNat 64 f.tok.toNat))) ∧
    ∀ rd tok, Agent.ok a = true → s.dev.waitOf a = .token rd tok → (s.dev.dbg a).halted = false →
      ((s.dev.cl a.cluster).tok tok).st ≠ .pending →
      exec (.tokWaitRelease a) s = s.gives fun d =>
        (((d.setWait a .none).sawToken a ((d.cl a.cluster).tok tok)).wr a rd ((d.cl a.cluster).tok tok).word).past a 4) ∧
  (∀ (s : State) (a : Agent) (k : IssueKind) (f : FmtTK) (c : Instr), s.canIssue a →
    (c = .cpIssue a f ∧ k = .cp ∨ c = .gtIssue a f ∧ k = .gt ∨ c = .grpStart a f ∧ k = .grp ∨ c = .mxIssue a f false ∧ k = .mx) →
    let addr := s.dev.addrTK a f
    let room := (k = .mx → (s.dev.cl a.cluster).wbq.length < 16) ∧ (k = .cp ∨ k = .gt → (s.dev.cl a.cluster).outq.length < 16)
    let inside := addr + 64 ≤ localSize
    let allowed := s.dev.accessTrap a .load false true addr 64 = none
    let legal := f.rsv = 0 ∧ ¬(a.isGroup = true ∧ k = .grp)
    let pending := ((s.dev.cl a.cluster).tok f.tok.toNat).st = .pending
    (∀ w x, legal → addr % 64 = 0 → inside → allowed → ¬pending → room → s.dev.issueWaits a k = false →
      s.dev.copy64 a.cluster addr = (.ok w, x) → exec c s = s.gives fun _ => (x.enqueue a k f w).past a 4) ∧
    (legal → addr % 64 ≠ 0 → exec c s = s.gives fun d => d.trapped a cMISALIGNED (BitVec.ofNat 64 addr)) ∧
    (legal → addr % 64 = 0 → ¬inside → exec c s = s.gives fun d => d.trapped a cOPERAND (BitVec.ofNat 64 addr)) ∧
    (legal → addr % 64 = 0 → inside → ¬allowed → exec c s = s.gives fun d => d.trapped a cUNMAPPED (BitVec.ofNat 64 addr)) ∧
    (legal → addr % 64 = 0 → inside → allowed → pending → exec c s = s.gives fun d => d.trapped a cBUSY (BitVec.ofNat 64 f.tok.toNat)) ∧
    exec (.mxIssue a f true) s = s.gives fun d => d.internalError a)

/-- The frame of the token instructions that complete at once: a calm cluster's S-core changes only rd, its pc and its
count of retired instructions, and `tok.clr` only the token it names in place of rd. What an issue leaves (R95, R157,
R283): its token is PENDING, names the core that issued it, its slot and the kind of work, and no other token changes;
the work is the last of its queue. A copy or gather on a channel that the issuer's function may not use is not queued,
and its token is DONE with BAD_CHANNEL. -/
def Obligations.TokenEffects : Prop :=
  (∀ (s : State) (n : Nat) (f : FmtTK) (c : Instr) (t : State), s.canIssue (.sCore n) → s.dev.calm n = true → f.rsv = 0 →
    ((s.dev.cl n).tok f.tok.toNat).st ≠ .pending → (c = .tokTest (.sCore n) f ∨ c = .tokWait (.sCore n) f ∨
      (c = .tokClr (.sCore n) f ∧ f.ra = 0)) → exec c s = .next t →
    (∀ r, r ≠ f.ra.toNat → t.dev.rd (.sCore n) r = s.dev.rd (.sCore n) r) ∧
    (c ≠ .tokClr (.sCore n) f → (t.dev.cl n).tokens = (s.dev.cl n).tokens ∧
      (f.ra ≠ 0 → t.dev.rd (.sCore n) f.ra.toNat = ((s.dev.cl n).tok f.tok.toNat).word)) ∧
    (c = .tokClr (.sCore n) f → ((t.dev.cl n).tok f.tok.toNat) = Token.free) ∧
    (∀ k, k ≠ f.tok.toNat → (t.dev.cl n).tok k = (s.dev.cl n).tok k) ∧ (∀ m, m ≠ n → t.dev.cl m = s.dev.cl m) ∧
    (∀ sp x, (t.dev.mem sp).byte x = (s.dev.mem sp).byte x) ∧ (∀ o, t.dev.reg o = s.dev.reg o) ∧
    (t.dev.cl n).wbq = (s.dev.cl n).wbq ∧ (t.dev.cl n).outq = (s.dev.cl n).outq ∧ t.dev.tr (.sCore n) = s.dev.tr (.sCore n)) ∧
  (∀ (d : Dev) (a : Agent) (k : IssueKind) (f : FmtTK) (w : BitVec 512),
    let n := a.cluster
    let x := (d.enqueue a k f w).cl n
    let t := x.tok f.tok.toNat
    let good := k = .mx ∨ k = .grp ∨
      d.channelOk (decide (k = .gt)) (outChannel (decide (k = .gt)) w) (d.cl n).s.func.toNat = true
    t.issuer = a.core ∧ t.group = a.slot ∧ t.source = issueSource k ∧ t.cid = (d.cl n).cid ∧
    (good → t.st = .pending) ∧ (¬good → t.st = .done ∧ t.status = (if k = .gt then 0x41 else 0x31) ∧ x.outq = (d.cl n).outq) ∧
    (∀ i, i ≠ f.tok.toNat → x.tok i = (d.cl n).tok i) ∧
    (k = .mx → ∃ b, x.wbq = (d.cl n).wbq ++ [b] ∧ b.w = w ∧ b.tok = f.tok.toNat ∧ b.seed = (d.cl n).srSeed) ∧
    (k ≠ .mx → x.wbq = (d.cl n).wbq) ∧
    (k = .grp → ∃ l, x.launches = (d.cl n).launches ++ [l] ∧ l.record = w ∧ l.tok = f.tok.toNat ∧ l.next = 0 ∧ l.resident = 0) ∧
    (k ≠ .grp → x.launches = (d.cl n).launches) ∧
    (good → k = .cp ∨ k = .gt → ∃ o, x.outq = (d.cl n).outq ++ [o] ∧ o.record = w ∧ o.tok = f.tok.toNat ∧ o.gather = decide (k = .gt)) ∧
    x.s = (d.cl n).s ∧ x.groups = (d.cl n).groups ∧ (∀ m, m ≠ n → (d.enqueue a k f w).cl m = d.cl m) ∧
    ∀ sp y, ((d.enqueue a k f w).mem sp).byte y = (d.mem sp).byte y)

/-- A completion reaches its token when the token is still PENDING for the command that issued the work, and is dropped
otherwise; no other token changes, and a waybill's end is such a completion. -/
def Obligations.CompletionReachesToken : Prop :=
  ∀ (d : Dev) (n : Nat) (x : Waybill) (status : Nat), d.calm n = true →
    let t := (d.cl n).tok x.tok
    let c := (d.endWaybill n x status).cl n
    (t.st = .pending → t.cid = x.cid → c.tok x.tok = { t with st := .done, status := BitVec.ofNat 8 status }) ∧
    (t.st ≠ .pending ∨ t.cid ≠ x.cid → c.tok x.tok = t) ∧ (∀ k, k ≠ x.tok → c.tok k = (d.cl n).tok k) ∧
    (∀ m, m ≠ n → (d.endWaybill n x status).cl m = d.cl m) ∧
    ∀ r, (d.cl n).run = some r → r.cid = x.cid → ∃ q, c.run = some q ∧
      q.wbFailed = r.wbFailed + (if status = 0 then 0 else 1) ∧
      (status ≠ 0 → q.wbToken = if r.wbFailed = 0 then (c.tok x.tok).word else r.wbToken)

/-- The claims of one arbitration cycle complete in the order S-core, V-core 0, V-core 1 (R160): with at most one claim of
each core, the order in which they are presented makes no difference, and a claim of a token that another has won in
the cycle takes TOKEN_BUSY, whatever has become of the token since. WAYBILL_QUEUE_ROOM lets each waiting `mx.issue`
proceed. A waybill at the head of the queue of an idle M-core starts under the command of its operation, and under
WAYBILL_WAIT_RESOLVED: it leaves the queue and runs; one that fails a check ends with that status, and one whose WAIT
token has failed with 0x0B (R155, R164). WAYBILL_COMPLETE writes D and ends the one that runs; INTERNAL ends all
(R169). -/
def Obligations.WaybillsAndGrantsComplete : Prop :=
  (∀ (s : State) (n : Nat),
    (∀ claims : List Claim, n < 384 → (claims.all fun c => Agent.ok c.a) = true →
      let of := fun k => claims.filter fun c => decide (c.a.cluster = n ∧ c.a.core = k)
      exec (.tokenArbitration n claims) s = s.gives fun d =>
        ((of 0 ++ of 1 ++ of 2).foldl (fun (x : Dev × List Nat) c => (x.1.issue c.a 4 (claimOut x.2 c),
          if x.1.winsToken x.2 c then x.2 ++ [c.f.tok.toNat] else x.2)) (d, [])).1) ∧
    (∀ (d : Dev) (won : List Nat) (c : Claim), d.issueTrap c.a c.kind c.f = none →
      (c.f.tok.toNat ∈ won → claimOut won c d = .trap cBUSY (BitVec.ofNat 64 c.f.tok.toNat)) ∧
      (c.f.tok.toNat ∉ won → claimOut won c d = issueOut c.a c.kind c.f d)) ∧
    (∀ claims other : List Claim, claims.Perm other → (claims.map fun c => c.a.core).Nodup →
      exec (.tokenArbitration n claims) s = exec (.tokenArbitration n other) s) ∧
    (n < 384 → exec (.waybillQueueRoom n) s = s.gives fun d => ((d.cl n).agents n).foldl Dev.queueRoom d) ∧
    ∀ (d : Dev) (a : Agent) (f : FmtTK), d.waitOf a = .queueRoom f → (d.dbg a).halted = false → (d.cl a.cluster).wbq.length < 16 →
      d.queueRoom a = (d.setWait a .none).conclude a 4 (issueOut a .mx f (d.setWait a .none))) ∧
  (∀ (s : State) (n : Nat) (x : Waybill), n < 384 → s.dev.running n = true → s.dev.pwr.stopped = false →
    (∀ rest c, (s.dev.cl n).wbRun = none → (s.dev.cl n).wbq = x :: rest → x.fail = none →
      (c = .mma n ∧ wOP x.w = 1 ∨ c = .mmaZ n ∧ wOP x.w = 2 ∨ c = .xpFin n ∧ wOP x.w = 3 ∨ c = .xpSum n ∧ wOP x.w = 4 ∨
        c = .waybillWaitResolved n ∧ wWaitEn x.w = true) →
      let chk := waybillCheck s.dev.part.fp64 (s.dev.inShare x.ctx) x.w
      let w := (s.dev.cl n).tok (wWaitTok x.w)
      (chk = none → (wWaitEn x.w = false ∨ w.st = .free ∨ (w.st = .done ∧ w.status = 0)) → exec c s = s.gives fun d =>
        d.setCl n { d.cl n with wbq := rest, wbRun := some x }) ∧
      (chk = none → wWaitEn x.w = true → w.st = .done → w.status ≠ 0 → exec c s = s.gives fun d =>
        (d.setCl n { d.cl n with wbq := rest }).endWaybill n x 0x0B) ∧
      (chk = none → wWaitEn x.w = true → w.st = .pending → (wWaitTok x.w = x.tok ∨ ∃ y ∈ rest, y.tok = wWaitTok x.w) →
        exec c s = s.gives fun d => (d.setCl n { d.cl n with wbq := rest }).endWaybill n x 0x0A) ∧
      ∀ st, chk = some st → exec c s = s.gives fun d => (d.setCl n { d.cl n with wbq := rest }).endWaybill n x st) ∧
    ((s.dev.cl n).wbRun = some x →
      (exec (.waybillComplete n false) s = s.gives fun d =>
        ((d.computeWaybill n x).2.onCl n fun c => { c with wbRun := none }).endWaybill n x (d.computeWaybill n x).1) ∧
      exec (.waybillComplete n true) s = s.gives fun d => d.mcoreInternal n))

/-- The frame of a waybill's computation: with D a region of written words, no written byte of the cluster's Local outside
the rows of D changes, no other memory changes, and no register of the cluster but the M-core's flags. -/
def Obligations.WaybillFrame : Prop :=
  ∀ (d : Dev) (n : Nat) (x : Waybill), (d.mem (.loc n)).wf = true →
    let r := wRegD x.w
    let inRow := fun y i => i < r.rows ∧ r.base + i * r.ld ≤ y ∧ y < r.base + i * r.ld + r.rowBytes
    let e := (d.computeWaybill n x).2
    (∀ y i, inRow y i → (d.mem (.loc n)).mark (y / 8) = .written) →
    (∀ y, (d.mem (.loc n)).mark (y / 8) = .written → (∀ i, ¬inRow y i) → (e.mem (.loc n)).byte y = (d.mem (.loc n)).byte y) ∧
    (∀ sp y, sp ≠ .loc n → (e.mem sp).byte y = (d.mem sp).byte y) ∧ (e.cl n).s.regs = (d.cl n).s.regs ∧
    (e.cl n).tokens = (d.cl n).tokens ∧ (e.cl n).wbq = (d.cl n).wbq ∧ (e.cl n).run = (d.cl n).run ∧
    ∀ m, m ≠ n → (e.cl m).s.regs = (d.cl m).s.regs ∧ (e.cl m).tokens = (d.cl m).tokens

/-- An `ecall` at Guest level completes as its service: s10 takes the answer and the Guest goes on at the next instruction
(Table 3.7). A channel is cleared for the function that owns it only, answer 0, and 1 for any other; a collective's
answer is that of its start; an unassigned service answers all ones. At Keeper level it traps. -/
def Obligations.ServicesComplete : Prop :=
  ∀ (s : State) (n : Nat) (f : FmtSY), s.canIssue (.sCore n) →
    let a := Agent.sCore n
    let what := (s.dev.rd a 10).toNat
    let arg := (s.dev.rd a 11).toNat
    let mine := fun eng => arg < s.dev.chanCount eng ∧ s.dev.rf (oChan eng arg) 15 8 = (s.dev.cl n).s.func.toNat
    let answers := fun (v : Word) (g : Dev → Dev) => s.gives fun d => (((g d).endResv a).wr a 10 v).setPc a ((g d).pc a + 4)
    (s.dev.level a = .guest → (s.dev.dbg a).onTrap = false → (s.dev.dbg a).stepping = false → (s.dev.dbg a).haltReq = false →
      (what = 0x0101 → mine 0 → exec (.clearPorterChannel a f) s = answers 0 fun d => d.clearChan 0 arg) ∧
      (what = 0x0101 → ¬mine 0 → exec (.clearPorterChannel a f) s = answers 1 id) ∧
      (what = 0x0102 → mine 1 → exec (.clearGatherChannel a f) s = answers 0 fun d => d.clearChan 1 arg) ∧
      (what = 0x0102 → ¬mine 1 → exec (.clearGatherChannel a f) s = answers 1 id) ∧
      (∀ w x, what = 0x0201 → arg % 64 = 0 → s.dev.inShare (s.dev.cl n).s.ctx.toNat arg 64 = true →
        s.dev.copy64 n arg = (.ok w, x) → exec (.startCollective a f) s =
          answers (x.startColl (s.dev.cl n).s.ctx.toNat (s.dev.cl n).s.func.toNat (x.cl n).cid w).1 fun _ =>
            (x.startColl (s.dev.cl n).s.ctx.toNat (s.dev.cl n).s.func.toNat (x.cl n).cid w).2) ∧
      (what = 0x0201 → (arg % 64 ≠ 0 ∨ s.dev.inShare (s.dev.cl n).s.ctx.toNat arg 64 = false) →
        exec (.startCollective a f) s = answers 1 id) ∧
      (what ≠ 0x0101 → what ≠ 0x0102 → what ≠ 0x0201 →
        exec (.ecallUnassignedService a f) s = answers (BitVec.allOnes 64) id)) ∧
    (s.dev.level a = .keeper → ∀ c ∈ [Instr.clearPorterChannel a f, .clearGatherChannel a f, .startCollective a f,
      .ecallUnassignedService a f], exec c s = s.gives fun d => d.trapped a cECALL 0)

/-! ## Coherence -/

/-- A request that its home slice serves next completes there when its line does not heal and no host may hold part of it:
the home accepts or refuses it, and a request that is not refused counts as served. One that needs a general request
buffer, when the 64 of its slice are taken, is refused at once. A Put completes in any case. Forwards, Recall and Inv
complete at the die that they reach (Table 8.4). A line that the die holds is supplied to the requester and the home
hears what the die held: for FwdX it leaves, otherwise E becomes S, and M becomes O. A line that has left is answered
WbPending. Recall returns the data and the line leaves; Inv makes it leave and is acknowledged in any case. Each is
held while the Data that made the die a holder is on its way: the model's choice, log entry 89. The cluster's own side
of its misses completes: a buffered line that no partition holds is discarded, one that lies at the cluster's own die,
or whose die has no replica cache, is sent through, and one in M or E is performed in the replica cache; data that
have come for a miss reach its agents; a tracker that times out goes; a prefetch that waits at its home is dropped. -/
def Obligations.CoherenceRequestsComplete : Prop :=
  (∀ (s : State) (m : MsgSel) (x : Msg) (r : Req) (c : Instr), selOk m = true → s.dev.msgAt m 1 = some x → x.body = .req r →
    s.dev.pwr.stopped = false →
    let room := r.ticket = true ∨ s.dev.taken x = true ∨ s.dev.buffersUsed m.line < 64
    ((c = .rds m ∧ r.kind = .rdS ∨ c = .rdx m ∧ r.kind = .rdX ∨ c = .upg m ∧ r.kind = .upg ∨ c = .rdu m ∧ r.kind = .rdU ∨
        c = .wrt m ∧ r.kind = .wrT ∨ c = .atm m ∧ r.kind = .atm) →
      (¬room → exec c s = s.gives fun d => (d.receive x).refuse r) ∧
      ∀ e, room → s.dev.held m.line = false → s.dev.servesNext x r = true → (s.dev.receive x).arrive r = some e →
        exec c s = s.gives fun d => (if e.refusedNow d r then e else e.served x r).healOver m.line) ∧
    ((c = .pute m ∧ r.kind = .putE ∨ c = .putm m ∧ r.kind = .putM ∨ c = .puto m ∧ r.kind = .putO) →
      exec c s = s.gives fun d => (d.receive x).putArrives r)) ∧
  (∀ (s : State) (m : MsgSel) (x : Msg), selOk m = true → s.dev.pwr.stopped = false →
    let y := s.dev.receive x
    let early := s.dev.mustWait x = true
    let held := s.gives fun d => d.holdMsg x
    let gone := s.gives fun _ => y.send m.dst m.src m.line m.cl .wbPending
    (s.dev.msgAt m 2 = some x →
      (∀ k to_ cl pf c, x.body = .fwd k to_ cl pf → (c = .fwds m ∧ k = .rdS ∨ c = .fwdx m ∧ k = .rdX ∨ c = .fwdu m ∧ k = .rdU) →
        (early → exec c s = held) ∧ (¬early → y.repLine m.dst m.line = none → exec c s = gone) ∧
        ∀ z, ¬early → y.repLine m.dst m.line = some z →
          let sent := fun g => (y.send m.dst to_ m.line cl (.data g true z.d pf)).send m.dst m.src m.line m.cl (.fwdAck z.st)
          let stays := fun w : RepLine => { w with st := if w.st = .e ∨ w.st = .s then .s else .o }
          (k = .rdS → exec c s = s.gives fun _ => (sent .s).onRepLine m.dst m.line stays) ∧
          (k = .rdU → exec c s = s.gives fun _ => (sent .none).onRepLine m.dst m.line stays) ∧
          (k = .rdX → exec c s = s.gives fun _ => ((sent .m).dropRepLine m.dst m.line).countLeave m.dst z)) ∧
      (x.body = .recallMsg → (early → exec (.recall m) s = held) ∧
        (¬early → y.repLine m.dst m.line = none → exec (.recall m) s = gone) ∧
        ∀ z, ¬early → y.repLine m.dst m.line = some z → exec (.recall m) s = s.gives fun _ =>
          ((y.dropRepLine m.dst m.line).countLeave m.dst z).send m.dst m.src m.line m.cl
            (.recallData z.d (decide (z.st = .m ∨ z.st = .o))))) ∧
    (s.dev.msgAt m 0 = some x → x.body = .inv →
      (early → exec (.inv m) s = held) ∧
      (¬early → y.repLine m.dst m.line = none → exec (.inv m) s = s.gives fun _ => y.send m.dst m.src m.line m.cl .invAck) ∧
      ∀ z, ¬early → y.repLine m.dst m.line = some z → exec (.inv m) s = s.gives fun _ =>
        ((y.dropRepLine m.dst m.line).countLeave m.dst z).send m.dst m.src m.line m.cl .invAck)) ∧
  (∀ (s : State) (n line : Nat), n < 384 → line < 2 ^ 28 → s.dev.pwr.stopped = false →
    let die := dieOf n
    (∀ b, s.dev.present n = true → (s.dev.cl n).buf.find? (fun z => decide (z.line = line)) = some b → b.issued = false →
      (s.dev.cl n).readOut line = false → s.dev.loadWaits n line = false → s.dev.inWb die line = false →
      (s.dev.partAt (lineAddr line) = none → exec (.storeBufferPerform n line) s = s.gives fun d => (d.bufDone n line).settle n) ∧
      ∀ p, s.dev.partAt (lineAddr line) = some p →
        (s.dev.homeDie line = die ∨ s.dev.replicaOf die = none →
          exec (.storeBufferPerform n line) s = s.gives fun d => (d.bufReq n b .wrT).settle n) ∧
        ∀ x, s.dev.homeDie line ≠ die → (s.dev.replicaOf die).isSome = true → s.dev.fillOut die line = false →
          s.dev.repLine die line = some x → (x.st = .m ∨ x.st = .e) →
          exec (.storeBufferPerform n line) s = s.gives fun d =>
            (((d.onCl n fun c => (c.track p line (decide (b.mask = BitVec.allOnes 128))).2).countClass die x.cls 0).bufIntoReplica n b).settle n) ∧
    (∀ m x, s.dev.present n = true → (s.dev.cl n).misses.find? (fun y => decide (y.line = line) && y.data.isSome) = some m →
      m.data = some x → exec (.missReturn n line) s = s.gives fun d =>
        let d := d.freeMiss n fun y => decide (y = m)
        (m.agents.foldl (fun d a => d.giveLine a line x) (if m.kind = .read true then d.onCl n fun c => c.l1rFill line x else d)).pumpAll n) ∧
    (∀ k, k < 8 → exec (.streamTrackerTimeout n k) s = s.gives fun d => d.onCl n fun c => { c with trackers := c.trackers.eraseIdx k }) ∧
    ∀ k x r, k < 8 →
      let here := fun z : Msg => decide (z.src = k) && decide (z.line = line) && (s.dev.taken z || s.dev.arrived z) && (match z.body with
        | .req r => r.prefetch
        | _ => false)
      s.dev.coh.net.find? here = some x → x.body = .req r → exec (.prefetchDrop k line) s = s.gives fun d =>
        let d := d.onCoh fun c => { c with net := eraseFirst c.net here }
        if r.kind = .rdS then d.dropPrefetch k x.cl line
        else d.onCl x.cl fun c => { c with l1rPf := c.l1rPf.filter fun q => decide (q.1 ≠ line) })

/-- What the home does with a request for a line that no directory entry names (Table 8.5, UNC): RdS gets the line with E
and the entry EXC when COH_CTL.E_GRANT is set, with S and SHR otherwise; RdX and Upg get it with M and EXC; RdU gets
it and no entry is made. The answer is the last message in flight, and no other entry changes. -/
def Obligations.UncachedRequests : Prop :=
  ∀ (d : Dev) (r : Req), d.entry r.line = none →
    let h := d.homeDie r.line
    let e := (d.accept r).entry
    let x := (d.homeLine r.line).1
    let answer := fun g pf => ∃ sp dp, (d.accept r).coh.net.getLast? = some
      { src := h, dst := r.src, line := r.line, cl := r.cl, sp := sp, dp := dp, hop := 0, due := none, fails := 0, body := .data g true x pf }
    (r.kind = .rdS → d.rb (oCoh h) 8 = true → e r.line = some (.mk' .exc r.src [] false none) ∧ answer .e r.prefetch) ∧
    (r.kind = .rdS → d.rb (oCoh h) 8 = false → e r.line = some (.mk' .shr 0 [r.src] false none) ∧ answer .s r.prefetch) ∧
    (r.kind = .rdX ∨ r.kind = .upg → e r.line = some (.mk' .exc r.src [] false none) ∧ answer .m false) ∧
    (r.kind = .rdU → e r.line = none ∧ answer .none false) ∧
    ∀ l, l ≠ r.line → e l = d.entry l

/-- A Put that reaches the home is answered WbAck; from a die that the directory does not name as the owner it writes
nothing, from the owner of an entry that is not BUSY the data of PutM and PutO are written and the owner is removed
(R243, R244). -/
def Obligations.PutsWriteOnce : Prop :=
  ∀ (d : Dev) (r : Req), (r.kind = .putE ∨ r.kind = .putM ∨ r.kind = .putO) →
    let x := d.putArrives r
    let owner := ∃ e, d.entry r.line = some e ∧ (e.st = .exc ∨ e.st = .own) ∧ e.owner = r.src
    (∃ m ∈ x.coh.net, m.body = .wbAck ∧ m.dst = r.src ∧ m.line = r.line) ∧
    (¬owner → x.commons = d.commons ∧ ∀ l, x.entry l = d.entry l) ∧
    (r.kind = .putE → ∀ e, d.entry r.line = some e → e.txn = none → x.commons = d.commons) ∧
    (∀ e w, d.entry r.line = some e → e.txn = none → e.owner = r.src → (e.st = .exc ∨ e.st = .own) → r.kind ≠ .putE →
      r.pay = .put w → x.commons = (d.putLine .com (lineAddr r.line) w).commons) ∧
    ∀ e, d.entry r.line = some e → e.txn = none → e.owner = r.src → e.st = .exc → x.entry r.line = none

/-- The answers that reach a home complete: an InvAck or WbPending is no longer awaited, FwdAck gives the entry its next
state, RecallData brings home dirty data, and data for a line with words that have failed there, and dirty data end
the reservations of the line (R243, R245, R253, R395). A kill notice ends its holder's reservation, unless that is a
later one, recorded at the home. The answers that reach a requester complete: Data without a grant gives the line to
the cluster and its die's L1R caches, with S or E it also fills the replica cache; Data with M makes the line M with
the cluster's stored bytes over it, and leaves every other byte as the grant, or the copy that the die kept, has it;
Comp ends a store that went through, or gives an atomic's values; WbAck frees the write-back entry and its credit;
Retry keeps a request that got no ticket and drops a prefetch; Wake and RETRY_RESEND send the request again once its
line has left the write-back buffer (R224, R242, R244, R247, R249). A line that finds no way of its set waits: log
entry 87. -/
def Obligations.CoherenceAnswersComplete : Prop :=
  (∀ (s : State) (m : MsgSel) (x : Msg), selOk m = true → s.dev.pwr.stopped = false →
    let y := s.dev.receive x
    (s.dev.msgAt m 0 = some x →
      (x.body = .invAck → exec (.invack m) s = s.gives fun _ =>
        y.onTxn m.line fun t => { t with acks := eraseFirst t.acks fun z => decide (z = m.src) }) ∧
      (∀ st, x.body = .fwdAck st → exec (.fwdack m) s = s.gives fun _ => y.fwdAcked m.line st) ∧
      ∀ a r, x.body = .kill a → y.resvOf a = some r →
        let later := (y.coh.resv.any fun h => decide (h.a = a) && decide (h.line = m.line)) = true
        (r.commons = true → y.granule (lineOf r.addr) = y.granule m.line → ¬later →
          exec (.killNotice m) s = s.gives fun _ => y.endResv a) ∧
        (r.commons = false ∨ y.granule (lineOf r.addr) ≠ y.granule m.line ∨ later → exec (.killNotice m) s = s.gives fun _ => y)) ∧
    (s.dev.msgAt m 3 = some x →
      (∀ w dirty, x.body = .recallData w dirty → exec (.recalldata m) s = s.gives fun _ =>
        let z := if dirty then y.killResv m.line else y
        (if dirty || !(z.badWords m.line).isEmpty then z.putLine .com (lineAddr m.line) w else z).onTxn m.line fun t =>
          { t with recl := false }) ∧
      (x.body = .wbPending → exec (.wbpending m) s = s.gives fun _ =>
        y.onTxn m.line fun t => { t with fwd := false, recl := false, wb := !t.putSeen }))) ∧
  (∀ (s : State) (m : MsgSel) (x : Msg), selOk m = true → s.dev.pwr.stopped = false →
    let y := s.dev.receive x
    let held := s.gives fun d => d.holdMsg x
    let room := y.hasRoom m.dst m.line = true
    (s.dev.msgAt m 3 = some x →
      (∀ g wd w pf, x.body = .data g wd w pf →
        (g = .s → (room → exec (.data m) s = s.gives fun _ => y.readData m.dst m.line .s w) ∧ (¬room → exec (.data m) s = held)) ∧
        (g = .e → (room → exec (.data m) s = s.gives fun _ => y.readData m.dst m.line .e w) ∧ (¬room → exec (.data m) s = held)) ∧
        (g = .none → exec (.data m) s = s.gives fun _ =>
          let late := (y.cl m.cl).lost.any fun z => decide (z.kind = 1) && decide (z.val = BitVec.ofNat 64 (lineAddr m.line))
          (if pf then y else if late then y.lateArrive m.cl 1 (lineAddr m.line) else y.giveCl m.cl m.line w).giveL1R m.dst m.line w) ∧
        (g = .m → (room ∨ (y.repLine m.dst m.line).isSome = true →
            exec (.data m) s = s.gives fun _ => y.ownData m.dst m.cl m.line wd w) ∧
          (¬room → y.repLine m.dst m.line = none → exec (.data m) s = held)) ∧
        ∀ z p t, g = .m → y.repLine m.dst m.line = some z → y.replicaOf m.dst = some p → exec (.data m) s = .next t →
          let base := if wd then w else z.d
          ∃ q, t.dev.repLine m.dst m.line = some q ∧ q.st = .m ∧ q.d = match (y.cl m.cl).buf.find? fun b => decide (b.line = m.line) with
            | some b => storeInto base b.mask b.data
            | none => base) ∧
      (∀ r res bad, x.body = .comp r res bad →
        (∀ mask data, r.pay = .write mask data → exec (.comp m) s = s.gives fun _ =>
          ((((y.lateArrive m.cl 3 (lineAddr m.line)).bufDone m.cl m.line).freeMiss m.cl fun z =>
            decide (z.line = m.line) && decide (z.kind = .through)).pumpAll m.cl).settle m.cl) ∧
        ∀ t, r.pay = .atm t →
          let z := y.lateArrive m.cl 2 t.addr
          let mine := fun q : Miss => decide (q.kind = .atom t)
          ((z.cl m.cl).misses.find? mine = none → exec (.comp m) s = s.gives fun _ => z.pumpAll m.cl) ∧
          ∀ q, (z.cl m.cl).misses.find? mine = some q → exec (.comp m) s = s.gives fun _ =>
            (if q.agents.isEmpty then (z.freeMiss m.cl mine).atomFlags t.by_ t res
              else (z.freeMiss m.cl mine).giveAtom t.by_ t res bad).pumpAll m.cl) ∧
      (x.body = .wbAck → exec (.wback m) s = s.gives fun _ =>
        (y.setRep m.dst { y.rep m.dst with
          wb := eraseFirst (y.rep m.dst).wb fun z => decide (z.line = m.line)
          sent := eraseFirst (y.rep m.dst).sent fun l => decide (l = m.line) }).sendPuts m.dst) ∧
      (∀ ticket r, x.body = .retry ticket r →
        (r.prefetch = false → exec (.retry m) s = s.gives fun _ =>
          if ticket then y else y.onCoh fun c => { c with retryq := c.retryq ++ [r] }) ∧
        (r.prefetch = true → r.kind = .rdS → exec (.retry m) s = s.gives fun _ => y.dropPrefetch r.src r.cl r.line) ∧
        (r.prefetch = true → r.kind ≠ .rdS → exec (.retry m) s = s.gives fun _ =>
          y.onCl r.cl fun c => { c with l1rPf := c.l1rPf.filter fun q => decide (q.1 ≠ r.line) })) ∧
      ∀ r, x.body = .wake r → (y.inWb r.src r.line = true → exec (.cohWake m) s = held) ∧
        (y.inWb r.src r.line = false → exec (.cohWake m) s = s.gives fun _ =>
          y.send r.src (y.homeDie r.line) r.line r.cl (.req { r with ticket := true }))) ∧
    ∀ r, s.dev.coh.retryq.find? (fun q => decide (q.src = m.src) &&
        decide (s.dev.home (lineAddr q.line) = s.dev.home (lineAddr m.line))) = some r → r.line = m.line → r.cl = m.cl →
      s.dev.inWb r.src r.line = false → s.dev.reservedUsed m.src m.line + s.dev.resent m.src m.line < 8 → exec (.retryResend m) s = s.gives fun d =>
        (d.onCoh fun c => { c with retryq := eraseFirst c.retryq fun q => decide (q = r) }).send r.src
          (d.home (lineAddr m.line)).1 r.line r.cl (.req r))

/-! ## Copy engines -/

/-- A command leaves a cluster's outbound queue for its channel (R283): the k-th goes when no earlier one names the same
channel and fewer than 64 wait there. On a halted channel its token is DONE with HALTED; otherwise it becomes the
channel's last command, not started. A write of CLEAR clears HALT and no more (R294). A Porter descriptor completes
when the channel reaches it (R284, R286, R287) and no other of its operation can be performed: one that a check
refuses ends with that status, a FENCE waits for earlier writes, one whose source lies in a peer asks for its lines,
and any other is performed at once or stays started, which the spec leaves open (R284). A descriptor that has started
is performed by its operation when none of its source words heals and every Commons line is free and still lies in a
partition (R215, R287, R288, R290, R296), and fails with the check's status where a partition has gone; it leaves the
started ones, and requests that waited behind it go on. A row that finds one of its operation performs one of them or
reaches the next descriptor. The ends of engine commands complete: a Porter or gather command all of whose work is
done ends (R292); one that was abandoned ends with ABANDONED once nothing of it is outstanding (R295), and the
requests that it never sent make room for others; one that waits for a line's healing goes on when it has healed, and
fails at the first uncorrectable word of its own when it has not (R296). A gather command starts when its channel
reaches it with a good record, no list word to heal and every Commons line free: it reads its lists and issues its row
fetches. A record that R301 refuses ends it with BAD_COMMAND, one whose addresses are misaligned with MISALIGNED. A
row that has come is kept with its place; with ORDERED, an early row waits while the reorder store is full (R304). -/
def Obligations.EnginesComplete : Prop :=
  (∀ (s : State), s.dev.pwr.stopped = false →
    (∀ (n k : Nat) (o : OutCmd), n < 384 → (s.dev.cl n).outq[k]? = some o →
      let eng := if o.gather then 1 else 0
      let ch := outChannel o.gather o.record
      (((s.dev.cl n).outq.take k).any fun x => decide (x.gather = o.gather) && decide (outChannel x.gather x.record = ch)) = false →
      ((s.dev.chan eng ch).cmds.filter fun x => !x.started).length < 64 →
      ∃ t, exec (.engineCommandDequeue n k) s = .next t ∧
        (s.dev.rb (oChan eng ch + 4) 0 = false → (t.dev.cl n).outq = (s.dev.cl n).outq.eraseIdx k ∧
          ∃ c, (t.dev.chan eng ch).cmds = (s.dev.chan eng ch).cmds ++ [c] ∧ c.cluster = n ∧ c.tok = o.tok ∧ c.record = o.record ∧
            c.started = false ∧ c.next = some o.addr ∧ c.func = o.func ∧ (t.dev.cl n).tokens = (s.dev.cl n).tokens) ∧
        (s.dev.rb (oChan eng ch + 4) 0 = true → o.tok < 64 → s.dev.aliasOf o.ctx n o.cid = none → s.dev.calm n = true →
          (t.dev.chan eng ch).cmds = (s.dev.chan eng ch).cmds ∧
          (((s.dev.cl n).tok o.tok).st = .pending → ((s.dev.cl n).tok o.tok).cid = o.cid →
            ((t.dev.cl n).tok o.tok).st = .done ∧ ((t.dev.cl n).tok o.tok).status.toNat = engStatus eng 0x3A))) ∧
    ∀ (e : Engine) (ch : Nat), ch < s.dev.chanCount (engNo e) → ch < (if engNo e = 1 then 128 else 256) →
      exec (.clear e ch) s = s.gives fun d => d.clearChan (engNo e) ch) ∧
  (∀ (s : State) (ch op here : Nat) (c : EngCmd) (w : BitVec 512) (y : Dev) (i : Instr), chOk 0 ch = true → s.dev.full = true →
    s.dev.pwr.stopped = false → ch < s.dev.chanCount 0 → s.dev.landable ch op = [] → s.dev.nextDesc ch = some (c, here, .ok w, y) → pOP w = op →
    (i = .copy ch ∧ op = 1 ∨ i = .fill ch ∧ op = 2 ∨ i = .writeImm ch ∧ op = 3 ∨ i = .reduce ch ∧ op = 4 ∨ i = .fence ch ∧ op = 5) →
    (∀ st a, y.pCheck c w here = some (st, a) → exec i s = s.gives fun _ =>
      (y.onCmd 0 ch c.k fun x => x.reach w).failDesc 0 ch c.k (mkFail c.count w st a)) ∧
    (y.pCheck c w here = none →
      (op = 5 → y.chanBusy ch = false → exec i s = s.gives fun _ => y.onCmd 0 ch c.k fun x => x.reach w) ∧
      (op = 5 → y.chanBusy ch = true → exec i s = s.gives fun _ =>
        y.onCmd 0 ch c.k fun x => { x with started := true, fencing := true, lastTag := pTAG w }) ∧
      (op ≠ 5 →
        let z := (y.choose 2).2
        let f := fun need : List Nat => Flight.mk c.count w need [] none
        let e := z.onCmd 0 ch c.k fun x => { (x.reach w) with flights := x.flights ++ [f (((z.descFetch c w).map Prod.snd).getD [])] }
        (∀ dev ls, e.descFetch c w = some (dev, ls) → exec i s = s.gives fun _ =>
          e.addRems 0 ch (ls.map fun l => e.mkRem 0 ch c c.count dev 3 0 0 (128 * l) 0 0 0 false (pTAG w))) ∧
        (e.descFetch c w = none → exec i s = s.gives fun _ =>
          if (y.choose 2).1 = 1 ∨ e.stoneHeld ch c c.count w = true then e else e.land ch c (f []))))) ∧
  ((∀ (d : Dev) (ch : Nat) (c : EngCmd) (f : Flight),
    let lines := (d.descLines c f.desc).1 ++ (d.descLines c f.desc).2
    let x := d.onCmd 0 ch c.k fun x => { x with flights := x.flights.filter fun y => decide (y.pos ≠ f.pos) }
    (∀ st a, (∃ l ∈ lines, d.partAt (lineAddr l) = none) → d.pCheck c f.desc 0 = some (st, a) →
      d.land ch c f = (x.failDesc 0 ch c.k (mkFail f.pos f.desc st a)).pumpDie 0 ch) ∧
    ((∀ l ∈ lines, d.partAt (lineAddr l) ≠ none) → d.rangesHeal (d.srcRanges c f.desc) = none → d.heldLines lines = none →
    (pOP f.desc = 1 → d.land ch c f = (x.doCopy ch c f.pos f.desc f.got).pumpDie 0 ch) ∧
    (pOP f.desc = 2 → d.land ch c f = (x.doFill ch c f.pos f.desc).pumpDie 0 ch) ∧
    (pOP f.desc = 3 → d.land ch c f = (x.doWriteImm ch c f.pos f.desc).pumpDie 0 ch) ∧
    (pOP f.desc = 4 → d.land ch c f = (x.doReduce ch c f.pos f.desc f.got).pumpDie 0 ch))) ∧
  ∀ (s : State) (ch op : Nat) (i : Instr), chOk 0 ch = true → s.dev.full = true → s.dev.pwr.stopped = false → ch < s.dev.chanCount 0 → s.dev.landable ch op ≠ [] →
    (i = .copy ch ∧ op = 1 ∨ i = .fill ch ∧ op = 2 ∨ i = .writeImm ch ∧ op = 3 ∨ i = .reduce ch ∧ op = 4) →
    exec i s = s.gives fun d =>
      let y := (d.choose 2).2
      match (if (d.choose 2).1 = 1 then y.porterNext ch op else none) with
      | some x => x
      | none => (y.landFlight ch op).getD y) ∧
  (∀ (s : State) (e : Engine) (ch k : Nat) (c : EngCmd), chOk (engNo e) ch = true → s.dev.engCmd (engNo e) ch k = some c →
    s.dev.pwr.stopped = false →
    (engNo e = 0 → c.started = true → c.next = none → c.abandoned = false → s.dev.cmdIdle 0 ch c = true →
      exec (.porterCommandComplete ch k) s = s.gives fun d => d.endCmd 0 ch c) ∧
    (engNo e = 1 → c.started = true → c.next = none → c.abandoned = false → s.dev.cmdIdle 1 ch c = true →
      (c.fails ≠ [] → exec (.gatherComplete ch k) s = s.gives fun d => d.endCmd 1 ch c) ∧
      ∀ sp, c.fails = [] → s.dev.heldLines (s.dev.gLines c).2 = none → gPOOL c.record ≠ 0 →
        (s.dev.spaceOf c (gOutSpace c.record).1 (gOutSpace c.record).2).mem? = some sp →
        exec (.gatherComplete ch k) s = s.gives fun d =>
          (((List.range (gOutRows c.record)).foldl (fun d r => (d.engPut (some c) sp (pADDR (gOUT c.record) + r * gOUT_STRIDE c.record)
            ((poolRow c.record c.seed r (c.bagRows r)).map some)).2) d).endCmd 1 ch c).gRun ch) ∧
    (c.abandoned = true →
      let c' := { c with next := none, flights := [], todo := [], fetch := [], rows := [], healing := none, fencing := false }
      let left := fun d : Dev =>
        let y := ((d.onChan (engNo e) ch fun x => { x with unsent := x.unsent.filter fun r => decide (r.k ≠ k) }).onCmd
          (engNo e) ch k fun _ => c').pumpDie (engNo e) ch
        if engNo e = 1 then y.gRun ch else y
      ((left s.dev).cmdIdle (engNo e) ch c' = true → exec (.engineAbandon e ch k) s = s.gives fun d =>
        ((left d).onChan (engNo e) ch fun x => { x with cmds := x.cmds.filter fun y => decide (y.k ≠ k) }).tokenDone c
          (engStatus (engNo e) 0x3B)) ∧
      ((left s.dev).cmdIdle (engNo e) ch c' = false → exec (.engineAbandon e ch k) s = s.gives left)) ∧
    (∀ f l, e = .porter → c.flights.find? (fun f => f.heal.isSome) = some f → f.heal = some l →
      let goes := fun d : Dev => d.onFlight ch k f.pos fun y => { y with heal := none }
      (s.dev.healing l = false → exec (.sourceHealWaitEnd e ch k true) s = s.gives goes) ∧
      (s.dev.rangesBad l (s.dev.srcRanges c f.desc) = none → exec (.sourceHealWaitEnd e ch k false) s = s.gives goes) ∧
      ∀ a, s.dev.rangesBad l (s.dev.srcRanges c f.desc) = some a → exec (.sourceHealWaitEnd e ch k false) s = s.gives fun d =>
        (d.failAt ch c f.desc (mkFail f.pos f.desc 0x35 ⟨a, 0, 2⟩)).pumpDie 0 ch) ∧
    ∀ l, e = .gather → c.healing = some l →
      let rs := if c.next.isSome then gRanges c.record else c.fetch.map fun i => (c.rowAddr i, gROW_BYTES c.record)
      let goes := fun d : Dev => (d.onCmd 1 ch k fun x => { x with healing := none }).gRun ch
      (s.dev.healing l = false → exec (.sourceHealWaitEnd e ch k true) s = s.gives goes) ∧
      (s.dev.rangesBad l rs = none → exec (.sourceHealWaitEnd e ch k false) s = s.gives goes) ∧
      ∀ a, s.dev.rangesBad l rs = some a → exec (.sourceHealWaitEnd e ch k false) s = s.gives fun d =>
        ((d.onCmd 1 ch k fun x => { x with count := 1 }).failDesc 1 ch k (gFail c 0x46 ⟨a, 0, 2⟩)).gRun ch) ∧
  (∀ (s : State) (ch : Nat) (c : EngCmd), chOk 1 ch = true → s.dev.pwr.stopped = false →
    let w := c.record
    let start := fun d : Dev => d.onCmd 1 ch c.k fun x =>
      { x with started := true, next := none, count := 1, lastTag := gTAG w, healing := none }
    (s.dev.full = true → ch < s.dev.chanCount 1 → s.dev.nextCmd 1 ch = some c → c.healing = none →
      (gBad w s.dev.part.clusters = true → exec (.gather ch) s = s.gives fun d =>
        (start d).failDesc 1 ch c.k (gFail c 0x40 ⟨c.addr, 0, 0⟩)) ∧
      (∀ a, gBad w s.dev.part.clusters = false → gMisaligned w = some a →
        exec (.gather ch) s = s.gives fun d => (start d).failDesc 1 ch c.k (gFail c 0x42 a)) ∧
      (gBad w s.dev.part.clusters = false → gMisaligned w = none → s.dev.gReach c w = [] → gPOOL w = 0 →
        s.dev.rangesHeal (gRanges w) = none → s.dev.heldLines ((s.dev.gLines c).1 ++ (s.dev.gLines c).2) = none →
        exec (.gather ch) s = s.gives fun d => (start d).gBegin ch c) ∧
      ∀ bs y, gBad w s.dev.part.clusters = false → gMisaligned w = none → s.dev.gReach c w = [] → gPOOL w ≠ 0 →
        s.dev.rangesHeal (gRanges w) = none → s.dev.heldLines ((s.dev.gLines c).1 ++ (s.dev.gLines c).2) = none →
        s.dev.rowReach c (coreSpace (gOFS w)) 0 (gOFS w) (4 * (gNBAGS w + 1)) false = none →
        s.dev.readList c (gOFS w) (4 * (gNBAGS w + 1)) = (.ok bs, y) →
        (offsetsOk (gNIDX w) (natsOf 4 bs) = true → exec (.gather ch) s = s.gives fun _ => (start y).gBegin ch c) ∧
        (offsetsOk (gNIDX w) (natsOf 4 bs) = false →
          exec (.gather ch) s = s.gives fun _ => (start y).failDesc 1 ch c.k (gFail c 0x45 ⟨c.addr, 0, 0⟩))) ∧
    ∀ k i row, s.dev.engCmd 1 ch k = some c → c.fetch.contains i = true → c.healing = none →
      let early := (gFLAGS w).testBit 0 = true ∧ c.isEarly i = true ∧ s.dev.reorderFull (chanDie 1 ch) c = true
      let a := c.rowAddr i
      let n := gROW_BYTES w
      let take := fun (d : Dev) (bs : List Byte) => (d.onCmd 1 ch k fun x =>
        { x with fetch := x.fetch.filter fun j => decide (j ≠ i)
                 flights := x.flights.filter fun f => decide (f.pos ≠ i)
                 rows := x.rows ++ [(i, bs)] }).gRun ch
      let sp := s.dev.spaceOf c (gTSPACE w) (pID (gTABLE w))
      (early → exec (.rowFetchReturn ch k i row false) s = s.gives id) ∧
      (¬early → (∃ f, sp = .host f) → exec (.rowFetchReturn ch k i row false) s = s.gives fun d => take d ((List.range n).map fun j => row.getD j 0)) ∧
      (∀ dev f bs y, ¬early → sp = .peer dev → c.flights.find? (fun f => decide (f.pos = i) && f.need.isEmpty) = some f →
        s.dev.engRead (.peer dev) f.got a n = (bs, none, y) →
        exec (.rowFetchReturn ch k i row false) s = s.gives fun _ => take y (bs.map fun b => b.getD 0)) ∧
      ∀ bs y, ¬early → sp = .com → s.dev.rangesHeal [(a, n)] = none →
        s.dev.heldLines ((linesOf a n).map fun l => lineOf (128 * l)) = none → s.dev.engRead .com [] a n = (bs, none, y) →
        exec (.rowFetchReturn ch k i row false) s = s.gives fun _ => take y (bs.map fun b => b.getD 0))

/-- What FILL writes into Local when its rows do not overlap and lie in written words: byte i of each row is byte i mod 8
of IMM, and every other byte of that Local and of every other memory stays (R287). -/
def Obligations.FillWrites : Prop :=
  ∀ (d : Dev) (ch : Nat) (c : EngCmd) (pos n : Nat) (w : BitVec 512), pOP w = 2 →
    let r := pDest w
    let e := d.doFill ch c pos w
    let inRow := fun y k => k < r.rows ∧ r.row k ≤ y ∧ y < r.row k + r.len
    d.spaceOf c r.space r.id = .loc n → (d.mem (.loc n)).wf = true → (∀ y j k, inRow y j → inRow y k → j = k) →
    (∀ y k, inRow y k → (d.mem (.loc n)).mark (y / 8) = .written) →
    (∀ y k, inRow y k → (e.mem (.loc n)).byte y = BitVec.ofNat 8 (pIMM w / 256 ^ ((y - r.row k) % 8))) ∧
    (∀ y, (∀ k, ¬inRow y k) → (e.mem (.loc n)).byte y = (d.mem (.loc n)).byte y) ∧
    ∀ sp y, sp ≠ .loc n → (e.mem sp).byte y = (d.mem sp).byte y

/-! ## Links and collectives -/

/-- Frames complete on a link that is up and not in training (R309 to R312). A frame that is not good is counted and
answered with a NAK. A data frame of the expected SEQ that the receive buffer has room for brings its credit and its
ACK, and its messages are queued; any other is discarded with all it carries; an idle frame brings credit and ACK
only; a NAK in order makes the replay buffer go out again, and eight in a row that name one frame make the link train.
Training completes (R307, R308, R314, R315): a frame of the far end reports it; with any working lane and a report of
the far end the link is up at the common rate, otherwise it is down; a failed lane and lost frame lock start training,
and so does the retry of a link that is down. A peer that trains is lost no longer: log entry 96. -/
def Obligations.LinksComplete : Prop :=
  (∀ (s : State) (l : Nat) (f : Frame), l < 66 → s.dev.pwr.stopped = false → s.dev.linkLive l = true →
    let k := s.dev.countFec l f
    let x := s.dev.link l
    let next := f.seq = x.rxSeq + 1
    (f.good = false → ∀ c ∈ [Instr.dataFrame l f, .idleFrame l f, .nakFrame l f], exec c s = s.gives fun d => d.badFrame l f) ∧
    (f.good = true →
      exec (.idleFrame l f) s = (s.gives fun _ => (k.frameHead l f).pumpLink l) ∧
      (next → x.room f.msgs = true → exec (.dataFrame l f) s = s.gives fun _ =>
        (((k.frameHead l f).onLink l fun y => { y with rxSeq := f.seq, discarding := false, part := (x.whole f).2 }).takeMsgs l
          (x.whole f).1).pumpLink l) ∧
      (next → x.room f.msgs = false → exec (.dataFrame l f) s = s.gives id) ∧
      (¬next → ∀ c ∈ [Instr.dataFrame l f, .nakFrame l f], exec c s = s.gives fun _ => (k.onLink l Link.discard).pumpLink l) ∧
      let h := k.frameHead l f
      let y := h.link l
      let runs := if y.nakRun > 0 ∧ y.nakAck = f.ack then y.nakRun + 1 else 1
      let z := ((h.setLink l { y with nakAck := f.ack, nakRun := (if runs ≥ 8 then 0 else runs), rxSeq := f.seq, discarding := false }).bumpRf
        (oLink l + 0x18) 31 0 1).bumpRf (oLink l + 0x18) 63 32 y.replay.length
      next → exec (.nakFrame l f) s = s.gives fun _ => if runs ≥ 8 then z.startRetrain l else z.pumpLink l)) ∧
  (∀ (s : State) (l : Nat), l < 66 → s.dev.pwr.stopped = false →
    let o := oLink l + 4
    let d := s.dev
    let x := d.link l
    (∀ t : Training, d.full = true → l < d.part.links → d.rb (oLink l) 0 = true → d.linkTraining l = true → x.trained = false →
      exec (.trainingFrame l t) s = s.gives fun d =>
        ((((d.setRf o 21 10 (if t.switch then 0 else t.peer.toNat)).setRf o 27 22 (if t.switch then 0 else t.peerLink.toNat)).setRb o 28
          t.switch).setRf o 9 6 (t.working &&& ~~~x.badLanes).toNat).onLink l fun x =>
            { x with farRate := some t.rateMax.toNat, trained := true }) ∧
    (∀ w, d.full = true → l < d.part.links → d.linkTraining l = true →
      let ok := w &&& ~~~x.badLanes
      (lanesUsed ok = 0 ∨ x.farRate = none →
        (d.linkUp l = false → exec (.retrainComplete l w) s = s.gives fun d => (d.setRf o 9 6 ok.toNat).setRb o 29 false) ∧
        (d.linkUp l = true → exec (.retrainComplete l w) s = s.gives fun d =>
          ((d.setRf o 9 6 ok.toNat).linkDown l true).gRunAll)) ∧
      ∀ r, lanesUsed ok ≠ 0 → x.farRate = some r →
        let y := ((((d.setRb o 0 true).setRf o 2 1 (min r (d.rf (oLink l) 2 1))).setRf o 5 3 (lanesUsed ok)).setRf o 9 6 ok.toNat).setRb o 29 false
        let back := fun z : Dev => (if z.rb o 28 then z else z.onLinks fun b =>
          { b with lost := b.lost.filter fun p => decide (p ≠ z.rf o 21 10) }).pumpLink l
        (d.linkUp l = false → exec (.retrainComplete l w) s = s.gives fun _ => back (y.freshLink l (~~~ok))) ∧
        (d.linkUp l = true → exec (.retrainComplete l w) s = s.gives fun _ =>
          let z := (y.setLink l { x with badLanes := ~~~ok }).bumpRf (oLink l + 0x18) 63 32 x.replay.length
          back (if lanesUsed ok < d.rf o 5 3 then z.linkEvent l 0 else z))) ∧
    (d.full = true → l < d.part.links → d.rb (oLink l) 0 = true → d.linkUp l = false →
      exec (.trainingRetry l) s = s.gives fun d => d.startRetrain l) ∧
    (d.linkLive l = true → exec (.frameLockLost l) s = (s.gives fun d => d.startRetrain l) ∧
      ∀ lane, lane < 4 → exec (.laneFailed l lane) s = s.gives fun d =>
        (d.onLink l fun x => { x with badLanes := setBit x.badLanes lane true }).startRetrain l))

/-- Data frames are accepted in SEQ order (R312): the frame of the next SEQ moves the receiver on and adds the messages
that are whole with it to the receive queue, but for those that break the protocol and collective control; any other
frame leaves SEQ, the credits and the queue as they are, and the link discards until the missing frame comes, once its
NAK has room in the replay buffer. But for relayed collective control, no other link changes. -/
def Obligations.FramesInOrder : Prop :=
  ∀ (s : State) (l : Nat) (f : Frame), l < 66 → s.dev.pwr.stopped = false → s.dev.linkLive l = true → f.good = true →
    let x := s.dev.link l
    ∃ t, exec (.dataFrame l f) s = .next t ∧
      (f.seq = x.rxSeq + 1 → x.room f.msgs = true → (t.dev.link l).rxSeq = f.seq ∧ (t.dev.link l).discarding = false ∧
        (t.dev.link l).part = (x.whole f).2 ∧
        (t.dev.link l).rxq = x.rxq ++ (x.whole f).1.filter fun m => !msgBad m && decide (m.kind ≠ 0xB)) ∧
      (f.seq ≠ x.rxSeq + 1 → (t.dev.link l).rxSeq = x.rxSeq ∧ (t.dev.link l).rxq = x.rxq ∧ (t.dev.link l).part = x.part ∧
        (t.dev.link l).cr0 ≤ x.cr0 ∧ (t.dev.link l).cr1 ≤ x.cr1 ∧ (t.dev.link l).cr2 ≤ x.cr2 ∧
        ((t.dev.link l).discarding = true ↔ x.discarding = true ∨ x.replay.length < 256)) ∧
      ((∀ m ∈ (x.whole f).1, m.kind ≠ 0xB) → ∀ k, k ≠ l → t.dev.link k = s.dev.link k)

/-- Sending keeps to credit and to the replay buffer (R311, R312): a pumped link never holds more than 256 unacknowledged
frames if it did not before, loses no message, and pays for each message it sends. -/
def Obligations.SendingKeepsCredit : Prop :=
  ∀ (x : Link) (w : Sharer) (k : Nat), x.replay.length ≤ 256 →
    let y := Link.pump w k x
    y.replay.length ≤ 256 ∧ y.cr0 ≤ x.cr0 ∧ y.cr1 ≤ x.cr1 ∧ y.cr2 ≤ x.cr2 ∧ y.rxq = x.rxq ∧ y.rxSeq = x.rxSeq ∧
    ∃ fs : List TxFrame, y.replay = x.replay ++ fs ∧ (y.sendq ++ (fs.map TxFrame.msgs).flatten).Perm x.sendq ∧
      (((fs.map TxFrame.msgs).flatten.filter fun m => decide (msgLv m = 1)).map msgSize).sum = x.cr1 - y.cr1 ∧
      ∀ f ∈ fs, f.msgs.length = 1

/-- Requests of a peer complete when they are at the head of their channel, address this device, lie in a partition, wait
for nothing and have a tally: WR writes its words, ATM reduces into its line, RD reads it; each is then recorded as
performed and acknowledged, and milestones that waited for it follow. A word that is uncorrectable is answered with
the error indication. A message for another device is relayed (R318), over the twin links none; a refetch of the twin
over these takes no tally (R326). The other messages of a peer complete, and so do the requests that wait on one:
CLOSE removes the tally, ABORT what it holds; data that come are kept for their descriptor, and those of the twin for
the healing that asked for them; WACK ends the requests that it names; NAK_UNDELIV sends again on another route;
NAK_BUSY marks the request, which NAK_BUSY_RESEND sends again; a timeout fails it (R319, R323, R324). -/
def Obligations.PeersComplete : Prop :=
  (∀ (s : State) (l : Nat) (m : LinkMsg) (x y : Dev), l < 66 → s.dev.pwr.stopped = false → s.dev.full = true → l < s.dev.part.links →
    let line := msgLineNo m
    let src := m.src.toNat
    let chan := m.chan.toNat
    let mine := m.dst.toNat = s.dev.ownId ∧ s.dev.idValid = true ∧ s.dev.twinCarries l m = true
    let row := fun kind => s.dev.takeRx l m kind = some x ∧ mine ∧ (s.dev.partAt m.addr.toNat).isSome = true ∧
      x.withTally src chan = some y
    let held := s.dev.rxHeld l line
    let z := y.healServed (.link l) line
    let ends := fun r : Option Nat × Dev => s.gives fun _ => (match r.1 with
      | some _ => r.2.reply l m 7 1 0 0
      | none => (r.2.performed l m).release m).pumpLink l
    (row 1 → held = none → exec (.wr l m) s = ends ((((z.killResv line).recallAll line false).notePage line).putWords8 .com (wrWords m))) ∧
    (row 2 → held = none → redBytes m.aop.toNat ≠ 0 → m.dlen = 2 → exec (.linkAtm l m) s =
      ends (z.reduceAt line m.aop.toNat [(BitVec.allOnes 128, m.data)])) ∧
    (row 2 → redBytes m.aop.toNat = 0 → exec (.linkAtm l m) s = s.gives fun _ => (x.linkEvent l 3).pumpLink l) ∧
    (l < 64 → row 3 → held = none → exec (.rd l m) s = s.gives fun _ =>
      let r := z.syncRead line
      let w := r.2.onTally src chan fun t => { t with performed := (m.req.toNat :: t.performed).take 4096 }
      ((if r.1.poison = 0 then w.reply l m 7 0 2 r.1.v else w.reply l m 7 1 0 0).release m).pumpLink l) ∧
    (64 ≤ l → s.dev.takeRx l m 3 = some x → mine → (s.dev.partAt m.addr.toNat).isSome = true → (x.partAt m.addr.toNat).isSome = true →
      held = none → exec (.rd l m) s = s.gives fun _ =>
        let r := (x.healServed (.link l) line).syncRead line
        (if r.1.poison = 0 then r.2.reply l m 7 0 2 r.1.v else r.2.reply l m 7 1 0 0).pumpLink l) ∧
    (row 4 → exec (.milestone l m) s = s.gives fun _ =>
      ((y.onTally src chan fun t => { t with held := t.held ++ [(l, m)] }).release m).pumpLink l) ∧
    ∀ c kind, (c = Instr.wr l m ∧ kind = 1 ∨ c = .linkAtm l m ∧ kind = 2 ∨ c = .rd l m ∧ kind = 3 ∨ c = .milestone l m ∧ kind = 4 ∨
        c = .close l m ∧ kind = 5 ∨ c = .abort l m ∧ kind = 6 ∨ c = .rdData l m ∧ kind = 7 ∨ c = .wack l m ∧ kind = 8 ∨
        c = .nakUndeliv l m ∧ kind = 9 ∨ c = .nakBusy l m ∧ kind = 0xA) → s.dev.takeRx l m kind = some x → m.dst.toNat ≠ s.dev.ownId →
      (l < 64 → exec c s = s.gives fun _ => (x.relay l m).pumpLink l) ∧
      (64 ≤ l → exec c s = s.gives fun _ => x.pumpLink l)) ∧
  (∀ (s : State) (l : Nat) (m : LinkMsg) (x : Dev), l < 66 → s.dev.pwr.stopped = false →
    let src := m.src.toNat
    let chan := m.chan.toNat
    let row := fun kind => s.dev.full = true ∧ l < s.dev.part.links ∧ s.dev.takeRx l m kind = some x ∧ m.dst.toNat = s.dev.ownId ∧
      s.dev.idValid = true ∧ s.dev.twinCarries l m = true
    let ends := fun y : Dev => s.gives fun _ => y.pumpLink l
    (row 5 → exec (.close l m) s = ends (x.onLinks fun b =>
      { b with tallies := b.tallies.filter fun t => !(decide (t.src = src) && decide (t.chan = chan)) })) ∧
    (row 6 → exec (.abort l m) s = ends (x.onTally src chan fun t => { t with held := [] })) ∧
    (row 8 → exec (.wack l m) s = ends ((List.range 32).foldl (fun x i =>
      if m.addr.getLsbD i then (match x.findRem chan src ((m.req.toNat + i) % 65536) with
        | some r => x.doneRem r
        | none => x) else x) x)) ∧
    (row 0xA → exec (.nakBusy l m) s = ends (x.onRem fun rs => rs.map fun r =>
      if r.is chan src m.req.toNat then { r with refused := true, link := none } else r)) ∧
    (∀ r, x.findRem chan src m.req.toNat = some r →
      (row 9 → exec (.nakUndeliv l m) s =
        ends (let y := (x.sendRem r).pumpDie r.eng r.ch; if r.eng = 1 then y.gRun r.ch else y)) ∧
      (l < 64 → row 7 → m.addr.getLsbD 0 = true → exec (.rdData l m) s = ends (x.endRem r (engStatus r.eng 0x35))) ∧
      (l < 64 → row 7 → m.addr.getLsbD 0 = false → exec (.rdData l m) s =
        let line := r.msg.addr.toNat / 128
        let y := (x.onCmd r.eng r.ch r.k fun c => { c with flights := c.flights.map fun f =>
          if f.pos = r.pos then { f with need := (f.need.filter fun n => decide (n ≠ line)), got := f.got ++ [(line, LineData.mk m.data 0)] }
          else f }).doneRem r
        ends (if r.eng = 1 then y else (y.landFlight r.ch 1).getD ((y.landFlight r.ch 4).getD y)))) ∧
    (64 ≤ l → row 7 → (m.addr.getLsbD 0 = true → exec (.rdData l m) s = ends x) ∧
      (m.addr.getLsbD 0 = false → exec (.rdData l m) s = ends { x with heals := x.heals.map fun h =>
        if h.2.kind = 2 ∧ h.2.req = m.req.toNat then (h.1, { h.2 with got := some m.data }) else h })) ∧
    ∀ dst req r, chan < 256 → dst < 4096 → req < 65536 → s.dev.findRem chan dst req = some r →
      let stopped := r.msg.kind = 4 ∧ (s.dev.chan r.eng r.ch).bad.contains r.dst = true
      exec (.attemptTimeout chan dst req) s = (s.gives fun d => d.endRem r (if d.remStatus r = 0x38 then 0x38 else linkError r.eng)) ∧
      (r.refused = true → stopped → exec (.nakBusyResend chan dst req) s = s.gives fun d => d.endRem r 0x38) ∧
      (r.refused = true → ¬stopped → s.dev.routeOf r.dst (msgLine r.msg) r.chan [] false = none →
        exec (.nakBusyResend chan dst req) s = s.gives fun d => d.endRem r (d.remStatus r)) ∧
      ∀ k rel, r.refused = true → ¬stopped → s.dev.routeOf r.dst (msgLine r.msg) r.chan [] false = some (k, rel) →
        exec (.nakBusyResend chan dst req) s = s.gives fun d => (d.onRem fun rs => rs.map fun y =>
          if y = r then { r with refused := false, link := some k, relayed := rel } else y).onWire k r.msg)

/-- The control of collectives completes (R325, R330 to R334): READY of a member is added at the head, GO starts the
collective of its SEQ at a member, a barrier that runs ends with status 0, the collective at the front of a group that
has ended writes its done word and leaves. A lost peer is recorded. The data of a collective move when it runs, every
member's input has its length, the record is good, every Commons line is free and this device's own input reads well
(R335, R336): the output is the concatenation of the inputs for ALL_GATHER, the root's input for BROADCAST, the
combination of this member's shard for REDUCE_SCATTER and of every shard for ALL_REDUCE; the reductions count the
contributions to this member's own shard as Atm requests at the home slices, and take the lines of other shards as
their owners have reduced them (R249, R332). -/
def Obligations.CollectivesComplete : Prop :=
  (∀ (s : State) (g : Nat), g < 64 → s.dev.pwr.stopped = false → s.dev.full = true →
    (∀ member r, s.dev.grpKind g ≠ 0 → s.dev.isHead g = true → member < s.dev.grpSize g → member < 4096 → member ≠ s.dev.grpSelf g →
      (s.dev.grpRt g).lost = [] → exec (.collReady g member r) s = s.gives fun d => d.addReady g member r) ∧
    (∀ seq, s.dev.grpKind g ≠ 0 → s.dev.isHead g = false → exec (.collGo g seq) s = s.gives fun d => d.onGrpRt g fun x =>
      { x with colls := x.colls.map fun c => if c.status.isNone ∧ c.seq = seq then { c with going := true } else c }) ∧
    (∀ c, (s.dev.grpRt g).running 5 = some c → exec (.barrier g) s = s.gives fun d => d.collEnd g c 0) ∧
    (∀ c rest st, (s.dev.grpRt g).colls = c :: rest → c.status = some 0 → (s.dev.commonsMapped (s.dev.grpFunc g) c.doneAt 8).isSome = true →
      c.doneAt % 8 = 0 → s.dev.heldLines ((linesOf c.doneAt 8).map fun l => lineOf (128 * l)) = none →
      exec (.collectiveComplete g st) s = s.gives fun d => ((d.onGrpRt g fun y => { y with colls := rest }).engPut none .com c.doneAt
        ((toBytes 8 (setFld (setFld (setFld (0 : Word) 63 32 c.seq) 31 16 c.tag) 7 0 0)).map some)).2) ∧
    ∀ dev, dev < 4096 → s.dev.rb (oRoute dev) 27 = true → (∀ k, k < 64 → s.dev.grpKind k = 0) → s.dev.spanHead = none →
      ∃ t, exec (.peerLost dev) s = .next t ∧ dev ∈ t.dev.links.lost ∧ t.dev.rb 0x480004 0 = true ∧
        (s.dev.rb 0x480004 0 = false → t.dev.rf 0x480004 12 1 = dev) ∧ (s.dev.rb 0x480004 0 = true → t.dev.rf 0x480004 12 1 = s.dev.rf 0x480004 12 1)) ∧
  (∀ (s : State) (g op : Nat) (c : Coll) (inputs : List (List (BitVec 8))) (own : List (Option Byte)) (y : Dev) (i : Instr), g < 64 →
    s.dev.pwr.stopped = false → s.dev.full = true → (s.dev.grpRt g).running op = some c →
    let n := s.dev.grpSize g
    let self := s.dev.grpSelf g
    let out := c.outLines n self
    let len := (c.input n self).2
    inputs.length = n → (∀ k, k < n → k = self ∨ (op = 4 ∧ k ≠ c.root) ∨ (inputs.getD k []).length = (c.input n k).2) →
    s.dev.collBad g c = false →
    s.dev.heldLines ((linesOf c.src len ++ linesOf c.dst (128 * out)).map fun l => lineOf (128 * l)) = none →
    (∃ e, s.dev.engRead .com [] c.src (if op = 4 ∧ self ≠ c.root then 0 else len) = (own, e, y)) → (∀ b ∈ own, b.isSome = true) →
    let ins := fun k => if k = self then own.map fun b => b.getD 0 else inputs.getD k []
    let first := if op = 1 then c.shard n self else 0
    let k := c.shard n (self + 1) - c.shard n self
    let ends := fun r : List Byte × Dev => s.gives fun _ =>
      let w := if op ≤ 2 then r.2.collAtm (c.dst + 128 * first) k n ((r.1.drop (128 * first)).take (128 * k)) else r.2
      let e := if op = 2 then w
        else if op = 1 then (w.collPut c.dst first (r.1.take (128 * first))).collPut (c.dst + 128 * (first + k)) (out - (first + k))
          (r.1.drop (128 * (first + k)))
        else w.collPut c.dst out r.1
      e.collEnd g c 0
    (op = 1 → i = .allReduce g inputs → exec i s = ends ((List.range n).foldl (fun (acc : List Byte × Dev) j =>
      let r := acc.2.collReduce g c ins (c.shardBytes n j).1 (c.shardBytes n j).2; (acc.1 ++ r.1, r.2)) ([], y))) ∧
    (op = 2 → i = .reduceScatter g inputs → exec i s = ends (y.collReduce g c ins (c.shardBytes n self).1 (c.shardBytes n self).2)) ∧
    (op = 3 → i = .allGather g inputs → exec i s = ends (((List.range n).map ins).flatten, y)) ∧
    (op = 4 → i = .broadcast g inputs → exec i s = ends (ins c.root, y)))

/-! ## Scheduler and host interface -/

/-- The scheduler's commands complete once the host is answered (R372 to R378, R381, R383). A write that enables a context
does so when no check refuses it, one that a check refuses leaves the configuration and says why; clearing EN drops
the queued commands; while ACTIVE, FUNC stays and new clusters are checked. Admission follows the test of R381. A move
is accepted or is an error; it waits for the running command, for a free alias and while an alias leads to the
placement, completes with the context's bit moved, and is given up as an error where it may no longer be made: the
model's choice, log entry 106. A turn ends with YIELD. A check lets 1 µs pass, and a command that has exceeded its
bound is terminated, with a record of status 2 (TIMEOUT) and an error of its context. -/
def Obligations.SchedulerComplete : Prop :=
  ∀ (s : State), s.dev.hostAlive = true →
    (∀ (c : Nat) (v : BitVec 32), c < 64 →
      let x : Word := v.setWidth 64
      let o := oCtx c
      let new := setFld (setFld (s.dev.reg o) 8 0 (fld x 8 0)) 31 16 (fld x 31 16)
      let fixed := s.dev.ctxActive c = true → fld x 8 1 = s.dev.rf o 8 1
      (¬fixed → exec (.schCtxCfgWrite c v) s = s.gives fun d => d.ctxCfgErr c 5) ∧
      (fixed → v.getLsbD 0 = true → s.dev.ctxOn c = false →
        (s.dev.enableCode c (fld x 8 1) (s.dev.maskOf c) = none → exec (.schCtxCfgWrite c v) s = s.gives fun d => (d.setReg o new).enableCtx c) ∧
        ∀ k, s.dev.enableCode c (fld x 8 1) (s.dev.maskOf c) = some k → exec (.schCtxCfgWrite c v) s = s.gives fun d => d.ctxCfgErr c k) ∧
      (fixed → v.getLsbD 0 = false → s.dev.ctxOn c = true →
        exec (.schCtxCfgWrite c v) s = s.gives fun d => (d.setReg o new).disableCtx c) ∧
      (fixed → v.getLsbD 0 = s.dev.ctxOn c → exec (.schCtxCfgWrite c v) s = s.gives fun d => d.setReg o new) ∧
      ∀ w, w < 12 →
        let r := o + 0x20 + 4 * w
        let added := ((List.range 32).filter fun b => v.getLsbD b && !(s.dev.rb r b)).map fun b => 32 * w + b
        let code := s.dev.enableCode c (s.dev.rf o 8 1) added
        (s.dev.ctxActive c = false ∨ added = [] ∨ code = none →
          exec (.schCtxCluWrite c w v) s = s.gives fun d => d.putMask c w x) ∧
        ∀ k, s.dev.ctxActive c = true → added ≠ [] → code = some k →
          exec (.schCtxCluWrite c w v) s = s.gives fun d => d.ctxCfgErr c k) ∧
    (∀ c, c < 64 →
      let step := min s.dev.step (s.dev.rf 0x608000 10 8)
      (s.dev.admits c step = true → exec (.rtReq c) s = s.gives fun d => ((d.setRb (oCtx c + 0x10) 5 true).freeTurns c).retest) ∧
      (s.dev.admits c step = false → exec (.rtReq c) s = s.gives fun d => d.setRb (oCtx c + 0x10) 6 true) ∧
      exec (.rtDrop c) s = (s.gives fun d => (d.setRb (oCtx c + 0x10) 5 false).setRb 0x608008 c false) ∧
      exec (.clearErr c) s = s.gives fun d => d.setRb (oCtx c + 0x10) 1 false) ∧
    (∀ n t r, n < 384 → (s.dev.cl n).turn = some t → (s.dev.cl n).run = some r → t.expired = false → r.q.ctx = t.ctx →
      t.left ≤ 1000 * equivNs → exec (.sliceExpiry n) s = s.gives fun d => d.onCl n fun c =>
        { c with turn := some { t with left := 0, past := 0, expired := true }, s := { c.s with yield := true } }) ∧
    (∀ n, n < 384 → s.dev.running n = true →
      ((s.dev.cl n).run = none → exec (.timeoutCheck n) s = s.gives fun d => d.tickCl n) ∧
      let y := (s.dev.enterGuest n).tickCl n
      ∀ r, (y.cl n).run = some r →
        (r.ns * 16 ≤ r.q.c.maxDur.toNat * 1000 * equivNs * y.tol → exec (.timeoutCheck n) s = s.gives fun d => (d.enterGuest n).tickCl n) ∧
        (r.q.c.maxDur.toNat * 1000 * equivNs * y.tol < r.ns * 16 → exec (.timeoutCheck n) s = s.gives fun _ =>
          let x := y.terminate n r
          let left := ((x.cl n).run).getD r
          ({ x with recs := x.recs ++ [x.runRec n left 2 0 0 0 0 0] }.leaveCmd n left).ctxError left.q.ctx 1 left.q.win left.q.seq)) ∧
    (∀ v : BitVec 32, v.getLsbD 24 = true → s.dev.rb 0x608010 25 = false →
      let src := v.toNat % 512
      let dst := v.toNat / 512 % 512
      let c := v.toNat / 2 ^ 18 % 64
      let good := s.dev.full = true ∧ s.dev.ctxOn c = true ∧ src < 384 ∧ dst < 384 ∧ s.dev.maskHas c src = true ∧
        s.dev.maskHas c dst = false ∧ (s.dev.cl dst).runs c = false ∧ s.dev.present dst = true ∧
        ∀ x, x < 64 → x ≠ c → ¬(s.dev.holdsShare x dst = true ∧ s.dev.sharesMeet c x = true)
      (good → exec (.schMoveGo v) s = s.gives fun d =>
        let y : Dev := { (d.setRf 0x608010 23 0 (v.toNat % 2 ^ 24)).setRb 0x608010 25 true with
          move := some { from_ := src, to_ := dst, ctx := c } }
        y.recall fun n q => decide (n = src) && decide (q.ctx = c)) ∧
      (¬good → exec (.schMoveGo v) s = s.gives fun d => (d.setRf 0x608010 23 0 (v.toNat % 2 ^ 24)).setRb 0x608010 26 true)) ∧
    (∀ m, s.dev.move = some m → m.ctx < 64 →
      let may := Dev.mayMove { s.dev with move := none } m.ctx m.from_ m.to_
      (may = false → exec .moveComplete s = s.gives fun d =>
        { ((d.setRb 0x608010 25 false).setRb 0x608010 26 true).setRb 0x518000 7 false with move := none }) ∧
      (may = true → (s.dev.cl m.from_).runs m.ctx = true ∨ 64 ≤ s.dev.aliases.length ∨ s.dev.aliasTo m.ctx m.from_ = true →
        exec .moveComplete s = s.gives fun d => d.setRb 0x518000 7 (decide (64 ≤ d.aliases.length))) ∧
      (may = true → (s.dev.cl m.from_).runs m.ctx = false → s.dev.aliases.length < 64 → s.dev.aliasTo m.ctx m.from_ = false → ∃ t, exec .moveComplete s = .next t ∧ t.dev.move = none ∧ t.dev.maskHas m.ctx m.from_ = false ∧ t.dev.maskHas m.ctx m.to_ = true ∧
        (∀ k, k < 384 → k ≠ m.from_ → k ≠ m.to_ → t.dev.maskHas m.ctx k = s.dev.maskHas m.ctx k) ∧
        t.dev.rb 0x608010 25 = false ∧ t.dev.aliases.length = s.dev.aliases.length + 1)) ∧
    ∀ k f, k < 64 → s.dev.aliases[k]? = some f → s.dev.placementIdle f = true →
      exec (.aliasRelease k) s = s.gives fun d => { d with aliases := d.aliases.eraseIdx k }

/-- The host's settings complete once it is answered: the function table takes a value that R346 admits, VF Enable and
NumVFs are taken, enabling a window or event ring sets up its ring, and a head lets entries be written again. A port
that goes down loses its lines and its functions move to the other; one that trains is up at its width. MSI-X messages
are sent, or are pending while masked, and unmasking sends one that is pending. -/
def Obligations.HostSettingsComplete : Prop :=
  ∀ (s : State) (f n : Nat) (v : BitVec 32), f < 256 → n < 8 → s.dev.hostAlive = true →
    (let x : Word := v.setWidth 64
      let total := ((List.range 256).map fun g => if g = f then fld x 4 1 else s.dev.windowsOf g).sum
      let en := f = 0 ∨ v.getLsbD 0 = true
      let good := total ≤ 512 ∧ (fld x 4 1 = s.dev.windowsOf f ∨ s.dev.anyWindow f = false) ∧ fld x 4 1 ≤ 8 ∧ fld x 10 5 ≤ 32 ∧
        (f = 0 ∨ v.getLsbD 0 = false ∨ s.dev.rb (oFunc f) 0 = true ∨ s.dev.full = true)
      (good → exec (.hifVfTblWrite f v) s = s.gives fun d => d.setReg (oFunc f) (BitVec.ofNat 64 (fld (setBit x 0 (decide en)) 17 0))) ∧
      (¬good → exec (.hifVfTblWrite f v) s = s.gives fun d => d.setRb (oFunc f + 4) 0 true)) ∧
    (∀ enable num, num ≤ 255 → exec (.vfEnableWrite enable num) s = s.gives fun d => { d with vfEnable := enable, numVfs := num }) ∧
    (s.dev.funcExists f = true →
      (v.getLsbD 0 = true → (s.dev.win f n).enabled = false → exec (.hifFnRingCfgWrite f n v) s = s.gives fun d =>
        d.onWin f n fun w => { w with ringCfg := v &&& 0xFFFF, enabled := true, credits := 64, ringPos := 0, phase := true, seq := 0, waiting := [] }) ∧
      (v.getLsbD 0 = true → (s.dev.win f n).enabled = true → exec (.hifFnRingCfgWrite f n v) s = s.gives fun d => d.onWin f n id) ∧
      (v.getLsbD 0 = false → exec (.hifFnRingCfgWrite f n v) s = s.gives fun d =>
        d.onWin f n fun w => { w with ringCfg := v &&& 0xFFFF, enabled := w.enabled && decide (w.credits < 64) }) ∧
      exec (.hifFnEvtCfgWrite f v) s = (s.gives fun d => d.setFn f { d.fn f with
        evtEn := v.getLsbD 0, evtVec := v.toNat / 2 % 32, count := (if v.getLsbD 0 then 0 else (d.fn f).count) }) ∧
      exec (.hifFnEvtHeadWrite f v) s = (s.gives fun d => d.setFn f { d.fn f with head := v.toNat % 128 }) ∧
      ∀ k, k < 32 → ∃ t, exec (.msixVectorUnmask f k) s = .next t ∧ (t.dev.vec f k).masked = false ∧ (t.dev.vec f k).pend = false ∧
        (t.dev.vec f k).sent = (s.dev.vec f k).sent + (if (s.dev.vec f k).pend then 1 else 0)) ∧
    (∀ k, k < 32 → s.dev.canSend f = true → (s.dev.vec f k).due = true → ∃ t, exec (.msixMessage f k) s = .next t ∧
      (t.dev.vec f k).due = false ∧ (t.dev.vec f k).pend = ((s.dev.vec f k).pend || (s.dev.vec f k).masked) ∧
      (t.dev.vec f k).sent = (s.dev.vec f k).sent + (if (s.dev.vec f k).masked then 0 else 1)) ∧
    ∀ p, p < 2 →
      (s.dev.portUp p = true → ∀ c ∈ [Instr.portDown p, .perstAssert p], ∃ t, exec c s = .next t ∧ t.dev.portUp p = false ∧
        (∀ x ∈ t.dev.hostTrk, x.port ≠ p) ∧ (∀ x ∈ t.dev.hostCache, x.1 ≠ p) ∧
        (f ≠ 0 → s.dev.rb (oFunc f) 0 = true → s.dev.portOf f = p → t.dev.portOf f = 1 - p) ∧
        (f = 0 ∨ s.dev.rb (oFunc f) 0 = false → t.dev.portOf f = s.dev.portOf f)) ∧
      ∀ width pbr, 1 ≤ width → width ≤ 16 → pbr < 4096 → ∃ t, exec (.portLinkTrained p width pbr) s = .next t ∧ t.dev.portUp p = true ∧
        t.dev.rf (0x520004 + 0x100 * p) 5 1 = (if s.dev.rb (0x520000 + 0x100 * p) 0 then min width 8 else width)

/-- Writes to a command window (R347, R350). A command is accepted when the window is the function's own on its port, the
write is one aligned 64 B write, the window is enabled and has a credit and its context does not stand by: it then
takes a credit and the next SEQ. Any other write to such a window is discarded and DROP counts it, or the function's
own count does. The row of an OP brings that OP, or one that is not assigned: the model's choice, log entry 109. -/
def Obligations.WindowWritesComplete : Prop :=
  ∀ (s : State) (w : WinWrite) (op : Nat) (h : HostCmd) (c : Instr), winWriteOk w = true →
    (c = .run w h ∧ op = 1 ∨ c = .nop w h ∧ op = 2 ∨ c = .fnQuiesce w h ∧ op = 0x90 ∨ c = .fnCopy w h ∧ op = 0x91 ∨
      c = .fnExport w h ∧ op = 0x92 ∨ c = .fnImport w h ∧ op = 0x93 ∨ c = .fnResume w h ∧ op = 0x94) →
    h.op.toNat = op ∨ opAssigned h.op.toNat = false →
    s.dev.portUp w.port = true → s.dev.funcExists w.func = true →
    let x := s.dev.win w.func w.win
    let r := oFunc w.func + 0x40 + 4 * w.win
    let own := s.dev.onPort w.func w.port = true ∧ w.win < s.dev.windowsOf w.func
    let good := w.len = 64 ∧ w.aligned = true ∧ w.single = true ∧ x.en = true ∧ x.credits ≠ 0
    let stands := s.dev.rb r 6 = true ∧ s.dev.standby (s.dev.rf r 5 0) = true
    (¬own → exec c s = s.gives fun d => d.bumpRf (oFunc w.func + 8) 31 0 1) ∧
    (own → ¬good ∨ stands → exec c s = s.gives fun d =>
      d.onWin w.func w.win fun y => { y with drop := satAdd (2 ^ 32 - 1) y.drop 1 }) ∧
    (own → good → ¬stands → exec c s = s.gives fun d => d.acceptCmd w h)

/-- What the acceptance of a RUN leaves (R350, R351): one credit less and the next SEQ; the command waits last in its
window when its contents are good, and otherwise its record is the last that waits to be written, with the status of
the first thing that is wrong. A command whose OP is not assigned has BAD_COMMAND. No other window changes. -/
def Obligations.AcceptedRun : Prop :=
  ∀ (d : Dev) (w : WinWrite) (h : HostCmd),
    let x := d.win w.func w.win
    let e := d.acceptCmd w h
    let y := e.win w.func w.win
    (opAssigned h.op.toNat = false → ∃ r, e.recs = d.recs ++ [r] ∧ r.status = 4 ∧ r.seq = x.seq ∧ r.tag = h.tag) ∧
    (h.op = 1 → y.credits = x.credits - 1 ∧ y.seq = x.seq + 1 ∧ y.drop = x.drop ∧ y.enabled = x.enabled ∧
    ((∃ q, y.waiting = x.waiting ++ [q] ∧ e.recs = d.recs ∧ q.op = 1 ∧ q.c = h ∧ q.seq = x.seq ∧ q.slot = w.slot) ∨
      (y.waiting = x.waiting ∧ ∃ r, e.recs = d.recs ++ [r] ∧ (r.status = 4 ∨ r.status = 5 ∨ r.status = 6) ∧ r.seq = x.seq ∧
        r.tag = h.tag)) ∧
    (h.maxDur = 0 → ∃ r, e.recs = d.recs ++ [r] ∧ r.status = 4) ∧
    ∀ f n, n < 8 → w.win < 8 → (f ≠ w.func ∨ n ≠ w.win) → e.win f n = d.win f n)

/-- Waiting commands and what the device writes to the host complete: a RUN whose context is off is turned away, one with
a cluster free goes to it; a record leaves with its credit; an event goes to its ring. The host's answer to a write
lets it be performed, a snoop is answered from the port's cache, a back-invalidation brings modified data home, after
the writes that came through the port before. The Ledger's commands set their registers. -/
def Obligations.HostTrafficComplete : Prop :=
  ∀ (s : State) (f n : Nat), f < 256 → n < 8 →
    (∀ q seq, (s.dev.win f n).waiting.find? (fun q => decide (q.seq = seq)) = some q → s.dev.mayStart q = true →
      (∀ st, q.op = 1 → s.dev.headStatus q = some st → exec (.commandPlacement f n seq) s = s.gives fun d =>
        { d.unqueue q with recs := d.recs ++ [q.plainRec st] }) ∧
      (∀ k, q.op = 1 → s.dev.headStatus q = none → s.dev.blocked = false → s.dev.pickCluster q = some k → s.dev.rtAdmitted q.ctx = false →
        exec (.commandPlacement f n seq) s = s.gives fun d =>
          ((d.settleTurn k).unqueue q).onCl k fun c => { c with cmdq := c.cmdq ++ [q] }) ∧
      (q.op ≠ 1 → exec (.commandPlacement f n seq) s = s.gives fun d => d.startOther q)) ∧
    (∀ r, s.dev.canSend f = true → s.dev.nextRec f n = some r → s.dev.twin.handing = false → ∃ t, exec (.completionRecord f n) s = .next t ∧
      (t.dev.win f n).credits = (s.dev.win f n).credits + 1 ∧ (t.dev.win f n).ringPos = ((s.dev.win f n).ringPos + 1) % 64 ∧
      ((t.dev.win f n).phase = (if (s.dev.win f n).ringPos = 63 then !(s.dev.win f n).phase else (s.dev.win f n).phase)) ∧
      t.dev.recs = eraseFirst s.dev.recs fun x => decide (x = r)) ∧
    (∀ e rest, s.dev.canSend f = true → (s.dev.fn f).evtEn = true → (s.dev.fn f).unread < 64 → (s.dev.fn f).pend = e :: rest →
      f ≠ 0 ∨ s.dev.ledgerOn 0 = false →
      ∃ t, exec (.eventWrite f) s = .next t ∧ (t.dev.fn f).pend = rest ∧ (t.dev.fn f).count = ((s.dev.fn f).count + 1) % 128 ∧
        (t.dev.fn f).evSeq = (s.dev.fn f).evSeq + 1 ∧ (t.dev.fn f).head = (s.dev.fn f).head) ∧
    (∀ k w, s.dev.hostWr[k]? = some w → s.dev.portUp w.port = true → s.dev.hostSent k w = true → exec (.hostGo k) s = s.gives fun d =>
      let y := (Dev.pumpDie { d with hostWr := d.hostWr.eraseIdx k } w.eng w.ch).hostWrite w.func w.addr w.bytes
      let line := hostKey w.func w.addr / 64
      if w.bytes.length < 64 then y.cacheHost w.port line
      else { y with hostCache := y.hostCache.filter fun x => !(decide (x.1 = w.port) && decide (x.2.1 = line)) }) ∧
    (∀ p line, p < 2 →
      (∀ inval, s.dev.portUp p = true → s.dev.hostCache.find? (fun x => decide (x.1 = p) && decide (x.2.1 = line)) = none →
        exec (.hostSnoop p line inval) s = s.gives fun d => { d with hostAns := some (.snoop p false false) }) ∧
      (∀ x, s.dev.portUp p = true → s.dev.hostCache.find? (fun x => decide (x.1 = p) && decide (x.2.1 = line)) = some x →
        exec (.hostSnoop p line true) s = (s.gives fun d =>
          { d with hostAns := some (.snoop p true x.2.2), hostCache := d.hostCache.filter fun y => decide (y ≠ x) }) ∧
        exec (.hostSnoop p line false) s = s.gives fun d => { d with
          hostAns := some (.snoop p true x.2.2)
          hostCache := d.hostCache.map fun y => if y = x then (x.1, x.2.1, false) else y }) ∧
      (line < 2 ^ 30 → (s.dev.hostTrk.any fun t => decide (t.port = p) && decide (t.line = line) && t.snoop) = true →
        (s.dev.hostQ.any fun x => x.resp && decide (x.port = p) && decide (x.addr = commonsBase + 64 * line)) = false →
        let left := fun d : Dev => { d with hostTrk := eraseFirst d.hostTrk fun t => decide (t.port = p) && decide (t.line = line) }
        exec (.bisnpinvResponse p line none) s = s.gives left ∧
        ∀ v, (exec (.bisnpinvResponse p line (some v)) s = s.gives fun d => Dev.pumpHost { d with hostQ := d.hostQ ++
            [{ resp := true, port := p, addr := commonsBase + 64 * line, size := 64, data := v }] } p) ∧
          ((∀ q ∈ s.dev.hostQ, q.port ≠ p) → exec (.bisnpinvResponse p line (some v)) s = s.gives fun d =>
          (((left d).killResv (line / 2)).notePage (line / 2)).writeLine .com (lineAddr (line / 2))
            (BitVec.ofNat 128 ((2 ^ 64 - 1) * 2 ^ (line % 2 * 64))) (BitVec.ofNat 1024 (v.toNat * 256 ^ (line % 2 * 64)))))) ∧
    (s.dev.hostAlive = true →
      (∀ v : BitVec 32, exec (.hifLdgCfgWrite v) s = s.gives fun d =>
        { d.setReg 0x510000 (BitVec.ofNat 64 (v.toNat % 128)) with ldgStopped := d.ldgStopped && !(v.getLsbD 0) }) ∧
      exec (.ledgerRearm f) s = (s.gives fun d => (d.setRf 0x510018 7 0 f).ldgRearm f) ∧
      exec (.ledgerMark f) s = s.gives fun d => (d.setRf 0x510018 7 0 f).ldgMark f)

/-- The host's accesses through CXL.mem complete (R273, R342): outside every HOST_MEM partition a read answers poisoned
data and a write is dropped; inside, with no other host holding the line, the line quiet and none of its port's writes
waiting, a read answers its bytes and tracks the line, unless the port's tracker is full, which then frees its oldest
entry first, and a write writes the bytes it names and no other. A write is taken in the order of arrival at its port:
while the oldest one that waits there cannot be performed, it waits too. -/
def Obligations.HostMemoryComplete : Prop :=
  ∀ (s : State) (p addr size : Nat) (data : BitVec 512), hdmOk p addr size = true → s.dev.portUp p = true →
    let a := commonsBase + addr
    let line := lineOf a
    let free := s.dev.full = true ∧ (s.dev.hostMem a).isSome = true ∧ (∀ q ∈ s.dev.hostQ, q.port ≠ p) ∧
      (s.dev.hostTrk.any fun t => decide (t.port ≠ p) && decide (t.line / 2 = line)) = false ∧ s.dev.healHold (.host p) line = none ∧
      s.dev.hostQuiet line = true
    let mine := (s.dev.hostTrk.any fun t => decide (t.port = p) && decide (t.line = addr / 64)) = true
    let full := 1048576 ≤ (s.dev.hostTrk.filter fun t => decide (t.port = p)).length
    (s.dev.hostMem a = none → ((∀ q ∈ s.dev.hostQ, q.port ≠ p) → exec (.hostMemRead p addr size) s = (s.gives fun d =>
        { d with hostAns := some (.memRead p (List.replicate size none)) })) ∧
      exec (.hostMemWrite p addr size data) s = s.gives id) ∧
    (s.dev.full = true → (s.dev.hostMem a).isSome = true →
      let w : HostPend := { resp := false, port := p, addr := a, size := size, data := data }
      let e := { s.dev with hostQ := s.dev.hostQ ++ [w] }
      ∀ q, e.hostQ.find? (fun q => decide (q.port = p)) = some q → (e.hostTry q).1 = false →
        exec (.hostMemWrite p addr size data) s = s.gives fun _ => (e.hostTry q).2) ∧
    (free → ¬mine → full → exec (.hostMemRead p addr size) s = s.gives fun d =>
      { d with hostTrk := updFirst d.hostTrk (fun t => decide (t.port = p)) fun t => { t with snoop := true } }) ∧
    (free → mine ∨ ¬full → ∃ t, exec (.hostMemRead p addr size) s = .next t ∧
      t.dev.hostAns = some (.memRead p (lineBytes ((s.dev.healServed (.host p) line).syncRead line).1 (a % 128) size)) ∧
      (t.dev.hostTrk.any fun t => decide (t.port = p) && decide (t.line = addr / 64)) = true) ∧
    (free → (s.dev.mem .com).wf = true → (s.dev.mem .com).mark (a / 8) = .written → (s.dev.mem .com).mark ((a + size - 1) / 8) = .written →
      s.dev.ownerData line = none → (∀ x, a ≤ x → x < a + size → (s.dev.mem .com).mark (x / 8) = .written) →
      ∃ t, exec (.hostMemWrite p addr size data) s = .next t ∧
        (∀ i, i < size → (t.dev.mem .com).byte (a + i) = BitVec.ofNat 8 (data.toNat / 256 ^ i)) ∧
        (∀ x, x < a ∨ a + size ≤ x → (t.dev.mem .com).byte x = (s.dev.mem .com).byte x) ∧
        ∀ k x, (t.dev.mem (.loc k)).byte x = (s.dev.mem (.loc k)).byte x)

/-! ## Power, partitions, takeover -/

/-- The commands of power complete (R41 to R69, R432, R451, R476): the manager's settings, with a limit never above its
reset value; the end of a change of step; the governors, which act on the means of the samples; the input's levels,
with the step in force when a dip begins kept for its end, at which a start that waited for it goes on (R438); the
drains that they begin, of which one that ends the power takes the place of one that does not (log entry 83); and
ALERT. When a step is given back follows the interval of log entry 84. Drains end and resets complete (R67, R277,
R358, R454): a drain for the reset level leaves the Lantern at its reset stage when the engines stand at a boundary,
one for a thermal trip and a power-down remove the power; the host's reset without drain discards buffered stores; the
device re-enters full function, or a start that fell back begins order 5 again (R438); sudden loss of input leaves
what flash holds. -/
def Obligations.PowerAndResetsComplete : Prop :=
  (∀ (s : State),
    let d := s.dev
    (∀ v : BitVec 32, d.hostAlive = true →
      (let x := fun d : Dev => (d.setRf 0x20000 2 0 (v.toNat % 8)).setRb 0x20000 4 (v.getLsbD 4)
       exec (.pwrStepCtlWrite v) s = s.gives fun d => (if v.getLsbD 4 then x d else (x d).setRb 0x20004 10 false).refreshStep) ∧
      (let top := regReset d.part 0x2000C
       ∃ t, exec (.pwrLimitCfgWrite v) s = .next t ∧ t.dev.rf 0x2000C 11 0 = min (v.toNat % 4096) (fld top 11 0) ∧
          t.dev.rf 0x2000C 27 16 = min (v.toNat / 65536 % 4096) (fld top 27 16) ∧ ∀ o, o ≠ 0x2000C → t.dev.reg o = d.reg o) ∧
      exec .rearm s = s.gives fun d => d.setRf 0x20014 15 0 0xFFFF) ∧
    (d.rb 0x20004 3 = true → exec .stepChangeComplete s = s.gives Dev.stepReached) ∧
    (∀ meanW msW fits, d.sampling = true →
      let b := if d.pwr.acc.2 ≠ 0 then d else
        (d.onPwr fun p => { p with ms := List.replicate 1000 msW, acc := (meanW * 10000, 10000) }).sens 2 msW
      let e := b.onPwr fun p => { p with slots := p.acc :: p.slots.take 99, acc := (0, 0) }
      let y := e.sens 3 (meanOf e.pwr.second)
      let lim := y.rf 0x2000C 11 0
      let now := y.pwr.second
      let next := y.pwr.projected (y.rf 0x11008 15 0)
      let upFits := if 240 ≤ y.hottest ∧ y.hottest ≤ 1680 then
        stepFits (decide (y.part.code = .gh840m)) (meanOf now) lim (y.rf 0x20004 2 0) (y.pwr.sus + 1) y.hottest else fits
      let raised := 10 ≤ y.pwr.susOk ∧ y.pwr.sus < y.rf 0x20000 2 0 ∧ upFits = true
      (lim * next.2 < next.1 → exec (.sustainedEvaluation meanW msW fits) s = s.gives fun _ =>
        (y.onPwr fun p => { p with sus := y.stepBelow, susOk := 0 }).refreshStep) ∧
      (next.1 ≤ lim * next.2 → now.1 * 100 < 95 * lim * now.2 →
        (raised → exec (.sustainedEvaluation meanW msW fits) s = s.gives fun _ => (y.onPwr fun p => { p with sus := p.sus + 1, susOk := 1 }).refreshStep) ∧
        (¬raised → exec (.sustainedEvaluation meanW msW fits) s = s.gives fun _ => y.onPwr fun p => { p with susOk := p.susOk + 1 })) ∧
      (next.1 ≤ lim * next.2 → 95 * lim * now.2 ≤ now.1 * 100 → exec (.sustainedEvaluation meanW msW fits) s = s.gives fun _ =>
        y.onPwr fun p => { p with susOk := 0 })) ∧
    (∀ inputW, d.sampling = true →
      let e := d.onPwr fun p => { p with ms := inputW :: p.ms.take 999, acc := (p.acc.1 + inputW, p.acc.2 + 1) }
      let m := e.pwr.milli
      let y := e.sens 2 (meanOf m)
      let lim := y.rf 0x2000C 27 16
      let low := (y.onPwr fun p => { p with peak := y.stepBelow, peakHot := 1, peakOk := 0 }).refreshStep
      (97 * lim * m.2 < m.1 * 100 → (y.pwr.peakHot = 0 ∨ 50 ≤ y.pwr.peakHot) → exec (.peakMeasurement inputW) s = s.gives fun _ =>
        if y.governed > 0 then low.powerEvent 3 else low) ∧
      (97 * lim * m.2 < m.1 * 100 → y.pwr.peakHot ≠ 0 → y.pwr.peakHot < 50 → exec (.peakMeasurement inputW) s = s.gives fun _ =>
        y.onPwr fun p => { p with peakHot := p.peakHot + 1, peakOk := 0 }) ∧
      (m.1 * 100 < 85 * lim * m.2 → 1000 ≤ y.pwr.peakOk → y.pwr.peak < 7 → exec (.peakMeasurement inputW) s = s.gives fun _ =>
        (y.onPwr fun p => { p with peakHot := 0, peak := p.peak + 1, peakOk := 1 }).refreshStep) ∧
      (m.1 * 100 < 85 * lim * m.2 → y.pwr.peakOk < 1000 → exec (.peakMeasurement inputW) s = s.gives fun _ =>
        y.onPwr fun p => { p with peakHot := 0, peakOk := p.peakOk + 1 }) ∧
      (85 * lim * m.2 ≤ m.1 * 100 → m.1 * 100 ≤ 97 * lim * m.2 → exec (.peakMeasurement inputW) s = s.gives fun _ =>
        y.onPwr fun p => { p with peakHot := 0, peakOk := 0 })) ∧
    (∀ die k t, die < 8 → k < 6 → d.powered = true → die < d.part.dies →
      exec (.junctionSample die k t) s = s.gives fun d => (d.sens (8 + 6 * die + k) t.toNat).thermal) ∧
    (d.powered = true → d.hottest ≥ 1728 → exec .thermalTrip s = s.gives fun d => (d.powerEvent 6).endPower 2) ∧
    (∀ met, d.full = true → (met = true ∨ d.rb 0x20000 4 = false → exec (.paceWindow met) s = s.gives fun d => d.setRb 0x20004 10 false) ∧
      (met = false → d.rb 0x20000 4 = true → exec (.paceWindow met) s = s.gives fun d => (d.setRb 0x20004 10 true).powerEvent 5)) ∧
    (∀ src, d.stage ≠ 0 →
      let on := fun d : Dev => ((d.onPwr fun p => { p with alert := true, alerts := src :: p.alerts }).refreshStep).powerEvent 2
      (src = .chassis → exec (.alert src) s = s.gives on) ∧
      ∀ die, die < 8 → (src = .regulator die .overcurrent ∨ src = .regulator die .overtemperature → exec (.alert src) s = s.gives on) ∧
        (src = .regulator die .phaseFault → exec (.alert src) s = s.gives fun d => (on d).phaseFailed die)) ∧
    exec .alertRelease s = (s.gives fun d => (d.onPwr fun p => { p with alert := false }).refreshStep) ∧
    (∀ mv : BitVec 16, 2 ≤ d.stage →
      (mv.toNat < 44000 → exec (.inputBelowWarning mv) s = s.gives fun d => (d.inputIs mv).belowWarning) ∧
      (46000 < mv.toNat → exec (.inputRecovered mv) s = s.gives fun d =>
        ((d.inputIs mv).onPwr fun p => { p with dip := if p.dip = 1 then 2 else p.dip }).refreshStep) ∧
      (mv.toNat < 38000 → d.full = true → d.pwr.dip = 1 → exec (.inputBelowReset mv) s = s.gives fun d =>
        ((d.inputIs mv).powerEvent 1).beginDrain 1) ∧
      (mv.toNat < 38000 → d.full = true → d.pwr.dip ≠ 1 → exec (.inputBelowReset mv) s = s.gives fun d =>
        (((d.inputIs mv).belowWarning).powerEvent 1).beginDrain 1) ∧
      (mv.toNat < 44000 → d.pwr.dip = 0 → ∃ t, exec (.inputBelowWarning mv) s = .next t ∧ t.dev.pwr.before = d.pwr.target ∧
        t.dev.pwr.target = 0 ∧ t.dev.rb 0x20004 11 = true) ∧
      ∀ die, die < 8 → die < d.part.dies → d.full = true → mv.toNat < 450 → exec (.railMonitorLow die mv) s = s.gives fun d =>
        ((d.sens (56 + die) mv.toNat).powerEvent 1).beginDrain 1) ∧
    (d.pwr.dip = 2 → exec .recoveryIntervalEnd s = s.gives fun d =>
      let x := (d.onPwr fun p => { p with dip := 3 }).refreshStep
      let y := if x.rb 0x20004 3 then x else (x.onPwr fun p => { p with dip := 0 }).refreshStep
      if 4 ≤ y.stage ∧ y.stage ≤ 7 then y.resumeStart else y) ∧
    (d.full = true → exec .lanternOvertemperature s = s.gives fun d =>
      (d.fresh.2.sens 64 (1841 + d.fresh.1.toNat % 4096)).beginDrain 3) ∧
    (∀ cause, d.full = true → d.pwr.stopped = false → ∀ k, d.pwr.drain = some k →
      (d.beginDrain cause).pwr.drain = some (if endsPower cause = true ∧ endsPower k = false then cause else k))) ∧
  (∀ (s : State),
    let d := s.dev
    (d.pwr.drain = some 1 → d.atBoundary = true → exec .warmReset s = s.gives fun d =>
      ((((d.drainAll.deviceReset 1).resetDies).setStage 3).onPwr fun p => { p with drain := none }).refreshStep) ∧
    (d.pwr.drain = some 2 → d.atBoundary = true → exec .warmReset s = s.gives fun d => (d.drainAll.deviceReset 2).powerDown) ∧
    (d.pwr.drain = some 4 → d.enginesIdle = true → exec .warmReset s = s.gives fun d => d.drainAll.powerDown) ∧
    (d.full = true → exec .warmResetWithoutDrain s = s.gives fun d =>
      ((((d.abandonSlices.writeBackAll.deviceReset 3).resetDies).setStage 3).onPwr fun p => { p with drain := none }).refreshStep) ∧
    (d.full = true → (d.beginDrain 4).pwr.drain = some 4 → (d.beginDrain 4).enginesIdle = true →
      exec .orderlyPowerDown s = s.gives fun d => (d.beginDrain 4).drainAll.powerDown) ∧
    (d.stage = 3 → d.ltn.found.isSome = true → d.ltn.starting = none → d.pwr.stopped = false →
      exec .railSequencingRestart s = s.gives Dev.reenter) ∧
    (d.stage = 3 → d.ltn.found.isSome = true → d.ltn.starting.isSome = true → exec .railSequencingRestart s = s.gives fun d =>
      ((d.onPwr fun p => { p with dip := 0 }).refreshStep).resumeStart) ∧
    (d.stage = 9 → ∃ t, exec .suddenInputLoss s = .next t ∧ t.dev.ltn.retained = false) ∧
    (d.stage ≠ 9 → ∃ t, exec .suddenInputLoss s = .next t ∧ t.dev.stage = 0 ∧ t.dev.ltn.flash = d.ltn.flash ∧
      t.dev.ltn.found = none ∧ t.dev.rb 0x20010 6 = d.rb 0x20010 6 ∧ t.dev.errs.recs = [] ∧ t.dev.commons.cells = [] ∧ t.pending = s.pending ∧
      ∀ n, n < 384 → (t.dev.mem (.loc n)).cells = [] ∧ (t.dev.cl n).run = none ∧ (t.dev.cl n).groups = []))

/-- The manager's writes to the Commons and coherence blocks complete in full function (R213, R215, R216, R219, R231,
R255, R298). A write that enables a partition does so when no check refuses it, and otherwise leaves CFG_ERR with its
code and the register as it was; a partition that is off takes any value that does not enable it; clearing EN of an
active one turns it off; LOCK_WAYS alone may change on an active replica cache. Windows, regulator entries, lookups
and refetch entries take their values when legal. A regulator's window ends with what the clusters' requests counted
and, for the other masters, with the tally that the row brings (the model's choice, log entry 90). -/
def Obligations.CommonsSettingsComplete : Prop :=
  ∀ (s : State), s.dev.full = true →
    (∀ (p : Nat) (v : BitVec 32) (c : Instr), p < 64 → (c = .cmnPartCfgWrite p v ∨ c = .lockWaysWrite p v) →
      let o := oPart p
      let x : Word := BitVec.ofNat 64 (v.toNat % 2 ^ 30)
      let old := s.dev.reg o
      let refused := fun k => s.gives fun d => (d.setRb (o + 8) 2 true).setRf (o + 8) 5 3 k
      let diff := setBit (old ^^^ x) 6 false
      (s.dev.partActive p = false →
        (v.getLsbD 6 = false → exec c s = s.gives fun d => d.setReg o x) ∧
        (∀ k, v.getLsbD 6 = true → s.dev.partCode p x = some k → exec c s = refused k) ∧
        (v.getLsbD 6 = true → s.dev.partCode p x = none → fld x 2 0 ≠ 4 →
          exec c s = s.gives fun d => ((d.setReg o x).setRb (o + 8) 0 true).clearCounters p)) ∧
      (s.dev.partActive p = true →
        (v.getLsbD 6 = false → diff = 0 → exec c s = s.gives fun d => d.disablePart p) ∧
        (v.getLsbD 6 = true → diff = 0 → exec c s = s.gives id) ∧
        (v.getLsbD 6 = true → s.dev.rb o 6 = true → s.dev.partType p = 3 → diff ≠ 0 → setFld diff 28 25 0 = 0 →
          exec c s = s.gives fun d => d.writeLockWays p (fld x 28 25)) ∧
        (v.getLsbD 6 = true → s.dev.partType p ≠ 3 → diff ≠ 0 → exec c s = refused 5))) ∧
    (∀ p, p < 64 → s.dev.rb (oPart p + 8) 1 = true → s.dev.partType p = 3 → s.dev.wbEmpty p = true →
      (s.dev.rb (oPart p) 6 = false → (s.dev.rep (s.dev.rf (oPart p) 5 3)).lines = [] →
        exec (.replicaDisableComplete p) s = s.gives fun d => (d.setRb (oPart p + 8) 1 false).setRb (oPart p + 8) 0 false) ∧
      (s.dev.rb (oPart p) 6 = true → s.dev.setsFit p = true → exec (.lockWaysWritebackDone p) s = s.gives fun d =>
        { (d.setRb (oPart p + 8) 1 false) with oldWays := NMap.del d.oldWays p })) ∧
    (∀ n v, n < 256 → exec (.cmnWinCfgWrite n v) s = s.gives fun d =>
      (d.setReg (oWin n + 8) (BitVec.ofNat 64 (v.toNat % 1024))).trimWindow n) ∧
    (∀ p e (v : BitVec 32), p < 64 → e < 16 →
      let x := fun d : Dev => d.setReg (oPart p + 0x40 + 4 * e) (BitVec.ofNat 64 (v.toNat % 2 ^ 21))
      ((∀ die, die < s.dev.part.dies → (x s.dev).guaranteed die ≤ 14336) → exec (.cmnRegEntWrite p e v) s = s.gives x) ∧
      ((∃ die, die < s.dev.part.dies ∧ (x s.dev).guaranteed die > 14336) →
        exec (.cmnRegEntWrite p e v) s = s.gives fun d => d.setRb (oPart p + 0x14) 13 true)) ∧
    (∀ p die, p < 64 → die < 8 → s.dev.partActive p = true → s.dev.partOn p die = true →
      ∀ tally, exec (.regulatorWindowEnd p die tally) s = s.gives fun d =>
        tally.foldl (fun d t => d.regOther p die t) ((d.mastersAt p die).foldl (fun d m => d.regWindow p die m) d)) ∧
    (∀ p die (t : RegTally) c, p < 64 → s.dev.rb (oPart p + 0x10) 0 = true → s.dev.creditOf p t.master.toNat = some c →
      let m := t.master.toNat
      let x := s.dev.regOther p die t
      (m < 0x180 ∨ 0x192 < m → x = s.dev) ∧
      (0x180 ≤ m → m ≤ 0x192 →
        (t.served < min c t.delivered → x.rb (oPart p + 0x14) 0 = true ∧ x.rf (oPart p + 0x14) 12 4 = m) ∧
        (min c t.delivered ≤ t.served → x.reg (oPart p + 0x14) = s.dev.reg (oPart p + 0x14) ∧ x.errs = s.dev.errs))) ∧
    (∀ p die m c, p < 64 → s.dev.rb (oPart p + 0x10) 0 = true → s.dev.creditOf p m = some c →
      let sent := (s.dev.waitingAt p die).foldl (fun (k : Nat) x => if x.1 = m then k + x.2 else k) 0
      let t := s.dev.regTally p die m
      let x := s.dev.regWindow p die m
      (t.1 < min c (t.1 + sent - t.2) → x.rb (oPart p + 0x14) 0 = true ∧ x.rf (oPart p + 0x14) 12 4 = m % 512) ∧
      (min c (t.1 + sent - t.2) ≤ t.1 → x.reg (oPart p + 0x14) = s.dev.reg (oPart p + 0x14) ∧ x.errs = s.dev.errs)) ∧
    (∀ v : BitVec 64, ∃ t, exec (.cohPeekAddrWrite v) s = .next t ∧ (t.dev.reg 0x208000).toNat = v.toNat % 2 ^ 48 ∧
      t.dev.rb 0x208008 63 = true ∧ (∀ o, o ≠ 0x208000 → o ≠ 0x208008 → t.dev.reg o = s.dev.reg o) ∧ t.dev.coh = s.dev.coh ∧
      (commonsBase ≤ v.toNat % 2 ^ 48 → s.dev.entry (lineOf (v.toNat % 2 ^ 48)) = none → t.dev.rf 0x208008 10 0 = 0)) ∧
    ∀ k (w : RfsReg) (v : BitVec 64), k < 64 →
      let o := 0x380000 + 16 * k
      let x := fun d : Dev => match w with
        | .base => d.setReg o (BitVec.ofNat 64 (v.toNat % 2 ^ 19))
        | .size => d.setRf (o + 4) 21 0 (v.toNat % 2 ^ 22)
        | .src => d.setReg (o + 8) (BitVec.ofNat 64 (v.toNat % 2 ^ 48))
      ((x s.dev).rfsBad k = false → exec (.ptrRfsWrite k w v) s = s.gives fun d => (x d).setRb (o + 4) 22 false) ∧
      ((x s.dev).rfsBad k = true → exec (.ptrRfsWrite k w v) s = s.gives fun d => d.setRb (o + 4) 22 true)

/-- Takeover completes (R20, R21, R361, R362, R407, R408). A cluster that does not answer the probe is noted as failed.
With a good spare and aliases enough, the spare serves; with a good spare and too few aliases, or a placement that an
alias still names (R363), the takeover waits (WAITING); with no good spare the slot becomes absent. The spare's Keeper
then enters its loop. The self-test's commands complete (R456 to R462). A slice takes a position whose cluster is
between commands; a request is refused for a position that is not there or runs already; a slice whose march passes
and signature agrees at the first run passes, and one that fails without a second run fails; one that is abandoned is
released. -/
def Obligations.SelfTestAndTakeoverComplete : Prop :=
  (∀ (s : State) (n : Nat) (dead : Bool), n < 384 → s.dev.full = true → s.dev.present n = true →
    ((s.dev.bist.slices.any fun x => decide (x.2.cl = some n)) = false → s.dev.bist.failed.contains n = false →
      exec (.clusterProbe n false) s = s.gives fun d => d.onBist fun b => { b with failed := b.failed ++ [n] }) ∧
    (s.dev.bist.failed.contains n = true →
      let row := s.dev.reg (oRow (rowOf n))
      let good := s.dev.posOf n ≠ 8 ∧ row.getLsbD 4 = true ∧ fld row 3 0 = 15 ∧ row.getLsbD 16 = false
      let waits := (s.dev.aliases.any fun f => (s.dev.sharesOn n).contains f.ctx && decide (f.newCl = n)) = true ∨
        s.dev.aliases.length + (s.dev.sharesOn n).length > 64
      (good → ¬waits → exec (.spareTakeover n dead) s = s.gives fun d => (d.setRb 0x518000 7 false).spareServes n (d.posOf n) dead) ∧
      (good → waits → exec (.spareTakeover n dead) s = s.gives fun d => d.setRb 0x518000 7 true) ∧
      (¬good → exec (.spareTakeover n dead) s = s.gives fun d => d.slotAbsent n (d.posOf n))) ∧
    ((s.dev.cl n).held = true → s.dev.posOf n = 8 → (s.dev.bist.slices.any fun x => decide (x.2.cl = some n)) = false →
      exec (.spareTakeoverComplete n) s = s.gives fun d => d.keeperLoop n)) ∧
  (∀ (s : State) (die : Nat), die < 8 → s.dev.full = true →
    let b := NMap.find s.dev.bist.slices die
    (s.dev.sliceFree die = true → s.dev.recoveryDue die = false →
      (∀ i, s.dev.wantedOn die = some i → s.dev.posPresent i = true → s.dev.atCommandEnd i = true →
        exec (.periodicSlice die) s = s.gives fun d => d.startSlice i 2) ∧
      ∀ i, s.dev.wantedOn die = none → s.dev.rb 0x800000 0 = true → (s.dev.oldest die).1 = some i → s.dev.atCommandEnd i = true →
        exec (.periodicSlice die) s = s.gives fun d => (d.oldest die).2.startSlice i 0) ∧
    (∀ n, n < 384 → s.dev.sliceFree (dieOf n) = true → s.dev.present n = true → (s.dev.cl n).dead = true → s.dev.bist.failed.contains n = false →
      s.dev.atCommandEnd (s.dev.posIndex n) = true → exec (.recoverySlice n) s = s.gives fun d => d.startSlice (d.posIndex n) 1) ∧
    (∀ v : BitVec 32,
      let x := fun d : Dev => d.setRf 0x800004 9 0 (v.toNat % 1024)
      let dv := v.toNat % 8
      let row := v.toNat / 8 % 8
      let pos := v.toNat / 64 % 16
      let i := 54 * dv + 9 * row + pos
      let bad := dv ≥ s.dev.part.dies ∨ row > 5 ∨ pos > 8 ∨ s.dev.posPresent i = false ∨
        (∃ y, NMap.find s.dev.bist.slices dv = some y ∧ y.pos = i)
      (v.getLsbD 10 = false → exec (.go v) s = s.gives x) ∧
      (v.getLsbD 10 = true → bad → exec (.go v) s = s.gives fun d => (x d).setRb 0x800008 3 true) ∧
      (v.getLsbD 10 = true → ¬bad → s.dev.sliceFree dv = false → exec (.go v) s = s.gives fun d =>
        ((x d).onBist fun b => { b with want := some i }).setRb 0x800008 0 true)) ∧
    (∀ y r, b = some y → y.pos / 54 = die →
      (r.sigOk = true → r.marchOk = true → y.again = false → y.pos < 432 → ∃ t, exec (.sliceComplete die r) s = .next t ∧
        t.dev.bist.inter.contains y.pos = false ∧ t.dev.rb (oPos y.pos) 0 = true ∧ t.dev.rf (oPos y.pos) 15 8 = 0) ∧
      ((r.sigOk = false ∨ r.marchOk = false) → s.dev.rb 0x800000 9 = true → y.again = false → exec (.sliceComplete die r) s = s.gives fun d =>
        d.onBist fun b => { b with slices := NMap.put b.slices die { y with again := true } }) ∧
      ((r.sigOk = false ∨ r.marchOk = false) → s.dev.rb 0x800000 9 = false ∨ y.again = true → exec (.sliceComplete die r) s = s.gives fun d =>
        let x0 := d.setRf 0x800008 31 16 ((d.rf 0x800008 31 16 + 1) % 65536)
        let x1 := if r.sigOk then x0 else x0.selfTest y 0 0 r.signature.toNat
        (if r.marchOk then x1 else x1.selfTest y 1 r.arrayIdx 0).positionFails y)) ∧
    (∀ y, b = some y → y.kind ≠ 2 → exec (.sliceAbandoned die) s = s.gives fun d => d.releaseSlice die y) ∧
    (∀ y, b = some y → y.kind = 2 → exec (.sliceAbandoned die) s = s.gives fun d => (d.releaseSlice die y).requestOver y.pos 3))

/-! ## Errors, scrubbing, healing -/

/-- A report (R400 to R404). One of a key that has a record adds its REPEAT to WITNESS, which saturates at 65,535, sets
its bit of WITNESS_MAP and creates nothing; one of a new key, with a free index among 0 to 254 and fewer than eight
records of its ORIGIN, creates the record at the lowest free index. Every other record is as it was. -/
def Obligations.ReportsMakeRecords : Prop :=
  ∀ (s : State) (r : Report), s.dev.stage ≠ 0 →
    ∃ t, exec (.errorReport r) s = .next t ∧
      (∀ k x, s.dev.errs.findKey (fun y => decide (y.key = r.key)) = some k → NMap.find s.dev.errs.recs k = some x →
        NMap.find t.dev.errs.recs k = some { x with witness := min 65535 (x.witness + r.rep), map := setBit x.map r.wit true } ∧
        (∀ j, j ≠ k → NMap.find t.dev.errs.recs j = NMap.find s.dev.errs.recs j) ∧ t.dev.errs.arrival = s.dev.errs.arrival) ∧
      ∀ k, s.dev.errs.findKey (fun y => decide (y.key = r.key)) = none → s.dev.errs.freeIdx = some k →
        (s.dev.errs.recs.filter fun x => decide (x.2.key.origin = r.key.origin) && decide (x.2.key.kind ≠ 0xFE) &&
          decide (x.2.key.kind ≠ 0xFF)).length < 8 →
        k < 255 ∧ NMap.find s.dev.errs.recs k = none ∧
        (∃ x, NMap.find t.dev.errs.recs k = some x ∧ x.key = r.key ∧ x.witness = min 65535 r.rep ∧ x.reporter = r.reporter ∧
          x.map = setBit 0 r.wit true ∧ x.addr = r.addr ∧ x.detail = r.detail ∧ x.arrival = s.dev.errs.arrival) ∧
        ∀ j, j ≠ k → NMap.find t.dev.errs.recs j = NMap.find s.dev.errs.recs j

/-- The commands of errors, scrubbing and healing complete in full function (R386, R388 to R399, R402, R404, R411).
Freeing a record leaves the others; the end of 100 µs sends what was folded; a scrubber that is enabled reads its next
line; the majority of three copies stands; a line that needs it starts to heal, is written whole when its data come
(from the twin, those that its link brought, R326), and otherwise ends with its outcome; a permanent fault of an edge
or a die is raised and stops the device. -/
def Obligations.ErrorsComplete : Prop :=
  ∀ (s : State), s.dev.full = true →
    (∀ k, k < 256 → ∃ t, exec (.free k) s = .next t ∧ NMap.find t.dev.errs.recs k = none ∧
      ∀ j, j ≠ k → NMap.find t.dev.errs.recs j = NMap.find s.dev.errs.recs j) ∧
    (∀ reporter key,
      let here := fun x : Fold => decide (x.r.reporter = reporter) && decide (x.r.key = key)
      ∀ x, s.dev.errs.folds.find? here = some x →
        (x.folded = 0 → exec (.reportFoldEnd reporter key) s = s.gives fun d => d.onErrs fun e => { e with folds := eraseFirst e.folds here }) ∧
        (x.folded ≠ 0 → exec (.reportFoldEnd reporter key) s = s.gives fun d =>
          (d.onErrs fun e => { e with folds := updFirst e.folds here fun y => { y with folded := 0 } }).aggregate { x.r with rep := x.folded })) ∧
    (∀ die, die < 8 → die < s.dev.part.dies →
      (s.dev.rb (0x70A000 + 0x40 * die) 0 = true → exec (.scrubRead die) s = s.gives fun d => d.scrubRead die) ∧
      ∀ v : BitVec 32, exec (.scrCtlWrite die v) s = s.gives fun d =>
        let x := d.setReg (0x70A000 + 0x40 * die) (BitVec.ofNat 64 (v.toNat % 1024))
        if v.getLsbD 0 then x else x.setRb (0x70A010 + 0x40 * die) 0 false) ∧
    (∀ off v w, off < 0x2000000 → (s.dev.safeOf off).isSome = true →
      (∃ t, exec (.triplicateCheck off v v v) s = .next t ∧ t.dev.reg off = v ∧ ∀ o, o ≠ off → t.dev.reg o = s.dev.reg o) ∧
      ∀ c0 c1 c2, (c0, c1, c2) ∈ [(v, v, w), (v, w, v), (w, v, v)] → ∃ t, exec (.triplicateCheck off c0 c1 c2) s = .next t ∧
        (off < 0x700000 ∨ 0x800000 ≤ off → t.dev.reg off = v)) ∧
    (∀ line, line < 2 ^ 28 →
      (s.dev.needsHeal line = true → (s.dev.heals.filter fun h => !h.2.failed && decide (s.dev.homeDie h.1 = s.dev.homeDie line)).length < 64 →
        ∃ t, exec (.healRequest line) s = .next t ∧ t.dev.healing line = true ∧ ∀ x, x ≠ line → t.dev.healing x = s.dev.healing x) ∧
      (s.dev.healing line = true → ∀ data failed,
        (∀ h, NMap.find s.dev.heals line = some h → ∀ x, (if h.kind = 2 then h.got else some data) = some x →
          exec (.healComplete line data) s = s.gives fun d =>
            { (d.putLine .com (lineAddr line) { v := x, poison := 0 }) with heals := NMap.del d.heals line }.healEnd line 0) ∧
        (∀ h, NMap.find s.dev.heals line = some h → h.kind = 2 → h.got = none → exec (.healComplete line data) s = s.gives id) ∧
        exec (.healTimeout line failed) s = s.gives fun d =>
          ({ d with heals := NMap.put d.heals line { (d.healSource line) with failed := true } }.healEnd line (if failed then 2 else 3)).healOver line)) ∧
    ∀ die, die < 8 → die < s.dev.part.dies →
      (exec (.dieOut none die) s = s.gives fun d =>
        ((d.fault (origin 4 die) 4 6 (origin 4 die) die 0 0).fault (origin 4 die) 7 1 (origin 4 die) die 0 0).dieStop) ∧
      (∃ t, exec (.dieOut none die) s = .next t ∧ t.dev.stage = 3 ∧ t.dev.pwr.stopped = true ∧ t.dev.bist.slices = []) ∧
      ∀ e, e < 4 → exec (.dieOut (some e) die) s = s.gives fun d =>
        (d.fault (origin 5 (4 * die + e)) 7 0 (origin 4 die) die 0 0).dieStop

/-! ## Twin -/

/-- Pairing, heartbeats and the end of a partnership complete on a part with a twin bridge (R413 to R416, R424, R427). The
mirror and the shadow complete while the twins mirror over a link that is up (R418, R419, R421, R422). A window's SEQ
and ring position at this end are those of the latest message, and its slot, ring and state are written in the mirror
partition, once the lines it takes can be had (log entry 105); a record takes the ring entry it will occupy and frees
its command; a page that is sent is marked no more. -/
def Obligations.TwinComplete : Prop :=
  (∀ (s : State), s.dev.part.twin = true →
    let d := s.dev
    (∀ v : BitVec 32, d.hostAlive = true →
      let x := fun d : Dev => d.setReg 0x14000 (BitVec.ofNat 64 (v.toNat % 2 ^ 19))
      (v.getLsbD 0 = true → d.rb 0x14000 0 = false → exec (.twnCfgWrite v) s = s.gives fun d => (x d).setTwinState 1) ∧
      (v.getLsbD 0 = true → d.rb 0x14000 0 = true → d.rf 0x14000 12 1 = v.toNat / 2 % 4096 → exec (.twnCfgWrite v) s = s.gives x) ∧
      (v.getLsbD 0 = false → exec (.twnCfgWrite v) s = s.gives fun d =>
        (((x d).setReg 0x14004 0).onTwin fun t => { t with heard := 0, handing := false, handPoint := none }).unmirror)) ∧
    (∀ p : TwinProof, d.stage ≠ 0 → d.twinState = 1 →
      let good := p.id.toNat = d.rf 0x14000 12 1 ∧ d.idValid = true ∧ p.peerId.toNat = d.ownId ∧ p.code.toNat = d.part.code.num ∧
        p.proofOk = true ∧ (d.linkUp 64 = true ∨ d.linkUp 65 = true)
      (good → exec (.twinIdentityExchange p) s = s.gives fun d =>
        (((d.setTwinState 2).setRf 0x14004 8 6 0).onTwin fun t => { t with took := false, mirror := [] }).freshMirror.markAll) ∧
      (¬good → exec (.twinIdentityExchange p) s = s.gives fun d => (d.setRb 0x1400C 3 true).twinRecord 5)) ∧
    (d.hostAlive = true → d.twinState = 3 ∨ d.twinState = 4 →
      exec .rejoin s = s.gives fun d => (d.setTwinState 1).setRf 0x14004 8 6 0) ∧
    (∀ path, d.twinState = 1 ∨ (d.twinState = 2 ∧ (d.rf 0x14004 4 3 ≠ 0 ∨ path = .sideband)) →
      exec (.heartbeat path) s = s.gives fun d =>
        (d.onTwin fun t => { t with heard := setBit t.heard (twinPathNo path) true }).setRb 0x14004 (3 + twinPathNo path) true) ∧
    (d.twinState = 2 → d.twin.heard = 0 →
      (d.rf 0x14004 8 6 = 3 → ∃ t, exec .heartbeatIntervalEnd s = .next t ∧ t.dev.twinState = 3 ∧ t.dev.rb 0x1400C 0 = true ∧
        t.dev.twin.cause = 0 ∧ t.dev.twin.took = false) ∧
      (d.rf 0x14004 8 6 < 3 → ∃ t, exec .heartbeatIntervalEnd s = .next t ∧ t.dev.twinState = 2 ∧
        t.dev.rf 0x14004 8 6 = d.rf 0x14004 8 6 + 1)) ∧
    (d.twinState = 2 → ∀ cause, exec (.sidebandNotice cause) s = s.gives fun d => d.partnerLost (if cause = 2 then 2 else 1)) ∧
    (d.full = true → d.twinState = 3 → d.twin.took = false → ∃ t, exec .takeover s = .next t ∧ t.dev.twin.took = true ∧
      t.dev.rb 0x1400C 1 = true ∧ t.dev.twin.mirror = []) ∧
    (d.hostAlive = true → d.twinState = 2 → d.twin.handing = false →
      exec .handover s = s.gives fun d => (d.onTwin fun t => { t with handing := true }).handProgress) ∧
    (d.hostAlive = true → exec .shadowMark s = s.gives fun d => d.markPoint)) ∧
  (∀ (s : State) (f n : Nat), winOk f n = true → s.dev.twinPath = true →
    (∀ seq, exec (.mirrorCommand (.acked f n seq)) s = s.gives fun d => (d.onWin f n fun w =>
      { w with waiting := updFirst w.waiting (fun q => decide (q.seq = seq)) (fun q => { q with mirrored := true, atTwin := true }) }).handProgress) ∧
    (∀ seq slot credits pos phase c a, credits ≤ 64 → pos < 64 → s.dev.standbyWin f n = true →
      s.dev.mirAddr f n (64 * (seq.toNat % 64)) = some a → s.dev.mirHeld a 64 = none →
      exec (.mirrorCommand (.received f n seq slot credits pos phase c)) s = s.gives fun d =>
        ((d.mirPut a (toBytes 64 (HostCmdWord c))).mirState f n).onTwin fun t => t.setMir { t.mir f n with
          seq := seq, credits := credits, ringPos := pos, phase := phase
          cmds := (t.mir f n).cmds ++ [{ seq := seq, slot := slot, c := c }] }) ∧
    (∃ t, exec (.mirrorRecord (.acked f n)) s = .next t ∧ t.dev.recs.length = s.dev.recs.length) ∧
    (∀ entry seq irq w a, entry < 64 → s.dev.standbyWin f n = true →
      s.dev.mirAddr f n (4096 + 64 * entry) = some a → s.dev.mirHeld a 64 = none →
      exec (.mirrorRecord (.received f n entry seq irq w)) s = s.gives fun d =>
        ((d.mirPut a (toBytes 64 w)).mirState f n).onTwin fun t => t.setMir { t.mir f n with
          credits := min 64 ((t.mir f n).credits + 1), ringPos := (entry + 1) % 64
          phase := if entry = 63 then !(bitAt w 8) else bitAt w 8
          cmds := (t.mir f n).cmds.filter fun c => decide (c.seq ≠ seq)
          ring := NMap.put (t.mir f n).ring entry (w, irq) }) ∧
    (s.dev.full = true →
      (∀ page, page < 2 ^ 19 → NMap.get s.dev.twin.shadow false page = true → s.dev.shadowed page = true →
        ∃ t, exec (.shadowPageCopy (.sent page true)) s = .next t ∧ NMap.get t.dev.twin.shadow false page = false ∧
          ∀ q, q ≠ page → NMap.get t.dev.twin.shadow false q = NMap.get s.dev.twin.shadow false q) ∧
      ∀ line data, line < 2 ^ 28 → s.dev.standbyPage (line / 512) = true → s.dev.heldLines [line] = none →
        exec (.shadowPageCopy (.received line data)) s = s.gives fun d =>
          (((d.killResv line).recallAll line false).notePage line).putLine .com (lineAddr line) { v := data, poison := 0 }) ∧
    (∀ p, (∃ t, exec (.shadowPointDone (.received p)) s = .next t ∧ (t.dev.reg 0x14030).toNat = p.toNat) ∧
      ∀ r, s.dev.twin.runs.head? = some r → r.point = p → s.dev.pointWaits r = [] → exec (.shadowPointDone (.acked p)) s = s.gives fun d =>
        ((d.onTwin fun t => { t with runs := t.runs.drop 1 }).setRf 0x14028 55 32 p.toNat).handProgress))

/-! ## Start, rest, insertion, SPDM, flash, the TAP -/

/-- A module is powered on, restarted, put to rest and woken (R434 to R438, R443, R453 to R455). Power-on starts a module
that had no power; RESTART is accepted in SAFE_FAULT only; REST with a context enabled is refused and keeps the stage,
from full function it drains first, and with the engines idle it ends in rest with the Commons retained; WAKE acts in
rest. Each of them answers a next state in every state. Insertion, removal, the input switch, flash, SPDM and the TAP
complete (R440, R444 to R446, R469, R470, R477 to R480). A write to a slot that is not running takes the image and no
other; a removed module keeps its flash and loses its error records and aliases; a request without an agreed version
is UNEXPECTED_REQUEST; the TAP shifts one bypass bit for each die of the chain, and what its pins supply in board test
is open (log entry 57). -/
def Obligations.ModuleLifeComplete : Prop :=
  (∀ (s : State) (p : PowerOn),
    let d := s.dev
    (d.ltn.found = none → exec (.powerOn p) s = s.starts fun d => (d.onLtn fun l => { l with
      present := true, switchOn := true, indicator := false, boardTest := !p.bstEn }).startUp p true) ∧
    (d.ltn.found.isSome = true → exec (.powerOn p) s = .next s) ∧
    (d.hostAlive = true → d.stage = 11 → exec (.restart p) s = s.starts fun d => (d.onErrs fun e => { e with arrival := 1 }).startUp p false) ∧
    (d.hostAlive = false ∨ d.stage ≠ 11 → exec (.restart p) s = .next s) ∧
    (d.hostAlive = true → d.inUse = true ∨ d.stage = 11 → exec .rest s = s.gives fun d => d.setRb 0x10004 3 true) ∧
    (d.full = true → d.inUse = false →
      ((d.beginDrain 5).pwr.drain = some 5 → exec .rest s = s.gives fun d => (d.beginDrain 5).enterRest) ∧
      ((d.beginDrain 5).pwr.drain ≠ some 5 → exec .rest s = s.gives fun d => d.beginDrain 5) ∧
      ((d.beginDrain 5).pwr.drain = some 5 → (d.beginDrain 5).enginesIdle = true →
        ∃ t, exec .rest s = .next t ∧ t.dev.stage = 9 ∧ t.dev.ltn.retained = true ∧ t.dev.full = false)) ∧
    (d.hostAlive = true → d.inUse = false → d.stage ≠ 8 → d.stage ≠ 9 → d.stage ≠ 11 →
      exec .rest s = s.gives fun d => (d.onLtn fun l => { l with starting := none }).enterRest) ∧
    (d.hostAlive = false ∨ (d.stage = 9 ∧ d.inUse = false) → exec .rest s = .next s) ∧
    (d.stage = 9 → exec (.wake p) s = s.gives fun d => d.wakeUp p) ∧
    (d.stage ≠ 9 → exec (.wake p) s = .next s)) ∧
  (∀ (s : State),
    let d := s.dev
    (exec .insertion s = s.gives fun d => d.onLtn fun l => { l with present := true, switchOn := true, indicator := false }) ∧
    (exec .presentNHigh s = s.gives fun d => d.powerOff.onLtn fun l => { l with present := false }) ∧
    (∃ t, exec .presentNHigh s = .next t ∧ t.dev.ltn.present = false ∧ t.dev.ltn.switchOn = false ∧ t.dev.stage = 0 ∧
      t.dev.ltn.flash = d.ltn.flash ∧ t.dev.errs.recs = [] ∧ t.dev.aliases = []) ∧
    (d.stage = 3 → d.pwr.stopped = true → d.ltn.switchOn = true → ∃ t, exec .removalDischarge s = .next t ∧ t.dev.ltn.indicator = true ∧
      t.dev.stage = 0 ∧ t.dev.ltn.present = d.ltn.present) ∧
    (d.stage ≠ 3 ∨ d.pwr.stopped = false ∨ d.ltn.switchOn = false → exec .removalDischarge s = s.gives id) ∧
    (exec (.inputSwitchOvercurrent .reverseCurrent) s = s.gives id) ∧
    (∀ k, k = SwitchFault.overcurrent ∨ k = .railShort →
      (d.ltn.switchOn = true → ∃ t, exec (.inputSwitchOvercurrent k) s = .next t ∧ t.dev.ltn.switchOn = false ∧ t.dev.stage = 0) ∧
      (d.ltn.switchOn = false → exec (.inputSwitchOvercurrent k) s = s.gives id)) ∧
    (∀ keeper slot image,
      (2 ≤ d.stage → d.slotRuns keeper slot = false → ¬(d.stage = 10 ∧ keeper = true) →
        ∃ t, exec (.flashUpdateWrite keeper slot image) s = .next t ∧
          NMap.find t.dev.ltn.flash (2 * bit keeper + bit slot) = some image ∧
          (∀ j, j ≠ 2 * bit keeper + bit slot → NMap.find t.dev.ltn.flash j = NMap.find d.ltn.flash j) ∧ t.dev.stage = d.stage) ∧
      (d.stage < 2 ∨ d.slotRuns keeper slot = true ∨ (d.stage = 10 ∧ keeper = true) →
        exec (.flashUpdateWrite keeper slot image) s = s.gives id)) ∧
    (∀ port r, (∀ p, port = some p → p < 2) →
      (d.spdmReached port = false → exec (.spdmRequest port r) s = s.gives id) ∧
      (d.spdmReached port = true →
        (exec (.spdmRequest port r) s = s.gives fun d => d.spdm r) ∧
        (d.ltn.spdmAlg = false → (∃ k, r = .challenge k) ∨ r = .getDigests → ∃ t, exec (.spdmRequest port r) s = .next t ∧
          t.dev.ltn.answer = some (0x7F, [4])) ∧
        ∀ k, d.ltn.spdmAlg = true → r = .challenge k → k ≠ 0 → ∃ t, exec (.spdmRequest port r) s = .next t ∧ t.dev.ltn.answer = some (0x7F, [1]))) ∧
    (d.ltn.found = none → ∀ i, exec (.tapInstruction i) s = s.gives id) ∧
    (d.ltn.found.isSome = true →
      (∃ t, exec (.tapInstruction .idcode) s = .next t ∧ t.dev.ltn.tapOut.length = 1 + d.part.dies ∧ t.dev.ltn.tapOut.head? = some 0x1880096B) ∧
      (∀ i, i ≠ .idcode → d.ltn.boardTest = false → ∃ t, exec (.tapInstruction i) s = .next t ∧
        t.dev.ltn.tapOut = List.replicate (1 + d.part.dies) 0) ∧
      ∀ i, d.ltn.boardTest = true → ∃ t, exec (.tapInstruction i) s = .next t ∧ t.dev.ltn.tap = i ∧ t.dev.stage = d.stage))

/-- Order 2 of a start decides where it ends (Table 16.2, R436 to R443): with no Lantern image that verifies in RECOVERY
with CAUSE 1; with an unreadable record, a bad identity key, a record of another device, or a Keeper or Lantern image
below the floor, and nothing else wrong, in SAFE_FAULT with CAUSE 3, 6, 4 or 5; a record that is accepted says by CODE
and UNITS what the part is and is kept, one that is not says nothing, and a CODE of none of the three ordering codes
ends it as an unreadable record does (log entry 70). The key is the power-on's: the PUF block gives it or does not. -/
def Obligations.VerificationDecides : Prop :=
  ∀ (d : Dev) (p : PowerOn) (first : Bool),
    let y := d.verifyOrder p first
    let floor := p.record.floor.toNat
    let verify := fun keeper => (d.images p keeper).any fun x => x.verifies
    let good := fun keeper => (d.images p keeper).any fun x => x.verifies && decide (floor ≤ x.svn.toNat)
    let lantern := if first then good false = true else floor ≤ d.rf 0x10008 15 8
    let known := (codeOf p.record.code.toNat).isSome = true
    let ends := fun cause => y.stage = 11 ∧ y.rf 0x10000 15 8 = cause ∧ y.rf 0x10000 7 4 = 1 ∧ (y.part = d.part ∨ cause = 5 ∨ cause = 2)
    ((d.deriveKey p).ltn.seed = if p.keyOk then some p.seed else none) ∧
    (verify false = false → (d.verifyOrder p true).stage = 10 ∧ (d.verifyOrder p true).rf 0x10000 15 8 = 1) ∧
    (p.recordOk = false → verify false = true → verify true = true → d.ltn.seed.isSome = true → ends 3) ∧
    (p.recordOk = true → known → lantern → good true = true →
      (d.ltn.seed = none → ends 6) ∧
      (d.ltn.seed.isSome = true → p.record.keyHash ≠ d.ltn.idHash → ends 4)) ∧
    (p.recordOk = true → d.bound p.record = true → known →
      (lantern → verify true = true → good true = false → ends 5) ∧
      (lantern → verify true = false → ends 2) ∧
      (first = true → verify false = true → good false = false → good true = true → ends 5) ∧
      (first = false → d.rf 0x10008 15 8 < floor → good true = true → ends 5)) ∧
    (p.recordOk = true → d.bound p.record = true → lantern → good true = true →
      (∀ k, codeOf p.record.code.toNat = some k → y.part = { code := k, units := p.record.units } ∧ y.ltn.record = some p.record ∧
        y.stage = d.stage) ∧
      (codeOf p.record.code.toNat = none → ends 3)) ∧
    (p.recordOk = false ∨ d.bound p.record = false → y.part = d.part ∧ y.ltn.record = d.ltn.record)

/-! ## Debug and registers -/

/-- The debug block's commands complete in full function on the target that DBG_SEL names (R101 to R104, R139 to R141):
HALT waits for an instruction boundary and abandons a wait there; STEP and RESUME let a halted target go; an access of
a target that is not halted is ACC_ERR. The link and cluster settings and register writes complete (R14, R225, R307,
R314, R327 to R329, R437, R485, R487). A register write of a legal size reaches the space at its offset; one of fewer
than 4 bytes, or misaligned, changes nothing. -/
def Obligations.DebugAndRegistersComplete : Prop :=
  (∀ (s : State), s.dev.full = true →
    let noted := fun d : Dev => d.onLtn fun l => { l with dbgWritten := true }
    (s.dev.dbgTarget = none → exec .halt s = s.gives noted ∧ exec .resume s = s.gives noted ∧ exec .step s = s.gives noted) ∧
    (∀ a, s.dev.dbgTarget = some a →
      ((s.dev.dbg a).halted = false → exec .halt s = (s.gives fun d => (noted d).onDbg a fun x => { x with haltReq := true }) ∧
        exec .step s = (s.gives fun d => (noted d).onDbg a fun x => { x with haltReq := true }) ∧
        exec .resume s = s.gives noted) ∧
      ((s.dev.dbg a).halted = true → exec .halt s = s.gives noted ∧
        (exec .step s = s.gives fun d => (noted d).onDbg a fun x => { x with halted := false, stepping := true, reason := 0, cause := 0 }) ∧
        exec .resume s = s.gives fun d => (noted d).unhalt a)) ∧
    (∀ a, Agent.ok a = true → s.dev.running a.cluster = true → ((∃ n, a = .sCore n) ∨ (s.dev.grp a).isSome = true) →
      (s.dev.dbg a).haltReq = true → (s.dev.dbg a).halted = false → (s.dev.waitOf a).yields = true →
      ∃ t, exec (.haltTakesEffect a) s = .next t ∧ (t.dev.dbg a).halted = true ∧ (t.dev.dbg a).reason = 1 ∧ (t.dev.dbg a).haltReq = false ∧
        t.dev.waitOf a = .none) ∧
    ∀ (a : Agent) (v : BitVec 32), s.dev.dbgTarget = some a →
      let at_ := fun d : Dev => (noted d).setReg 0x90000C (BitVec.ofNat 64 (v.toNat % 2 ^ 17))
      let idx := v.toNat % 1024
      let space := v.toNat / 2 ^ 10 % 4
      let lane := v.toNat / 2 ^ 12 % 32
      ((s.dev.dbg a).halted = true →
        (exec (.dbgAccWrite v) s = s.gives fun d => (at_ d).accWrite a idx space lane (d.reg 0x900010)) ∧
        exec (.dbgAccRead v) s = s.gives fun d =>
          let y := (at_ d).accRead a idx space lane
          y.2.setReg 0x900010 y.1) ∧
      ((s.dev.dbg a).halted = false →
        (exec (.dbgAccWrite v) s = s.gives fun d => (at_ d).onDbg a fun x => { x with accErr := true }) ∧
        exec (.dbgAccRead v) s = s.gives fun d => ((at_ d).onDbg a fun x => { x with accErr := true }).setReg 0x900010 0)) ∧
  (∀ (s : State),
    (s.dev.full = true →
      (∀ l (v : BitVec 32), linkOk l = true → l < s.dev.part.links → v.getLsbD 4 = false →
        (v.getLsbD 0 = s.dev.rb (oLink l) 0 → exec (.lnkCfgEnWrite l v) s = s.gives fun d => d.setReg (oLink l) (BitVec.ofNat 64 (v.toNat % 16))) ∧
        (v.getLsbD 0 = true → s.dev.rb (oLink l) 0 = false → exec (.lnkCfgEnWrite l v) s = s.gives fun d =>
          (d.setReg (oLink l) (BitVec.ofNat 64 (v.toNat % 16))).startRetrain l) ∧
        (v.getLsbD 0 = false → s.dev.rb (oLink l) 0 = true → exec (.lnkCfgEnWrite l v) s = s.gives fun d =>
          ((d.setReg (oLink l) (BitVec.ofNat 64 (v.toNat % 16))).linkDown l false).gRunAll)) ∧
      (∀ l, linkOk l = true → l < s.dev.part.links → s.dev.rb (oLink l) 0 = true →
        exec (.retrain l) s = s.gives fun d => (d.onLink l fun x => { x with badLanes := 0 }).startRetrain l) ∧
      (∀ v : BitVec 32,
        ((∀ l, l < s.dev.part.links → s.dev.rb (oLink l) 0 = false) →
          exec (.lnkDevIdWrite v) s = s.gives fun d => d.setReg oDevId (BitVec.ofNat 64 (v.toNat % 2 ^ 26))) ∧
        ((∃ l, l < s.dev.part.links ∧ s.dev.rb (oLink l) 0 = true) → exec (.lnkDevIdWrite v) s = s.gives id)) ∧
      (∀ g (v : BitVec 32), grpOk g = true →
        let new := setFld (setFld (setFld (0 : Word) 1 0 (v.toNat % 4)) 15 8 (v.toNat / 256 % 256)) 28 16 (v.toNat / 65536 % 8192)
        let got := s.dev.memberList (s.dev.rf (oGrp g + 8) 47 0) (v.toNat / 65536 % 8192)
        let at_ := lineOf (s.dev.rf (oGrp g + 8) 47 0)
        let home := s.dev.hostLines fun l => decide (at_ ≤ l) && decide (l < at_ + ceilDiv (v.toNat / 65536 % 8192) 32)
        (v.toNat % 4 = 0 → exec (.lnkGrpCfgWrite g v) s = s.gives fun d => d.setReg (oGrp g) new) ∧
        (∀ y, v.toNat % 4 ≠ 0 → home = some y → exec (.lnkGrpCfgWrite g v) s = s.gives fun _ => y) ∧
        (v.toNat % 4 ≠ 0 → home = none → got.1 = none → exec (.lnkGrpCfgWrite g v) s = s.gives fun _ => got.2.setRb (oGrp g + 0x10) 15 true) ∧
        ∀ es, v.toNat % 4 ≠ 0 → home = none → got.1 = some es → got.2.listBad g (v.toNat % 4) es = true →
          exec (.lnkGrpCfgWrite g v) s = s.gives fun _ => got.2.setRb (oGrp g + 0x10) 15 true) ∧
      (∀ g (v : BitVec 32) es, grpOk g = true → v.toNat % 4 ≠ 0 →
        let new := setFld (setFld (setFld (0 : Word) 1 0 (v.toNat % 4)) 15 8 (v.toNat / 256 % 256)) 28 16 (v.toNat / 65536 % 8192)
        let got := s.dev.memberList (s.dev.rf (oGrp g + 8) 47 0) (v.toNat / 65536 % 8192)
        let at_ := lineOf (s.dev.rf (oGrp g + 8) 47 0)
        (s.dev.hostLines fun l => decide (at_ ≤ l) && decide (l < at_ + ceilDiv (v.toNat / 65536 % 8192) 32)) = none →
        got.1 = some es → got.2.listBad g (v.toNat % 4) es = false →
          exec (.lnkGrpCfgWrite g v) s = s.gives fun _ =>
            let x := (got.2.setReg (oGrp g) new).onGrpRt g fun x => { x with ready := [], nextSeq := 1, lost := [], members := es }
            x.setRf (oGrp g + 4) 25 13 (x.grpRt g).headOf) ∧
      ∀ n (v : BitVec 32), n < 384 → n < s.dev.part.clusters → exec (.cluMissCtlWrite n v) s = s.gives fun d =>
        (d.onCl n fun c => { c with preBlock := v.getLsbD 0 && (if d.blocking n then c.preBlock else !c.misses.isEmpty) }).setReg
          (oClu n + 0x40) (setFld (setFld (0 : Word) 1 0 (v.toNat % 4)) 28 16 (v.toNat / 65536 % 8192))) ∧
    (∀ off size v, off < 0x2000000 → size = 4 ∨ size = 8 → off % size = 0 → s.dev.hostAlive = true →
      exec (.registerWrite .bar2 off size v) s = s.gives fun d => d.devWrite 0 off size v) ∧
    (∀ off size v, off < 0x2000000 → size = 1 ∨ size = 2 ∨ ((size = 4 ∨ size = 8) ∧ off % size ≠ 0) →
      exec (.registerWrite .bar2 off size v) s = s.gives id) ∧
    (∀ n off size v, n < 384 → off < 0x2000000 → size = 4 ∨ size = 8 → off % size = 0 → s.dev.running n = true →
      exec (.registerWrite (.keeper n) off size v) s = s.gives fun d => d.devWrite (d.keeperFunc n) off size v) ∧
    ∀ f port off size v, f < 256 → port < 2 → off < 0x10000 → (size = 1 ∨ size = 2 ∨ size = 4 ∨ size = 8) → s.dev.hostAlive = true →
      s.dev.funcExists f = true → exec (.registerWrite (.vf f port) off size v) s = s.gives fun d => d.bar0Write f port off size v)

/-- A write of a register whose fields have no other effect: RW bits take the value, W1C bits written 1 become 0, and no
other bit, and no other register, changes (R14). -/
def Obligations.PlainFields : Prop :=
  ∀ (d : Dev) (r : RegInfo) (v : Word), r.rw &&& r.w1c = 0 →
    (∀ i, i < 64 → ((d.writePlain r v).reg r.base).getLsbD i =
      if r.rw.getLsbD i then v.getLsbD i else if r.w1c.getLsbD i then ((d.reg r.base).getLsbD i && !v.getLsbD i) else (d.reg r.base).getLsbD i) ∧
    (∀ o, o ≠ r.base → (d.writePlain r v).reg o = d.reg o) ∧
    (d.writePlain r v).clusters = d.clusters ∧ (d.writePlain r v).commons = d.commons ∧ (d.writePlain r v).loc = d.loc ∧
    (d.writePlain r v).errs = d.errs ∧ (d.writePlain r v).ltn = d.ltn
end

