-- ==== Sys2Proof/Laws/Maps.lean ====
section
/-! SUPPORT. The sparse maps: a read after a write, and that every write keeps the canonical form. -/
namespace Sys2Proof.Machine
variable {α : Type}

@[simp] theorem NMap.get_nil (d : α) (k : Nat) : NMap.get ([] : NMap α) d k = d := rfl
@[simp] theorem NMap.find_nil (k : Nat) : NMap.find ([] : NMap α) k = none := rfl

/-- A read of the index that was written gives the value written. -/
@[simp] theorem NMap.get_put_same (m : NMap α) (d v : α) (k : Nat) : NMap.get (NMap.put m k v) d k = v := by
  induction m with
  | nil => simp [NMap.put, NMap.get]
  | cons x rest ih =>
    obtain ⟨i, w⟩ := x
    simp only [NMap.put]
    split
    · simp [NMap.get]
    · split
      · simp [NMap.get]
      · rename_i h1 h2
        simp [NMap.get, ih, Ne.symm h2]

/-- A write leaves every other index alone. -/
theorem NMap.get_put_ne (m : NMap α) (d v : α) {k j : Nat} (h : j ≠ k) : NMap.get (NMap.put m k v) d j = NMap.get m d j := by
  induction m with
  | nil => simp [NMap.put, NMap.get, Ne.symm h]
  | cons x rest ih =>
    obtain ⟨i, w⟩ := x
    simp only [NMap.put]
    split
    · simp [NMap.get, Ne.symm h]
    · split
      · rename_i h1 h2; subst h2; simp [NMap.get, Ne.symm h]
      · simp only [NMap.get, ih]

/-- Reading after a write, in one equation. -/
theorem NMap.get_put (m : NMap α) (d v : α) (k j : Nat) :
    NMap.get (NMap.put m k v) d j = if j = k then v else NMap.get m d j := by
  by_cases h : j = k
  · subst h; simp
  · simp [h, NMap.get_put_ne m d v h]

/-- All indices of a list lie above a bound. -/
def NMap.above (m : NMap α) (k : Nat) : Prop := ∀ e ∈ m, k < e.1

theorem NMap.rising_cons (i : Nat) (w : α) (rest : NMap α) :
    NMap.rising ((i, w) :: rest) = true ↔ NMap.above rest i ∧ NMap.rising rest = true := by
  induction rest generalizing i w with
  | nil => simp [NMap.rising, NMap.above]
  | cons x rest ih =>
    obtain ⟨j, v⟩ := x
    simp only [NMap.rising, Bool.and_eq_true, decide_eq_true_eq]
    constructor
    · rintro ⟨h1, h2⟩
      refine ⟨fun e he => ?_, h2⟩
      rcases List.mem_cons.1 he with rfl | he
      · exact h1
      · exact lt_trans h1 (((ih j v).1 h2).1 e he)
    · rintro ⟨h1, h2⟩
      exact ⟨h1 (j, v) (by simp), h2⟩

theorem NMap.get_above (m : NMap α) (d : α) (k : Nat) (h : NMap.above m k) : NMap.get m d k = d := by
  induction m with
  | nil => rfl
  | cons x rest ih =>
    obtain ⟨i, w⟩ := x
    have hi : k < i := h (i, w) (by simp)
    have : i ≠ k := by omega
    simp only [NMap.get, this, if_false]
    exact ih fun e he => h e (List.mem_cons_of_mem _ he)

theorem NMap.mem_put (m : NMap α) (k : Nat) (v : α) (e : Nat × α) (h : e ∈ NMap.put m k v) : e = (k, v) ∨ e ∈ m := by
  induction m with
  | nil => simpa [NMap.put] using h
  | cons x rest ih =>
    obtain ⟨i, w⟩ := x
    simp only [NMap.put] at h
    split at h
    · simpa using h
    · split at h
      · rcases List.mem_cons.1 h with h | h
        · exact .inl h
        · exact .inr (List.mem_cons_of_mem _ h)
      · rcases List.mem_cons.1 h with h | h
        · exact .inr (by simp [h])
        · rcases ih h with h | h
          · exact .inl h
          · exact .inr (List.mem_cons_of_mem _ h)

theorem NMap.mem_del (m : NMap α) (k : Nat) (e : Nat × α) (h : e ∈ NMap.del m k) : e ∈ m := by
  induction m with
  | nil => simp [NMap.del] at h
  | cons x rest ih =>
    obtain ⟨i, w⟩ := x
    simp only [NMap.del] at h
    split at h
    · exact List.mem_cons_of_mem _ (ih h)
    · rcases List.mem_cons.1 h with h | h
      · simp [h]
      · exact List.mem_cons_of_mem _ (ih h)

/-- A write keeps indices rising. -/
theorem NMap.rising_put (m : NMap α) (k : Nat) (v : α) (h : NMap.rising m = true) : NMap.rising (NMap.put m k v) = true := by
  induction m with
  | nil => rfl
  | cons x rest ih =>
    obtain ⟨i, w⟩ := x
    have hr := (NMap.rising_cons i w rest).1 h
    simp only [NMap.put]
    split
    · rename_i hk
      refine (NMap.rising_cons k v _).2 ⟨fun e he => ?_, h⟩
      rcases List.mem_cons.1 he with rfl | he
      · exact hk
      · exact lt_trans hk (hr.1 e he)
    · split
      · rename_i h1 h2
        subst h2
        exact (NMap.rising_cons k v _).2 hr
      · rename_i h1 h2
        refine (NMap.rising_cons i w _).2 ⟨fun e he => ?_, ih hr.2⟩
        rcases NMap.mem_put rest k v e he with rfl | he
        · show i < k
          omega
        · exact hr.1 e he

/-- Removing an entry keeps indices rising. -/
theorem NMap.rising_del (m : NMap α) (k : Nat) (h : NMap.rising m = true) : NMap.rising (NMap.del m k) = true := by
  induction m with
  | nil => rfl
  | cons x rest ih =>
    obtain ⟨i, w⟩ := x
    have hr := (NMap.rising_cons i w rest).1 h
    simp only [NMap.del]
    split
    · exact ih hr.2
    · exact (NMap.rising_cons i w _).2 ⟨fun e he => hr.1 e (NMap.mem_del rest k e he), ih hr.2⟩

/-- Keeping some entries keeps indices rising. -/
theorem NMap.rising_filter (m : NMap α) (p : Nat × α → Bool) (h : NMap.rising m = true) :
    NMap.rising (List.filter p m : NMap α) = true := by
  induction m with
  | nil => rfl
  | cons x rest ih =>
    obtain ⟨i, w⟩ := x
    have hr := (NMap.rising_cons i w rest).1 h
    by_cases hp : p (i, w) = true
    · rw [List.filter_cons_of_pos hp]
      exact (NMap.rising_cons i w _).2 ⟨fun e he => hr.1 e (List.mem_filter.1 he).1, ih hr.2⟩
    · rw [List.filter_cons_of_neg hp]
      exact ih hr.2

/-- After a removal the index holds the default. -/
@[simp] theorem NMap.get_del_same (m : NMap α) (d : α) (k : Nat) : NMap.get (NMap.del m k) d k = d := by
  induction m with
  | nil => rfl
  | cons x rest ih =>
    obtain ⟨i, w⟩ := x
    simp only [NMap.del]
    split
    · exact ih
    · rename_i hk
      simp only [NMap.get, Ne.symm hk, if_false]
      exact ih

theorem NMap.get_del_ne (m : NMap α) (d : α) {k j : Nat} (h : j ≠ k) : NMap.get (NMap.del m k) d j = NMap.get m d j := by
  induction m with
  | nil => rfl
  | cons x rest ih =>
    obtain ⟨i, w⟩ := x
    simp only [NMap.del]
    split
    · rename_i hk
      subst hk
      simp only [NMap.get, Ne.symm h, if_false]
      exact ih
    · simp only [NMap.get, ih]

section Canonical
variable [DecidableEq α]

theorem NMap.wf_iff (m : NMap α) (d : α) : NMap.wf m d = true ↔ NMap.rising m = true ∧ ∀ e ∈ m, e.2 ≠ d := by
  simp [NMap.wf]

/-- A canonical write, read back. -/
theorem NMap.get_set (m : NMap α) (d v : α) (k j : Nat) :
    NMap.get (NMap.set m d k v) d j = if j = k then v else NMap.get m d j := by
  unfold NMap.set
  split
  · rename_i hv
    subst hv
    by_cases hj : j = k
    · subst hj; simp
    · simp [hj, NMap.get_del_ne m _ hj]
  · exact NMap.get_put m d v k j

/-- A canonical write keeps the canonical form. -/
theorem NMap.wf_set (m : NMap α) (d v : α) (k : Nat) (h : NMap.wf m d = true) : NMap.wf (NMap.set m d k v) d = true := by
  obtain ⟨hr, hn⟩ := (NMap.wf_iff m d).1 h
  unfold NMap.set
  split
  · exact (NMap.wf_iff _ _).2 ⟨NMap.rising_del m k hr, fun e he => hn e (NMap.mem_del m k e he)⟩
  · rename_i hv
    refine (NMap.wf_iff _ _).2 ⟨NMap.rising_put m k v hr, fun e he => ?_⟩
    rcases NMap.mem_put m k v e he with rfl | he
    · exact hv
    · exact hn e he

/-- Listing a value that is not the default keeps the canonical form. -/
theorem NMap.wf_put (m : NMap α) (d v : α) (k : Nat) (h : NMap.wf m d = true) (hv : v ≠ d) : NMap.wf (NMap.put m k v) d = true := by
  have := NMap.wf_set m d v k h
  simpa [NMap.set, hv] using this

/-- Keeping some entries keeps the canonical form. -/
theorem NMap.wf_filter (m : NMap α) (d : α) (p : Nat × α → Bool) (h : NMap.wf m d = true) :
    NMap.wf (List.filter p m : NMap α) d = true := by
  obtain ⟨hr, hn⟩ := (NMap.wf_iff m d).1 h
  exact (NMap.wf_iff _ _).2 ⟨NMap.rising_filter m p hr, fun e he => hn e (List.mem_filter.1 he).1⟩

end Canonical

end Sys2Proof.Machine
end

