-- ==== Sys2Proof/Laws/State.lean ====
section
/-! SUPPORT. What each named update of the device leaves alone, field by field, and what it does to its own field. Cite
these and do not unfold a record update. -/
namespace Sys2Proof.Machine

/-! `Dev.setReg` -/
@[simp] theorem Dev.setReg_part (d : Dev) (o : Nat) (v : Word) : (d.setReg o v).part = d.part := rfl
@[simp] theorem Dev.setReg_free (d : Dev) (o : Nat) (v : Word) : (d.setReg o v).free = d.free := rfl
@[simp] theorem Dev.setReg_clusters (d : Dev) (o : Nat) (v : Word) : (d.setReg o v).clusters = d.clusters := rfl
@[simp] theorem Dev.setReg_loc (d : Dev) (o : Nat) (v : Word) : (d.setReg o v).loc = d.loc := rfl
@[simp] theorem Dev.setReg_commons (d : Dev) (o : Nat) (v : Word) : (d.setReg o v).commons = d.commons := rfl
@[simp] theorem Dev.setReg_coh (d : Dev) (o : Nat) (v : Word) : (d.setReg o v).coh = d.coh := rfl
@[simp] theorem Dev.setReg_chans (d : Dev) (o : Nat) (v : Word) : (d.setReg o v).chans = d.chans := rfl
@[simp] theorem Dev.setReg_hostWr (d : Dev) (o : Nat) (v : Word) : (d.setReg o v).hostWr = d.hostWr := rfl
@[simp] theorem Dev.setReg_hostCache (d : Dev) (o : Nat) (v : Word) : (d.setReg o v).hostCache = d.hostCache := rfl
@[simp] theorem Dev.setReg_ats (d : Dev) (o : Nat) (v : Word) : (d.setReg o v).ats = d.ats := rfl
@[simp] theorem Dev.setReg_links (d : Dev) (o : Nat) (v : Word) : (d.setReg o v).links = d.links := rfl
@[simp] theorem Dev.setReg_dur (d : Dev) (o : Nat) (v : Word) : (d.setReg o v).dur = d.dur := rfl
@[simp] theorem Dev.setReg_nextCid (d : Dev) (o : Nat) (v : Word) : (d.setReg o v).nextCid = d.nextCid := rfl
@[simp] theorem Dev.setReg_errs (d : Dev) (o : Nat) (v : Word) : (d.setReg o v).errs = d.errs := rfl
@[simp] theorem Dev.setReg_fns (d : Dev) (o : Nat) (v : Word) : (d.setReg o v).fns = d.fns := rfl
@[simp] theorem Dev.setReg_wins (d : Dev) (o : Nat) (v : Word) : (d.setReg o v).wins = d.wins := rfl
@[simp] theorem Dev.setReg_vecs (d : Dev) (o : Nat) (v : Word) : (d.setReg o v).vecs = d.vecs := rfl
@[simp] theorem Dev.setReg_recs (d : Dev) (o : Nat) (v : Word) : (d.setReg o v).recs = d.recs := rfl
@[simp] theorem Dev.setReg_ctxs (d : Dev) (o : Nat) (v : Word) : (d.setReg o v).ctxs = d.ctxs := rfl
@[simp] theorem Dev.setReg_aliases (d : Dev) (o : Nat) (v : Word) : (d.setReg o v).aliases = d.aliases := rfl
@[simp] theorem Dev.setReg_move (d : Dev) (o : Nat) (v : Word) : (d.setReg o v).move = d.move := rfl
@[simp] theorem Dev.setReg_host (d : Dev) (o : Nat) (v : Word) : (d.setReg o v).host = d.host := rfl
@[simp] theorem Dev.setReg_heals (d : Dev) (o : Nat) (v : Word) : (d.setReg o v).heals = d.heals := rfl
@[simp] theorem Dev.setReg_heldBy (d : Dev) (o : Nat) (v : Word) : (d.setReg o v).heldBy = d.heldBy := rfl
@[simp] theorem Dev.setReg_snaps (d : Dev) (o : Nat) (v : Word) : (d.setReg o v).snaps = d.snaps := rfl
@[simp] theorem Dev.setReg_oldWays (d : Dev) (o : Nat) (v : Word) : (d.setReg o v).oldWays = d.oldWays := rfl
@[simp] theorem Dev.setReg_hostTrk (d : Dev) (o : Nat) (v : Word) : (d.setReg o v).hostTrk = d.hostTrk := rfl
@[simp] theorem Dev.setReg_hostQ (d : Dev) (o : Nat) (v : Word) : (d.setReg o v).hostQ = d.hostQ := rfl
@[simp] theorem Dev.setReg_dirty (d : Dev) (o : Nat) (v : Word) : (d.setReg o v).dirty = d.dirty := rfl
@[simp] theorem Dev.setReg_ldgStopped (d : Dev) (o : Nat) (v : Word) : (d.setReg o v).ldgStopped = d.ldgStopped := rfl
@[simp] theorem Dev.setReg_ldgQ (d : Dev) (o : Nat) (v : Word) : (d.setReg o v).ldgQ = d.ldgQ := rfl
@[simp] theorem Dev.setReg_ldgRecent (d : Dev) (o : Nat) (v : Word) : (d.setReg o v).ldgRecent = d.ldgRecent := rfl
@[simp] theorem Dev.setReg_pwr (d : Dev) (o : Nat) (v : Word) : (d.setReg o v).pwr = d.pwr := rfl
@[simp] theorem Dev.setReg_twin (d : Dev) (o : Nat) (v : Word) : (d.setReg o v).twin = d.twin := rfl
@[simp] theorem Dev.setReg_ltn (d : Dev) (o : Nat) (v : Word) : (d.setReg o v).ltn = d.ltn := rfl
@[simp] theorem Dev.setReg_bist (d : Dev) (o : Nat) (v : Word) : (d.setReg o v).bist = d.bist := rfl
@[simp] theorem Dev.setReg_scrub (d : Dev) (o : Nat) (v : Word) : (d.setReg o v).scrub = d.scrub := rfl
@[simp] theorem Dev.setReg_scrubPass (d : Dev) (o : Nat) (v : Word) : (d.setReg o v).scrubPass = d.scrubPass := rfl
@[simp] theorem Dev.setReg_rowsUsed (d : Dev) (o : Nat) (v : Word) : (d.setReg o v).rowsUsed = d.rowsUsed := rfl
@[simp] theorem Dev.setReg_episodes (d : Dev) (o : Nat) (v : Word) : (d.setReg o v).episodes = d.episodes := rfl
@[simp] theorem Dev.setReg_vfEnable (d : Dev) (o : Nat) (v : Word) : (d.setReg o v).vfEnable = d.vfEnable := rfl
@[simp] theorem Dev.setReg_numVfs (d : Dev) (o : Nat) (v : Word) : (d.setReg o v).numVfs = d.numVfs := rfl
@[simp] theorem Dev.setReg_hostAns (d : Dev) (o : Nat) (v : Word) : (d.setReg o v).hostAns = d.hostAns := rfl
/-! `Dev.setRf` -/
@[simp] theorem Dev.setRf_part (d : Dev) (o hi lo x : Nat) : (d.setRf o hi lo x).part = d.part := rfl
@[simp] theorem Dev.setRf_free (d : Dev) (o hi lo x : Nat) : (d.setRf o hi lo x).free = d.free := rfl
@[simp] theorem Dev.setRf_clusters (d : Dev) (o hi lo x : Nat) : (d.setRf o hi lo x).clusters = d.clusters := rfl
@[simp] theorem Dev.setRf_loc (d : Dev) (o hi lo x : Nat) : (d.setRf o hi lo x).loc = d.loc := rfl
@[simp] theorem Dev.setRf_commons (d : Dev) (o hi lo x : Nat) : (d.setRf o hi lo x).commons = d.commons := rfl
@[simp] theorem Dev.setRf_coh (d : Dev) (o hi lo x : Nat) : (d.setRf o hi lo x).coh = d.coh := rfl
@[simp] theorem Dev.setRf_chans (d : Dev) (o hi lo x : Nat) : (d.setRf o hi lo x).chans = d.chans := rfl
@[simp] theorem Dev.setRf_hostWr (d : Dev) (o hi lo x : Nat) : (d.setRf o hi lo x).hostWr = d.hostWr := rfl
@[simp] theorem Dev.setRf_hostCache (d : Dev) (o hi lo x : Nat) : (d.setRf o hi lo x).hostCache = d.hostCache := rfl
@[simp] theorem Dev.setRf_ats (d : Dev) (o hi lo x : Nat) : (d.setRf o hi lo x).ats = d.ats := rfl
@[simp] theorem Dev.setRf_links (d : Dev) (o hi lo x : Nat) : (d.setRf o hi lo x).links = d.links := rfl
@[simp] theorem Dev.setRf_dur (d : Dev) (o hi lo x : Nat) : (d.setRf o hi lo x).dur = d.dur := rfl
@[simp] theorem Dev.setRf_nextCid (d : Dev) (o hi lo x : Nat) : (d.setRf o hi lo x).nextCid = d.nextCid := rfl
@[simp] theorem Dev.setRf_errs (d : Dev) (o hi lo x : Nat) : (d.setRf o hi lo x).errs = d.errs := rfl
@[simp] theorem Dev.setRf_fns (d : Dev) (o hi lo x : Nat) : (d.setRf o hi lo x).fns = d.fns := rfl
@[simp] theorem Dev.setRf_wins (d : Dev) (o hi lo x : Nat) : (d.setRf o hi lo x).wins = d.wins := rfl
@[simp] theorem Dev.setRf_vecs (d : Dev) (o hi lo x : Nat) : (d.setRf o hi lo x).vecs = d.vecs := rfl
@[simp] theorem Dev.setRf_recs (d : Dev) (o hi lo x : Nat) : (d.setRf o hi lo x).recs = d.recs := rfl
@[simp] theorem Dev.setRf_ctxs (d : Dev) (o hi lo x : Nat) : (d.setRf o hi lo x).ctxs = d.ctxs := rfl
@[simp] theorem Dev.setRf_aliases (d : Dev) (o hi lo x : Nat) : (d.setRf o hi lo x).aliases = d.aliases := rfl
@[simp] theorem Dev.setRf_move (d : Dev) (o hi lo x : Nat) : (d.setRf o hi lo x).move = d.move := rfl
@[simp] theorem Dev.setRf_host (d : Dev) (o hi lo x : Nat) : (d.setRf o hi lo x).host = d.host := rfl
@[simp] theorem Dev.setRf_heals (d : Dev) (o hi lo x : Nat) : (d.setRf o hi lo x).heals = d.heals := rfl
@[simp] theorem Dev.setRf_heldBy (d : Dev) (o hi lo x : Nat) : (d.setRf o hi lo x).heldBy = d.heldBy := rfl
@[simp] theorem Dev.setRf_snaps (d : Dev) (o hi lo x : Nat) : (d.setRf o hi lo x).snaps = d.snaps := rfl
@[simp] theorem Dev.setRf_oldWays (d : Dev) (o hi lo x : Nat) : (d.setRf o hi lo x).oldWays = d.oldWays := rfl
@[simp] theorem Dev.setRf_hostTrk (d : Dev) (o hi lo x : Nat) : (d.setRf o hi lo x).hostTrk = d.hostTrk := rfl
@[simp] theorem Dev.setRf_hostQ (d : Dev) (o hi lo x : Nat) : (d.setRf o hi lo x).hostQ = d.hostQ := rfl
@[simp] theorem Dev.setRf_dirty (d : Dev) (o hi lo x : Nat) : (d.setRf o hi lo x).dirty = d.dirty := rfl
@[simp] theorem Dev.setRf_ldgStopped (d : Dev) (o hi lo x : Nat) : (d.setRf o hi lo x).ldgStopped = d.ldgStopped := rfl
@[simp] theorem Dev.setRf_ldgQ (d : Dev) (o hi lo x : Nat) : (d.setRf o hi lo x).ldgQ = d.ldgQ := rfl
@[simp] theorem Dev.setRf_ldgRecent (d : Dev) (o hi lo x : Nat) : (d.setRf o hi lo x).ldgRecent = d.ldgRecent := rfl
@[simp] theorem Dev.setRf_pwr (d : Dev) (o hi lo x : Nat) : (d.setRf o hi lo x).pwr = d.pwr := rfl
@[simp] theorem Dev.setRf_twin (d : Dev) (o hi lo x : Nat) : (d.setRf o hi lo x).twin = d.twin := rfl
@[simp] theorem Dev.setRf_ltn (d : Dev) (o hi lo x : Nat) : (d.setRf o hi lo x).ltn = d.ltn := rfl
@[simp] theorem Dev.setRf_bist (d : Dev) (o hi lo x : Nat) : (d.setRf o hi lo x).bist = d.bist := rfl
@[simp] theorem Dev.setRf_scrub (d : Dev) (o hi lo x : Nat) : (d.setRf o hi lo x).scrub = d.scrub := rfl
@[simp] theorem Dev.setRf_scrubPass (d : Dev) (o hi lo x : Nat) : (d.setRf o hi lo x).scrubPass = d.scrubPass := rfl
@[simp] theorem Dev.setRf_rowsUsed (d : Dev) (o hi lo x : Nat) : (d.setRf o hi lo x).rowsUsed = d.rowsUsed := rfl
@[simp] theorem Dev.setRf_episodes (d : Dev) (o hi lo x : Nat) : (d.setRf o hi lo x).episodes = d.episodes := rfl
@[simp] theorem Dev.setRf_vfEnable (d : Dev) (o hi lo x : Nat) : (d.setRf o hi lo x).vfEnable = d.vfEnable := rfl
@[simp] theorem Dev.setRf_numVfs (d : Dev) (o hi lo x : Nat) : (d.setRf o hi lo x).numVfs = d.numVfs := rfl
@[simp] theorem Dev.setRf_hostAns (d : Dev) (o hi lo x : Nat) : (d.setRf o hi lo x).hostAns = d.hostAns := rfl
/-! `Dev.setRb` -/
@[simp] theorem Dev.setRb_part (d : Dev) (o k : Nat) (b : Bool) : (d.setRb o k b).part = d.part := rfl
@[simp] theorem Dev.setRb_free (d : Dev) (o k : Nat) (b : Bool) : (d.setRb o k b).free = d.free := rfl
@[simp] theorem Dev.setRb_clusters (d : Dev) (o k : Nat) (b : Bool) : (d.setRb o k b).clusters = d.clusters := rfl
@[simp] theorem Dev.setRb_loc (d : Dev) (o k : Nat) (b : Bool) : (d.setRb o k b).loc = d.loc := rfl
@[simp] theorem Dev.setRb_commons (d : Dev) (o k : Nat) (b : Bool) : (d.setRb o k b).commons = d.commons := rfl
@[simp] theorem Dev.setRb_coh (d : Dev) (o k : Nat) (b : Bool) : (d.setRb o k b).coh = d.coh := rfl
@[simp] theorem Dev.setRb_chans (d : Dev) (o k : Nat) (b : Bool) : (d.setRb o k b).chans = d.chans := rfl
@[simp] theorem Dev.setRb_hostWr (d : Dev) (o k : Nat) (b : Bool) : (d.setRb o k b).hostWr = d.hostWr := rfl
@[simp] theorem Dev.setRb_hostCache (d : Dev) (o k : Nat) (b : Bool) : (d.setRb o k b).hostCache = d.hostCache := rfl
@[simp] theorem Dev.setRb_ats (d : Dev) (o k : Nat) (b : Bool) : (d.setRb o k b).ats = d.ats := rfl
@[simp] theorem Dev.setRb_links (d : Dev) (o k : Nat) (b : Bool) : (d.setRb o k b).links = d.links := rfl
@[simp] theorem Dev.setRb_dur (d : Dev) (o k : Nat) (b : Bool) : (d.setRb o k b).dur = d.dur := rfl
@[simp] theorem Dev.setRb_nextCid (d : Dev) (o k : Nat) (b : Bool) : (d.setRb o k b).nextCid = d.nextCid := rfl
@[simp] theorem Dev.setRb_errs (d : Dev) (o k : Nat) (b : Bool) : (d.setRb o k b).errs = d.errs := rfl
@[simp] theorem Dev.setRb_fns (d : Dev) (o k : Nat) (b : Bool) : (d.setRb o k b).fns = d.fns := rfl
@[simp] theorem Dev.setRb_wins (d : Dev) (o k : Nat) (b : Bool) : (d.setRb o k b).wins = d.wins := rfl
@[simp] theorem Dev.setRb_vecs (d : Dev) (o k : Nat) (b : Bool) : (d.setRb o k b).vecs = d.vecs := rfl
@[simp] theorem Dev.setRb_recs (d : Dev) (o k : Nat) (b : Bool) : (d.setRb o k b).recs = d.recs := rfl
@[simp] theorem Dev.setRb_ctxs (d : Dev) (o k : Nat) (b : Bool) : (d.setRb o k b).ctxs = d.ctxs := rfl
@[simp] theorem Dev.setRb_aliases (d : Dev) (o k : Nat) (b : Bool) : (d.setRb o k b).aliases = d.aliases := rfl
@[simp] theorem Dev.setRb_move (d : Dev) (o k : Nat) (b : Bool) : (d.setRb o k b).move = d.move := rfl
@[simp] theorem Dev.setRb_host (d : Dev) (o k : Nat) (b : Bool) : (d.setRb o k b).host = d.host := rfl
@[simp] theorem Dev.setRb_heals (d : Dev) (o k : Nat) (b : Bool) : (d.setRb o k b).heals = d.heals := rfl
@[simp] theorem Dev.setRb_heldBy (d : Dev) (o k : Nat) (b : Bool) : (d.setRb o k b).heldBy = d.heldBy := rfl
@[simp] theorem Dev.setRb_snaps (d : Dev) (o k : Nat) (b : Bool) : (d.setRb o k b).snaps = d.snaps := rfl
@[simp] theorem Dev.setRb_oldWays (d : Dev) (o k : Nat) (b : Bool) : (d.setRb o k b).oldWays = d.oldWays := rfl
@[simp] theorem Dev.setRb_hostTrk (d : Dev) (o k : Nat) (b : Bool) : (d.setRb o k b).hostTrk = d.hostTrk := rfl
@[simp] theorem Dev.setRb_hostQ (d : Dev) (o k : Nat) (b : Bool) : (d.setRb o k b).hostQ = d.hostQ := rfl
@[simp] theorem Dev.setRb_dirty (d : Dev) (o k : Nat) (b : Bool) : (d.setRb o k b).dirty = d.dirty := rfl
@[simp] theorem Dev.setRb_ldgStopped (d : Dev) (o k : Nat) (b : Bool) : (d.setRb o k b).ldgStopped = d.ldgStopped := rfl
@[simp] theorem Dev.setRb_ldgQ (d : Dev) (o k : Nat) (b : Bool) : (d.setRb o k b).ldgQ = d.ldgQ := rfl
@[simp] theorem Dev.setRb_ldgRecent (d : Dev) (o k : Nat) (b : Bool) : (d.setRb o k b).ldgRecent = d.ldgRecent := rfl
@[simp] theorem Dev.setRb_pwr (d : Dev) (o k : Nat) (b : Bool) : (d.setRb o k b).pwr = d.pwr := rfl
@[simp] theorem Dev.setRb_twin (d : Dev) (o k : Nat) (b : Bool) : (d.setRb o k b).twin = d.twin := rfl
@[simp] theorem Dev.setRb_ltn (d : Dev) (o k : Nat) (b : Bool) : (d.setRb o k b).ltn = d.ltn := rfl
@[simp] theorem Dev.setRb_bist (d : Dev) (o k : Nat) (b : Bool) : (d.setRb o k b).bist = d.bist := rfl
@[simp] theorem Dev.setRb_scrub (d : Dev) (o k : Nat) (b : Bool) : (d.setRb o k b).scrub = d.scrub := rfl
@[simp] theorem Dev.setRb_scrubPass (d : Dev) (o k : Nat) (b : Bool) : (d.setRb o k b).scrubPass = d.scrubPass := rfl
@[simp] theorem Dev.setRb_rowsUsed (d : Dev) (o k : Nat) (b : Bool) : (d.setRb o k b).rowsUsed = d.rowsUsed := rfl
@[simp] theorem Dev.setRb_episodes (d : Dev) (o k : Nat) (b : Bool) : (d.setRb o k b).episodes = d.episodes := rfl
@[simp] theorem Dev.setRb_vfEnable (d : Dev) (o k : Nat) (b : Bool) : (d.setRb o k b).vfEnable = d.vfEnable := rfl
@[simp] theorem Dev.setRb_numVfs (d : Dev) (o k : Nat) (b : Bool) : (d.setRb o k b).numVfs = d.numVfs := rfl
@[simp] theorem Dev.setRb_hostAns (d : Dev) (o k : Nat) (b : Bool) : (d.setRb o k b).hostAns = d.hostAns := rfl
/-! `Dev.setCl` -/
@[simp] theorem Dev.setCl_part (d : Dev) (n : Nat) (c : Cluster) : (d.setCl n c).part = d.part := rfl
@[simp] theorem Dev.setCl_free (d : Dev) (n : Nat) (c : Cluster) : (d.setCl n c).free = d.free := rfl
@[simp] theorem Dev.setCl_regs (d : Dev) (n : Nat) (c : Cluster) : (d.setCl n c).regs = d.regs := rfl
@[simp] theorem Dev.setCl_loc (d : Dev) (n : Nat) (c : Cluster) : (d.setCl n c).loc = d.loc := rfl
@[simp] theorem Dev.setCl_commons (d : Dev) (n : Nat) (c : Cluster) : (d.setCl n c).commons = d.commons := rfl
@[simp] theorem Dev.setCl_coh (d : Dev) (n : Nat) (c : Cluster) : (d.setCl n c).coh = d.coh := rfl
@[simp] theorem Dev.setCl_chans (d : Dev) (n : Nat) (c : Cluster) : (d.setCl n c).chans = d.chans := rfl
@[simp] theorem Dev.setCl_hostWr (d : Dev) (n : Nat) (c : Cluster) : (d.setCl n c).hostWr = d.hostWr := rfl
@[simp] theorem Dev.setCl_hostCache (d : Dev) (n : Nat) (c : Cluster) : (d.setCl n c).hostCache = d.hostCache := rfl
@[simp] theorem Dev.setCl_ats (d : Dev) (n : Nat) (c : Cluster) : (d.setCl n c).ats = d.ats := rfl
@[simp] theorem Dev.setCl_links (d : Dev) (n : Nat) (c : Cluster) : (d.setCl n c).links = d.links := rfl
@[simp] theorem Dev.setCl_dur (d : Dev) (n : Nat) (c : Cluster) : (d.setCl n c).dur = d.dur := rfl
@[simp] theorem Dev.setCl_nextCid (d : Dev) (n : Nat) (c : Cluster) : (d.setCl n c).nextCid = d.nextCid := rfl
@[simp] theorem Dev.setCl_errs (d : Dev) (n : Nat) (c : Cluster) : (d.setCl n c).errs = d.errs := rfl
@[simp] theorem Dev.setCl_fns (d : Dev) (n : Nat) (c : Cluster) : (d.setCl n c).fns = d.fns := rfl
@[simp] theorem Dev.setCl_wins (d : Dev) (n : Nat) (c : Cluster) : (d.setCl n c).wins = d.wins := rfl
@[simp] theorem Dev.setCl_vecs (d : Dev) (n : Nat) (c : Cluster) : (d.setCl n c).vecs = d.vecs := rfl
@[simp] theorem Dev.setCl_recs (d : Dev) (n : Nat) (c : Cluster) : (d.setCl n c).recs = d.recs := rfl
@[simp] theorem Dev.setCl_ctxs (d : Dev) (n : Nat) (c : Cluster) : (d.setCl n c).ctxs = d.ctxs := rfl
@[simp] theorem Dev.setCl_aliases (d : Dev) (n : Nat) (c : Cluster) : (d.setCl n c).aliases = d.aliases := rfl
@[simp] theorem Dev.setCl_move (d : Dev) (n : Nat) (c : Cluster) : (d.setCl n c).move = d.move := rfl
@[simp] theorem Dev.setCl_host (d : Dev) (n : Nat) (c : Cluster) : (d.setCl n c).host = d.host := rfl
@[simp] theorem Dev.setCl_heals (d : Dev) (n : Nat) (c : Cluster) : (d.setCl n c).heals = d.heals := rfl
@[simp] theorem Dev.setCl_heldBy (d : Dev) (n : Nat) (c : Cluster) : (d.setCl n c).heldBy = d.heldBy := rfl
@[simp] theorem Dev.setCl_snaps (d : Dev) (n : Nat) (c : Cluster) : (d.setCl n c).snaps = d.snaps := rfl
@[simp] theorem Dev.setCl_oldWays (d : Dev) (n : Nat) (c : Cluster) : (d.setCl n c).oldWays = d.oldWays := rfl
@[simp] theorem Dev.setCl_hostTrk (d : Dev) (n : Nat) (c : Cluster) : (d.setCl n c).hostTrk = d.hostTrk := rfl
@[simp] theorem Dev.setCl_hostQ (d : Dev) (n : Nat) (c : Cluster) : (d.setCl n c).hostQ = d.hostQ := rfl
@[simp] theorem Dev.setCl_dirty (d : Dev) (n : Nat) (c : Cluster) : (d.setCl n c).dirty = d.dirty := rfl
@[simp] theorem Dev.setCl_ldgStopped (d : Dev) (n : Nat) (c : Cluster) : (d.setCl n c).ldgStopped = d.ldgStopped := rfl
@[simp] theorem Dev.setCl_ldgQ (d : Dev) (n : Nat) (c : Cluster) : (d.setCl n c).ldgQ = d.ldgQ := rfl
@[simp] theorem Dev.setCl_ldgRecent (d : Dev) (n : Nat) (c : Cluster) : (d.setCl n c).ldgRecent = d.ldgRecent := rfl
@[simp] theorem Dev.setCl_pwr (d : Dev) (n : Nat) (c : Cluster) : (d.setCl n c).pwr = d.pwr := rfl
@[simp] theorem Dev.setCl_twin (d : Dev) (n : Nat) (c : Cluster) : (d.setCl n c).twin = d.twin := rfl
@[simp] theorem Dev.setCl_ltn (d : Dev) (n : Nat) (c : Cluster) : (d.setCl n c).ltn = d.ltn := rfl
@[simp] theorem Dev.setCl_bist (d : Dev) (n : Nat) (c : Cluster) : (d.setCl n c).bist = d.bist := rfl
@[simp] theorem Dev.setCl_scrub (d : Dev) (n : Nat) (c : Cluster) : (d.setCl n c).scrub = d.scrub := rfl
@[simp] theorem Dev.setCl_scrubPass (d : Dev) (n : Nat) (c : Cluster) : (d.setCl n c).scrubPass = d.scrubPass := rfl
@[simp] theorem Dev.setCl_rowsUsed (d : Dev) (n : Nat) (c : Cluster) : (d.setCl n c).rowsUsed = d.rowsUsed := rfl
@[simp] theorem Dev.setCl_episodes (d : Dev) (n : Nat) (c : Cluster) : (d.setCl n c).episodes = d.episodes := rfl
@[simp] theorem Dev.setCl_vfEnable (d : Dev) (n : Nat) (c : Cluster) : (d.setCl n c).vfEnable = d.vfEnable := rfl
@[simp] theorem Dev.setCl_numVfs (d : Dev) (n : Nat) (c : Cluster) : (d.setCl n c).numVfs = d.numVfs := rfl
@[simp] theorem Dev.setCl_hostAns (d : Dev) (n : Nat) (c : Cluster) : (d.setCl n c).hostAns = d.hostAns := rfl
/-! `Dev.onCl` -/
@[simp] theorem Dev.onCl_part (d : Dev) (n : Nat) (f : Cluster → Cluster) : (d.onCl n f).part = d.part := rfl
@[simp] theorem Dev.onCl_free (d : Dev) (n : Nat) (f : Cluster → Cluster) : (d.onCl n f).free = d.free := rfl
@[simp] theorem Dev.onCl_regs (d : Dev) (n : Nat) (f : Cluster → Cluster) : (d.onCl n f).regs = d.regs := rfl
@[simp] theorem Dev.onCl_loc (d : Dev) (n : Nat) (f : Cluster → Cluster) : (d.onCl n f).loc = d.loc := rfl
@[simp] theorem Dev.onCl_commons (d : Dev) (n : Nat) (f : Cluster → Cluster) : (d.onCl n f).commons = d.commons := rfl
@[simp] theorem Dev.onCl_coh (d : Dev) (n : Nat) (f : Cluster → Cluster) : (d.onCl n f).coh = d.coh := rfl
@[simp] theorem Dev.onCl_chans (d : Dev) (n : Nat) (f : Cluster → Cluster) : (d.onCl n f).chans = d.chans := rfl
@[simp] theorem Dev.onCl_hostWr (d : Dev) (n : Nat) (f : Cluster → Cluster) : (d.onCl n f).hostWr = d.hostWr := rfl
@[simp] theorem Dev.onCl_hostCache (d : Dev) (n : Nat) (f : Cluster → Cluster) : (d.onCl n f).hostCache = d.hostCache := rfl
@[simp] theorem Dev.onCl_ats (d : Dev) (n : Nat) (f : Cluster → Cluster) : (d.onCl n f).ats = d.ats := rfl
@[simp] theorem Dev.onCl_links (d : Dev) (n : Nat) (f : Cluster → Cluster) : (d.onCl n f).links = d.links := rfl
@[simp] theorem Dev.onCl_dur (d : Dev) (n : Nat) (f : Cluster → Cluster) : (d.onCl n f).dur = d.dur := rfl
@[simp] theorem Dev.onCl_nextCid (d : Dev) (n : Nat) (f : Cluster → Cluster) : (d.onCl n f).nextCid = d.nextCid := rfl
@[simp] theorem Dev.onCl_errs (d : Dev) (n : Nat) (f : Cluster → Cluster) : (d.onCl n f).errs = d.errs := rfl
@[simp] theorem Dev.onCl_fns (d : Dev) (n : Nat) (f : Cluster → Cluster) : (d.onCl n f).fns = d.fns := rfl
@[simp] theorem Dev.onCl_wins (d : Dev) (n : Nat) (f : Cluster → Cluster) : (d.onCl n f).wins = d.wins := rfl
@[simp] theorem Dev.onCl_vecs (d : Dev) (n : Nat) (f : Cluster → Cluster) : (d.onCl n f).vecs = d.vecs := rfl
@[simp] theorem Dev.onCl_recs (d : Dev) (n : Nat) (f : Cluster → Cluster) : (d.onCl n f).recs = d.recs := rfl
@[simp] theorem Dev.onCl_ctxs (d : Dev) (n : Nat) (f : Cluster → Cluster) : (d.onCl n f).ctxs = d.ctxs := rfl
@[simp] theorem Dev.onCl_aliases (d : Dev) (n : Nat) (f : Cluster → Cluster) : (d.onCl n f).aliases = d.aliases := rfl
@[simp] theorem Dev.onCl_move (d : Dev) (n : Nat) (f : Cluster → Cluster) : (d.onCl n f).move = d.move := rfl
@[simp] theorem Dev.onCl_host (d : Dev) (n : Nat) (f : Cluster → Cluster) : (d.onCl n f).host = d.host := rfl
@[simp] theorem Dev.onCl_heals (d : Dev) (n : Nat) (f : Cluster → Cluster) : (d.onCl n f).heals = d.heals := rfl
@[simp] theorem Dev.onCl_heldBy (d : Dev) (n : Nat) (f : Cluster → Cluster) : (d.onCl n f).heldBy = d.heldBy := rfl
@[simp] theorem Dev.onCl_snaps (d : Dev) (n : Nat) (f : Cluster → Cluster) : (d.onCl n f).snaps = d.snaps := rfl
@[simp] theorem Dev.onCl_oldWays (d : Dev) (n : Nat) (f : Cluster → Cluster) : (d.onCl n f).oldWays = d.oldWays := rfl
@[simp] theorem Dev.onCl_hostTrk (d : Dev) (n : Nat) (f : Cluster → Cluster) : (d.onCl n f).hostTrk = d.hostTrk := rfl
@[simp] theorem Dev.onCl_hostQ (d : Dev) (n : Nat) (f : Cluster → Cluster) : (d.onCl n f).hostQ = d.hostQ := rfl
@[simp] theorem Dev.onCl_dirty (d : Dev) (n : Nat) (f : Cluster → Cluster) : (d.onCl n f).dirty = d.dirty := rfl
@[simp] theorem Dev.onCl_ldgStopped (d : Dev) (n : Nat) (f : Cluster → Cluster) : (d.onCl n f).ldgStopped = d.ldgStopped := rfl
@[simp] theorem Dev.onCl_ldgQ (d : Dev) (n : Nat) (f : Cluster → Cluster) : (d.onCl n f).ldgQ = d.ldgQ := rfl
@[simp] theorem Dev.onCl_ldgRecent (d : Dev) (n : Nat) (f : Cluster → Cluster) : (d.onCl n f).ldgRecent = d.ldgRecent := rfl
@[simp] theorem Dev.onCl_pwr (d : Dev) (n : Nat) (f : Cluster → Cluster) : (d.onCl n f).pwr = d.pwr := rfl
@[simp] theorem Dev.onCl_twin (d : Dev) (n : Nat) (f : Cluster → Cluster) : (d.onCl n f).twin = d.twin := rfl
@[simp] theorem Dev.onCl_ltn (d : Dev) (n : Nat) (f : Cluster → Cluster) : (d.onCl n f).ltn = d.ltn := rfl
@[simp] theorem Dev.onCl_bist (d : Dev) (n : Nat) (f : Cluster → Cluster) : (d.onCl n f).bist = d.bist := rfl
@[simp] theorem Dev.onCl_scrub (d : Dev) (n : Nat) (f : Cluster → Cluster) : (d.onCl n f).scrub = d.scrub := rfl
@[simp] theorem Dev.onCl_scrubPass (d : Dev) (n : Nat) (f : Cluster → Cluster) : (d.onCl n f).scrubPass = d.scrubPass := rfl
@[simp] theorem Dev.onCl_rowsUsed (d : Dev) (n : Nat) (f : Cluster → Cluster) : (d.onCl n f).rowsUsed = d.rowsUsed := rfl
@[simp] theorem Dev.onCl_episodes (d : Dev) (n : Nat) (f : Cluster → Cluster) : (d.onCl n f).episodes = d.episodes := rfl
@[simp] theorem Dev.onCl_vfEnable (d : Dev) (n : Nat) (f : Cluster → Cluster) : (d.onCl n f).vfEnable = d.vfEnable := rfl
@[simp] theorem Dev.onCl_numVfs (d : Dev) (n : Nat) (f : Cluster → Cluster) : (d.onCl n f).numVfs = d.numVfs := rfl
@[simp] theorem Dev.onCl_hostAns (d : Dev) (n : Nat) (f : Cluster → Cluster) : (d.onCl n f).hostAns = d.hostAns := rfl
/-! `Dev.onS` -/
@[simp] theorem Dev.onS_part (d : Dev) (n : Nat) (f : SCore → SCore) : (d.onS n f).part = d.part := rfl
@[simp] theorem Dev.onS_free (d : Dev) (n : Nat) (f : SCore → SCore) : (d.onS n f).free = d.free := rfl
@[simp] theorem Dev.onS_regs (d : Dev) (n : Nat) (f : SCore → SCore) : (d.onS n f).regs = d.regs := rfl
@[simp] theorem Dev.onS_loc (d : Dev) (n : Nat) (f : SCore → SCore) : (d.onS n f).loc = d.loc := rfl
@[simp] theorem Dev.onS_commons (d : Dev) (n : Nat) (f : SCore → SCore) : (d.onS n f).commons = d.commons := rfl
@[simp] theorem Dev.onS_coh (d : Dev) (n : Nat) (f : SCore → SCore) : (d.onS n f).coh = d.coh := rfl
@[simp] theorem Dev.onS_chans (d : Dev) (n : Nat) (f : SCore → SCore) : (d.onS n f).chans = d.chans := rfl
@[simp] theorem Dev.onS_hostWr (d : Dev) (n : Nat) (f : SCore → SCore) : (d.onS n f).hostWr = d.hostWr := rfl
@[simp] theorem Dev.onS_hostCache (d : Dev) (n : Nat) (f : SCore → SCore) : (d.onS n f).hostCache = d.hostCache := rfl
@[simp] theorem Dev.onS_ats (d : Dev) (n : Nat) (f : SCore → SCore) : (d.onS n f).ats = d.ats := rfl
@[simp] theorem Dev.onS_links (d : Dev) (n : Nat) (f : SCore → SCore) : (d.onS n f).links = d.links := rfl
@[simp] theorem Dev.onS_dur (d : Dev) (n : Nat) (f : SCore → SCore) : (d.onS n f).dur = d.dur := rfl
@[simp] theorem Dev.onS_nextCid (d : Dev) (n : Nat) (f : SCore → SCore) : (d.onS n f).nextCid = d.nextCid := rfl
@[simp] theorem Dev.onS_errs (d : Dev) (n : Nat) (f : SCore → SCore) : (d.onS n f).errs = d.errs := rfl
@[simp] theorem Dev.onS_fns (d : Dev) (n : Nat) (f : SCore → SCore) : (d.onS n f).fns = d.fns := rfl
@[simp] theorem Dev.onS_wins (d : Dev) (n : Nat) (f : SCore → SCore) : (d.onS n f).wins = d.wins := rfl
@[simp] theorem Dev.onS_vecs (d : Dev) (n : Nat) (f : SCore → SCore) : (d.onS n f).vecs = d.vecs := rfl
@[simp] theorem Dev.onS_recs (d : Dev) (n : Nat) (f : SCore → SCore) : (d.onS n f).recs = d.recs := rfl
@[simp] theorem Dev.onS_ctxs (d : Dev) (n : Nat) (f : SCore → SCore) : (d.onS n f).ctxs = d.ctxs := rfl
@[simp] theorem Dev.onS_aliases (d : Dev) (n : Nat) (f : SCore → SCore) : (d.onS n f).aliases = d.aliases := rfl
@[simp] theorem Dev.onS_move (d : Dev) (n : Nat) (f : SCore → SCore) : (d.onS n f).move = d.move := rfl
@[simp] theorem Dev.onS_host (d : Dev) (n : Nat) (f : SCore → SCore) : (d.onS n f).host = d.host := rfl
@[simp] theorem Dev.onS_heals (d : Dev) (n : Nat) (f : SCore → SCore) : (d.onS n f).heals = d.heals := rfl
@[simp] theorem Dev.onS_heldBy (d : Dev) (n : Nat) (f : SCore → SCore) : (d.onS n f).heldBy = d.heldBy := rfl
@[simp] theorem Dev.onS_snaps (d : Dev) (n : Nat) (f : SCore → SCore) : (d.onS n f).snaps = d.snaps := rfl
@[simp] theorem Dev.onS_oldWays (d : Dev) (n : Nat) (f : SCore → SCore) : (d.onS n f).oldWays = d.oldWays := rfl
@[simp] theorem Dev.onS_hostTrk (d : Dev) (n : Nat) (f : SCore → SCore) : (d.onS n f).hostTrk = d.hostTrk := rfl
@[simp] theorem Dev.onS_hostQ (d : Dev) (n : Nat) (f : SCore → SCore) : (d.onS n f).hostQ = d.hostQ := rfl
@[simp] theorem Dev.onS_dirty (d : Dev) (n : Nat) (f : SCore → SCore) : (d.onS n f).dirty = d.dirty := rfl
@[simp] theorem Dev.onS_ldgStopped (d : Dev) (n : Nat) (f : SCore → SCore) : (d.onS n f).ldgStopped = d.ldgStopped := rfl
@[simp] theorem Dev.onS_ldgQ (d : Dev) (n : Nat) (f : SCore → SCore) : (d.onS n f).ldgQ = d.ldgQ := rfl
@[simp] theorem Dev.onS_ldgRecent (d : Dev) (n : Nat) (f : SCore → SCore) : (d.onS n f).ldgRecent = d.ldgRecent := rfl
@[simp] theorem Dev.onS_pwr (d : Dev) (n : Nat) (f : SCore → SCore) : (d.onS n f).pwr = d.pwr := rfl
@[simp] theorem Dev.onS_twin (d : Dev) (n : Nat) (f : SCore → SCore) : (d.onS n f).twin = d.twin := rfl
@[simp] theorem Dev.onS_ltn (d : Dev) (n : Nat) (f : SCore → SCore) : (d.onS n f).ltn = d.ltn := rfl
@[simp] theorem Dev.onS_bist (d : Dev) (n : Nat) (f : SCore → SCore) : (d.onS n f).bist = d.bist := rfl
@[simp] theorem Dev.onS_scrub (d : Dev) (n : Nat) (f : SCore → SCore) : (d.onS n f).scrub = d.scrub := rfl
@[simp] theorem Dev.onS_scrubPass (d : Dev) (n : Nat) (f : SCore → SCore) : (d.onS n f).scrubPass = d.scrubPass := rfl
@[simp] theorem Dev.onS_rowsUsed (d : Dev) (n : Nat) (f : SCore → SCore) : (d.onS n f).rowsUsed = d.rowsUsed := rfl
@[simp] theorem Dev.onS_episodes (d : Dev) (n : Nat) (f : SCore → SCore) : (d.onS n f).episodes = d.episodes := rfl
@[simp] theorem Dev.onS_vfEnable (d : Dev) (n : Nat) (f : SCore → SCore) : (d.onS n f).vfEnable = d.vfEnable := rfl
@[simp] theorem Dev.onS_numVfs (d : Dev) (n : Nat) (f : SCore → SCore) : (d.onS n f).numVfs = d.numVfs := rfl
@[simp] theorem Dev.onS_hostAns (d : Dev) (n : Nat) (f : SCore → SCore) : (d.onS n f).hostAns = d.hostAns := rfl
/-! `Dev.setFn` -/
@[simp] theorem Dev.setFn_part (d : Dev) (f : Nat) (x : Fn) : (d.setFn f x).part = d.part := rfl
@[simp] theorem Dev.setFn_free (d : Dev) (f : Nat) (x : Fn) : (d.setFn f x).free = d.free := rfl
@[simp] theorem Dev.setFn_regs (d : Dev) (f : Nat) (x : Fn) : (d.setFn f x).regs = d.regs := rfl
@[simp] theorem Dev.setFn_clusters (d : Dev) (f : Nat) (x : Fn) : (d.setFn f x).clusters = d.clusters := rfl
@[simp] theorem Dev.setFn_loc (d : Dev) (f : Nat) (x : Fn) : (d.setFn f x).loc = d.loc := rfl
@[simp] theorem Dev.setFn_commons (d : Dev) (f : Nat) (x : Fn) : (d.setFn f x).commons = d.commons := rfl
@[simp] theorem Dev.setFn_coh (d : Dev) (f : Nat) (x : Fn) : (d.setFn f x).coh = d.coh := rfl
@[simp] theorem Dev.setFn_chans (d : Dev) (f : Nat) (x : Fn) : (d.setFn f x).chans = d.chans := rfl
@[simp] theorem Dev.setFn_hostWr (d : Dev) (f : Nat) (x : Fn) : (d.setFn f x).hostWr = d.hostWr := rfl
@[simp] theorem Dev.setFn_hostCache (d : Dev) (f : Nat) (x : Fn) : (d.setFn f x).hostCache = d.hostCache := rfl
@[simp] theorem Dev.setFn_ats (d : Dev) (f : Nat) (x : Fn) : (d.setFn f x).ats = d.ats := rfl
@[simp] theorem Dev.setFn_links (d : Dev) (f : Nat) (x : Fn) : (d.setFn f x).links = d.links := rfl
@[simp] theorem Dev.setFn_dur (d : Dev) (f : Nat) (x : Fn) : (d.setFn f x).dur = d.dur := rfl
@[simp] theorem Dev.setFn_nextCid (d : Dev) (f : Nat) (x : Fn) : (d.setFn f x).nextCid = d.nextCid := rfl
@[simp] theorem Dev.setFn_errs (d : Dev) (f : Nat) (x : Fn) : (d.setFn f x).errs = d.errs := rfl
@[simp] theorem Dev.setFn_wins (d : Dev) (f : Nat) (x : Fn) : (d.setFn f x).wins = d.wins := rfl
@[simp] theorem Dev.setFn_vecs (d : Dev) (f : Nat) (x : Fn) : (d.setFn f x).vecs = d.vecs := rfl
@[simp] theorem Dev.setFn_recs (d : Dev) (f : Nat) (x : Fn) : (d.setFn f x).recs = d.recs := rfl
@[simp] theorem Dev.setFn_ctxs (d : Dev) (f : Nat) (x : Fn) : (d.setFn f x).ctxs = d.ctxs := rfl
@[simp] theorem Dev.setFn_aliases (d : Dev) (f : Nat) (x : Fn) : (d.setFn f x).aliases = d.aliases := rfl
@[simp] theorem Dev.setFn_move (d : Dev) (f : Nat) (x : Fn) : (d.setFn f x).move = d.move := rfl
@[simp] theorem Dev.setFn_host (d : Dev) (f : Nat) (x : Fn) : (d.setFn f x).host = d.host := rfl
@[simp] theorem Dev.setFn_heals (d : Dev) (f : Nat) (x : Fn) : (d.setFn f x).heals = d.heals := rfl
@[simp] theorem Dev.setFn_heldBy (d : Dev) (f : Nat) (x : Fn) : (d.setFn f x).heldBy = d.heldBy := rfl
@[simp] theorem Dev.setFn_snaps (d : Dev) (f : Nat) (x : Fn) : (d.setFn f x).snaps = d.snaps := rfl
@[simp] theorem Dev.setFn_oldWays (d : Dev) (f : Nat) (x : Fn) : (d.setFn f x).oldWays = d.oldWays := rfl
@[simp] theorem Dev.setFn_hostTrk (d : Dev) (f : Nat) (x : Fn) : (d.setFn f x).hostTrk = d.hostTrk := rfl
@[simp] theorem Dev.setFn_hostQ (d : Dev) (f : Nat) (x : Fn) : (d.setFn f x).hostQ = d.hostQ := rfl
@[simp] theorem Dev.setFn_dirty (d : Dev) (f : Nat) (x : Fn) : (d.setFn f x).dirty = d.dirty := rfl
@[simp] theorem Dev.setFn_ldgStopped (d : Dev) (f : Nat) (x : Fn) : (d.setFn f x).ldgStopped = d.ldgStopped := rfl
@[simp] theorem Dev.setFn_ldgQ (d : Dev) (f : Nat) (x : Fn) : (d.setFn f x).ldgQ = d.ldgQ := rfl
@[simp] theorem Dev.setFn_ldgRecent (d : Dev) (f : Nat) (x : Fn) : (d.setFn f x).ldgRecent = d.ldgRecent := rfl
@[simp] theorem Dev.setFn_pwr (d : Dev) (f : Nat) (x : Fn) : (d.setFn f x).pwr = d.pwr := rfl
@[simp] theorem Dev.setFn_twin (d : Dev) (f : Nat) (x : Fn) : (d.setFn f x).twin = d.twin := rfl
@[simp] theorem Dev.setFn_ltn (d : Dev) (f : Nat) (x : Fn) : (d.setFn f x).ltn = d.ltn := rfl
@[simp] theorem Dev.setFn_bist (d : Dev) (f : Nat) (x : Fn) : (d.setFn f x).bist = d.bist := rfl
@[simp] theorem Dev.setFn_scrub (d : Dev) (f : Nat) (x : Fn) : (d.setFn f x).scrub = d.scrub := rfl
@[simp] theorem Dev.setFn_scrubPass (d : Dev) (f : Nat) (x : Fn) : (d.setFn f x).scrubPass = d.scrubPass := rfl
@[simp] theorem Dev.setFn_rowsUsed (d : Dev) (f : Nat) (x : Fn) : (d.setFn f x).rowsUsed = d.rowsUsed := rfl
@[simp] theorem Dev.setFn_episodes (d : Dev) (f : Nat) (x : Fn) : (d.setFn f x).episodes = d.episodes := rfl
@[simp] theorem Dev.setFn_vfEnable (d : Dev) (f : Nat) (x : Fn) : (d.setFn f x).vfEnable = d.vfEnable := rfl
@[simp] theorem Dev.setFn_numVfs (d : Dev) (f : Nat) (x : Fn) : (d.setFn f x).numVfs = d.numVfs := rfl
@[simp] theorem Dev.setFn_hostAns (d : Dev) (f : Nat) (x : Fn) : (d.setFn f x).hostAns = d.hostAns := rfl
/-! `Dev.onErrs` -/
@[simp] theorem Dev.onErrs_part (d : Dev) (f : Errs → Errs) : (d.onErrs f).part = d.part := rfl
@[simp] theorem Dev.onErrs_free (d : Dev) (f : Errs → Errs) : (d.onErrs f).free = d.free := rfl
@[simp] theorem Dev.onErrs_regs (d : Dev) (f : Errs → Errs) : (d.onErrs f).regs = d.regs := rfl
@[simp] theorem Dev.onErrs_clusters (d : Dev) (f : Errs → Errs) : (d.onErrs f).clusters = d.clusters := rfl
@[simp] theorem Dev.onErrs_loc (d : Dev) (f : Errs → Errs) : (d.onErrs f).loc = d.loc := rfl
@[simp] theorem Dev.onErrs_commons (d : Dev) (f : Errs → Errs) : (d.onErrs f).commons = d.commons := rfl
@[simp] theorem Dev.onErrs_coh (d : Dev) (f : Errs → Errs) : (d.onErrs f).coh = d.coh := rfl
@[simp] theorem Dev.onErrs_chans (d : Dev) (f : Errs → Errs) : (d.onErrs f).chans = d.chans := rfl
@[simp] theorem Dev.onErrs_hostWr (d : Dev) (f : Errs → Errs) : (d.onErrs f).hostWr = d.hostWr := rfl
@[simp] theorem Dev.onErrs_hostCache (d : Dev) (f : Errs → Errs) : (d.onErrs f).hostCache = d.hostCache := rfl
@[simp] theorem Dev.onErrs_ats (d : Dev) (f : Errs → Errs) : (d.onErrs f).ats = d.ats := rfl
@[simp] theorem Dev.onErrs_links (d : Dev) (f : Errs → Errs) : (d.onErrs f).links = d.links := rfl
@[simp] theorem Dev.onErrs_dur (d : Dev) (f : Errs → Errs) : (d.onErrs f).dur = d.dur := rfl
@[simp] theorem Dev.onErrs_nextCid (d : Dev) (f : Errs → Errs) : (d.onErrs f).nextCid = d.nextCid := rfl
@[simp] theorem Dev.onErrs_fns (d : Dev) (f : Errs → Errs) : (d.onErrs f).fns = d.fns := rfl
@[simp] theorem Dev.onErrs_wins (d : Dev) (f : Errs → Errs) : (d.onErrs f).wins = d.wins := rfl
@[simp] theorem Dev.onErrs_vecs (d : Dev) (f : Errs → Errs) : (d.onErrs f).vecs = d.vecs := rfl
@[simp] theorem Dev.onErrs_recs (d : Dev) (f : Errs → Errs) : (d.onErrs f).recs = d.recs := rfl
@[simp] theorem Dev.onErrs_ctxs (d : Dev) (f : Errs → Errs) : (d.onErrs f).ctxs = d.ctxs := rfl
@[simp] theorem Dev.onErrs_aliases (d : Dev) (f : Errs → Errs) : (d.onErrs f).aliases = d.aliases := rfl
@[simp] theorem Dev.onErrs_move (d : Dev) (f : Errs → Errs) : (d.onErrs f).move = d.move := rfl
@[simp] theorem Dev.onErrs_host (d : Dev) (f : Errs → Errs) : (d.onErrs f).host = d.host := rfl
@[simp] theorem Dev.onErrs_heals (d : Dev) (f : Errs → Errs) : (d.onErrs f).heals = d.heals := rfl
@[simp] theorem Dev.onErrs_heldBy (d : Dev) (f : Errs → Errs) : (d.onErrs f).heldBy = d.heldBy := rfl
@[simp] theorem Dev.onErrs_snaps (d : Dev) (f : Errs → Errs) : (d.onErrs f).snaps = d.snaps := rfl
@[simp] theorem Dev.onErrs_oldWays (d : Dev) (f : Errs → Errs) : (d.onErrs f).oldWays = d.oldWays := rfl
@[simp] theorem Dev.onErrs_hostTrk (d : Dev) (f : Errs → Errs) : (d.onErrs f).hostTrk = d.hostTrk := rfl
@[simp] theorem Dev.onErrs_hostQ (d : Dev) (f : Errs → Errs) : (d.onErrs f).hostQ = d.hostQ := rfl
@[simp] theorem Dev.onErrs_dirty (d : Dev) (f : Errs → Errs) : (d.onErrs f).dirty = d.dirty := rfl
@[simp] theorem Dev.onErrs_ldgStopped (d : Dev) (f : Errs → Errs) : (d.onErrs f).ldgStopped = d.ldgStopped := rfl
@[simp] theorem Dev.onErrs_ldgQ (d : Dev) (f : Errs → Errs) : (d.onErrs f).ldgQ = d.ldgQ := rfl
@[simp] theorem Dev.onErrs_ldgRecent (d : Dev) (f : Errs → Errs) : (d.onErrs f).ldgRecent = d.ldgRecent := rfl
@[simp] theorem Dev.onErrs_pwr (d : Dev) (f : Errs → Errs) : (d.onErrs f).pwr = d.pwr := rfl
@[simp] theorem Dev.onErrs_twin (d : Dev) (f : Errs → Errs) : (d.onErrs f).twin = d.twin := rfl
@[simp] theorem Dev.onErrs_ltn (d : Dev) (f : Errs → Errs) : (d.onErrs f).ltn = d.ltn := rfl
@[simp] theorem Dev.onErrs_bist (d : Dev) (f : Errs → Errs) : (d.onErrs f).bist = d.bist := rfl
@[simp] theorem Dev.onErrs_scrub (d : Dev) (f : Errs → Errs) : (d.onErrs f).scrub = d.scrub := rfl
@[simp] theorem Dev.onErrs_scrubPass (d : Dev) (f : Errs → Errs) : (d.onErrs f).scrubPass = d.scrubPass := rfl
@[simp] theorem Dev.onErrs_rowsUsed (d : Dev) (f : Errs → Errs) : (d.onErrs f).rowsUsed = d.rowsUsed := rfl
@[simp] theorem Dev.onErrs_episodes (d : Dev) (f : Errs → Errs) : (d.onErrs f).episodes = d.episodes := rfl
@[simp] theorem Dev.onErrs_vfEnable (d : Dev) (f : Errs → Errs) : (d.onErrs f).vfEnable = d.vfEnable := rfl
@[simp] theorem Dev.onErrs_numVfs (d : Dev) (f : Errs → Errs) : (d.onErrs f).numVfs = d.numVfs := rfl
@[simp] theorem Dev.onErrs_hostAns (d : Dev) (f : Errs → Errs) : (d.onErrs f).hostAns = d.hostAns := rfl
/-! `Dev.setWin` -/
@[simp] theorem Dev.setWin_part (d : Dev) (f n : Nat) (w : Window) : (d.setWin f n w).part = d.part := rfl
@[simp] theorem Dev.setWin_free (d : Dev) (f n : Nat) (w : Window) : (d.setWin f n w).free = d.free := rfl
@[simp] theorem Dev.setWin_regs (d : Dev) (f n : Nat) (w : Window) : (d.setWin f n w).regs = d.regs := rfl
@[simp] theorem Dev.setWin_clusters (d : Dev) (f n : Nat) (w : Window) : (d.setWin f n w).clusters = d.clusters := rfl
@[simp] theorem Dev.setWin_loc (d : Dev) (f n : Nat) (w : Window) : (d.setWin f n w).loc = d.loc := rfl
@[simp] theorem Dev.setWin_commons (d : Dev) (f n : Nat) (w : Window) : (d.setWin f n w).commons = d.commons := rfl
@[simp] theorem Dev.setWin_coh (d : Dev) (f n : Nat) (w : Window) : (d.setWin f n w).coh = d.coh := rfl
@[simp] theorem Dev.setWin_chans (d : Dev) (f n : Nat) (w : Window) : (d.setWin f n w).chans = d.chans := rfl
@[simp] theorem Dev.setWin_hostWr (d : Dev) (f n : Nat) (w : Window) : (d.setWin f n w).hostWr = d.hostWr := rfl
@[simp] theorem Dev.setWin_hostCache (d : Dev) (f n : Nat) (w : Window) : (d.setWin f n w).hostCache = d.hostCache := rfl
@[simp] theorem Dev.setWin_ats (d : Dev) (f n : Nat) (w : Window) : (d.setWin f n w).ats = d.ats := rfl
@[simp] theorem Dev.setWin_links (d : Dev) (f n : Nat) (w : Window) : (d.setWin f n w).links = d.links := rfl
@[simp] theorem Dev.setWin_dur (d : Dev) (f n : Nat) (w : Window) : (d.setWin f n w).dur = d.dur := rfl
@[simp] theorem Dev.setWin_nextCid (d : Dev) (f n : Nat) (w : Window) : (d.setWin f n w).nextCid = d.nextCid := rfl
@[simp] theorem Dev.setWin_errs (d : Dev) (f n : Nat) (w : Window) : (d.setWin f n w).errs = d.errs := rfl
@[simp] theorem Dev.setWin_fns (d : Dev) (f n : Nat) (w : Window) : (d.setWin f n w).fns = d.fns := rfl
@[simp] theorem Dev.setWin_vecs (d : Dev) (f n : Nat) (w : Window) : (d.setWin f n w).vecs = d.vecs := rfl
@[simp] theorem Dev.setWin_recs (d : Dev) (f n : Nat) (w : Window) : (d.setWin f n w).recs = d.recs := rfl
@[simp] theorem Dev.setWin_ctxs (d : Dev) (f n : Nat) (w : Window) : (d.setWin f n w).ctxs = d.ctxs := rfl
@[simp] theorem Dev.setWin_aliases (d : Dev) (f n : Nat) (w : Window) : (d.setWin f n w).aliases = d.aliases := rfl
@[simp] theorem Dev.setWin_move (d : Dev) (f n : Nat) (w : Window) : (d.setWin f n w).move = d.move := rfl
@[simp] theorem Dev.setWin_host (d : Dev) (f n : Nat) (w : Window) : (d.setWin f n w).host = d.host := rfl
@[simp] theorem Dev.setWin_heals (d : Dev) (f n : Nat) (w : Window) : (d.setWin f n w).heals = d.heals := rfl
@[simp] theorem Dev.setWin_heldBy (d : Dev) (f n : Nat) (w : Window) : (d.setWin f n w).heldBy = d.heldBy := rfl
@[simp] theorem Dev.setWin_snaps (d : Dev) (f n : Nat) (w : Window) : (d.setWin f n w).snaps = d.snaps := rfl
@[simp] theorem Dev.setWin_oldWays (d : Dev) (f n : Nat) (w : Window) : (d.setWin f n w).oldWays = d.oldWays := rfl
@[simp] theorem Dev.setWin_hostTrk (d : Dev) (f n : Nat) (w : Window) : (d.setWin f n w).hostTrk = d.hostTrk := rfl
@[simp] theorem Dev.setWin_hostQ (d : Dev) (f n : Nat) (w : Window) : (d.setWin f n w).hostQ = d.hostQ := rfl
@[simp] theorem Dev.setWin_dirty (d : Dev) (f n : Nat) (w : Window) : (d.setWin f n w).dirty = d.dirty := rfl
@[simp] theorem Dev.setWin_ldgStopped (d : Dev) (f n : Nat) (w : Window) : (d.setWin f n w).ldgStopped = d.ldgStopped := rfl
@[simp] theorem Dev.setWin_ldgQ (d : Dev) (f n : Nat) (w : Window) : (d.setWin f n w).ldgQ = d.ldgQ := rfl
@[simp] theorem Dev.setWin_ldgRecent (d : Dev) (f n : Nat) (w : Window) : (d.setWin f n w).ldgRecent = d.ldgRecent := rfl
@[simp] theorem Dev.setWin_pwr (d : Dev) (f n : Nat) (w : Window) : (d.setWin f n w).pwr = d.pwr := rfl
@[simp] theorem Dev.setWin_twin (d : Dev) (f n : Nat) (w : Window) : (d.setWin f n w).twin = d.twin := rfl
@[simp] theorem Dev.setWin_ltn (d : Dev) (f n : Nat) (w : Window) : (d.setWin f n w).ltn = d.ltn := rfl
@[simp] theorem Dev.setWin_bist (d : Dev) (f n : Nat) (w : Window) : (d.setWin f n w).bist = d.bist := rfl
@[simp] theorem Dev.setWin_scrub (d : Dev) (f n : Nat) (w : Window) : (d.setWin f n w).scrub = d.scrub := rfl
@[simp] theorem Dev.setWin_scrubPass (d : Dev) (f n : Nat) (w : Window) : (d.setWin f n w).scrubPass = d.scrubPass := rfl
@[simp] theorem Dev.setWin_rowsUsed (d : Dev) (f n : Nat) (w : Window) : (d.setWin f n w).rowsUsed = d.rowsUsed := rfl
@[simp] theorem Dev.setWin_episodes (d : Dev) (f n : Nat) (w : Window) : (d.setWin f n w).episodes = d.episodes := rfl
@[simp] theorem Dev.setWin_vfEnable (d : Dev) (f n : Nat) (w : Window) : (d.setWin f n w).vfEnable = d.vfEnable := rfl
@[simp] theorem Dev.setWin_numVfs (d : Dev) (f n : Nat) (w : Window) : (d.setWin f n w).numVfs = d.numVfs := rfl
@[simp] theorem Dev.setWin_hostAns (d : Dev) (f n : Nat) (w : Window) : (d.setWin f n w).hostAns = d.hostAns := rfl
/-! `Dev.onCoh` -/
@[simp] theorem Dev.onCoh_part (d : Dev) (f : Coh → Coh) : (d.onCoh f).part = d.part := rfl
@[simp] theorem Dev.onCoh_free (d : Dev) (f : Coh → Coh) : (d.onCoh f).free = d.free := rfl
@[simp] theorem Dev.onCoh_regs (d : Dev) (f : Coh → Coh) : (d.onCoh f).regs = d.regs := rfl
@[simp] theorem Dev.onCoh_clusters (d : Dev) (f : Coh → Coh) : (d.onCoh f).clusters = d.clusters := rfl
@[simp] theorem Dev.onCoh_loc (d : Dev) (f : Coh → Coh) : (d.onCoh f).loc = d.loc := rfl
@[simp] theorem Dev.onCoh_commons (d : Dev) (f : Coh → Coh) : (d.onCoh f).commons = d.commons := rfl
@[simp] theorem Dev.onCoh_chans (d : Dev) (f : Coh → Coh) : (d.onCoh f).chans = d.chans := rfl
@[simp] theorem Dev.onCoh_hostWr (d : Dev) (f : Coh → Coh) : (d.onCoh f).hostWr = d.hostWr := rfl
@[simp] theorem Dev.onCoh_hostCache (d : Dev) (f : Coh → Coh) : (d.onCoh f).hostCache = d.hostCache := rfl
@[simp] theorem Dev.onCoh_ats (d : Dev) (f : Coh → Coh) : (d.onCoh f).ats = d.ats := rfl
@[simp] theorem Dev.onCoh_links (d : Dev) (f : Coh → Coh) : (d.onCoh f).links = d.links := rfl
@[simp] theorem Dev.onCoh_dur (d : Dev) (f : Coh → Coh) : (d.onCoh f).dur = d.dur := rfl
@[simp] theorem Dev.onCoh_nextCid (d : Dev) (f : Coh → Coh) : (d.onCoh f).nextCid = d.nextCid := rfl
@[simp] theorem Dev.onCoh_errs (d : Dev) (f : Coh → Coh) : (d.onCoh f).errs = d.errs := rfl
@[simp] theorem Dev.onCoh_fns (d : Dev) (f : Coh → Coh) : (d.onCoh f).fns = d.fns := rfl
@[simp] theorem Dev.onCoh_wins (d : Dev) (f : Coh → Coh) : (d.onCoh f).wins = d.wins := rfl
@[simp] theorem Dev.onCoh_vecs (d : Dev) (f : Coh → Coh) : (d.onCoh f).vecs = d.vecs := rfl
@[simp] theorem Dev.onCoh_recs (d : Dev) (f : Coh → Coh) : (d.onCoh f).recs = d.recs := rfl
@[simp] theorem Dev.onCoh_ctxs (d : Dev) (f : Coh → Coh) : (d.onCoh f).ctxs = d.ctxs := rfl
@[simp] theorem Dev.onCoh_aliases (d : Dev) (f : Coh → Coh) : (d.onCoh f).aliases = d.aliases := rfl
@[simp] theorem Dev.onCoh_move (d : Dev) (f : Coh → Coh) : (d.onCoh f).move = d.move := rfl
@[simp] theorem Dev.onCoh_host (d : Dev) (f : Coh → Coh) : (d.onCoh f).host = d.host := rfl
@[simp] theorem Dev.onCoh_heals (d : Dev) (f : Coh → Coh) : (d.onCoh f).heals = d.heals := rfl
@[simp] theorem Dev.onCoh_heldBy (d : Dev) (f : Coh → Coh) : (d.onCoh f).heldBy = d.heldBy := rfl
@[simp] theorem Dev.onCoh_snaps (d : Dev) (f : Coh → Coh) : (d.onCoh f).snaps = d.snaps := rfl
@[simp] theorem Dev.onCoh_oldWays (d : Dev) (f : Coh → Coh) : (d.onCoh f).oldWays = d.oldWays := rfl
@[simp] theorem Dev.onCoh_hostTrk (d : Dev) (f : Coh → Coh) : (d.onCoh f).hostTrk = d.hostTrk := rfl
@[simp] theorem Dev.onCoh_hostQ (d : Dev) (f : Coh → Coh) : (d.onCoh f).hostQ = d.hostQ := rfl
@[simp] theorem Dev.onCoh_dirty (d : Dev) (f : Coh → Coh) : (d.onCoh f).dirty = d.dirty := rfl
@[simp] theorem Dev.onCoh_ldgStopped (d : Dev) (f : Coh → Coh) : (d.onCoh f).ldgStopped = d.ldgStopped := rfl
@[simp] theorem Dev.onCoh_ldgQ (d : Dev) (f : Coh → Coh) : (d.onCoh f).ldgQ = d.ldgQ := rfl
@[simp] theorem Dev.onCoh_ldgRecent (d : Dev) (f : Coh → Coh) : (d.onCoh f).ldgRecent = d.ldgRecent := rfl
@[simp] theorem Dev.onCoh_pwr (d : Dev) (f : Coh → Coh) : (d.onCoh f).pwr = d.pwr := rfl
@[simp] theorem Dev.onCoh_twin (d : Dev) (f : Coh → Coh) : (d.onCoh f).twin = d.twin := rfl
@[simp] theorem Dev.onCoh_ltn (d : Dev) (f : Coh → Coh) : (d.onCoh f).ltn = d.ltn := rfl
@[simp] theorem Dev.onCoh_bist (d : Dev) (f : Coh → Coh) : (d.onCoh f).bist = d.bist := rfl
@[simp] theorem Dev.onCoh_scrub (d : Dev) (f : Coh → Coh) : (d.onCoh f).scrub = d.scrub := rfl
@[simp] theorem Dev.onCoh_scrubPass (d : Dev) (f : Coh → Coh) : (d.onCoh f).scrubPass = d.scrubPass := rfl
@[simp] theorem Dev.onCoh_rowsUsed (d : Dev) (f : Coh → Coh) : (d.onCoh f).rowsUsed = d.rowsUsed := rfl
@[simp] theorem Dev.onCoh_episodes (d : Dev) (f : Coh → Coh) : (d.onCoh f).episodes = d.episodes := rfl
@[simp] theorem Dev.onCoh_vfEnable (d : Dev) (f : Coh → Coh) : (d.onCoh f).vfEnable = d.vfEnable := rfl
@[simp] theorem Dev.onCoh_numVfs (d : Dev) (f : Coh → Coh) : (d.onCoh f).numVfs = d.numVfs := rfl
@[simp] theorem Dev.onCoh_hostAns (d : Dev) (f : Coh → Coh) : (d.onCoh f).hostAns = d.hostAns := rfl
/-! `Dev.onLinks` -/
@[simp] theorem Dev.onLinks_part (d : Dev) (f : Links → Links) : (d.onLinks f).part = d.part := rfl
@[simp] theorem Dev.onLinks_free (d : Dev) (f : Links → Links) : (d.onLinks f).free = d.free := rfl
@[simp] theorem Dev.onLinks_regs (d : Dev) (f : Links → Links) : (d.onLinks f).regs = d.regs := rfl
@[simp] theorem Dev.onLinks_clusters (d : Dev) (f : Links → Links) : (d.onLinks f).clusters = d.clusters := rfl
@[simp] theorem Dev.onLinks_loc (d : Dev) (f : Links → Links) : (d.onLinks f).loc = d.loc := rfl
@[simp] theorem Dev.onLinks_commons (d : Dev) (f : Links → Links) : (d.onLinks f).commons = d.commons := rfl
@[simp] theorem Dev.onLinks_coh (d : Dev) (f : Links → Links) : (d.onLinks f).coh = d.coh := rfl
@[simp] theorem Dev.onLinks_chans (d : Dev) (f : Links → Links) : (d.onLinks f).chans = d.chans := rfl
@[simp] theorem Dev.onLinks_hostWr (d : Dev) (f : Links → Links) : (d.onLinks f).hostWr = d.hostWr := rfl
@[simp] theorem Dev.onLinks_hostCache (d : Dev) (f : Links → Links) : (d.onLinks f).hostCache = d.hostCache := rfl
@[simp] theorem Dev.onLinks_ats (d : Dev) (f : Links → Links) : (d.onLinks f).ats = d.ats := rfl
@[simp] theorem Dev.onLinks_dur (d : Dev) (f : Links → Links) : (d.onLinks f).dur = d.dur := rfl
@[simp] theorem Dev.onLinks_nextCid (d : Dev) (f : Links → Links) : (d.onLinks f).nextCid = d.nextCid := rfl
@[simp] theorem Dev.onLinks_errs (d : Dev) (f : Links → Links) : (d.onLinks f).errs = d.errs := rfl
@[simp] theorem Dev.onLinks_fns (d : Dev) (f : Links → Links) : (d.onLinks f).fns = d.fns := rfl
@[simp] theorem Dev.onLinks_wins (d : Dev) (f : Links → Links) : (d.onLinks f).wins = d.wins := rfl
@[simp] theorem Dev.onLinks_vecs (d : Dev) (f : Links → Links) : (d.onLinks f).vecs = d.vecs := rfl
@[simp] theorem Dev.onLinks_recs (d : Dev) (f : Links → Links) : (d.onLinks f).recs = d.recs := rfl
@[simp] theorem Dev.onLinks_ctxs (d : Dev) (f : Links → Links) : (d.onLinks f).ctxs = d.ctxs := rfl
@[simp] theorem Dev.onLinks_aliases (d : Dev) (f : Links → Links) : (d.onLinks f).aliases = d.aliases := rfl
@[simp] theorem Dev.onLinks_move (d : Dev) (f : Links → Links) : (d.onLinks f).move = d.move := rfl
@[simp] theorem Dev.onLinks_host (d : Dev) (f : Links → Links) : (d.onLinks f).host = d.host := rfl
@[simp] theorem Dev.onLinks_heals (d : Dev) (f : Links → Links) : (d.onLinks f).heals = d.heals := rfl
@[simp] theorem Dev.onLinks_heldBy (d : Dev) (f : Links → Links) : (d.onLinks f).heldBy = d.heldBy := rfl
@[simp] theorem Dev.onLinks_snaps (d : Dev) (f : Links → Links) : (d.onLinks f).snaps = d.snaps := rfl
@[simp] theorem Dev.onLinks_oldWays (d : Dev) (f : Links → Links) : (d.onLinks f).oldWays = d.oldWays := rfl
@[simp] theorem Dev.onLinks_hostTrk (d : Dev) (f : Links → Links) : (d.onLinks f).hostTrk = d.hostTrk := rfl
@[simp] theorem Dev.onLinks_hostQ (d : Dev) (f : Links → Links) : (d.onLinks f).hostQ = d.hostQ := rfl
@[simp] theorem Dev.onLinks_dirty (d : Dev) (f : Links → Links) : (d.onLinks f).dirty = d.dirty := rfl
@[simp] theorem Dev.onLinks_ldgStopped (d : Dev) (f : Links → Links) : (d.onLinks f).ldgStopped = d.ldgStopped := rfl
@[simp] theorem Dev.onLinks_ldgQ (d : Dev) (f : Links → Links) : (d.onLinks f).ldgQ = d.ldgQ := rfl
@[simp] theorem Dev.onLinks_ldgRecent (d : Dev) (f : Links → Links) : (d.onLinks f).ldgRecent = d.ldgRecent := rfl
@[simp] theorem Dev.onLinks_pwr (d : Dev) (f : Links → Links) : (d.onLinks f).pwr = d.pwr := rfl
@[simp] theorem Dev.onLinks_twin (d : Dev) (f : Links → Links) : (d.onLinks f).twin = d.twin := rfl
@[simp] theorem Dev.onLinks_ltn (d : Dev) (f : Links → Links) : (d.onLinks f).ltn = d.ltn := rfl
@[simp] theorem Dev.onLinks_bist (d : Dev) (f : Links → Links) : (d.onLinks f).bist = d.bist := rfl
@[simp] theorem Dev.onLinks_scrub (d : Dev) (f : Links → Links) : (d.onLinks f).scrub = d.scrub := rfl
@[simp] theorem Dev.onLinks_scrubPass (d : Dev) (f : Links → Links) : (d.onLinks f).scrubPass = d.scrubPass := rfl
@[simp] theorem Dev.onLinks_rowsUsed (d : Dev) (f : Links → Links) : (d.onLinks f).rowsUsed = d.rowsUsed := rfl
@[simp] theorem Dev.onLinks_episodes (d : Dev) (f : Links → Links) : (d.onLinks f).episodes = d.episodes := rfl
@[simp] theorem Dev.onLinks_vfEnable (d : Dev) (f : Links → Links) : (d.onLinks f).vfEnable = d.vfEnable := rfl
@[simp] theorem Dev.onLinks_numVfs (d : Dev) (f : Links → Links) : (d.onLinks f).numVfs = d.numVfs := rfl
@[simp] theorem Dev.onLinks_hostAns (d : Dev) (f : Links → Links) : (d.onLinks f).hostAns = d.hostAns := rfl
/-! `Dev.onPwr` -/
@[simp] theorem Dev.onPwr_part (d : Dev) (f : Pwr → Pwr) : (d.onPwr f).part = d.part := rfl
@[simp] theorem Dev.onPwr_free (d : Dev) (f : Pwr → Pwr) : (d.onPwr f).free = d.free := rfl
@[simp] theorem Dev.onPwr_regs (d : Dev) (f : Pwr → Pwr) : (d.onPwr f).regs = d.regs := rfl
@[simp] theorem Dev.onPwr_clusters (d : Dev) (f : Pwr → Pwr) : (d.onPwr f).clusters = d.clusters := rfl
@[simp] theorem Dev.onPwr_loc (d : Dev) (f : Pwr → Pwr) : (d.onPwr f).loc = d.loc := rfl
@[simp] theorem Dev.onPwr_commons (d : Dev) (f : Pwr → Pwr) : (d.onPwr f).commons = d.commons := rfl
@[simp] theorem Dev.onPwr_coh (d : Dev) (f : Pwr → Pwr) : (d.onPwr f).coh = d.coh := rfl
@[simp] theorem Dev.onPwr_chans (d : Dev) (f : Pwr → Pwr) : (d.onPwr f).chans = d.chans := rfl
@[simp] theorem Dev.onPwr_hostWr (d : Dev) (f : Pwr → Pwr) : (d.onPwr f).hostWr = d.hostWr := rfl
@[simp] theorem Dev.onPwr_hostCache (d : Dev) (f : Pwr → Pwr) : (d.onPwr f).hostCache = d.hostCache := rfl
@[simp] theorem Dev.onPwr_ats (d : Dev) (f : Pwr → Pwr) : (d.onPwr f).ats = d.ats := rfl
@[simp] theorem Dev.onPwr_links (d : Dev) (f : Pwr → Pwr) : (d.onPwr f).links = d.links := rfl
@[simp] theorem Dev.onPwr_dur (d : Dev) (f : Pwr → Pwr) : (d.onPwr f).dur = d.dur := rfl
@[simp] theorem Dev.onPwr_nextCid (d : Dev) (f : Pwr → Pwr) : (d.onPwr f).nextCid = d.nextCid := rfl
@[simp] theorem Dev.onPwr_errs (d : Dev) (f : Pwr → Pwr) : (d.onPwr f).errs = d.errs := rfl
@[simp] theorem Dev.onPwr_fns (d : Dev) (f : Pwr → Pwr) : (d.onPwr f).fns = d.fns := rfl
@[simp] theorem Dev.onPwr_wins (d : Dev) (f : Pwr → Pwr) : (d.onPwr f).wins = d.wins := rfl
@[simp] theorem Dev.onPwr_vecs (d : Dev) (f : Pwr → Pwr) : (d.onPwr f).vecs = d.vecs := rfl
@[simp] theorem Dev.onPwr_recs (d : Dev) (f : Pwr → Pwr) : (d.onPwr f).recs = d.recs := rfl
@[simp] theorem Dev.onPwr_ctxs (d : Dev) (f : Pwr → Pwr) : (d.onPwr f).ctxs = d.ctxs := rfl
@[simp] theorem Dev.onPwr_aliases (d : Dev) (f : Pwr → Pwr) : (d.onPwr f).aliases = d.aliases := rfl
@[simp] theorem Dev.onPwr_move (d : Dev) (f : Pwr → Pwr) : (d.onPwr f).move = d.move := rfl
@[simp] theorem Dev.onPwr_host (d : Dev) (f : Pwr → Pwr) : (d.onPwr f).host = d.host := rfl
@[simp] theorem Dev.onPwr_heals (d : Dev) (f : Pwr → Pwr) : (d.onPwr f).heals = d.heals := rfl
@[simp] theorem Dev.onPwr_heldBy (d : Dev) (f : Pwr → Pwr) : (d.onPwr f).heldBy = d.heldBy := rfl
@[simp] theorem Dev.onPwr_snaps (d : Dev) (f : Pwr → Pwr) : (d.onPwr f).snaps = d.snaps := rfl
@[simp] theorem Dev.onPwr_oldWays (d : Dev) (f : Pwr → Pwr) : (d.onPwr f).oldWays = d.oldWays := rfl
@[simp] theorem Dev.onPwr_hostTrk (d : Dev) (f : Pwr → Pwr) : (d.onPwr f).hostTrk = d.hostTrk := rfl
@[simp] theorem Dev.onPwr_hostQ (d : Dev) (f : Pwr → Pwr) : (d.onPwr f).hostQ = d.hostQ := rfl
@[simp] theorem Dev.onPwr_dirty (d : Dev) (f : Pwr → Pwr) : (d.onPwr f).dirty = d.dirty := rfl
@[simp] theorem Dev.onPwr_ldgStopped (d : Dev) (f : Pwr → Pwr) : (d.onPwr f).ldgStopped = d.ldgStopped := rfl
@[simp] theorem Dev.onPwr_ldgQ (d : Dev) (f : Pwr → Pwr) : (d.onPwr f).ldgQ = d.ldgQ := rfl
@[simp] theorem Dev.onPwr_ldgRecent (d : Dev) (f : Pwr → Pwr) : (d.onPwr f).ldgRecent = d.ldgRecent := rfl
@[simp] theorem Dev.onPwr_twin (d : Dev) (f : Pwr → Pwr) : (d.onPwr f).twin = d.twin := rfl
@[simp] theorem Dev.onPwr_ltn (d : Dev) (f : Pwr → Pwr) : (d.onPwr f).ltn = d.ltn := rfl
@[simp] theorem Dev.onPwr_bist (d : Dev) (f : Pwr → Pwr) : (d.onPwr f).bist = d.bist := rfl
@[simp] theorem Dev.onPwr_scrub (d : Dev) (f : Pwr → Pwr) : (d.onPwr f).scrub = d.scrub := rfl
@[simp] theorem Dev.onPwr_scrubPass (d : Dev) (f : Pwr → Pwr) : (d.onPwr f).scrubPass = d.scrubPass := rfl
@[simp] theorem Dev.onPwr_rowsUsed (d : Dev) (f : Pwr → Pwr) : (d.onPwr f).rowsUsed = d.rowsUsed := rfl
@[simp] theorem Dev.onPwr_episodes (d : Dev) (f : Pwr → Pwr) : (d.onPwr f).episodes = d.episodes := rfl
@[simp] theorem Dev.onPwr_vfEnable (d : Dev) (f : Pwr → Pwr) : (d.onPwr f).vfEnable = d.vfEnable := rfl
@[simp] theorem Dev.onPwr_numVfs (d : Dev) (f : Pwr → Pwr) : (d.onPwr f).numVfs = d.numVfs := rfl
@[simp] theorem Dev.onPwr_hostAns (d : Dev) (f : Pwr → Pwr) : (d.onPwr f).hostAns = d.hostAns := rfl
/-! `Dev.onTwin` -/
@[simp] theorem Dev.onTwin_part (d : Dev) (f : Twin → Twin) : (d.onTwin f).part = d.part := rfl
@[simp] theorem Dev.onTwin_free (d : Dev) (f : Twin → Twin) : (d.onTwin f).free = d.free := rfl
@[simp] theorem Dev.onTwin_regs (d : Dev) (f : Twin → Twin) : (d.onTwin f).regs = d.regs := rfl
@[simp] theorem Dev.onTwin_clusters (d : Dev) (f : Twin → Twin) : (d.onTwin f).clusters = d.clusters := rfl
@[simp] theorem Dev.onTwin_loc (d : Dev) (f : Twin → Twin) : (d.onTwin f).loc = d.loc := rfl
@[simp] theorem Dev.onTwin_commons (d : Dev) (f : Twin → Twin) : (d.onTwin f).commons = d.commons := rfl
@[simp] theorem Dev.onTwin_coh (d : Dev) (f : Twin → Twin) : (d.onTwin f).coh = d.coh := rfl
@[simp] theorem Dev.onTwin_chans (d : Dev) (f : Twin → Twin) : (d.onTwin f).chans = d.chans := rfl
@[simp] theorem Dev.onTwin_hostWr (d : Dev) (f : Twin → Twin) : (d.onTwin f).hostWr = d.hostWr := rfl
@[simp] theorem Dev.onTwin_hostCache (d : Dev) (f : Twin → Twin) : (d.onTwin f).hostCache = d.hostCache := rfl
@[simp] theorem Dev.onTwin_ats (d : Dev) (f : Twin → Twin) : (d.onTwin f).ats = d.ats := rfl
@[simp] theorem Dev.onTwin_links (d : Dev) (f : Twin → Twin) : (d.onTwin f).links = d.links := rfl
@[simp] theorem Dev.onTwin_dur (d : Dev) (f : Twin → Twin) : (d.onTwin f).dur = d.dur := rfl
@[simp] theorem Dev.onTwin_nextCid (d : Dev) (f : Twin → Twin) : (d.onTwin f).nextCid = d.nextCid := rfl
@[simp] theorem Dev.onTwin_errs (d : Dev) (f : Twin → Twin) : (d.onTwin f).errs = d.errs := rfl
@[simp] theorem Dev.onTwin_fns (d : Dev) (f : Twin → Twin) : (d.onTwin f).fns = d.fns := rfl
@[simp] theorem Dev.onTwin_wins (d : Dev) (f : Twin → Twin) : (d.onTwin f).wins = d.wins := rfl
@[simp] theorem Dev.onTwin_vecs (d : Dev) (f : Twin → Twin) : (d.onTwin f).vecs = d.vecs := rfl
@[simp] theorem Dev.onTwin_recs (d : Dev) (f : Twin → Twin) : (d.onTwin f).recs = d.recs := rfl
@[simp] theorem Dev.onTwin_ctxs (d : Dev) (f : Twin → Twin) : (d.onTwin f).ctxs = d.ctxs := rfl
@[simp] theorem Dev.onTwin_aliases (d : Dev) (f : Twin → Twin) : (d.onTwin f).aliases = d.aliases := rfl
@[simp] theorem Dev.onTwin_move (d : Dev) (f : Twin → Twin) : (d.onTwin f).move = d.move := rfl
@[simp] theorem Dev.onTwin_host (d : Dev) (f : Twin → Twin) : (d.onTwin f).host = d.host := rfl
@[simp] theorem Dev.onTwin_heals (d : Dev) (f : Twin → Twin) : (d.onTwin f).heals = d.heals := rfl
@[simp] theorem Dev.onTwin_heldBy (d : Dev) (f : Twin → Twin) : (d.onTwin f).heldBy = d.heldBy := rfl
@[simp] theorem Dev.onTwin_snaps (d : Dev) (f : Twin → Twin) : (d.onTwin f).snaps = d.snaps := rfl
@[simp] theorem Dev.onTwin_oldWays (d : Dev) (f : Twin → Twin) : (d.onTwin f).oldWays = d.oldWays := rfl
@[simp] theorem Dev.onTwin_hostTrk (d : Dev) (f : Twin → Twin) : (d.onTwin f).hostTrk = d.hostTrk := rfl
@[simp] theorem Dev.onTwin_hostQ (d : Dev) (f : Twin → Twin) : (d.onTwin f).hostQ = d.hostQ := rfl
@[simp] theorem Dev.onTwin_dirty (d : Dev) (f : Twin → Twin) : (d.onTwin f).dirty = d.dirty := rfl
@[simp] theorem Dev.onTwin_ldgStopped (d : Dev) (f : Twin → Twin) : (d.onTwin f).ldgStopped = d.ldgStopped := rfl
@[simp] theorem Dev.onTwin_ldgQ (d : Dev) (f : Twin → Twin) : (d.onTwin f).ldgQ = d.ldgQ := rfl
@[simp] theorem Dev.onTwin_ldgRecent (d : Dev) (f : Twin → Twin) : (d.onTwin f).ldgRecent = d.ldgRecent := rfl
@[simp] theorem Dev.onTwin_pwr (d : Dev) (f : Twin → Twin) : (d.onTwin f).pwr = d.pwr := rfl
@[simp] theorem Dev.onTwin_ltn (d : Dev) (f : Twin → Twin) : (d.onTwin f).ltn = d.ltn := rfl
@[simp] theorem Dev.onTwin_bist (d : Dev) (f : Twin → Twin) : (d.onTwin f).bist = d.bist := rfl
@[simp] theorem Dev.onTwin_scrub (d : Dev) (f : Twin → Twin) : (d.onTwin f).scrub = d.scrub := rfl
@[simp] theorem Dev.onTwin_scrubPass (d : Dev) (f : Twin → Twin) : (d.onTwin f).scrubPass = d.scrubPass := rfl
@[simp] theorem Dev.onTwin_rowsUsed (d : Dev) (f : Twin → Twin) : (d.onTwin f).rowsUsed = d.rowsUsed := rfl
@[simp] theorem Dev.onTwin_episodes (d : Dev) (f : Twin → Twin) : (d.onTwin f).episodes = d.episodes := rfl
@[simp] theorem Dev.onTwin_vfEnable (d : Dev) (f : Twin → Twin) : (d.onTwin f).vfEnable = d.vfEnable := rfl
@[simp] theorem Dev.onTwin_numVfs (d : Dev) (f : Twin → Twin) : (d.onTwin f).numVfs = d.numVfs := rfl
@[simp] theorem Dev.onTwin_hostAns (d : Dev) (f : Twin → Twin) : (d.onTwin f).hostAns = d.hostAns := rfl
/-! `Dev.onLtn` -/
@[simp] theorem Dev.onLtn_part (d : Dev) (f : Lantern → Lantern) : (d.onLtn f).part = d.part := rfl
@[simp] theorem Dev.onLtn_free (d : Dev) (f : Lantern → Lantern) : (d.onLtn f).free = d.free := rfl
@[simp] theorem Dev.onLtn_regs (d : Dev) (f : Lantern → Lantern) : (d.onLtn f).regs = d.regs := rfl
@[simp] theorem Dev.onLtn_clusters (d : Dev) (f : Lantern → Lantern) : (d.onLtn f).clusters = d.clusters := rfl
@[simp] theorem Dev.onLtn_loc (d : Dev) (f : Lantern → Lantern) : (d.onLtn f).loc = d.loc := rfl
@[simp] theorem Dev.onLtn_commons (d : Dev) (f : Lantern → Lantern) : (d.onLtn f).commons = d.commons := rfl
@[simp] theorem Dev.onLtn_coh (d : Dev) (f : Lantern → Lantern) : (d.onLtn f).coh = d.coh := rfl
@[simp] theorem Dev.onLtn_chans (d : Dev) (f : Lantern → Lantern) : (d.onLtn f).chans = d.chans := rfl
@[simp] theorem Dev.onLtn_hostWr (d : Dev) (f : Lantern → Lantern) : (d.onLtn f).hostWr = d.hostWr := rfl
@[simp] theorem Dev.onLtn_hostCache (d : Dev) (f : Lantern → Lantern) : (d.onLtn f).hostCache = d.hostCache := rfl
@[simp] theorem Dev.onLtn_ats (d : Dev) (f : Lantern → Lantern) : (d.onLtn f).ats = d.ats := rfl
@[simp] theorem Dev.onLtn_links (d : Dev) (f : Lantern → Lantern) : (d.onLtn f).links = d.links := rfl
@[simp] theorem Dev.onLtn_dur (d : Dev) (f : Lantern → Lantern) : (d.onLtn f).dur = d.dur := rfl
@[simp] theorem Dev.onLtn_nextCid (d : Dev) (f : Lantern → Lantern) : (d.onLtn f).nextCid = d.nextCid := rfl
@[simp] theorem Dev.onLtn_errs (d : Dev) (f : Lantern → Lantern) : (d.onLtn f).errs = d.errs := rfl
@[simp] theorem Dev.onLtn_fns (d : Dev) (f : Lantern → Lantern) : (d.onLtn f).fns = d.fns := rfl
@[simp] theorem Dev.onLtn_wins (d : Dev) (f : Lantern → Lantern) : (d.onLtn f).wins = d.wins := rfl
@[simp] theorem Dev.onLtn_vecs (d : Dev) (f : Lantern → Lantern) : (d.onLtn f).vecs = d.vecs := rfl
@[simp] theorem Dev.onLtn_recs (d : Dev) (f : Lantern → Lantern) : (d.onLtn f).recs = d.recs := rfl
@[simp] theorem Dev.onLtn_ctxs (d : Dev) (f : Lantern → Lantern) : (d.onLtn f).ctxs = d.ctxs := rfl
@[simp] theorem Dev.onLtn_aliases (d : Dev) (f : Lantern → Lantern) : (d.onLtn f).aliases = d.aliases := rfl
@[simp] theorem Dev.onLtn_move (d : Dev) (f : Lantern → Lantern) : (d.onLtn f).move = d.move := rfl
@[simp] theorem Dev.onLtn_host (d : Dev) (f : Lantern → Lantern) : (d.onLtn f).host = d.host := rfl
@[simp] theorem Dev.onLtn_heals (d : Dev) (f : Lantern → Lantern) : (d.onLtn f).heals = d.heals := rfl
@[simp] theorem Dev.onLtn_heldBy (d : Dev) (f : Lantern → Lantern) : (d.onLtn f).heldBy = d.heldBy := rfl
@[simp] theorem Dev.onLtn_snaps (d : Dev) (f : Lantern → Lantern) : (d.onLtn f).snaps = d.snaps := rfl
@[simp] theorem Dev.onLtn_oldWays (d : Dev) (f : Lantern → Lantern) : (d.onLtn f).oldWays = d.oldWays := rfl
@[simp] theorem Dev.onLtn_hostTrk (d : Dev) (f : Lantern → Lantern) : (d.onLtn f).hostTrk = d.hostTrk := rfl
@[simp] theorem Dev.onLtn_hostQ (d : Dev) (f : Lantern → Lantern) : (d.onLtn f).hostQ = d.hostQ := rfl
@[simp] theorem Dev.onLtn_dirty (d : Dev) (f : Lantern → Lantern) : (d.onLtn f).dirty = d.dirty := rfl
@[simp] theorem Dev.onLtn_ldgStopped (d : Dev) (f : Lantern → Lantern) : (d.onLtn f).ldgStopped = d.ldgStopped := rfl
@[simp] theorem Dev.onLtn_ldgQ (d : Dev) (f : Lantern → Lantern) : (d.onLtn f).ldgQ = d.ldgQ := rfl
@[simp] theorem Dev.onLtn_ldgRecent (d : Dev) (f : Lantern → Lantern) : (d.onLtn f).ldgRecent = d.ldgRecent := rfl
@[simp] theorem Dev.onLtn_pwr (d : Dev) (f : Lantern → Lantern) : (d.onLtn f).pwr = d.pwr := rfl
@[simp] theorem Dev.onLtn_twin (d : Dev) (f : Lantern → Lantern) : (d.onLtn f).twin = d.twin := rfl
@[simp] theorem Dev.onLtn_bist (d : Dev) (f : Lantern → Lantern) : (d.onLtn f).bist = d.bist := rfl
@[simp] theorem Dev.onLtn_scrub (d : Dev) (f : Lantern → Lantern) : (d.onLtn f).scrub = d.scrub := rfl
@[simp] theorem Dev.onLtn_scrubPass (d : Dev) (f : Lantern → Lantern) : (d.onLtn f).scrubPass = d.scrubPass := rfl
@[simp] theorem Dev.onLtn_rowsUsed (d : Dev) (f : Lantern → Lantern) : (d.onLtn f).rowsUsed = d.rowsUsed := rfl
@[simp] theorem Dev.onLtn_episodes (d : Dev) (f : Lantern → Lantern) : (d.onLtn f).episodes = d.episodes := rfl
@[simp] theorem Dev.onLtn_vfEnable (d : Dev) (f : Lantern → Lantern) : (d.onLtn f).vfEnable = d.vfEnable := rfl
@[simp] theorem Dev.onLtn_numVfs (d : Dev) (f : Lantern → Lantern) : (d.onLtn f).numVfs = d.numVfs := rfl
@[simp] theorem Dev.onLtn_hostAns (d : Dev) (f : Lantern → Lantern) : (d.onLtn f).hostAns = d.hostAns := rfl
/-! `Dev.onBist` -/
@[simp] theorem Dev.onBist_part (d : Dev) (f : Bist → Bist) : (d.onBist f).part = d.part := rfl
@[simp] theorem Dev.onBist_free (d : Dev) (f : Bist → Bist) : (d.onBist f).free = d.free := rfl
@[simp] theorem Dev.onBist_regs (d : Dev) (f : Bist → Bist) : (d.onBist f).regs = d.regs := rfl
@[simp] theorem Dev.onBist_clusters (d : Dev) (f : Bist → Bist) : (d.onBist f).clusters = d.clusters := rfl
@[simp] theorem Dev.onBist_loc (d : Dev) (f : Bist → Bist) : (d.onBist f).loc = d.loc := rfl
@[simp] theorem Dev.onBist_commons (d : Dev) (f : Bist → Bist) : (d.onBist f).commons = d.commons := rfl
@[simp] theorem Dev.onBist_coh (d : Dev) (f : Bist → Bist) : (d.onBist f).coh = d.coh := rfl
@[simp] theorem Dev.onBist_chans (d : Dev) (f : Bist → Bist) : (d.onBist f).chans = d.chans := rfl
@[simp] theorem Dev.onBist_hostWr (d : Dev) (f : Bist → Bist) : (d.onBist f).hostWr = d.hostWr := rfl
@[simp] theorem Dev.onBist_hostCache (d : Dev) (f : Bist → Bist) : (d.onBist f).hostCache = d.hostCache := rfl
@[simp] theorem Dev.onBist_ats (d : Dev) (f : Bist → Bist) : (d.onBist f).ats = d.ats := rfl
@[simp] theorem Dev.onBist_links (d : Dev) (f : Bist → Bist) : (d.onBist f).links = d.links := rfl
@[simp] theorem Dev.onBist_dur (d : Dev) (f : Bist → Bist) : (d.onBist f).dur = d.dur := rfl
@[simp] theorem Dev.onBist_nextCid (d : Dev) (f : Bist → Bist) : (d.onBist f).nextCid = d.nextCid := rfl
@[simp] theorem Dev.onBist_errs (d : Dev) (f : Bist → Bist) : (d.onBist f).errs = d.errs := rfl
@[simp] theorem Dev.onBist_fns (d : Dev) (f : Bist → Bist) : (d.onBist f).fns = d.fns := rfl
@[simp] theorem Dev.onBist_wins (d : Dev) (f : Bist → Bist) : (d.onBist f).wins = d.wins := rfl
@[simp] theorem Dev.onBist_vecs (d : Dev) (f : Bist → Bist) : (d.onBist f).vecs = d.vecs := rfl
@[simp] theorem Dev.onBist_recs (d : Dev) (f : Bist → Bist) : (d.onBist f).recs = d.recs := rfl
@[simp] theorem Dev.onBist_ctxs (d : Dev) (f : Bist → Bist) : (d.onBist f).ctxs = d.ctxs := rfl
@[simp] theorem Dev.onBist_aliases (d : Dev) (f : Bist → Bist) : (d.onBist f).aliases = d.aliases := rfl
@[simp] theorem Dev.onBist_move (d : Dev) (f : Bist → Bist) : (d.onBist f).move = d.move := rfl
@[simp] theorem Dev.onBist_host (d : Dev) (f : Bist → Bist) : (d.onBist f).host = d.host := rfl
@[simp] theorem Dev.onBist_heals (d : Dev) (f : Bist → Bist) : (d.onBist f).heals = d.heals := rfl
@[simp] theorem Dev.onBist_heldBy (d : Dev) (f : Bist → Bist) : (d.onBist f).heldBy = d.heldBy := rfl
@[simp] theorem Dev.onBist_snaps (d : Dev) (f : Bist → Bist) : (d.onBist f).snaps = d.snaps := rfl
@[simp] theorem Dev.onBist_oldWays (d : Dev) (f : Bist → Bist) : (d.onBist f).oldWays = d.oldWays := rfl
@[simp] theorem Dev.onBist_hostTrk (d : Dev) (f : Bist → Bist) : (d.onBist f).hostTrk = d.hostTrk := rfl
@[simp] theorem Dev.onBist_hostQ (d : Dev) (f : Bist → Bist) : (d.onBist f).hostQ = d.hostQ := rfl
@[simp] theorem Dev.onBist_dirty (d : Dev) (f : Bist → Bist) : (d.onBist f).dirty = d.dirty := rfl
@[simp] theorem Dev.onBist_ldgStopped (d : Dev) (f : Bist → Bist) : (d.onBist f).ldgStopped = d.ldgStopped := rfl
@[simp] theorem Dev.onBist_ldgQ (d : Dev) (f : Bist → Bist) : (d.onBist f).ldgQ = d.ldgQ := rfl
@[simp] theorem Dev.onBist_ldgRecent (d : Dev) (f : Bist → Bist) : (d.onBist f).ldgRecent = d.ldgRecent := rfl
@[simp] theorem Dev.onBist_pwr (d : Dev) (f : Bist → Bist) : (d.onBist f).pwr = d.pwr := rfl
@[simp] theorem Dev.onBist_twin (d : Dev) (f : Bist → Bist) : (d.onBist f).twin = d.twin := rfl
@[simp] theorem Dev.onBist_ltn (d : Dev) (f : Bist → Bist) : (d.onBist f).ltn = d.ltn := rfl
@[simp] theorem Dev.onBist_scrub (d : Dev) (f : Bist → Bist) : (d.onBist f).scrub = d.scrub := rfl
@[simp] theorem Dev.onBist_scrubPass (d : Dev) (f : Bist → Bist) : (d.onBist f).scrubPass = d.scrubPass := rfl
@[simp] theorem Dev.onBist_rowsUsed (d : Dev) (f : Bist → Bist) : (d.onBist f).rowsUsed = d.rowsUsed := rfl
@[simp] theorem Dev.onBist_episodes (d : Dev) (f : Bist → Bist) : (d.onBist f).episodes = d.episodes := rfl
@[simp] theorem Dev.onBist_vfEnable (d : Dev) (f : Bist → Bist) : (d.onBist f).vfEnable = d.vfEnable := rfl
@[simp] theorem Dev.onBist_numVfs (d : Dev) (f : Bist → Bist) : (d.onBist f).numVfs = d.numVfs := rfl
@[simp] theorem Dev.onBist_hostAns (d : Dev) (f : Bist → Bist) : (d.onBist f).hostAns = d.hostAns := rfl
/-! What an update does to its own field. -/
@[simp] theorem Dev.onErrs_errs (d : Dev) (f : Errs → Errs) : (d.onErrs f).errs = f d.errs := rfl
@[simp] theorem Dev.onCoh_coh (d : Dev) (f : Coh → Coh) : (d.onCoh f).coh = f d.coh := rfl
@[simp] theorem Dev.onLinks_links (d : Dev) (f : Links → Links) : (d.onLinks f).links = f d.links := rfl
@[simp] theorem Dev.onPwr_pwr (d : Dev) (f : Pwr → Pwr) : (d.onPwr f).pwr = f d.pwr := rfl
@[simp] theorem Dev.onTwin_twin (d : Dev) (f : Twin → Twin) : (d.onTwin f).twin = f d.twin := rfl
@[simp] theorem Dev.onLtn_ltn (d : Dev) (f : Lantern → Lantern) : (d.onLtn f).ltn = f d.ltn := rfl
@[simp] theorem Dev.onBist_bist (d : Dev) (f : Bist → Bist) : (d.onBist f).bist = f d.bist := rfl

end Sys2Proof.Machine
end

