-- ==== Sys2Proof/Laws/Cluster.lean ====
section
/-! SUPPORT. What an update of a cluster, an S-core or a group does to what is read of it, and what `settle` does in a calm
cluster. -/
namespace Sys2Proof.Machine

/-! ## Registers of the device -/

@[simp] theorem Dev.reg_setReg_same (d : Dev) (o : Nat) (v : Word) : (d.setReg o v).reg o = v := by
  simp [Dev.reg, Dev.setReg]
theorem Dev.reg_setReg_ne (d : Dev) {o p : Nat} (v : Word) (h : p ≠ o) : (d.setReg o v).reg p = d.reg p := by
  simp [Dev.reg, Dev.setReg, NMap.get_put_ne _ _ _ h]
theorem Dev.reg_setReg (d : Dev) (o p : Nat) (v : Word) : (d.setReg o v).reg p = if p = o then v else d.reg p := by
  by_cases h : p = o
  · subst h; simp
  · simp [h, d.reg_setReg_ne v h]
/-- A device whose registers and ordering code are another's reads the same registers. -/
theorem Dev.reg_congr {d e : Dev} (h : d.regs = e.regs) (hc : d.part = e.part) (o : Nat) : d.reg o = e.reg o := by
  simp [Dev.reg, h, hc]

/-! ## Clusters -/

@[simp] theorem Dev.cl_setCl_same (d : Dev) (n : Nat) (c : Cluster) : (d.setCl n c).cl n = c := by
  simp [Dev.cl, Dev.setCl]
theorem Dev.cl_setCl_ne (d : Dev) {n m : Nat} (c : Cluster) (h : m ≠ n) : (d.setCl n c).cl m = d.cl m := by
  simp [Dev.cl, Dev.setCl, NMap.get_put_ne _ _ _ h]
/-- A cluster after another, or the same, has been replaced. -/
theorem Dev.cl_setCl (d : Dev) (n m : Nat) (c : Cluster) : (d.setCl n c).cl m = if m = n then c else d.cl m := by
  by_cases h : m = n
  · subst h; simp
  · simp [h, d.cl_setCl_ne c h]
@[simp] theorem Dev.cl_onCl_same (d : Dev) (n : Nat) (f : Cluster → Cluster) : (d.onCl n f).cl n = f (d.cl n) := by
  simp [Dev.onCl]
theorem Dev.cl_onCl_ne (d : Dev) {n m : Nat} (f : Cluster → Cluster) (h : m ≠ n) : (d.onCl n f).cl m = d.cl m := by
  simp [Dev.onCl, d.cl_setCl_ne _ h]
theorem Dev.cl_onCl (d : Dev) (n m : Nat) (f : Cluster → Cluster) : (d.onCl n f).cl m = if m = n then f (d.cl n) else d.cl m := by
  simp [Dev.onCl, Dev.cl_setCl]
@[simp] theorem Dev.cl_onS_same (d : Dev) (n : Nat) (f : SCore → SCore) : (d.onS n f).cl n = { d.cl n with s := f (d.cl n).s } := by
  simp [Dev.onS]
theorem Dev.cl_onS_ne (d : Dev) {n m : Nat} (f : SCore → SCore) (h : m ≠ n) : (d.onS n f).cl m = d.cl m := by
  simp [Dev.onS, d.cl_onCl_ne _ h]
/-- A device whose clusters are another's has the same cluster. -/
theorem Dev.cl_congr {d e : Dev} (h : d.clusters = e.clusters) (n : Nat) : d.cl n = e.cl n := by simp [Dev.cl, h]
@[simp] theorem Dev.cl_setReg (d : Dev) (o : Nat) (v : Word) (n : Nat) : (d.setReg o v).cl n = d.cl n := rfl
@[simp] theorem Dev.reg_setCl (d : Dev) (n : Nat) (c : Cluster) (o : Nat) : (d.setCl n c).reg o = d.reg o := rfl
@[simp] theorem Dev.reg_onCl (d : Dev) (n : Nat) (f : Cluster → Cluster) (o : Nat) : (d.onCl n f).reg o = d.reg o := rfl
@[simp] theorem Dev.mem_setCl (d : Dev) (n : Nat) (c : Cluster) (sp : MSpace) : (d.setCl n c).mem sp = d.mem sp := by cases sp <;> rfl
@[simp] theorem Dev.mem_onCl (d : Dev) (n : Nat) (f : Cluster → Cluster) (sp : MSpace) : (d.onCl n f).mem sp = d.mem sp := by
  cases sp <;> rfl
@[simp] theorem Dev.mem_onS (d : Dev) (n : Nat) (f : SCore → SCore) (sp : MSpace) : (d.onS n f).mem sp = d.mem sp := by
  cases sp <;> rfl

/-! ## Scalar registers -/

/-- Register 0 reads zero (R71). -/
@[simp] theorem Dev.rd_zero (d : Dev) (a : Agent) : d.rd a 0 = 0 := rfl
/-- A write to register 0 is discarded (R71). -/
@[simp] theorem Dev.wr_zero (d : Dev) (a : Agent) (v : Word) : d.wr a 0 v = d := rfl
theorem Dev.rd_sCore (d : Dev) (n r : Nat) (h : r ≠ 0) : d.rd (.sCore n) r = NMap.get (d.cl n).s.regs 0 r := by
  simp [Dev.rd, h]
theorem Dev.wr_sCore (d : Dev) (n r : Nat) (v : Word) (h : r ≠ 0) :
    d.wr (.sCore n) r v = d.onS n fun s => { s with regs := NMap.set s.regs 0 r v } := by
  simp [Dev.wr, h]

/-! ## What `settle` does in a calm cluster -/

/-- In a calm cluster nothing has ended: settling changes nothing that is read. -/
theorem Dev.settle_calm (d : Dev) (n : Nat) (h : d.calm n = true) : d.settle n = d.setCl n (d.cl n) := by
  simp only [Dev.calm, Bool.and_eq_true, List.all_eq_true] at h
  obtain ⟨hl, hr⟩ := h
  have e1 : (d.cl n).launches.filter Launch.over = [] :=
    List.filter_eq_nil_iff.2 fun l hm => by have := hl l hm; simpa using this
  have e2 : (d.cl n).launches.filter (fun l => !l.over) = (d.cl n).launches := List.filter_eq_self.2 hl
  have e3 : d.settle n = (d.setCl n (d.cl n)).tryEnd n := by
    simp only [Dev.settle, Dev.onCl, e1, e2, List.foldl_nil]
  rw [e3]
  unfold Dev.tryEnd
  rw [Dev.cl_setCl_same]
  cases hrun : (d.cl n).run with
  | none => rfl
  | some r =>
    rw [hrun] at hr
    simp only [Option.isNone_iff_eq_none] at hr
    simp only [hr]

/-- A device that differs from another in its clusters only. -/
def Dev.onlyClusters (d e : Dev) : Prop := ∃ cs, e = { d with clusters := cs }
theorem Dev.onlyClusters_refl (d : Dev) : d.onlyClusters d := ⟨d.clusters, rfl⟩
theorem Dev.onlyClusters_setCl {d e : Dev} (h : d.onlyClusters e) (n : Nat) (c : Cluster) : d.onlyClusters (e.setCl n c) := by
  obtain ⟨cs, rfl⟩ := h
  exact ⟨_, rfl⟩
theorem Dev.onlyClusters_reg {d e : Dev} (h : d.onlyClusters e) (o : Nat) : e.reg o = d.reg o := by
  obtain ⟨cs, rfl⟩ := h
  rfl
theorem Dev.onlyClusters_mem {d e : Dev} (h : d.onlyClusters e) (sp : MSpace) : e.mem sp = d.mem sp := by
  obtain ⟨cs, rfl⟩ := h
  cases sp <;> rfl

theorem Dev.calm_congr {d e : Dev} {n : Nat} (h1 : (e.cl n).launches = (d.cl n).launches) (h2 : (e.cl n).run = (d.cl n).run) :
    e.calm n = d.calm n := by
  simp [Dev.calm, h1, h2]

/-- Everything the completion of an S-core's instruction does in a calm cluster, where the debug block does not step the core:
it counts as retired. -/
theorem Dev.complete_calm (d : Dev) (n : Nat) (h : d.calm n = true) (hs : (d.dbg (.sCore n)).stepping = false) :
    d.onlyClusters (d.complete (.sCore n)) ∧
    (d.complete (.sCore n)).cl n = { d.cl n with s := { (d.cl n).s with retired := (d.cl n).s.retired + 1 } } ∧
    ∀ m, m ≠ n → (d.complete (.sCore n)).cl m = d.cl m := by
  have hr : (d.retire (.sCore n)) = d.onS n fun s => { s with retired := s.retired + 1 } := rfl
  have hb : ((d.onS n fun s => { s with retired := s.retired + 1 }).dbg (.sCore n)).stepping = false := by
    simpa [Dev.dbg, Agent.cluster] using hs
  have hE : d.complete (.sCore n) = (d.onS n fun s => { s with retired := s.retired + 1 }).settle n := by
    unfold Dev.complete
    rw [hr]
    unfold Dev.stepEnd
    simp only [hb, Bool.false_eq_true, if_false]
    rfl
  have hc : (d.onS n fun s => { s with retired := s.retired + 1 }).calm n = true := by
    rw [← h]; exact Dev.calm_congr (by simp) (by simp)
  have e := hE.trans (Dev.settle_calm _ n hc)
  refine ⟨?_, ?_, fun m hm => ?_⟩
  · exact e ▸ Dev.onlyClusters_setCl ⟨_, rfl⟩ n _
  · rw [e]; simp
  · rw [e, Dev.cl_setCl_ne _ _ hm, Dev.cl_onS_ne _ _ hm]

/-- Everything that moving past an S-core's completed instruction does in a calm cluster, where the debug block does not step
the core. -/
theorem Dev.past_calm (d : Dev) (n len : Nat) (h : d.calm n = true) (hs : (d.dbg (.sCore n)).stepping = false) :
    d.onlyClusters (d.past (.sCore n) len) ∧
    (d.past (.sCore n) len).cl n = { d.cl n with
      s := { (d.cl n).s with pc := BitVec.ofNat 48 ((d.cl n).s.pc.toNat + len), retired := (d.cl n).s.retired + 1 } } ∧
    ∀ m, m ≠ n → (d.past (.sCore n) len).cl m = d.cl m := by
  have hc : (d.setPc (.sCore n) (d.pc (.sCore n) + len)).calm n = true := by
    rw [← h]; exact Dev.calm_congr (by simp [Dev.setPc]) (by simp [Dev.setPc])
  have hs' : ((d.setPc (.sCore n) (d.pc (.sCore n) + len)).dbg (.sCore n)).stepping = false := by
    simpa [Dev.dbg, Agent.cluster, Dev.setPc] using hs
  obtain ⟨h1, h2, h3⟩ := Dev.complete_calm _ n hc hs'
  refine ⟨?_, ?_, fun m hm => ?_⟩
  · obtain ⟨cs, hcs⟩ := h1
    exact ⟨cs, hcs⟩
  · exact h2.trans (by simp [Dev.setPc, Dev.pc])
  · exact (h3 m hm).trans (by simp only [Dev.setPc]; exact Dev.cl_onS_ne _ _ hm)

end Sys2Proof.Machine
end

