-- ==== Sys2Proof/Laws/Instr.lean ====
section
/-! SUPPORT. What running a command and issuing an instruction can do: cite these and do not unfold `run`, `instr4`,
`instr8` or `Dev.issue`. -/
namespace Sys2Proof.Machine

/-- Two effects that agree on the device give one next state. -/
theorem State.onDev_congr (s : State) (f g : Dev → Dev) (h : f s.dev = g s.dev) : s.onDev f = s.onDev g := by
  simp [State.onDev, h]
/-- The same for the answer. -/
theorem State.gives_congr {s : State} {f g : Dev → Dev} (h : f s.dev = g s.dev) : s.gives f = s.gives g :=
  congrArg Host.Outcome.next (State.onDev_congr s f g h)
@[simp] theorem State.onDev_pending (s : State) (f : Dev → Dev) : (s.onDev f).pending = s.pending := rfl
@[simp] theorem State.onDev_part (s : State) (f : Dev → Dev) : (s.onDev f).dev.part = s.dev.part := rfl

/-- A command whose units exist answers the state that its effect gives. -/
theorem run_true (s : State) (f : Dev → Dev) : run true s f = s.gives f := rfl
/-- A command with a unit that does not exist changes nothing (log entry 7). -/
theorem run_false (s : State) (f : Dev → Dev) : run false s f = .next s := rfl
/-- Everything a command can answer. -/
theorem run_cases (ok : Bool) (s : State) (f : Dev → Dev) :
    (ok = true ∧ run ok s f = s.gives f) ∨ (ok = false ∧ run ok s f = .next s) := by
  cases ok <;> simp [run, State.onDev]
/-- The next state of a command has the queue and the part that it found. -/
theorem run_keeps {ok : Bool} {s t : State} {f : Dev → Dev} (h : run ok s f = .next t) :
    t.pending = s.pending ∧ t.dev.part = s.dev.part := by
  cases ok <;> simp only [run, Host.Outcome.next.injEq] at h <;> subst h <;> exact ⟨rfl, rfl⟩

/-- An agent that can issue runs the body of its instruction. -/
theorem Dev.issue_ready (d : Dev) (a : Agent) (len : Nat) (body : Dev → Out) (h : d.ready a = true)
    (hf : d.fetchTrap a len = none) (hh : d.fetchMiss a len = none) : d.issue a len body = d.conclude a len (body d) := by
  simp [Dev.issue, h, hf, hh]
/-- An agent that cannot issue does nothing. -/
theorem Dev.issue_notReady (d : Dev) (a : Agent) (len : Nat) (body : Dev → Out) (h : d.ready a = false) :
    d.issue a len body = d := by
  simp [Dev.issue, h]
/-- A fetch that misses asks for its line, and the instruction has no effect yet. -/
theorem Dev.issue_fetchMiss (d : Dev) (a : Agent) (len l : Nat) (body : Dev → Out) (h : d.ready a = true)
    (hf : d.fetchTrap a len = none) (hm : d.fetchMiss a len = some l) : d.issue a len body = d.askFetch a l := by
  simp [Dev.issue, h, hf, hm]
/-- A fetch that traps takes the trap in the instruction's place, with its address as TVAL. -/
theorem Dev.issue_fetchTrap (d : Dev) (a : Agent) (len c : Nat) (body : Dev → Out) (h : d.ready a = true)
    (hf : d.fetchTrap a len = some c) :
    d.issue a len body = (d.fetchRead a len).conclude a len (.trap c (BitVec.ofNat 64 (d.pc a))) := by
  simp [Dev.issue, h, hf]

@[simp] theorem Dev.conclude_done (d x : Dev) (a : Agent) (len : Nat) : d.conclude a len (.done x) = x.past a len := rfl
@[simp] theorem Dev.conclude_goto (d x : Dev) (a : Agent) (len t : Nat) : d.conclude a len (.goto x t) = x.reached a t := rfl
@[simp] theorem Dev.conclude_moved (d x : Dev) (a : Agent) (len : Nat) : d.conclude a len (.moved x) = x.complete a := rfl
@[simp] theorem Dev.conclude_trap (d : Dev) (a : Agent) (len c : Nat) (v : Word) :
    d.conclude a len (.trap c v) = d.trapped a c v := rfl
@[simp] theorem Dev.conclude_trapOn (d x : Dev) (a : Agent) (len c : Nat) (v : Word) :
    d.conclude a len (.trapOn x c v) = x.trapped a c v := rfl
@[simp] theorem Dev.conclude_wait (d x : Dev) (a : Agent) (len : Nat) : d.conclude a len (.wait x) = x := rfl
@[simp] theorem Dev.conclude_stall (d : Dev) (a : Agent) (len : Nat) : d.conclude a len .stall = d := rfl

/-- A 4-byte instruction that can issue: the next state is that of its body's outcome. -/
theorem instr4_gives {s : State} {a : Agent} (h : s.canIssue a) (body : Dev → Out) :
    instr4 a s body = s.gives fun d => d.conclude a 4 (body d) := by
  obtain ⟨ha, hr, hf, hh⟩ := h
  unfold instr4
  rw [ha, run_true]
  exact State.gives_congr (Dev.issue_ready _ _ _ _ hr hf hh)
/-- The same for a body whose outcome is known. -/
theorem instr4_out {s : State} {a : Agent} (h : s.canIssue a) {body : Dev → Out} {o : Out} (hb : body s.dev = o) (f : Dev → Dev)
    (hf : s.dev.conclude a 4 o = f s.dev) : instr4 a s body = s.gives f := by
  rw [instr4_gives h]
  exact State.gives_congr (by rw [hb, hf])
/-- An 8-byte instruction of a group that can issue. -/
theorem instr8_out {s : State} {a : Agent} {g : Group} (h : s.canIssueG a g) {w : Word} {body : Dev → Group → Out} {o : Out}
    (hb : body s.dev g = o) (f : Dev → Dev) (hf : s.dev.conclude a 8 o = f s.dev) : instr8 a s w body = s.gives f := by
  obtain ⟨⟨ha, hr, hft, hh⟩, hg⟩ := h
  unfold instr8
  rw [ha, run_true]
  refine State.gives_congr ?_
  rw [Dev.issue_ready _ _ _ _ hr hft hh]
  simp only [hg]
  rw [hb, hf]
/-- An S-core does not execute SV-G (R70). -/
theorem instr8_sCore {s : State} {n : Nat} (h : s.mayIssue (.sCore n) 8) (w : Word) (body : Dev → Group → Out) :
    instr8 (.sCore n) s w body = s.gives fun d => d.trapped (.sCore n) cILLEGAL w := by
  obtain ⟨ha, hr, hft, hh⟩ := h
  unfold instr8
  rw [ha, run_true]
  exact State.gives_congr (by rw [Dev.issue_ready _ _ _ _ hr hft hh]; rfl)

end Sys2Proof.Machine
end

