-- ==== Sys2Proof/Laws/Memory.lean ====
section
/-! SUPPORT. Every operation on a memory keeps its canonical form; a byte that has been written reads as written, and every
other byte as before. -/
namespace Sys2Proof.Machine

theorem Mem.wf_iff (m : Mem) : m.wf = true ↔ NMap.wf m.cells 0 = true ∧ NMap.wf m.marks (.touched 0) = true := by
  simp [Mem.wf]

/-- A memory in which nothing has been written is canonical. -/
theorem Mem.empty_wf : Mem.empty.wf = true := rfl

theorem Mem.setByte_wf (m : Mem) (a : Nat) (b : Byte) (h : m.wf = true) : (m.setByte a b).wf = true := by
  obtain ⟨h1, h2⟩ := m.wf_iff.1 h
  exact (Mem.wf_iff _).2 ⟨NMap.wf_set _ _ _ _ h1, h2⟩

@[simp] theorem Mem.setByte_marks (m : Mem) (a : Nat) (b : Byte) : (m.setByte a b).marks = m.marks := rfl
@[simp] theorem Mem.setByte_gen (m : Mem) (a : Nat) (b : Byte) : (m.setByte a b).gen = m.gen := rfl

/-- A byte read after a byte write. -/
theorem Mem.byte_setByte (m : Mem) (a x : Nat) (b : Byte) :
    (m.setByte a b).byte x = if x = a then b else m.byte x :=
  NMap.get_set _ _ _ _ _

/-- Storing a list of bytes, one at a time. -/
theorem Mem.foldl_setByte_wf (l : List Nat) (g : Nat → Nat) (v : Nat → Byte) (m : Mem) (h : m.wf = true) :
    (l.foldl (fun m k => m.setByte (g k) (v k)) m).wf = true := by
  induction l generalizing m with
  | nil => exact h
  | cons k l ih => exact ih _ (m.setByte_wf _ _ h)
theorem Mem.foldl_setByte_marks (l : List Nat) (g : Nat → Nat) (v : Nat → Byte) (m : Mem) :
    (l.foldl (fun m k => m.setByte (g k) (v k)) m).marks = m.marks := by
  induction l generalizing m with
  | nil => rfl
  | cons k l ih => exact ih _

theorem Mem.setBytes8_wf (m : Mem) (w : Nat) (v : Word) (h : m.wf = true) : (m.setBytes8 w v).wf = true :=
  Mem.foldl_setByte_wf _ _ _ m h
@[simp] theorem Mem.setBytes8_marks (m : Mem) (w : Nat) (v : Word) : (m.setBytes8 w v).marks = m.marks :=
  Mem.foldl_setByte_marks _ _ _ m

theorem Mem.setMark_wf (m : Mem) (w : Nat) (k : Mark) (h : m.wf = true) :
    ({ m with marks := NMap.set m.marks (.touched 0) w k } : Mem).wf = true := by
  obtain ⟨h1, h2⟩ := m.wf_iff.1 h
  exact (Mem.wf_iff _).2 ⟨h1, NMap.wf_set _ _ _ _ h2⟩

theorem Mem.putWord_wf (m : Mem) (w : Nat) (v : Word) (h : m.wf = true) : (m.putWord w v).wf = true :=
  (m.setBytes8 w v).setMark_wf w .written (m.setBytes8_wf w v h)
theorem Mem.poison_wf (m : Mem) (w : Nat) (h : m.wf = true) : (m.poison w).wf = true :=
  (m.setBytes8 w 0).setMark_wf w .poisoned (m.setBytes8_wf w 0 h)

theorem Mem.damage_wf (m : Mem) (w : Nat) (h : m.wf = true) : (m.damage w).wf = true := by
  unfold Mem.damage
  split
  · exact m.setMark_wf w .damaged h
  · exact h

theorem Mem.mergeW_wf (m : Mem) (id w : Nat) (mask : BitVec 8) (v : Word) (h : m.wf = true) : (m.mergeW id w mask v).1.wf = true := by
  unfold Mem.mergeW
  split
  · exact m.putWord_wf w v h
  · split
    · exact h
    · split
      · split
        · exact m.poison_wf w h
        · exact h
      · split
        · exact m.setMark_wf w _ h
        · exact m.putWord_wf w _ h

theorem Mem.lose_wf (m : Mem) (lo hi : Nat) (h : m.wf = true) : (m.lose lo hi).wf = true := by
  obtain ⟨h1, h2⟩ := m.wf_iff.1 h
  exact (Mem.wf_iff _).2 ⟨NMap.wf_filter _ _ _ h1, NMap.wf_filter _ _ _ h2⟩
theorem Mem.loseAll_wf (m : Mem) : m.loseAll.wf = true := rfl

/-- Copying entries that are not the default keeps the canonical form. -/
theorem NMap.wf_foldl_put {α : Type} [DecidableEq α] (d : α) (l : List (Nat × α)) (m : NMap α) (h : NMap.wf m d = true)
    (hl : ∀ e ∈ l, e.2 ≠ d) : NMap.wf (l.foldl (fun m x => NMap.put m x.1 x.2) m) d = true := by
  induction l generalizing m with
  | nil => exact h
  | cons x l ih =>
    exact ih _ (NMap.wf_put m d x.2 x.1 h (hl x (by simp))) fun e he => hl e (List.mem_cons_of_mem _ he)

theorem Mem.copyRange_wf (src dst : Mem) (lo hi : Nat) (hs : src.wf = true) (hd : dst.wf = true) :
    (src.copyRange dst lo hi).wf = true := by
  obtain ⟨s1, s2⟩ := src.wf_iff.1 hs
  obtain ⟨d1, d2⟩ := (Mem.wf_iff _).1 (dst.lose_wf (lo / 8) (hi / 8) hd)
  refine (Mem.wf_iff _).2 ⟨?_, ?_⟩
  · exact NMap.wf_foldl_put _ _ _ d1 fun e he => ((NMap.wf_iff _ _).1 s1).2 e (List.mem_filter.1 he).1
  · exact NMap.wf_foldl_put _ _ _ d2 fun e he => ((NMap.wf_iff _ _).1 s2).2 e (List.mem_filter.1 he).1

theorem Mem.copyOut_wf (m : Mem) (id : Nat) (h : m.wf = true) : (m.copyOut id).wf = true := by
  have : ∀ (l : List Nat) (x : Mem), x.wf = true → (l.foldl (fun (x : Mem) w => match m.readW id w with
      | .ok v => x.putWord w v
      | .bad _ => x.poison w) x).wf = true := by
    intro l
    induction l with
    | nil => exact fun _ h => h
    | cons w l ih =>
      intro x hx
      refine ih _ ?_
      dsimp only
      split
      · exact x.putWord_wf _ _ hx
      · exact x.poison_wf _ hx
  exact this _ m h

/-! ## Memories of the device -/

@[simp] theorem Dev.mem_setMem_same (d : Dev) (sp : MSpace) (m : Mem) : (d.setMem sp m).mem sp = m := by
  cases sp <;> simp [Dev.setMem, Dev.mem]
theorem Dev.mem_setMem_ne (d : Dev) (sp sq : MSpace) (m : Mem) (h : sq ≠ sp) : (d.setMem sp m).mem sq = d.mem sq := by
  cases sp with
  | com => cases sq with
    | com => exact absurd rfl h
    | loc k => rfl
  | loc n => cases sq with
    | com => rfl
    | loc k =>
      have : k ≠ n := fun e => h (by rw [e])
      simp [Dev.setMem, Dev.mem, NMap.get_put_ne _ _ _ this]

end Sys2Proof.Machine
end

