-- ==== Sys2Proof/Tests/Slice0.lean ====
section
/-! SUPPORT. Checks of the model by evaluation: for each statement a small state and operands that meet its
hypotheses (`witness_…`), ill-formed commands that each check of WellFormed refuses (`wf_…`), and single steps whose
results are worked out from the spec by hand (`test_…`). -/
open Sys2Proof Sys2Proof.Machine
namespace Sys2Proof.Tests
-- one theorem after the other: each is evaluated by the kernel
set_option Elab.async false

/-! ## Small states -/

/-- A state around a device, with nothing waiting. -/
def st (d : Dev) : State := { State.reset with dev := d }
/-- A GH-880-S in full function with cluster 0 present, whose first words of Local are written, with zeros. -/
def up : Dev := { (Dev.reset.setStage 8).setRb (oClu 0) 20 true with loc := [(0, { cells := [], marks := [(0, .written), (1, .written)], gen := 0 })] }
/-- The S-core of cluster 0. -/
abbrev s0 : Agent := .sCore 0
/-- Slot 0 of V-core 0. -/
abbrev g0 : Agent := .group 0 false 0
/-- The device with values in s1 and s2. -/
def regs (x y : Word) : Dev := (up.wr s0 1 x).wr s0 2 y
/-- The device with a Local word written. -/
def local_ (d : Dev) (w : Nat) (v : Word) : Dev := d.setMem (.loc 0) ((d.mem (.loc 0)).putWord w v)
/-- A resident group of 32 lane registers at Local address 0. -/
def grp : Group :=
  { launch := 1, tok := 5, vregs := 8, regs := [], u := [], p := [], pcs := List.replicate 32 0, live := BitVec.allOnes 32,
    waiting := 0, tr := TrapRegs.zero, exact := false, wait := .none, resv := none, stFail := false }
/-- The device with that group. -/
def withGrp (g : Group) : Dev := (up.setRf (oCtx 0 + 4) 14 8 1).setGrp g0 g
/-- The device at Guest level, in context 0 with a share of 64 KiB. -/
def guest : Dev := (up.setRf (oCtx 0 + 4) 14 8 1).onS 0 fun x => { x with level := .guest }
/-- Whether a command answers a next state whose device satisfies a test. -/
def gives (c : Instr) (d : Dev) (p : Dev → Bool) : Bool :=
  match exec c (st d) with
  | .next t => p t.dev
  | _ => false
/-- What a register instruction of the S-core leaves in s3. -/
def s3 (c : Instr) (d : Dev) (v : Word) : Bool := gives c d fun e => decide (e.rd s0 3 = v) && decide (e.pc s0 = 4)
/-- rd = s3, rs1 = s1, rs2 = s2. -/
def rr : FmtRR := { rd := 3, rs1 := 1, rs2 := 2 }
/-- rd = s3, rs1 = s1. -/
def ri (imm : BitVec 13) : FmtRI := { rd := 3, rs1 := 1, imm := imm }
/-- rs1 = s1, rs2 = s2, 8 bytes on. -/
def br : FmtBR := { rs1 := 1, rs2 := 2, off := 2 }
/-- The address is s1; rd is s3, rs2 is s2. -/
def ma (sz : BitVec 1) : FmtMA := { rd := 3, rs1 := 1, rs2 := 2, sz := sz, mark := 0, scope := 0 }
/-- The address is s1; the register is s3. -/
def mb (size : BitVec 3) : FmtMB := { rd := 3, rs1 := 1, size := size, imm := 0 }
/-- A system instruction with rd = s3, rs1 = s1. -/
def sy (sys : BitVec 9) : FmtSY := { rd := 3, rs1 := 1, sys := sys }

/-! ## The machine as a whole -/

theorem witness_step : ({ st up with pending := [.rearm, .alertRelease] } : State).pending = .rearm :: [.alertRelease] ∧
    (st up).pending = [] := by decide +kernel
theorem test_step_takes_front :
    (match step { st up with pending := [.rearm, .alertRelease] } with
      | .next t => decide (t.pending = [.alertRelease]) && decide (t.dev.rf 0x20014 15 0 = 0xFFFF)
      | _ => false) = true := by decide +kernel
theorem witness_every_command : (Instr.clusterProbe 383 true).wf = true ∧ (Instr.clusterProbe 384 true).wf = false ∧
    (step (st up) = .next { st up with dev := { up.tick with part := up.part } }) := ⟨by decide +kernel, by decide +kernel, rfl⟩

/-! ## SV-S -/

theorem witness_register_instructions : (st (regs 1 2)).canIssue s0 ∧ (ri 63).imm.toNat < 64 ∧ 64 ≤ (ri 64).imm.toNat := by
  decide +kernel
theorem witness_register_instructions_group : (st (withGrp grp)).canIssue g0 := by decide +kernel
theorem witness_division : (0 : Int) ≤ (0 : Word).toInt ∧ ((BitVec.allOnes 64).toInt < 0) ∧ ((1 : Word) ≠ 0) ∧
    ¬((0x8000000000000001 : Word) = 0x8000000000000000 ∧ (BitVec.allOnes 64 : Word).toInt = -1) := by decide
theorem witness_register_file : Agent.ok s0 = true ∧ s0.isGroup = false ∧ Agent.ok g0 = true ∧ ((withGrp grp).grp g0).isSome = true ∧
    Agent.ok (.group 383 true 15) = true ∧ g0 ≠ s0 := by decide +kernel
theorem witness_control_flow : (st (regs 1 2)).canIssue s0 ∧ targetTrap (BitVec.ofNat 64 ((regs 1 2).pc s0) + br.off.signExtend 64 * 4) = none ∧
    targetTrap (0xFFFFFFFFFFFC : Word) = none ∧ (0xFFFFFFFFFFFE : Word).toNat % 4 ≠ 0 := by decide +kernel
theorem witness_register_frame : (st (regs 1 2)).canIssue s0 ∧ (regs 1 2).calm 0 = true := by decide +kernel

theorem test_add_wraps : s3 (.add s0 rr) (regs (BitVec.allOnes 64) 1) 0 = true := by decide +kernel
theorem test_sub : s3 (.sub s0 rr) (regs 0 1) (BitVec.allOnes 64) = true := by decide +kernel
theorem test_sll_64 : s3 (.sll s0 rr) (regs 1 64) 0 = true := by decide +kernel
theorem test_sra_past : s3 (.sra s0 rr) (regs 0x8000000000000000 0x7F) (BitVec.allOnes 64) = true := by decide +kernel
theorem test_srl_127_is_7_bits : s3 (.srl s0 rr) (regs 8 0x83) 1 = true := by decide +kernel
theorem test_slt_signed : s3 (.slt s0 rr) (regs (BitVec.allOnes 64) 0) 1 = true := by decide +kernel
theorem test_sltu_unsigned : s3 (.sltu s0 rr) (regs (BitVec.allOnes 64) 0) 0 = true := by decide +kernel
theorem test_mulh_minus_one : s3 (.mulh s0 rr) (regs (BitVec.allOnes 64) 2) (BitVec.allOnes 64) = true := by decide +kernel
theorem test_mulhu : s3 (.mulhu s0 rr) (regs (BitVec.allOnes 64) 2) 1 = true := by decide +kernel
theorem test_div_overflow : s3 (.div s0 rr) (regs 0x8000000000000000 (BitVec.allOnes 64)) 0x7FFFFFFFFFFFFFFF = true := by decide +kernel
theorem test_div_by_zero : s3 (.div s0 rr) (regs (BitVec.allOnes 64) 0) 0x8000000000000000 = true := by decide +kernel
theorem test_divu_by_zero : s3 (.divu s0 rr) (regs 5 0) (BitVec.allOnes 64) = true := by decide +kernel
theorem test_rem_by_zero : s3 (.rem s0 rr) (regs 5 0) 0 = true := by decide +kernel
theorem test_rem_sign : s3 (.rem s0 rr) (regs (BitVec.ofInt 64 (-7)) 3) (BitVec.ofInt 64 (-1)) = true := by decide +kernel
theorem test_max_signed : s3 (.max s0 rr) (regs (BitVec.allOnes 64) 0) 0 = true := by decide +kernel
theorem test_addi_negative : s3 (.addi s0 (ri 0x1FFF)) (regs 0 0) (BitVec.allOnes 64) = true := by decide +kernel
theorem test_andi_zero_extends : s3 (.andi s0 (ri 0x1FFF)) (regs (BitVec.allOnes 64) 0) 0x1FFF = true := by decide +kernel
theorem test_slti_sign : s3 (.slti s0 (ri 0x1FFF)) (regs (BitVec.ofInt 64 (-2)) 0) 1 = true := by decide +kernel
theorem test_cst_h : s3 (.cstH s0 { rd := 3, imm := 0x40000 }) up 0xFFFC000000000000 = true := by decide +kernel
theorem test_cst_m : s3 (.cstM s0 { rd := 3, imm := 1 }) up 0x2000 = true := by decide +kernel
theorem test_s0_stays_zero : gives (.add s0 { rd := 0, rs1 := 1, rs2 := 2 }) (regs 1 2) (fun e => decide (e.rd s0 0 = 0)) = true := by
  decide +kernel
theorem test_beq_taken : gives (.beq s0 br) (regs 5 5) (fun e => decide (e.pc s0 = 8)) = true := by decide +kernel
theorem test_bltu_not_taken : gives (.bltu s0 br) (regs (BitVec.allOnes 64) 0) (fun e => decide (e.pc s0 = 4)) = true := by
  decide +kernel
theorem test_jalr_reads_first : gives (.jalr s0 { rd := 1, rs1 := 1, imm := 4 }) (regs 0x100 0)
    (fun e => decide (e.pc s0 = 0x104) && decide (e.rd s0 1 = 4)) = true := by decide +kernel
theorem test_jalr_misaligned : gives (.jalr s0 (ri 2)) (regs 0 0)
    (fun e => decide ((e.tr s0).tcause = BitVec.ofNat 64 cMISALIGNED) && decide ((e.tr s0).tval = 2)) = true := by decide +kernel

/-! ## Scalar memory -/

/-- Address 0x48 in s1, a value in s2; the word at 0x48 holds bytes 88 87 … 81. -/
def memd (v : Word) : Dev := local_ (regs 0x48 v) 9 0x8182838485868788

theorem witness_local_memory : (st (memd 7)).canIssue s0 ∧ (memd 7).addrMB s0 (mb 0) < localSize ∧
    ((memd 7).mem (.loc 0)).mark ((memd 7).addrMB s0 (mb 0) / 8) = .written ∧
    (memd 7).noStoreMeets s0 ((memd 7).addrMB s0 (mb 0) / 8 * 8) 8 = true ∧
    (memd 7).accessTrap s0 .load true false ((memd 7).addrMB s0 (mb 0)) 1 = none ∧
    (memd 7).accessTrap s0 .loadRo true false ((memd 7).addrMB s0 (mb 3)) 8 = none ∧
    marksOk true false (ma 1).mark (ma 1).scope = true ∧ marksOk false true (ma 1).mark (ma 1).scope = true ∧
    (memd 7).accessTrap s0 .load true false ((memd 7).addrMA s0 (ma 1)) 8 = none ∧
    (memd 7).accessTrap s0 .store false false ((memd 7).addrMB s0 (mb 3)) 8 = none ∧
    (memd 7).accessTrap s0 .store true false ((memd 7).addrMA s0 (ma 1)) 8 = none ∧
    inDevSpace ((memd 7).addrMB s0 (mb 3)) = false ∧ (((memd 7).cl 0).q 0).length < queueCap 0 ∧ (memd 7).calm 0 = true ∧
    ((memd 7).cl 0).qS.length < 16 := by decide +kernel
/-- A store of 0x1234 to 0x4A in the queue of the S-core. -/
def queued : Dev := (memd 7).onCl 0 fun c => { c with qS := [{ seq := 0, by_ := s0, runs := [{ addr := 0x4A, n := 2, val := 0x1234 }], relSy := false }] }
theorem witness_drain : queued.present 0 = true ∧ queued.calm 0 = true ∧ (queued.cl 0).qS.length = 1 ∧
    (queued.cl 0).buf.length ≤ 64 ∧ (queued.mem (.loc 0)).mark (0x4A / 8) = .written ∧ 0x4A % 8 + 2 ≤ 8 := by decide +kernel
theorem witness_atomics : (st (memd 7)).canIssue s0 ∧ marksOk true true (ma 1).mark (ma 1).scope = true ∧
    (memd 7).accessTrap s0 .atomic true false ((memd 7).addrMA s0 (ma 1)) 8 = none ∧ (memd 7).addrMA s0 (ma 1) < localSize ∧
    (memd 7).atomWaits s0 0 0 [{ by_ := s0, fn := .add, addr := 0x48, n := 8, lanes := [(32, 7, 0)], exact := false }] = false ∧
    (memd 7).atomWaits s0 0 0 [resvAtm s0 0x48 8] = false ∧ (memd 7).resvHolds s0 0x48 8 = false ∧
    ((memd 7).setResv s0 (some { addr := 0x48, n := 8, commons := false })).resvHolds s0 0x48 8 = true := by decide +kernel
theorem witness_atomic_results : ((4 : Nat) = 4 ∨ (4 : Nat) = 8) ∧ (0xFFFFFFFF : Word).toNat < 256 ^ 4 := by decide
theorem witness_guest_isolation : (st guest).canIssue s0 = False ∨ guest.level s0 = .guest := by right; decide +kernel
/-- A Guest with an address in s1. -/
def guestAt (x : Word) : Dev := guest.wr s0 1 x
theorem witness_guest_isolation_local : (st (guestAt 0x10000)).canIssue s0 ∧ (guestAt 0x10000).level s0 = .guest ∧
    ((guestAt 0x10000).share 0).2 < (guestAt 0x10000).addrMB s0 (mb 0) + 1 ∧ (guestAt 0x10000).addrMB s0 (mb 0) < localSize ∧
    ¬((guestAt 0x10000).addrMB s0 (mb 0) + 1 ≤ ((guestAt 0x10000).cl 0).s.cmd.toNat + 64) := by decide +kernel
theorem witness_guest_isolation_commons : (guestAt 0x1000000000).partAt ((guestAt 0x1000000000).addrMB s0 (mb 0)) = none ∧
    localSize ≤ (0x740000 + 0x1000000 : Nat) ∧ inDevSpace ((guestAt 0x7F00000000).addrMB s0 (mb 2)) = true ∧
    (st (guestAt 0x7F00000000)).canIssue s0 := by decide +kernel

theorem test_ld_misaligned : gives (.ld s0 (mb 3) false) ((memd 0).wr s0 1 0x4C)
    (fun e => decide ((e.tr s0).tcause = BitVec.ofNat 64 cMISALIGNED) && decide ((e.tr s0).tval = 0x4C)) = true := by decide +kernel
theorem test_drain_writes : gives (.storeQueueDrain 0 .s) queued (fun e => decide ((e.mem (.loc 0)).word 9 = 0x8182838412348788)) = true := by
  decide +kernel
theorem test_amo_add_4 : gives (.amoAdd s0 (ma 0)) (memd 0x80000000) (fun e => decide (e.rd s0 3 = 0xFFFFFFFF85868788) &&
    decide ((e.mem (.loc 0)).word 9 = 0x8182838405868788)) = true := by decide +kernel
theorem test_st_cond_without : gives (.stCond s0 (ma 1)) (memd 1) (fun e => decide (e.rd s0 3 = 1) &&
    decide ((e.mem (.loc 0)).word 9 = 0x8182838485868788)) = true := by decide +kernel
theorem test_guest_outside_share : gives (.ld s0 (mb 0) false) (guestAt 0x10000)
    (fun e => decide ((e.tr s0).tcause = BitVec.ofNat 64 cUNMAPPED) && decide ((e.tr s0).tval = 0x10000) && decide (e.level s0 = .keeper)) = true := by
  decide +kernel

/-! ## System instructions -/

theorem witness_system_instructions : (st up).canIssue s0 ∧ csrAccess 0 .guest = some .ro ∧ csrAccess 0x20 .guest = some .rw ∧
    csrAccess 5 .keeper = none ∧ csrAccess 0xC1 .guest = some .none ∧ csrAccess 0xC1 .keeper = some .rw ∧ guest.level s0 = .guest ∧
    up.level s0 = .keeper ∧ (up.cl 0).run = none ∧ (up.cl 0).cmdq = [] ∧ (up.cl 0).qS = [] ∧ (up.cl 0).buf = [] := by decide +kernel
/-- The S-core waits at a fence with no store before it. -/
def fenced : Dev := up.setWait s0 (.fence 2 0)
theorem witness_fence : fenced.waitOf s0 = .fence 2 0 ∧ (fenced.cl 0).fenceDone 0 2 0 = true := by decide +kernel
/-- A delivered command. -/
def cmd1 : CmdRec :=
  { op := 1, c := default, func := 0, win := 0, slot := 0, port := 0, seq := 0, ctx := 0, waitNs := 0, reissued := false, acc := 0,
    mirrored := true, atTwin := false }
/-- A command that runs on cluster 0. -/
def run1 : RunCmd :=
  { cid := 1, q := cmd1, epoch := 0, cluster := 0, ns := 0, wbFailed := 0, wbToken := 0, trap := none, ending := none, internal := false,
    moved := false }
theorem witness_commands : ((up.onCl 0 fun c => { c with cmdq := [cmd1] }).cl 0).cmdq ≠ [] ∧
    ((up.setWait s0 (.wfc 3)).cl 0).s.wait = .wfc 3 ∧ (up.setWait s0 (.wfc 3)).running 0 = true ∧
    ((up.setWait s0 (.wfc 3)).dbg s0).halted = false ∧ ((up.onCl 0 fun c => { c with run := some run1 }).cl 0).run = some run1 ∧
    run1.ending = none := by decide +kernel
theorem witness_trap_entry : cMISALIGNED < 64 ∧ guest.level s0 = .guest ∧ delegable cMISALIGNED = true ∧
    ((guest.onS 0 fun x => { x with tr := { x.tr with gdeleg := BitVec.allOnes 64 } }).tr s0).gdeleg.getLsbD cMISALIGNED = true := by
  decide +kernel
theorem witness_trap_return : (st up).canIssue s0 ∧ targetTrap (up.tr s0).tpc = none ∧ up.calm 0 = true ∧ (up.dbg s0).onBreak = false ∧
    ((up.onDbg s0 fun x => { x with onBreak := true }).dbg s0).onBreak = true := by decide +kernel

theorem test_csrw_returns_old : gives (.csrw s0 (sy 0x41)) (regs 9 0) (fun e => decide (e.rd s0 3 = 0) && decide ((e.tr s0).gscratch = 9)) = true := by
  decide +kernel
theorem test_csr_privilege : gives (.csrr s0 (sy 0xC0)) guest (fun e => decide ((e.tr s0).tcause = BitVec.ofNat 64 cPRIVILEGE) &&
    decide ((e.tr s0).tval = 0xC0)) = true := by decide +kernel
theorem test_ebreak_trap : gives (.ebreak s0 (sy 0) false) guest (fun e => decide ((e.tr s0).tcause = BitVec.ofNat 64 cBREAK) &&
    decide ((e.tr s0).tstatus = 0) && decide (e.level s0 = .keeper)) = true := by decide +kernel
theorem test_eret_stays_guest : gives (.eret s0 (sy 0)) (guest.onS 0 fun x => { x with tr := { x.tr with tpc := 0x40, tstatus := 5 } })
    (fun e => decide (e.pc s0 = 0x40) && decide (e.level s0 = .guest) && decide ((e.tr s0).tstatus = 1)) = true := by decide +kernel
theorem test_fence_completes : gives (.fenceComplete s0) fenced (fun e => decide (e.waitOf s0 = .none) && decide (e.pc s0 = 4)) = true := by
  decide +kernel

/-! ## SV-G -/

/-- A group with 64 lane registers, lane l holding l in v1 and v2. -/
def lg : Group := { grp with
  regs := (List.range 32).foldl (fun m l => NMap.set (NMap.set m 0 (32 + l) (BitVec.ofNat 32 l)) 0 (64 + l) (BitVec.ofNat 32 l)) [] }
/-- VD = v3, VA = v1, VB = v2, every active lane. -/
def gl (ty : BitVec 4) : FmtGL :=
  { vd := 3, va := 1, vb := 2, vc := 0, ty := ty, rnd := 0, ub := 0, gd := 0, pred := 0, neg := 0, rsv := 0 }
/-- What a lane instruction leaves in a lane of v3. -/
def v3 (c : Instr) (l : Nat) (x : Half) : Bool := gives c (withGrp lg) fun e => match e.grp g0 with
  | some g => decide (g.v 3 l = x)
  | none => false

/-- A group with 32 lane registers per lane. -/
def grp1 : Group := { grp with vregs := 1 }
theorem witness_lane_integers : (st (withGrp lg)).canIssueG g0 lg ∧ (gl 7).rsv = 0 ∧ guardOk (gl 7).gd (gl 7).neg (gl 7).pred = true ∧
    guardOk 1 1 7 = true ∧ guardOk 0 1 0 = false ∧ guardOk 0 0 1 = false ∧ intTypeOk (gl 7) = true ∧ intTypeOk (gl 8) = true ∧
    lg.has 3 1 = true ∧ lg.has 1 1 = true ∧ ubOk lg (gl 7) 1 = true ∧ lg.has 255 1 = true ∧
    grp1.has 31 1 = true ∧ grp1.has 32 1 = false := by decide +kernel
theorem witness_lane_frame : (lg.participating 0 0 0).getLsbD 31 = true ∧ (lg.participating 1 0 0).getLsbD 31 = false := by decide +kernel
theorem witness_lane_floats : (st (withGrp lg)).canIssueG g0 lg ∧ fpRegsOk lg (gl 0) false true = true ∧
    fpRegsOk lg { gl 5 with vd := 4, va := 2, vb := 6 } true true = true := by decide +kernel
theorem witness_nan : (fp32.decode 0x7FC00000).isNaN = true ∧ (fp64.decode 0x7FF8000000000000).isNaN = true := by decide +kernel
theorem witness_lesser : 0x80000000 < 2 ^ (fp32.eb + fp32.mb + 1) ∧ (fp32.decode 0x80000000).isNaN = false ∧ (fp32.decode 0).isNaN = false ∧
    fpMinMax false fp32 0 0 0 0x80000000 0 = (0x80000000, 0) ∧ fpMinMax true fp32 0 0 0x80000000 0 0 = (0, 0) ∧
    (fp16.decode 0x7C01).isNaN = true ∧ (fp16.decode 0xFFFF).isNaN = true ∧ (fp16.decode 0xFC00).isNaN = false ∧
    fpMinMax false fp16 0 0 0x7C01 0xFC00 0 = (0xFC00, 0) ∧ fpMinMax false fp16 0 0 0xFFFF 0x7C01 0 = (fp16.nanEnc, 0) := by decide +kernel
theorem witness_lane_functions : (st (withGrp lg)).canIssueG g0 lg ∧ lg.has64 2 = true ∧ (cvtTy 0).isSome = true ∧ (cvtTy 5).isSome = true ∧
    (cvtTy 0xE).isSome = true := by decide +kernel
theorem witness_shuffles : (st (withGrp lg)).canIssueG g0 lg ∧ lg.has 0 1 = true ∧ ubOk lg { gl 0 with ub := 1, vb := 63 } 1 = true ∧
    ubOk lg { gl 0 with ub := 1, vb := 64 } 1 = false := by decide +kernel
/-- Format GC with an offset. -/
def gc (off : BitVec 32) : FmtGC := { off := off, gd := 0, pred := 0, neg := 0, rsv := 0 }
theorem witness_group_control : (st (withGrp lg)).canIssueG g0 lg ∧ lg.participating 0 0 0 ≠ 0 ∧ lg.participating 1 0 0 = 0 ∧
    targetTrap (BitVec.ofNat 64 ((withGrp lg).pc g0) + (8 : BitVec 32).signExtend 64) = none := by decide +kernel
/-- A launch of one group, ENTRY 0x800, VREGS 1, V-core 0 only, whose record has been checked. -/
def launch1 : Launch :=
  { id := 1, tok := 5, record := 0x800 + 2 ^ 64 + 2 ^ 80 + 2 ^ 88, gtvec := 0, gdeleg := 0, checked := true, next := 0,
    resident := 0, trapped := false, stopped := false, cid := 1 }
/-- The launch waits. -/
def launching : Dev := up.onCl 0 fun c => { c with launches := [launch1] }
theorem witness_group_starts : launching.running 0 = true ∧ (launching.cl 0).launches = [launch1] ∧ launch1.next < launch1.count ∧
    (launching.cl 0).pickCore launch1.record = some false ∧ (launching.cl 0).freeSlot false = some 0 := by decide +kernel
/-- Lane addresses of 8 bytes each in v1, at Local 0. -/
def lm : Group := { grp with regs := (List.range 32).foldl (fun m l => NMap.set m 0 (32 + l) (BitVec.ofNat 32 (8 * l))) [] }
/-- VD = v4, VA = v1, UBASE = u0. -/
def gm (size : BitVec 3) (aop : BitVec 4) : FmtGM :=
  { vd := 4, va := 1, ubase := 0, imm := 0, size := size, mark := 0, scope := 0, aop := aop, gd := 0, pred := 0, neg := 0 }
/-- The words that the lanes address lie in one entry of the store queue of V-core 0. -/
def covered : Dev := (withGrp lm).onCl 0 fun c => { c with
  q0 := [{ seq := 0, by_ := g0, runs := (List.range 32).map fun l => { addr := 8 * l, n := 8, val := BitVec.ofNat 64 l }, relSy := false }] }
/-- An outcome that is the end of the instruction. -/
def isDone : Out → Bool
  | .done _ => true
  | _ => false
theorem witness_lane_memory : (st covered).canIssueG g0 lm ∧ gmRegOk lm (gm 3 0) = true ∧ marksOk true false 0 0 = true ∧
    covered.gmTrap g0 lm (gm 3 0) .load 8 = none ∧ covered.gmTrap g0 lm (gm 3 0) .loadRo 8 = none ∧
    isDone (covered.load g0 (LoadKind.mk false true false 8) (covered.gmPieces g0 lm (gm 3 0))) = true ∧
    isDone (covered.load g0 (LoadKind.mk true true false 8) (covered.gmPieces g0 lm (gm 3 0))) = true := by decide +kernel
theorem witness_lane_store : covered.gmTrap g0 lm (gm 3 0) .store 8 = none ∧ marksOk false true 0 0 = true ∧
    (covered.commit g0 ((lm.partM (gm 3 0)).map fun l => ByteRun.mk (covered.addrGM g0 lm (gm 3 0) l) 8 7) false).isSome = true := by
  decide +kernel
/-- The words that the lanes address are written. -/
def lanesIn : Dev := (withGrp lm).setMem (.loc 0) ((List.range 32).foldl (fun m k => m.putWord k 7) ((withGrp lm).mem (.loc 0)))
theorem witness_lane_atomic : lanesIn.gmTrap g0 lm (gm 2 0) .atomic 4 = none ∧ marksOk true true 0 0 = true ∧ lm.has 4 2 = true ∧
    isDone (lanesIn.atom g0 4 4 8 0 0 (lanesIn.gmAtms g0 lm (gm 2 0) .add 4)) = true ∧
    isDone (lanesIn.atom g0 4 4 8 0 0 (lanesIn.gmAtms g0 lm (gm 2 0) .cas 4)) = true := by decide +kernel
/-- Format GL of a fragment instruction: base in u(0), stride in u(0), role B of FP16. -/
def fl (role : BitVec 8) : FmtGL :=
  { vd := 8, va := 0, vb := 0, vc := role, ty := 1, rnd := 0, ub := 1, gd := 0, pred := 0, neg := 0, rsv := 0 }
theorem witness_fragments : (st covered).canIssueG g0 lm ∧ covered.fragTrap lm (fl 0) (fragMemOk lm (fl 0)) = none ∧
    covered.fragMemTrap g0 (fl 0) .load = none ∧ covered.fragMemTrap g0 (fl 0) .store = none ∧
    isDone (covered.load g0 (LoadKind.mk false true false 8) ((fragElems 1 0).map fun e =>
      Piece.mk (fragAddr 1 0 0 0 e) e.n (8 + e.r) e.lane e.sh (8 * e.n) false (fragAddr 1 0 0 0 e))) = true ∧
    (covered.commit g0 ((fragElems 1 0).map fun e => ByteRun.mk (fragAddr 1 0 0 0 e) e.n 7) false).isSome = true := by decide +kernel
theorem witness_fragment_mma : let f := { gl 1 with vd := 16, va := 0, vb := 4, vc := 16 }
    (withGrp lg).fragTrap lg f (fragMmaOk lg f) = none ∧ (withGrp lg).fragTrap lg (gl 1) true = none ∧
    lg.has 248 (fragRegs 1 2) = true ∧ lg.has 249 (fragRegs 1 2) = false := by decide +kernel

theorem test_v_add : v3 (.vAdd g0 (gl 7)) 5 10 = true := by decide +kernel
theorem test_v_shl_past : v3 (.vShl g0 { gl 7 with ub := 1, vb := 0 }) 5 5 = true := by decide +kernel
theorem test_v_sub_wraps : v3 (.vSub g0 { gl 7 with va := 0 }) 1 0xFFFFFFFF = true := by decide +kernel
theorem test_xch_swz : v3 (.xchSwz g0 { gl 0 with ub := 1, vb := 0 }) 7 7 = true := by decide +kernel
theorem test_xch_pick : v3 (.xchPick g0 { gl 0 with va := 2, vb := 1 }) 9 9 = true := by decide +kernel
theorem test_poll_mask : v3 (.pollMask g0 { gl 0 with vb := 0 }) 0 0xFFFFFFFE = true := by decide +kernel
theorem test_fadd_one_one : fpAdd fp32 0 0 0x3F800000 0x3F800000 0 = (0x40000000, 0) := by decide +kernel
theorem test_fmul_overflow : (fpMul fp32 0 0 0x7F000000 0x7F000000 0).1 = 0x7F800000 := by decide +kernel
theorem test_fma_rounds_once : (fpFma fp32 0 0 0x3F800001 0x3F800001 0xBF800002).1 = 0x28800000 := by decide +kernel
theorem test_group_starts : gives (.groupLaunch 0) launching (fun e => match e.grp g0 with
    | some g => decide (g.v 0 31 = 31) && decide (g.live = BitVec.allOnes 32) && decide (g.pcs = List.replicate 32 0x800)
    | none => false) = true := by decide +kernel
theorem test_exit_ends_group : gives (.vExit g0 (gc 0)) (withGrp lg) (fun e => (e.grp g0).isNone) = true := by decide +kernel

/-! ## Tokens, issues, waybills, services -/

/-- Format TK on token 5. -/
def tk : FmtTK := { ra := 1, tok := 5, rsv := 0 }
/-- Token 5 DONE with status 7. -/
def tokDone : Dev := up.onCl 0 fun c => c.setTok 5 { Token.free with st := .done, status := 7 }
/-- Token 5 PENDING, for command 1. -/
def tokPend : Dev := (regs 0x48 0).onCl 0 fun c => c.setTok 5 { Token.free with st := .pending, cid := 1 }
theorem witness_tokens : (st tokDone).canIssue s0 ∧ tk.rsv = 0 ∧ ((tokDone.cl 0).tok 5).st ≠ .pending ∧
    (st tokPend).canIssue s0 ∧ ((tokPend.cl 0).tok 5).st = .pending ∧ tokPend.ownLaunch s0 5 = false ∧
    (tokDone.setWait s0 (.token 3 5)).waitOf s0 = .token 3 5 ∧ ((tokDone.setWait s0 (.token 3 5)).dbg s0).halted = false ∧
    tokDone.calm 0 = true := by decide +kernel
/-- The lane group waits inside its own launch's token. -/
def ownTok : Dev := (withGrp grp).onCl 0 fun c => { c.setTok 5 { Token.free with st := .pending, cid := 1 } with launches := [launch1] }
theorem witness_own_launch : (st ownTok).canIssue g0 ∧ ((ownTok.cl 0).tok 5).st = .pending ∧ ownTok.ownLaunch g0 5 = true := by decide +kernel
/-- 64 written bytes at Local address 0x40, which s1 holds. -/
def desc (w : Nat → Word) : Dev :=
  (regs 0x40 0).setMem (.loc 0) ((List.range 8).foldl (fun m k => m.putWord (8 + k) (w k)) ((regs 0x40 0).mem (.loc 0)))
/-- Whether a copy of 64 bytes is good. -/
def copied (r : Except Nat (BitVec 512) × Dev) : Bool := match r.1 with
  | .ok _ => true
  | .error _ => false
theorem witness_issues : (st (desc fun _ => 0)).canIssue s0 ∧ (desc fun _ => 0).addrTK s0 tk = 0x40 ∧
    (desc fun _ => 0).accessTrap s0 .load false true 0x40 64 = none ∧ ((desc fun _ => 0).cl 0).wbq = [] ∧ ((desc fun _ => 0).cl 0).outq = [] ∧
    (desc fun _ => 0).issueWaits s0 .mx = false ∧ (desc fun _ => 0).issueWaits s0 .grp = false ∧
    copied ((desc fun _ => 0).copy64 0 0x40) = true ∧ tokPend.addrTK s0 tk % 64 ≠ 0 ∧
    ((tokPend.wr s0 1 0x40).cl 0).tok 5 = { Token.free with st := .pending, cid := 1 } ∧
    (tokPend.wr s0 1 0x40).accessTrap s0 .load false true 0x40 64 = none ∧
    ¬(localSize - 32 + 64 ≤ localSize) := by decide +kernel
/-- Porter channel 3 enabled for function 0. -/
def chan3 : Dev := up.setRb (oPorter 3) 0 true
theorem witness_issue_claims : chan3.channelOk false 3 0 = true ∧ chan3.channelOk false 4 0 = false ∧ chan3.channelOk true 3 0 = false ∧
    outChannel false (BitVec.ofNat 512 (3 * 2 ^ 48)) = 3 := by decide +kernel
/-- A waybill with the given bytes. -/
def wb (w : BitVec 512) : Waybill := { w := w, tok := 5, seed := 0, ctx := 0, cid := 1, fail := none, touched := [] }
theorem witness_completion : tokPend.calm 0 = true ∧ ((tokPend.cl 0).tok 5).cid = (wb 0).cid ∧ ((tokDone.cl 0).tok 5).st ≠ .pending ∧
    ((tokPend.onCl 0 fun c => { c with run := some run1 }).cl 0).run = some run1 ∧ run1.cid = (wb 0).cid := by decide +kernel
/-- `mx.issue` of the S-core waits for room. -/
def roomless : Dev := up.setWait s0 (.queueRoom tk)
theorem witness_arbitration : roomless.waitOf s0 = .queueRoom tk ∧ (roomless.dbg s0).halted = false ∧ ((roomless.cl 0).wbq).length < 16 ∧
    ([s0, g0, .group 0 true 0].map Agent.core).Nodup := by decide +kernel
/-- An `mma.z` with M = N = 1 and K = 16: FP16 operands at 0 and 0x1000, an FP32 result at 0x2000, every LD 64. -/
def mma1 : BitVec 512 :=
  BitVec.ofNat 512 (2 + 0x11 * 2 ^ 8 + 0x11 * 2 ^ 16 + 0x13 * 2 ^ 24 + 1 * 2 ^ 64 + 1 * 2 ^ 80 + 16 * 2 ^ 96 + 0x1000 * 2 ^ 160 + 0x2000 * 2 ^ 224
    + 64 * 2 ^ 256 + 64 * 2 ^ 288 + 64 * 2 ^ 352)
/-- The waybill runs; every element of A and B is 1, and D is written. -/
def running1 : Dev :=
  (up.setMem (.loc 0) (((List.range 4).map (fun k => (k, (0x3C003C003C003C00 : Word))) ++ (List.range 16).map (fun k => (0x200 + 8 * k, 0x3C00))
    ++ [(0x400, 0)]).foldl (fun (m : Mem) (x : Nat × Word) => m.putWord x.1 x.2) (up.mem (.loc 0)))).onCl 0 fun c => { c with wbRun := some (wb mma1) }
theorem witness_waybills : (up.onCl 0 fun c => { c with wbq := [wb mma1] }).running 0 = true ∧ wOP mma1 = 2 ∧ (wb mma1).fail = none ∧
    waybillCheck true (fun a n => decide (a + n ≤ 0x10000)) mma1 = none ∧ waybillCheck true (fun _ _ => false) mma1 = some 7 ∧
    wWaitEn mma1 = false ∧ wWaitEn (mma1 ||| BitVec.ofNat 512 (0x85 * 2 ^ 40)) = true ∧
    wWaitTok (mma1 ||| BitVec.ofNat 512 (0x85 * 2 ^ 40)) = 5 ∧ (up.onCl 0 fun c => { c with wbRun := some (wb mma1) }).running 0 = true := by
  decide +kernel
theorem witness_waybill_frame : (running1.mem (.loc 0)).wf = true ∧ (wRegD mma1).rows = 1 ∧ (wRegD mma1).rowBytes = 4 ∧
    (running1.mem (.loc 0)).mark (0x2000 / 8) = .written ∧ (running1.mem (.loc 0)).mark (0x2003 / 8) = .written := by decide +kernel
theorem test_mma_ones : gives (.waybillComplete 0 false) running1 (fun e => decide ((e.mem (.loc 0)).word 0x400 = 0x41800000)) = true := by
  decide +kernel
theorem witness_services : (st (guest.wr s0 10 0x0101)).canIssue s0 ∧ (guest.dbg s0).onTrap = false ∧ (guest.dbg s0).stepping = false ∧ (guest.dbg s0).haltReq = false ∧
    ((guest.wr s0 10 0x0101).rd s0 10).toNat = 0x0101 ∧ (0 : Nat) < guest.chanCount 0 ∧ guest.rf (oChan 0 0) 15 8 = (guest.cl 0).s.func.toNat ∧
    127 < guest.chanCount 1 ∧ ¬128 < guest.chanCount 1 ∧ guest.inShare 0 0xFFC0 64 = true ∧ guest.inShare 0 0x10000 64 = false ∧
    up.level s0 = .keeper := by decide +kernel
theorem witness_collective_service : let d := (guest.wr s0 10 0x0201).setMem (.loc 0) ((List.range 8).foldl (fun m k => m.putWord (8 + k) 0) (guest.mem (.loc 0)))
    copied (d.copy64 0 0x40) = true ∧ (st d).canIssue s0 := by decide +kernel

theorem test_tok_test_word : gives (.tokTest s0 tk) tokDone (fun e => decide ((e.rd s0 1).toNat % 4 = 2)) = true := by decide +kernel
theorem test_tok_clr_busy : gives (.tokClr s0 { tk with ra := 0 }) tokPend
    (fun e => decide ((e.tr s0).tcause = BitVec.ofNat 64 cBUSY) && decide ((e.tr s0).tval = 5)) = true := by decide +kernel
theorem test_issue_misaligned : gives (.cpIssue s0 tk) (regs 0x48 0)
    (fun e => decide ((e.tr s0).tcause = BitVec.ofNat 64 cMISALIGNED) && decide ((e.tr s0).tval = 0x48)) = true := by decide +kernel
theorem test_issue_bad_channel : gives (.cpIssue s0 tk) (desc fun _ => 0)
    (fun e => decide (((e.cl 0).tok 5).st = .done) && decide (((e.cl 0).tok 5).status = 0x31)) = true := by decide +kernel
theorem test_unassigned_service : gives (.ecallUnassignedService s0 (sy 0)) (guest.wr s0 10 0x0999)
    (fun e => decide (e.rd s0 10 = BitVec.allOnes 64) && decide (e.pc s0 = 4) && decide (e.level s0 = .guest)) = true := by decide +kernel

/-! ## Coherence -/

/-- Message 1 to 0 on line 0, as die 1's cluster 48 asked for it. -/
def sel : MsgSel := { src := 1, dst := 0, line := 0, cl := 48 }
/-- A request of die 1. -/
def req (k : ReqKind) : Req :=
  { kind := k, src := 1, cl := 48, pos := 0, epoch := 0, line := 0, pay := .none, prefetch := false, rt := none, refusals := 0, ticket := false }
/-- A message from die 1 that stands at its output port of die 0. -/
def msg (b : MsgBody) : Msg := { src := 1, dst := 0, line := 0, cl := 48, sp := 0, dp := 0, hop := 1, due := none, fails := 0, body := b }
/-- The device with that message. -/
def flying (b : MsgBody) : Dev := up.onCoh fun c => { c with net := [msg b] }
/-- A line of zeros. -/
def zeros : LineData := { v := 0, poison := 0 }
/-- The message can be received. -/
def arrives (b : MsgBody) (vc : Nat) : Bool := decide ((flying b).msgAt sel vc = some (msg b))
/-- Die 0 holds line 0. -/
def holding (g : RepSt) (b : MsgBody) : Dev :=
  (flying b).setRep 0 { (flying b).rep 0 with lines := [{ line := 0, st := g, d := zeros, cls := 1, hit := false }] }
/-- The directory names die 1 as the owner of line 0. -/
def owned (b : MsgBody) : Dev := (flying b).setEntry 0 (.mk' .exc 1 [] false none)
/-- Die 1's request, and 64 that its home has taken in and holds. -/
def crowded : Dev := up.onCoh fun c => { c with net := msg (.req (req .rdS)) :: List.replicate 64 { msg (.req (req .rdS)) with hop := 2 } }
theorem witness_request_refused : crowded.msgAt sel 1 = some (msg (.req (req .rdS))) ∧ crowded.pwr.stopped = false ∧ (req .rdS).ticket = false ∧
    crowded.taken (msg (.req (req .rdS))) = false ∧ crowded.buffersUsed 0 = 64 ∧ (flying (.req (req .rdS))).buffersUsed 0 = 0 := by decide +kernel
theorem witness_requests : selOk sel = true ∧ selOk { sel with line := 2 ^ 28 } = false ∧
    ([.rdS, .rdX, .upg, .rdU, .wrT, .atm, .putE, .putM, .putO].all fun k => arrives (.req (req k)) 1) = true ∧
    (flying (.req (req .rdS))).held 0 = false ∧ (flying (.req (req .rdS))).servesNext (msg (.req (req .rdS))) (req .rdS) = true ∧
    (((flying (.req (req .rdS))).receive (msg (.req (req .rdS)))).arrive (req .rdS)).isSome = true := by decide +kernel
theorem witness_uncached : up.entry 0 = none ∧ up.rb (oCoh 0) 8 = true ∧ (up.setRb (oCoh 0) 8 false).rb (oCoh 0) 8 = false := by
  decide +kernel
theorem witness_puts : (owned .inv).entry 0 = some (.mk' .exc 1 [] false none) ∧ (req .putM).src = 1 ∧
    (DirEntry.mk' .exc 1 [] false none).txn = none ∧ (flying .inv).entry 0 = none := by decide +kernel
theorem witness_owner_messages : arrives (.fwd .rdS 1 48 false) 2 = true ∧ arrives (.fwd .rdX 1 48 false) 2 = true ∧
    arrives (.fwd .rdU 1 48 false) 2 = true ∧ arrives .recallMsg 2 = true ∧ arrives .inv 0 = true ∧
    ((holding .m .inv).repLine 0 0).isSome = true ∧ ((holding .m .inv).msgAt sel 0).isSome = true ∧
    (flying .inv).repLine 0 0 = none ∧ (flying .inv).mustWait (msg .inv) = false ∧
    ((flying .inv).onCoh fun c => { c with net := msg (.data .s true zeros false) :: c.net }).mustWait (msg .inv) = true := by decide +kernel
theorem witness_home_answers : arrives .invAck 0 = true ∧ arrives (.fwdAck .m) 0 = true ∧ arrives (.kill s0) 0 = true ∧
    arrives (.recallData zeros true) 3 = true ∧ arrives .wbPending 3 = true ∧
    (let y := ((flying (.kill s0)).setResv s0 (some { addr := commonsBase, n := 8, commons := true })).receive (msg (.kill s0))
     decide (y.resvOf s0 = some { addr := commonsBase, n := 8, commons := true }) && decide (y.granule (lineOf commonsBase) = y.granule 0)) = true := by
  decide +kernel
theorem witness_requester_answers : arrives (.data .s true zeros false) 3 = true ∧ arrives (.data .e true zeros false) 3 = true ∧
    arrives (.data .none true zeros true) 3 = true ∧ arrives (.data .m true zeros false) 3 = true ∧
    arrives (.comp { req .wrT with pay := .write 1 0 } [] false) 3 = true ∧
    arrives (.comp { req .atm with pay := .atm { by_ := s0, fn := .add, addr := commonsBase, n := 8, lanes := [(32, 7, 0)], exact := false } } [(0, 0)] false) 3 = true ∧
    arrives .wbAck 3 = true ∧ arrives (.retry false (req .rdS)) 3 = true ∧ arrives (.retry true (req .rdS)) 3 = true ∧
    arrives (.wake (req .rdS)) 3 = true ∧ (flying .inv).hasRoom 0 0 = true := by decide +kernel
theorem witness_resend : let d := up.onCoh fun c => { c with retryq := [req .rdS] }
    (d.coh.retryq.find? fun q => decide (q.src = 1) && decide (d.home (lineAddr q.line) = d.home (lineAddr 0))) = some (req .rdS) ∧
    d.reservedUsed 1 0 + d.resent 1 0 < 8 ∧ (req .rdS).line = 0 := by decide +kernel
/-- Line 0 lies in an active striped partition of 1 MiB. -/
def mapped : Dev := (((up.setRf (oPart 0) 2 0 2).setRf (oPart 0) 31 16 1).setRb (oPart 0 + 8) 0 true)
/-- A buffered store of one byte to a line. -/
def bufd (line : Nat) : BufLine := { line := line, data := 0x5A, mask := 1, by_ := [s0], seq := 0, issued := false }
theorem witness_store_buffer : let d := mapped.onCl 0 fun c => { c with buf := [bufd 0, bufd (2 ^ 28 - 1)] }
    d.present 0 = true ∧ (d.cl 0).buf.find? (fun z => decide (z.line = 0)) = some (bufd 0) ∧ (d.cl 0).readOut 0 = false ∧
    d.partAt (lineAddr 0) = some 0 ∧ d.loadWaits 0 0 = false ∧ d.inWb 0 0 = false ∧ d.fillOut 0 0 = false ∧
    d.partAt (lineAddr (2 ^ 28 - 1)) = none ∧ d.replicaOf 0 = none ∧ (bufd 0).issued = false := by decide +kernel
theorem witness_miss : let x : Miss := { line := 0, kind := .read false, agents := [s0], forS := false, alloc := false, data := some zeros, stale := [], place := { ctx := 0, epoch := 0, pos := 0, cid := 0 } }
    ((up.onCl 0 fun c => { c with misses := [x] }).cl 0).misses.find? (fun y => decide (y.line = 0) && y.data.isSome) = some x := by
  decide +kernel
theorem witness_prefetch : let x := msg (.req { req .rdS with prefetch := true })
    (flying x.body).coh.net.find? (fun z => decide (z = x) && ((flying x.body).taken z || (flying x.body).arrived z)) = some x := by decide +kernel
theorem witness_wake_waits : (holding .m (.wake (req .rdS))).inWb 1 0 = false ∧
    ((flying (.wake (req .rdS))).setRep 1 { (flying .inv).rep 1 with wb := [{ line := 0, st := .m, d := zeros, cls := 1, hit := false }] }).inWb 1 0 = true := by decide +kernel

theorem test_rds_grants_e : gives (.rds sel) ((flying (.req (req .rdS))).putLine .com (lineAddr 0) zeros)
    (fun e => decide (e.entry 0 = some (.mk' .exc 1 [] false none)) && decide (e.coh.net.map (fun m => (m.src, m.dst, m.body)) =
      [(0, 1, .data .e true zeros false)])) = true := by decide +kernel
theorem test_inv_of_absent_line : gives (.inv sel) (flying .inv) (fun e => decide (e.coh.net.map (fun m => (m.src, m.dst, m.body)) =
    [(0, 1, .invAck)])) = true := by decide +kernel
theorem test_fwds_leaves_owned : gives (.fwds sel) (holding .m (.fwd .rdS 1 48 false)) (fun e => decide ((e.repLine 0 0).map (·.st) = some .o)) = true := by
  decide +kernel
theorem test_recall_takes_line : gives (.recall sel) (holding .e .recallMsg) (fun e => (e.repLine 0 0).isNone) = true := by decide +kernel

/-! ## Copy engines -/

/-- The outbound queue holds two commands, for Porter channels 3 and 4. -/
def outbound : Dev :=
  let o : OutCmd := { gather := false, tok := 5, record := BitVec.ofNat 512 (3 * 2 ^ 48), addr := 0x40, ctx := 0, func := 0, epoch := 0, pos := 0, seed := 0, cid := 1 }
  up.onCl 0 fun c => { c with outq := [o, { o with record := BitVec.ofNat 512 (4 * 2 ^ 48) }] }
theorem witness_engine_queues : (outbound.cl 0).outq[1]?.isSome = true ∧
    ((outbound.cl 0).outq.take 1).any (fun x => decide (outChannel x.gather x.record = 4)) = false ∧ (outbound.chan 0 4).cmds = [] ∧
    outbound.rb (oChan 0 4 + 4) 0 = false ∧ (outbound.setRb (oChan 0 4 + 4) 0 true).rb (oChan 0 4 + 4) 0 = true ∧
    outbound.aliasOf 0 0 0 = none ∧ outbound.calm 0 = true ∧ 255 < up.chanCount 0 ∧ ¬256 < up.chanCount 0 ∧ 127 < up.chanCount 1 := by
  decide +kernel
/-- An engine command of context 0 with a record. -/
def ec (w : BitVec 512) : EngCmd :=
  { k := 7, cluster := 0, tok := 5, record := w, addr := 0x40, ctx := 0, func := 0, epoch := 0, pos := 0, seed := 0, cid := 1, started := false,
    next := some 0x40, count := 0, lastTag := 0, fails := [], flights := [], abandoned := false, fencing := false, healing := none,
    todo := [], fetch := [], rows := [], idx := [], ofs := [], wgt := [] }
/-- Channel 0 of an engine holds a command. -/
def engine (eng : Nat) (c : EngCmd) : Dev := ((mapped.setRf (oCtx 0 + 4) 14 8 1).setRb (oCtx 0 + 0x20) 0 true).onChan eng 0 fun x => { x with cmds := [c] }
/-- A COPY of 64 bytes from Local 0x100 to Local 0x200. -/
def copy1 : BitVec 512 := BitVec.ofNat 512 (1 + 0x100 * 2 ^ 64 + 0x200 * 2 ^ 128 + 64 * 2 ^ 192 + 1 * 2 ^ 224)
/-- A FILL of 64 bytes of Local 0x200. -/
def fill1 : BitVec 512 := BitVec.ofNat 512 (2 + 0x200 * 2 ^ 128 + 64 * 2 ^ 192 + 1 * 2 ^ 224 + 0x0807060504030201 * 2 ^ 320)
/-- A WRITE_IMM to Local 0x200. -/
def imm1 : BitVec 512 := BitVec.ofNat 512 (3 + 0x200 * 2 ^ 128 + 8 * 2 ^ 192 + 1 * 2 ^ 224 + 9 * 2 ^ 320)
/-- The channel reaches a good descriptor whose lines are free. -/
def reaches (w : BitVec 512) : Bool :=
  let d := engine 0 (ec w)
  d.full && (d.nextDesc 0).any (fun x => decide (x.1 = ec w) && (match x.2.2.1 with
    | .ok v => decide (v = w)
    | .error _ => false)) && (d.landable 0 (pOP w)).isEmpty && decide (d.pCheck (ec w) w 0x40 = none) &&
    (d.rangesHeal (d.srcRanges (ec w) w)).isNone && (d.heldLines ((d.descLines (ec w) w).1 ++ (d.descLines (ec w) w).2)).isNone &&
    (d.descFetch (ec w) w).isNone
theorem witness_porter : reaches copy1 = true ∧ reaches fill1 = true ∧ reaches imm1 = true ∧
    (engine 0 (ec 5)).pCheck (ec 5) 5 0x40 = none ∧ (engine 0 (ec 5)).chanBusy 0 = false ∧
    ((engine 0 (ec 6)).pCheck (ec 6) 6 0x40).map (fun x => x.1) = some 0x30 := by decide +kernel
/-- A REDUCE of one FP32 contribution from Commons offset 0x80 to Commons offset 0. -/
def reduce1 : BitVec 512 := BitVec.ofNat 512
  (4 + 2 * 2 ^ 16 + 2 * 2 ^ 24 + (commonsBase + 0x80) * 2 ^ 64 + commonsBase * 2 ^ 128 + 64 * 2 ^ 192 + 1 * 2 ^ 224 + 64 * 2 ^ 256 +
    1 * 2 ^ 384 + 1 * 2 ^ 400)
theorem witness_reduce : reaches reduce1 = true := by decide +kernel
/-- Every byte of Local 0x200 to 0x23F is written. -/
def filled : Dev := (engine 0 (ec fill1)).setMem (.loc 0) ((List.range 8).foldl (fun (m : Mem) k => m.putWord (0x40 + k) 7) ((engine 0 (ec fill1)).mem (.loc 0)))
theorem witness_fill_writes : pOP fill1 = 2 ∧ filled.spaceOf (ec fill1) (pDest fill1).space (pDest fill1).id = .loc 0 ∧ (filled.mem (.loc 0)).wf = true ∧
    (pDest fill1).rows = 1 ∧ (pDest fill1).row 0 = 0x200 ∧ (pDest fill1).len = 64 ∧ (filled.mem (.loc 0)).mark 0x40 = .written ∧
    (filled.mem (.loc 0)).mark 0x47 = .written := by decide +kernel
/-- A command all of whose descriptors have been reached. -/
def ended (w : BitVec 512) : EngCmd := { ec w with started := true, next := none, count := 1 }
/-- A descriptor that has started, and may wait for a line's healing. -/
def landing (w : BitVec 512) (heal : Option Nat) : Flight := { pos := 0, desc := w, need := [], got := [], heal := heal }
/-- A COPY that waits for a line's healing. -/
def healer (l : Nat) : EngCmd := { ec copy1 with flights := [landing copy1 (some l)] }
theorem witness_engine_ends : (engine 0 (ended copy1)).engCmd 0 0 7 = some (ended copy1) ∧ (engine 0 (ended copy1)).cmdIdle 0 0 (ended copy1) = true ∧
    (engine 1 (ended 0)).cmdIdle 1 0 (ended 0) = true ∧ (engine 0 { ended 0 with abandoned := true }).engCmd 0 0 7 = some { ended 0 with abandoned := true } ∧
    (engine 0 (healer 4)).engCmd 0 0 7 = some (healer 4) ∧ ((healer 4).flights.find? fun f => f.heal.isSome) = some (landing copy1 (some 4)) ∧
    (engine 0 (healer 4)).healing 4 = false ∧ (engine 1 { ec 0 with healing := some 4 }).engCmd 1 0 7 = some { ec 0 with healing := some 4 } := by
  decide +kernel
/-- A COPY into the Commons, of which no partition is left. -/
def lostPart : Dev := ((up.setRf (oCtx 0 + 4) 14 8 1).setRb (oCtx 0 + 0x20) 0 true).onChan 0 0 fun x => { x with cmds := [ec reduce1] }
theorem witness_partition_gone : let l := (lostPart.descLines (ec reduce1) reduce1).1 ++ (lostPart.descLines (ec reduce1) reduce1).2
    (l.any fun x => decide (lostPart.partAt (lineAddr x) = none)) = true ∧ (lostPart.pCheck (ec reduce1) reduce1 0).isSome = true := by decide +kernel
theorem witness_porter_performs : (engine 0 { ec copy1 with flights := [landing copy1 none] }).landable 0 1 ≠ [] ∧
    (engine 0 (ec copy1)).rangesHeal ((engine 0 (ec copy1)).srcRanges (ec copy1) (landing copy1 none).desc) = none ∧
    ((engine 0 (ec copy1)).heldLines (((engine 0 (ec copy1)).descLines (ec copy1) copy1).1 ++ ((engine 0 (ec copy1)).descLines (ec copy1) copy1).2)).isNone = true := by
  decide +kernel
/-- A gather of one 64-byte BF16 row from a Commons table by a 4-byte index in Local 0x100 to Local 0x200, with a POOL. -/
def gather1 (pool nbags : Nat) : BitVec 512 := BitVec.ofNat 512
  (1 + pool * 2 ^ 8 + 0x10 * 2 ^ 16 + 0x10 * 2 ^ 24 + 2 * 2 ^ 40 + commonsBase * 2 ^ 64 + 0x100 * 2 ^ 128 + (if pool = 0 then 0 else 0x180) * 2 ^ 192 +
    0x200 * 2 ^ 320 + 4 * 2 ^ 384 + 1 * 2 ^ 416 + 64 * 2 ^ 448 + 2 * 2 ^ 464 + nbags * 2 ^ 480)
/-- Bag offsets 0 and 1 stand at Local 0x180, index 2 at 0x100. -/
def gathers (w : BitVec 512) : Dev := (engine 1 (ec w)).setMem (.loc 0) ((((engine 1 (ec w)).mem (.loc 0)).putWord 0x20 2).putWord 0x30 0x100000000)
theorem witness_gather : gBad (gather1 0 0) 384 = false ∧ gBad (gather1 1 1) 384 = false ∧ gBad 0 384 = true ∧ gMisaligned (gather1 0 0) = none ∧
    (gathers (gather1 0 0)).nextCmd 1 0 = some (ec (gather1 0 0)) ∧ (gathers (gather1 0 0)).rangesHeal (gRanges (gather1 0 0)) = none ∧
    ((gathers (gather1 0 0)).gReach (ec (gather1 0 0)) (gather1 0 0)).isEmpty = true ∧
    ((gathers (gather1 1 1)).gReach (ec (gather1 1 1)) (gather1 1 1)).isEmpty = true ∧ (gathers (gather1 1 1)).stopping = false ∧
    ((gathers (gather1 0 0)).gLines (ec (gather1 0 0))).1.find? (gathers (gather1 0 0)).needsHeal = none ∧
    (let l := (gathers (gather1 0 0)).gLines (ec (gather1 0 0)); ((gathers (gather1 0 0)).heldLines (l.1 ++ l.2)).isNone) = true ∧
    (match ((gathers (gather1 1 1)).readList (ec (gather1 1 1)) 0x180 8).1 with
      | .ok bs => offsetsOk 1 (natsOf 4 bs)
      | .error _ => false) = true ∧ offsetsOk 1 [1, 0] = false := by decide +kernel
theorem witness_row_fetch : let c := { ended (gather1 0 0) with fetch := [0], idx := [some 2] }
    (engine 1 c).engCmd 1 0 7 = some c ∧ c.fetch.contains 0 = true ∧ (engine 1 c).spaceOf c (gTSPACE c.record) 0 = .com ∧
    (engine 1 c).spaceOf c (gTSPACE (gather1 0 0 + 2 ^ 40)) 0 = .host 0 := by decide +kernel

theorem test_fill_bytes : ((filled.land 0 (ec fill1) (landing fill1 none)).mem (.loc 0)).word 0x47 = 0x0807060504030201 := by decide +kernel
theorem test_gather_asks_for_row : gives (.gather 0) (gathers (gather1 0 0)) (fun e => match (e.engCmd 1 0 7) with
    | some c => decide (c.idx = [some 2]) && decide (c.fetch = [0])
    | none => false) = true := by decide +kernel
theorem test_clear_of_absent_channel : gives (.clear .porter 255) (up.setRb (oChan 0 255 + 4) 0 true) (fun e => !(e.rb (oChan 0 255 + 4) 0)) = true := by
  decide +kernel

/-! ## Links and collectives -/

/-- Link 63 is up with credit; device number 9 is valid. -/
def linked : Dev := (((mapped.setRb (oLink 63 + 4) 0 true).setRf oDevId 11 0 9).setRb oDevId 12 true).onLink 63
  fun x => { x with cr0 := 512, cr1 := 512, cr2 := 512, rxSeq := 4 }
/-- A good data frame. -/
def frame (seq : BitVec 12) (ms : List LinkMsg) : Frame :=
  { coded := true, crc := true, seq := seq, ack := 0xFFF, lv0 := 0, lv1 := 0, lv2 := 0, corrected := 0, msgs := ms, cont := false }
/-- A message of device 3 on channel 1 to device 9 about Commons line 0. -/
def lmsg (kind : BitVec 4) : LinkMsg := { (default : LinkMsg) with kind := kind, dst := 9, src := 3, chan := 1, req := 6, addr := BitVec.ofNat 48 commonsBase }
theorem witness_frames : linked.linkLive 63 = true ∧ (linked.frameHead 63 (frame 5 [])).link 63 = linked.link 63 ∧
    ((linked.link 63).rxSeq + 1 = 5) ∧ (linked.link 63).discarding = false ∧
    ((linked.onLink 63 fun x => { x with discarding := true }).link 63).discarding = true ∧ (linked.link 63).replay.length ≤ 256 ∧
    linked.linkLive 66 = false ∧ (linked.link 63).room [lmsg 1] = true ∧ (frame 5 []).good = true ∧ { frame 5 [] with crc := false }.good = false := by decide +kernel
/-- Link 0 is enabled and trains. -/
def training : Dev := (up.setRb (oLink 0) 0 true).setRb (oLink 0 + 4) 29 true
theorem witness_training : training.full = true ∧ 0 < training.part.links ∧ training.linkTraining 0 = true ∧ (training.link 0).trained = false ∧
    training.linkUp 0 = false ∧ ((training.onLink 0 fun x => { x with farRate := some 2 }).link 0).farRate = some 2 ∧
    lanesUsed (0xF &&& ~~~(training.link 0).badLanes) = 4 ∧ lanesUsed (0 &&& ~~~(training.link 0).badLanes) = 0 := by decide +kernel
/-- A message stands at the head of the receive queue of link 63. -/
def received (m : LinkMsg) : Dev := linked.onLink 63 fun x => { x with rxq := [m] }
theorem witness_peer_requests : ([1, 2, 3, 4].all fun k => ((received (lmsg k)).takeRx 63 (lmsg k) k.toNat).any fun x =>
      (x.withTally 3 1).isSome) = true ∧ (lmsg 1).dst.toNat = linked.ownId ∧ linked.twinCarries 63 (lmsg 1) = true ∧ linked.idValid = true ∧
    (linked.partAt (lmsg 1).addr.toNat).isSome = true ∧ ((received (lmsg 1)).rxHeld 63 (msgLineNo (lmsg 1))).isNone = true ∧
    redBytes 1 ≠ 0 ∧ redBytes 0 = 0 ∧
    ((received { lmsg 1 with dst := 8 }).takeRx 63 { lmsg 1 with dst := 8 } 1).isSome = true := by decide +kernel
/-- An RD of the twin, device 3, stands at the head of twin link 64, and a line heals from it. -/
def twinned : Dev := { (linked.setRf 0x14000 12 1 3).onLink 64 fun x => { x with rxq := [lmsg 3] } with
  heals := [(5, { failed := false, kind := 2, src := commonsBase, req := 6, got := none })] }
theorem witness_twin_reads : 64 < twinned.part.links ∧ twinned.twinCarries 64 (lmsg 3) = true ∧ twinned.twinCarries 64 (lmsg 7) = true ∧
    twinned.twinCarries 64 (lmsg 2) = false ∧ ((twinned.takeRx 64 (lmsg 3) 3).any fun x => (x.partAt (lmsg 3).addr.toNat).isSome) = true ∧
    (twinned.rxHeld 64 (msgLineNo (lmsg 3))).isNone = true := by decide +kernel
/-- A request of channel 1 to device 3. -/
def rem1 : RemReq :=
  { chan := 1, dst := 3, req := 6, eng := 0, ch := 1, k := 7, pos := 0, func := 0, j := 0, canon := false, tag := 0, msg := { lmsg 1 with dst := 3, src := 9 },
    sends := 1, tried := [63], relayed := false, link := none, refused := true }
theorem witness_peer_answers : ([5, 6, 7, 8, 9, 0xA].all fun k => ((received (lmsg k)).takeRx 63 (lmsg k) k.toNat).isSome) = true ∧
    ((received (lmsg 9)).onRem fun _ => [rem1]).findRem 1 3 6 = some rem1 ∧ rem1.refused = true ∧
    (linked.routeOf 3 (msgLine rem1.msg) 1 [] false).isNone = true ∧
    ((linked.setReg (oRoute 3) (BitVec.ofNat 64 (63 + 2 ^ 27))).routeOf 3 (msgLine rem1.msg) 1 [] false).isSome = true := by decide +kernel
/-- Group 1 with two members, this one the head with index 0. -/
def group1 : Dev := (((mapped.setRf (oGrp 1) 1 0 1).setRf (oGrp 1) 28 16 2).setRf (oGrp 1 + 4) 25 0 0).onGrpRt 1 fun x => { x with members := [9, 3] }
/-- A canonical collective over 32 FP32 elements with its input at Commons offset 0, its output at 0x80 and its done word at 0x100. -/
def coll (op : Nat) : Coll :=
  { record := BitVec.ofNat 512 (op + (if op ≤ 2 then 1 else 0) * 2 ^ 8 + (if op = 5 then 0 else 0x13) * 2 ^ 16 + 1 * 2 ^ 24 + 1 * 2 ^ 32 + commonsBase * 2 ^ 64 +
      (commonsBase + 0x80) * 2 ^ 128 + 32 * 2 ^ 192 + (commonsBase + 0x100) * 2 ^ 256 + 1 * 2 ^ 320), ctx := 0, cid := 1, going := true, status := none }
/-- Group 1 runs a collective, and the input is written. -/
def collective (op : Nat) : Dev :=
  (group1.setMem .com ((List.range 16).foldl (fun (m : Mem) k => m.putWord (commonsBase / 8 + k) 0x3F8000003F800000) group1.commons)).onGrpRt 1
    fun x => { x with colls := [coll op] }
theorem witness_collective_control : group1.full = true ∧ group1.grpKind 1 ≠ 0 ∧ group1.isHead 1 = true ∧ 1 < group1.grpSize 1 ∧ 1 ≠ group1.grpSelf 1 ∧
    (group1.grpRt 1).lost = [] ∧ (group1.setRf (oGrp 1 + 4) 12 0 1).isHead 1 = false ∧ ((collective 5).grpRt 1).running 5 = some (coll 5) ∧
    (group1.commonsMapped (group1.grpFunc 1) (coll 5).doneAt 8).isSome = true ∧ (coll 5).doneAt % 8 = 0 ∧
    (group1.heldLines ((linesOf (coll 5).doneAt 8).map fun l => lineOf (128 * l))).isNone = true ∧
    (up.setRb (oRoute 4095) 27 true).rb (oRoute 4095) 27 = true ∧ up.spanHead = none := by decide +kernel
theorem witness_no_groups : (∀ k, k < 64 → (up.setRb (oRoute 4095) 27 true).grpKind k = 0) := by decide +kernel
/-- Whether the data of a collective can move. -/
def moves (op : Nat) : Bool :=
  let d := collective op
  let r := d.engRead .com [] (coll op).src ((coll op).input 2 0).2
  decide ((d.grpRt 1).running op = some (coll op)) && !(d.collBad 1 (coll op)) && r.1.all (fun b => b.isSome) && decide (d.grpSelf 1 = 0) && decide (d.grpSize 1 = 2) &&
    (d.heldLines ((linesOf (coll op).src ((coll op).input 2 0).2 ++ linesOf (coll op).dst (128 * (coll op).outLines 2 0)).map fun l => lineOf (128 * l))).isNone
theorem witness_collective_data : moves 1 = true ∧ moves 2 = true ∧ moves 3 = true ∧ moves 4 = true ∧ ((coll 1).input 2 1).2 = 128 ∧
    ((coll 3).input 2 0).2 = 0 ∧ ((coll 3).input 2 1).2 = 128 ∧ (coll 4).root = 0 := by decide +kernel

theorem test_frame_in_order : gives (.dataFrame 63 (frame 5 [lmsg 1])) linked (fun e => decide ((e.link 63).rxSeq = 5) &&
    decide ((e.link 63).rxq = [lmsg 1])) = true := by decide +kernel
theorem test_frame_out_of_order : gives (.dataFrame 63 (frame 6 [lmsg 1])) linked (fun e => decide ((e.link 63).rxSeq = 4) && (e.link 63).discarding) = true := by
  decide +kernel
theorem test_all_reduce_doubles : gives (.allReduce 1 [[], (List.replicate 32 [0, 0, 0x80, 0x3F]).flatten]) (collective 1)
    (fun e => decide (e.commons.word ((commonsBase + 0x80) / 8) = 0x4000000040000000)) = true := by decide +kernel

/-! ## Scheduler and host interface -/

/-- Context 0 with a share of 64 KiB and cluster 0. -/
def sched : Dev := (up.setRf (oCtx 0 + 4) 14 8 1).setRb (oCtx 0 + 0x20) 0 true
/-- The turn of context 0 on cluster 0 has 1 µs left. -/
def turned : Dev := (sched.setRb (oCtx 0) 0 true).onCl 0 fun c =>
  { c with run := some run1, turn := some { ctx := 0, left := 1000 * equivNs, past := 0, expired := false } }
/-- Context 0 moves from cluster 0 to cluster 1. -/
def moving : Dev := { (((sched.setRb (oCtx 0) 0 true).setRb (oClu 1) 20 true).setRb 0x608010 25 true) with move := some { from_ := 0, to_ := 1, ctx := 0 } }
/-- An alias of context 0's old placement. -/
def fwd0 : Fwd := { ctx := 0, oldCl := 0, oldPos := 0, oldEpoch := 0, newCl := 1, upTo := 1 }
theorem witness_scheduler : sched.hostAlive = true ∧ sched.ctxActive 0 = false ∧ sched.enableCode 0 0 (sched.maskOf 0) = none ∧ up.enableCode 0 0 [] = some 2 ∧
    (sched.setRb (oCtx 0) 0 true).ctxOn 0 = true ∧ (((sched.setRf (oCtx 0 + 0x50) 31 0 1000000).setRf (oCtx 0 + 0x58) 39 0 1000)).admits 0 7 = true ∧ up.maskCode 0 [0] = none ∧ up.maskCode 0 [1] = some 3 ∧
    (turned.cl 0).run = some run1 ∧ ((turned.cl 0).turn.map fun t => t.left) = some (1000 * equivNs) ∧ run1.q.ctx = 0 ∧ turned.running 0 = true ∧
    sched.rb 0x608010 25 = false ∧ (moving.cl 0).runs 0 = false ∧ moving.aliases = [] ∧ moving.maskHas 0 0 = true ∧ moving.maskHas 0 1 = false ∧
    moving.present 1 = true ∧ (NMap.get moving.ctxs CtxRt.reset 0).epoch = 0 ∧ sched.placementIdle fwd0 = true ∧
    Dev.mayMove { moving with move := none } 0 0 1 = true ∧ Dev.mayMove { moving with move := none } 0 0 2 = false ∧
    Dev.aliasTo { moving with aliases := [fwd0] } 0 1 = true ∧ moving.aliasTo 0 0 = false := by decide +kernel
theorem witness_not_admitted : (sched.setRf (oCtx 0 + 0x50) 31 0 1).admits 0 0 = false := by decide +kernel
theorem witness_timeout_check : (turned.enterGuest 0).cl 0 = turned.cl 0 ∧ ((turned.tickCl 0).cl 0).run.any (fun r =>
    decide (r.ns * 16 ≤ r.q.c.maxDur.toNat * 1000 * equivNs * (turned.tickCl 0).tol)) = false ∧
    (((turned.onCl 0 fun c => { c with run := some { run1 with q := { cmd1 with c := { (default : HostCmd) with maxDur := 9 } } } }).tickCl 0).cl 0).run.any (fun r =>
    decide (r.ns * 16 ≤ r.q.c.maxDur.toNat * 1000 * equivNs * (turned.tickCl 0).tol)) = true := by decide +kernel
/-- Port 0 is up and function 0 has one window, with its ring on. -/
def hosted : Dev := ((sched.setRb 0x520004 0 true).setRf (oFunc 0) 4 1 1).onWin 0 0 fun w => { w with enabled := true, ringCfg := 1, credits := 64 }
theorem witness_host_settings : hosted.hostAlive = true ∧ hosted.funcExists 0 = true ∧ hosted.funcExists 1 = false ∧
    { hosted.setRb (oFunc 1) 0 true with vfEnable := true, numVfs := 1 }.funcExists 1 = true ∧ (hosted.win 0 0).enabled = true ∧
    (hosted.win 0 1).enabled = false ∧ hosted.canSend 0 = true ∧ ((hosted.onVec 0 31 fun v => { v with due := true }).vec 0 31).due = true ∧
    hosted.portUp 0 = true ∧ hosted.windowsOf 0 = 1 ∧ up.anyWindow 0 = false := by decide +kernel
/-- A write of 64 aligned bytes to slot 3 of window 0 of function 0 through port 0. -/
def ww : WinWrite := { port := 0, func := 0, win := 0, slot := 3, len := 64, aligned := true, single := true }
/-- A command of at most 9 µs at Local address 0. -/
def run9 : HostCmd := { (default : HostCmd) with op := 1, maxDur := 9 }
theorem witness_window_writes : winWriteOk ww = true ∧ winWriteOk { ww with slot := 64 } = false ∧ hosted.portUp 0 = true ∧ hosted.onPort 0 0 = true ∧
    0 < hosted.windowsOf 0 ∧ ¬1 < hosted.windowsOf 0 ∧ (hosted.win 0 0).en = true ∧ (hosted.win 0 0).credits = 64 ∧
    hosted.rb (oFunc 0 + 0x40) 6 = false ∧ run9.op.toNat = 1 ∧ opAssigned 0 = false ∧ opAssigned 0x95 = false ∧ opAssigned 0x94 = true := by decide +kernel
theorem witness_stands_by : let d := { (hosted.setRb (oFunc 0 + 0x40) 6 true).setRb 0x14018 0 true with part := { code := .gh880m, units := 3 } }
    d.rb (oFunc 0 + 0x40) 6 = true ∧ d.standby (d.rf (oFunc 0 + 0x40) 5 0) = true := by decide +kernel
/-- The command waits in window 0. -/
def waits (op : Nat) : CmdRec := { cmd1 with op := op, c := run9 }
/-- Window 0 holds the command, and context 0 is on. -/
def waiting1 (op : Nat) : Dev := ((hosted.setWait s0 (.wfc 3)).setRb (oCtx 0) 0 true).onWin 0 0 fun w => { w with waiting := [waits op] }
theorem witness_host_traffic : ((waiting1 1).win 0 0).waiting.find? (fun q => decide (q.seq = 0)) = some (waits 1) ∧ (waiting1 1).mayStart (waits 1) = true ∧
    (waiting1 1).headStatus (waits 1) = none ∧ (waiting1 1).blocked = false ∧ (waiting1 1).pickCluster (waits 1) = some 0 ∧
    (waiting1 1).rtAdmitted 0 = false ∧ ((waiting1 1).setRb (oCtx 0) 0 false).headStatus (waits 1) = some 5 ∧ (waiting1 2).mayStart (waits 2) = true := by
  decide +kernel
/-- A record waits for window 0, two events for the ring of function 0, a write for GO; port 0 caches line 4 modified and
tracks line 6, which is being snooped. -/
def traffic : Dev :=
  { hosted with
    recs := [(waits 1).plainRec 4]
    fns := NMap.put hosted.fns 0 { hosted.fn 0 with evtEn := true, pend := [{ kind := 1, count := 1, detail := 0 }, { kind := 2, count := 1, detail := 0 }] }
    hostWr := [{ id := 0, port := 0, func := 0, addr := 0, bytes := [1], eng := 0, ch := 0, k := 0 }]
    hostCache := [(0, 4, true)]
    hostTrk := [{ port := 0, line := 6, snoop := true }] }
theorem witness_host_output : traffic.canSend 0 = true ∧ traffic.nextRec 0 0 = some ((waits 1).plainRec 4) ∧ traffic.twin.handing = false ∧
    (traffic.fn 0).evtEn = true ∧ (traffic.fn 0).unread < 64 ∧ (traffic.fn 0).pend.length = 2 ∧ traffic.ledgerOn 0 = false ∧
    (traffic.hostWr[0]?.any fun w => traffic.hostSent 0 w) = true ∧ traffic.portUp 0 = true ∧
    traffic.hostCache.find? (fun x => decide (x.1 = 0) && decide (x.2.1 = 4)) = some (0, 4, true) ∧
    traffic.hostCache.find? (fun x => decide (x.1 = 0) && decide (x.2.1 = 5)) = none ∧
    (traffic.hostTrk.any fun t => decide (t.port = 0) && decide (t.line = 6) && t.snoop) = true ∧ traffic.hostAlive = true := by decide +kernel
/-- Commons line 0 lies in a HOST_MEM partition and is written; port 0 is up. -/
def hdm : Dev := ((mapped.setRb (oPart 0) 7 true).setRb 0x520004 0 true).putLine .com (lineAddr 0) zeros
theorem witness_host_memory : hdmOk 0 63 1 = true ∧ hdmOk 0 63 2 = false ∧ hdmOk 0 (2 ^ 36 - 64) 64 = true ∧ hdm.portUp 0 = true ∧ hdm.full = true ∧
    (hdm.hostMem (commonsBase + 63)).isSome = true ∧ hdm.hostMem (commonsBase + (2 ^ 36 - 64)) = none ∧ hdm.hostTrk = [] ∧ hdm.hostQ = [] ∧
    ({ hdm with hostQ := [{ resp := false, port := 0, addr := commonsBase, size := 1, data := 0 }], hostTrk := [{ port := 1, line := 0, snoop := false }] }.hostTry
      { resp := false, port := 0, addr := commonsBase, size := 1, data := 0 }).1 = false ∧
    (hdm.healHold (.host 0) 0).isNone = true ∧ Dev.quiet { hdm with hostTrk := [] } 0 = true ∧ hdm.ownerData 0 = none ∧ hdm.hostQuiet 0 = true ∧
    (hdm.mem .com).wf = true ∧ (hdm.mem .com).mark ((commonsBase + 63) / 8) = .written := by decide +kernel

/-- A port's tracker of n entries, for line 2. -/
def trk (n : Nat) : List HostTrk := List.replicate n { port := 0, line := 2, snoop := false }
theorem trk_full (n : Nat) : ((trk n).filter fun t => decide (t.port = 0)).length = n ∧
    ((trk n).any fun t => decide (t.port = 0) && decide (t.line = 0)) = false := by simp [trk]
theorem witness_tracker_full : 1048576 ≤ (({ hdm with hostTrk := trk 1048576 } : Dev).hostTrk.filter fun t => decide (t.port = 0)).length ∧
    (({ hdm with hostTrk := trk 1048576 } : Dev).hostTrk.any fun t => decide (t.port = 0) && decide (t.line = 0)) = false :=
  ⟨Nat.le_of_eq (trk_full _).1.symm, (trk_full _).2⟩
/-- A command whose OP is not assigned takes a credit and completes with BAD_COMMAND (R351). -/
theorem test_unassigned_op : gives (.run ww { run9 with op := 0x95 }) (hosted.setRb (oCtx 0) 0 true) (fun e => decide ((e.win 0 0).credits = 63) &&
    decide (e.recs.map (fun r => r.status) = [4])) = true := by decide +kernel
theorem test_row_brings_its_op : gives (.run ww { run9 with op := 2 }) hosted (fun e => decide ((e.win 0 0).credits = 64)) = true := by decide +kernel
theorem test_enable_context : gives (.schCtxCfgWrite 0 1) sched (fun e => e.ctxOn 0) = true := by decide +kernel
theorem test_enable_without_share : gives (.schCtxCfgWrite 0 1) up (fun e => !(e.ctxOn 0)) = true := by decide +kernel
theorem test_run_accepted : gives (.run ww run9) ((hosted.setRb (oCtx 0) 0 true).setRb (oFunc 0 + 0x40) 6 true) (fun e => decide ((e.win 0 0).credits = 63) && decide ((e.win 0 0).seq = 1) &&
    decide ((e.win 0 0).waiting.length = 1)) = true := by decide +kernel
theorem test_run_short_write_drops : gives (.run { ww with len := 32 } run9) hosted (fun e => decide ((e.win 0 0).drop = 1) &&
    decide ((e.win 0 0).credits = 64)) = true := by decide +kernel
theorem test_record_returns_credit : gives (.completionRecord 0 0) (traffic.onWin 0 0 fun w => { w with credits := 63, ringPos := 63 })
    (fun e => decide ((e.win 0 0).credits = 64) && decide ((e.win 0 0).ringPos = 0) && !((e.win 0 0).phase)) = true := by decide +kernel
theorem test_unmask_sends_pending : gives (.msixVectorUnmask 0 3) (hosted.onVec 0 3 fun v => { v with masked := true, pend := true })
    (fun e => decide ((e.vec 0 3).sent = 1) && !((e.vec 0 3).pend)) = true := by decide +kernel
/-- The host write to line 0 waits for what port 1 holds; a later one of port 0 to line 1 waits behind it (R273). -/
theorem test_host_writes_in_order : gives (.hostMemWrite 0 128 1 0xAA) { hdm.putLine .com (lineAddr 1) zeros with
      hostQ := [{ resp := false, port := 0, addr := commonsBase, size := 1, data := 0xBB }], hostTrk := [{ port := 1, line := 0, snoop := false }] }
    (fun e => decide (e.hostQ.length = 2) && decide (e.commons.word (commonsBase / 8 + 16) = 0)) = true := by decide +kernel
theorem test_host_write : gives (.hostMemWrite 0 2 2 0xBBAA) hdm (fun e => decide (e.commons.word (commonsBase / 8) = 0xBBAA0000)) = true := by
  decide +kernel

/-! ## Power, partitions, takeover -/

/-- The power state changed. -/
def pw (f : Pwr → Pwr) : Dev := up.onPwr f
theorem witness_power : up.hostAlive = true ∧ up.full = true ∧ up.stage ≠ 0 ∧ 2 ≤ up.stage ∧ (up.setRb 0x20004 3 true).rb 0x20004 3 = true ∧
    up.sampling = true ∧ up.pwr.peakHot = 0 ∧ (pw fun p => { p with peakHot := 49 }).pwr.peakHot < 50 ∧
    1000 ≤ (pw fun p => { p with peakOk := 1000, peak := 6 }).pwr.peakOk ∧ 7 < up.part.dies ∧ up.powered = true ∧
    endsPower 2 = true ∧ endsPower 5 = false ∧
    (up.sens 8 1728).hottest ≥ 1728 ∧ (up.setRb 0x20000 4 true).rb 0x20000 4 = true ∧ up.rb 0x20000 4 = false ∧
    (pw fun p => { p with dip := 1 }).pwr.dip = 1 ∧ up.pwr.dip ≠ 1 ∧ (pw fun p => { p with dip := 2 }).pwr.dip = 2 := by decide +kernel
/-- The means after one sample of `w` W in the last 1 ms and in the last 10 ms. -/
def sampled (w : Nat) : Dev := pw fun p => { p with acc := (w, 1), ms := [w], susOk := 10, sus := 0 }
theorem witness_governors : (sampled 1).pwr.acc.2 ≠ 0 ∧
    (let e := (sampled 9000).onPwr fun p => { p with slots := p.acc :: p.slots.take 99, acc := (0, 0) }
     let y := (e.setRf 0x11008 15 0 9000).sens 3 (meanOf e.pwr.second)
     decide (y.rf 0x2000C 11 0 * (y.pwr.projected (y.rf 0x11008 15 0)).2 < (y.pwr.projected (y.rf 0x11008 15 0)).1)) = true ∧
    (let e := (sampled 1).onPwr fun p => { p with slots := p.acc :: p.slots.take 99, acc := (0, 0) }
     let y := (e.setRf 0x20000 2 0 5).sens 3 (meanOf e.pwr.second)
     decide ((y.pwr.projected (y.rf 0x11008 15 0)).1 ≤ y.rf 0x2000C 11 0 * (y.pwr.projected (y.rf 0x11008 15 0)).2) &&
     decide (y.pwr.second.1 * 100 < 95 * y.rf 0x2000C 11 0 * y.pwr.second.2) && decide (10 ≤ y.pwr.susOk) && decide (y.pwr.sus < y.rf 0x20000 2 0) &&
     y.nextFits (meanOf y.pwr.second) true) = true ∧
    97 * up.rf 0x2000C 27 16 * (sampled 9000).pwr.milli.2 < (sampled 9000).pwr.milli.1 * 100 ∧
    (sampled 1).pwr.milli.1 * 100 < 85 * up.rf 0x2000C 27 16 * (sampled 1).pwr.milli.2 := by decide +kernel
theorem witness_dip_begins : (43999 : BitVec 16).toNat < 44000 ∧ up.pwr.dip = 0 ∧ (up.beginDrain 5).pwr.drain = some 5 ∧ (up.beginDrain 5).full = true := by
  decide +kernel
/-- A drain is under way. -/
def draining (k : Nat) : Dev := pw fun p => { p with drain := some k }
theorem witness_resets : (draining 1).pwr.drain = some 1 ∧ (draining 1).atBoundary = true ∧ (draining 4).enginesIdle = true ∧
    (up.beginDrain 4).pwr.drain = some 4 ∧ (up.beginDrain 4).enginesIdle = true ∧ up.stage = 8 ∧
    ((up.setStage 3).onLtn fun l => { l with found := some default }).stage = 3 ∧ up.pwr.stopped = false ∧ (up.setStage 9).stage = 9 ∧
    up.ltn.starting = none ∧ (up.onLtn fun l => { l with starting := some (4, false) }).ltn.starting.isSome = true := by decide +kernel
/-- A replica cache on die 1, with a flag of its status. -/
def replica (en bsy : Bool) : Dev :=
  ((((up.setRf (oPart 2) 2 0 3).setRf (oPart 2) 5 3 1).setRb (oPart 2) 6 en).setRb (oPart 2 + 8) 0 true).setRb (oPart 2 + 8) 1 bsy
theorem witness_commons_settings : up.full = true ∧ up.partActive 63 = false ∧ mapped.partActive 0 = true ∧ mapped.partType 0 ≠ 3 ∧
    up.partCode 0 (BitVec.ofNat 64 (2 + 64 + 16 * 2 ^ 16)) = none ∧ (up.partCode 0 7).isSome = true ∧ (replica true false).partActive 2 = true ∧
    (replica true false).partType 2 = 3 ∧ (replica true true).rb (oPart 2 + 8) 1 = true ∧ (replica true true).rb (oPart 2) 6 = true ∧
    (replica false true).rb (oPart 2) 6 = false ∧ (replica false true).wbEmpty 2 = true ∧ ((replica false true).rep 1).lines = [] ∧ (replica true true).setsFit 2 = true ∧ mapped.partOn 0 7 = true ∧
    (List.range 8).all (fun die => decide (up.guaranteed die ≤ 14336)) = true ∧ up.entry 0 = none ∧ up.rfsBad 63 = false := by decide +kernel
theorem witness_guarantee_over : let d := (mapped.setRb (oPart 0 + 0x10) 0 true).setReg (oPart 0 + 0x40) (BitVec.ofNat 64 (0x1F0 + 512 + 1023 * 1024))
    d.guaranteed 0 > 14336 := by decide +kernel
/-- Cluster 48 asked for 64 bytes of partition 0 at die 0, and 32 of them were served; its entry guarantees 16,384. -/
def regulated (served : Nat) : Dev :=
  (((mapped.setRb (oPart 0 + 0x10) 0 true).setReg (oPart 0 + 0x40) (BitVec.ofNat 64 (48 + 512 + 1024))).onCoh fun c =>
    { c with net := [msg (.req (req .rdU))], tally := NMap.put c.tally (tallyKey 0 0 48) (served, 0) })
theorem witness_regulator : (regulated 32).rb (oPart 0 + 0x10) 0 = true ∧ (regulated 32).creditOf 0 48 = some 16384 ∧
    (let sent := ((regulated 32).waitingAt 0 0).foldl (fun (k : Nat) x => if x.1 = 48 then k + x.2 else k) 0
     decide (sent = 128) && decide (((regulated 32).regTally 0 0 48).1 < min 16384 (((regulated 32).regTally 0 0 48).1 + sent - ((regulated 32).regTally 0 0 48).2))) = true ∧
    (min 16384 (16384 + 128 - 0) ≤ ((regulated 16384).regTally 0 0 48).1) := by decide +kernel
/-- Host port 0 has an entry of 64 × 16 B per step in partition 0, as in the example after R233. -/
def portGuaranteed : Dev := (mapped.setRb (oPart 0 + 0x10) 0 true).setReg (oPart 0 + 0x40) (BitVec.ofNat 64 (0x190 + 512 + 64 * 1024))
/-- It delivered requests for 700 KiB and was given `kib` KiB. -/
def portTally (kib : Nat) : RegTally := { master := 0x190, served := kib * 1024, delivered := 700 * 1024, late := 0 }
theorem witness_port_regulated : portGuaranteed.creditOf 0 0x190 = some (1024 * 1024) ∧ (portTally 600).served < min (1024 * 1024) (portTally 600).delivered ∧
    min (1024 * 1024) (portTally 700).delivered ≤ (portTally 700).served ∧ portGuaranteed.partActive 0 = true := by decide +kernel
theorem test_port_misses : gives (.regulatorWindowEnd 0 0 [portTally 600]) portGuaranteed (fun e => decide (e.reg (oPart 0 + 0x14) = 0x1901)) = true := by
  decide +kernel
theorem witness_refetch_bad : ((up.setRf 0x380004 19 0 1).setRf 0x380014 19 0 1).rfsBad 1 = true := by decide +kernel
/-- Cluster 0 has failed; its row has a spare at position 8, or not. -/
def failed (row : Nat) : Dev := (up.onBist fun b => { b with failed := [0] }).setReg (oRow 0) (BitVec.ofNat 64 row)
theorem witness_takeover : up.full = true ∧ up.present 0 = true ∧ (up.bist.slices.any fun x => decide (x.2.cl = some 0)) = false ∧
    up.bist.failed.contains 0 = false ∧ (failed 0x1F).bist.failed.contains 0 = true ∧ (failed 0x1F).posOf 0 ≠ 8 ∧
    ((failed 0x1F).reg (oRow 0)).getLsbD 4 = true ∧ fld ((failed 0x1F).reg (oRow 0)) 3 0 = 15 ∧ (failed 0x1F).aliases = [] ∧
    (failed 0x1F).sharesOn 0 = [] ∧ (failed 0x1F).aliases.length + ((failed 0x1F).sharesOn 0).length ≤ 64 ∧
    (({ (failed 0x1F) with aliases := List.replicate 65 { ctx := 0, oldCl := 5, oldPos := 0, oldEpoch := 0, newCl := 1, upTo := 0 } } : Dev).aliases.length > 64) ∧ ((failed 0).reg (oRow 0)).getLsbD 4 = false := by decide +kernel
theorem witness_takeover_done : let d := (up.setRf (oClu 0) 18 15 8).onCl 0 fun c => { c with held := true }
    (d.cl 0).held = true ∧ d.posOf 0 = 8 ∧ d.present 0 = true ∧ (d.bist.slices.any fun x => decide (x.2.cl = some 0)) = false := by decide +kernel

theorem test_step_setting : gives (.pwrStepCtlWrite 5) up (fun e => decide (e.rf 0x20000 2 0 = 5)) = true := by decide +kernel
theorem test_limit_capped : gives (.pwrLimitCfgWrite 0xFFFFFFFF) up (fun e => decide (e.reg 0x2000C = up.reg 0x2000C)) = true := by decide +kernel
theorem test_evaluation_without_samples : gives (.sustainedEvaluation 9000 8000 false) (up.setRf 0x20000 2 0 5)
    (fun e => decide (e.pwr.sus < up.pwr.sus) && decide (e.sensed 3 = 9000) && decide (e.sensed 2 = 8000)) = true := by decide +kernel
theorem test_rearm : gives .rearm up (fun e => decide (e.rf 0x20014 15 0 = 0xFFFF)) = true := by decide +kernel
theorem test_trip_after_drain_powers_down : gives .thermalTrip (((up.sens 8 1728).setStage 3).onLtn fun l => { l with found := some default })
    (fun e => e.pwr.stopped && e.rb 0x20010 6) = true := by decide +kernel
theorem test_missed_service : gives (.regulatorWindowEnd 0 0 []) (regulated 32) (fun e => e.rb (oPart 0 + 0x14) 0 && decide (e.rf (oPart 0 + 0x14) 12 4 = 48)) = true := by
  decide +kernel
theorem test_trip_drains : gives .thermalTrip (up.sens 8 1728) (fun e => decide (e.pwr.drain = some 2)) = true := by decide +kernel
theorem test_partition_on : gives (.cmnPartCfgWrite 0 (2 + 64 + 16 * 2 ^ 16)) up (fun e => e.partActive 0) = true := by decide +kernel
theorem test_absent_after_takeover : gives (.spareTakeover 0 true) (failed 0) (fun e => !(e.present 0)) = true := by decide +kernel

/-! ## Errors, self-test, twin, start, debug, registers -/

/-- A report of a key. -/
def rep1 (sub : BitVec 8) : Report := { key := { origin := 0x10000, kind := 7, sub := sub }, reporter := 0x20000, rep := 65535, wit := 127, addr := 0, detail := 0 }
/-- One record. -/
def errored : Dev := up.aggregate (rep1 0)
theorem witness_reports : up.stage ≠ 0 ∧ errored.errs.findKey (fun y => decide (y.key = (rep1 0).key)) = some 0 ∧
    (NMap.find errored.errs.recs 0).isSome = true ∧ errored.errs.findKey (fun y => decide (y.key = (rep1 1).key)) = none ∧
    errored.errs.freeIdx = some 1 ∧ (errored.errs.recs.filter fun x => decide (x.2.key.origin = (rep1 1).key.origin) && decide (x.2.key.kind ≠ 0xFE) &&
      decide (x.2.key.kind ≠ 0xFF)).length < 8 := by decide +kernel
/-- Line 0 has a poisoned word and a refetch source; line 1 heals. -/
def healing1 : Dev := { (((mapped.setRb (oPart 0 + 4) 24 true).setRf 0x380004 19 0 1).setRf 0x380004 21 20 1).putLine .com (lineAddr 0) { v := 0, poison := 1 } with heals := NMap.put [] 1 { failed := false, kind := 1, src := 0, req := 0, got := none } }
/-- Line 1 heals from the twin, whose line has come or not. -/
def fromTwin (got : Option Line) : Dev := { healing1 with heals := [(1, { failed := false, kind := 2, src := 0, req := 3, got := got })] }
theorem witness_errors : up.full = true ∧ ((up.onErrs fun e => { e with folds := [{ r := rep1 0, folded := 0 }] }).errs.folds.find?
      fun x => decide (x.r.reporter = 0x20000) && decide (x.r.key = (rep1 0).key)).isSome = true ∧
    (up.setRb (0x70A000 + 0x40 * 7) 0 true).rb (0x70A000 + 0x40 * 7) 0 = true ∧ (up.safeOf 0x1000000).isSome = true ∧
    (up.safeOf 0x100000).isSome = true ∧ healing1.needsHeal 0 = true ∧ (healing1.heals.filter fun h => !h.2.failed && decide (healing1.homeDie h.1 = healing1.homeDie 0)).length < 64 ∧
    healing1.healing 1 = true ∧ healing1.healing 0 = false ∧ 7 < up.part.dies ∧
    (NMap.find healing1.heals 1 = some { failed := false, kind := 1, src := 0, req := 0, got := none }) ∧
    (NMap.find (fromTwin none).heals 1).isSome = true ∧ (fromTwin none).healing 1 = true ∧ (fromTwin (some 5)).healing 1 = true := by decide +kernel
/-- A slice of a kind runs on position 0 of die 0. -/
def slicing (kind : Nat) (again : Bool) : Dev := up.onBist fun b =>
  { b with slices := NMap.put [] 0 { pos := 0, cl := some 0, kind := kind, again := again, saved := 0 } }
/-- Cluster 0 is between commands. -/
def between : Dev := up.setWait s0 (.wfc 3)
/-- A slice that passes. -/
def passes : SliceResult := { signature := 0, sigOk := true, marchOk := true, arrayIdx := 0, saveOk := true }
theorem witness_self_test : up.sliceFree 7 = true ∧ up.recoveryDue 7 = false ∧ (up.onBist fun b => { b with want := some 431 }).wantedOn 7 = some 431 ∧
    up.wantedOn 0 = none ∧ (between.setRb 0x800000 0 true).rb 0x800000 0 = true ∧ between.atCommandEnd 0 = true ∧ between.atCommandEnd 431 = true ∧
    (between.onCl 0 fun c => { c with mDead := true }).sliceFree 0 = true ∧ ((between.onCl 0 fun c => { c with mDead := true }).cl 0).dead = true ∧
    (between.onCl 0 fun c => { c with mDead := true }).atCommandEnd ((between.onCl 0 fun c => { c with mDead := true }).posIndex 0) = true ∧
    between.present 0 = true ∧ between.bist.failed.contains 0 = false ∧ between.posPresent 431 = true ∧ between.posPresent 432 = false ∧
    (slicing 2 false).sliceFree 0 = false ∧ (NMap.find (slicing 2 false).bist.slices 0).isSome = true ∧
    ((slicing 0 false).setRb 0x800000 9 true).rb 0x800000 9 = true ∧ ((slicing 0 true).setRb 0x800000 9 false).rb 0x800000 9 = false := by decide +kernel
/-- Position 5 of die 0 alone was tested longest ago. -/
def aged : Dev := (List.range 54).foldl (fun (d : Dev) i => d.setRf (oPos i) 15 8 (if i = 5 then 9 else 0)) up
theorem witness_oldest : (aged.oldest 0).1 = some 5 := by
  have h : ((((List.range 54).map fun k => 54 * 0 + k).filter fun i => aged.posPresent i && !(aged.rtHeld i)).filter fun i =>
    decide (aged.rf (oPos i) 15 8 = (((List.range 54).map fun k => 54 * 0 + k).filter fun i => aged.posPresent i && !(aged.rtHeld i)).foldl
      (fun m i => max m (aged.rf (oPos i) 15 8)) 0)) = [5] := by decide +kernel
  simp only [Dev.oldest, Dev.choose]
  rw [h]
  simp [Nat.mod_one]
/-- TWN_STS in a state with paths and missed heartbeats. -/
def twin (state paths missed : Nat) : Dev := ((({ up with part := { code := .gh880m, units := 3 } }.setRf 0x14004 2 0 state).setRf 0x14004 4 3 paths).setRf 0x14004 8 6 missed)
/-- The twin's identity and proof. -/
def proof1 : TwinProof := { id := 0, peerId := 0, code := 2, proofOk := true }
theorem witness_pairing : (twin 0 0 0).part.twin = true ∧ (twin 0 0 0).hostAlive = true ∧ (twin 0 0 0).rb 0x14000 0 = false ∧ (twin 1 0 0).twinState = 1 ∧
    proof1.id.toNat = (twin 1 0 0).rf 0x14000 12 1 ∧ ((twin 1 0 0).setRb oDevId 12 true).idValid = true ∧ proof1.peerId.toNat = (twin 1 0 0).ownId ∧
    proof1.code.toNat = (twin 1 0 0).part.code.num ∧ ((twin 1 0 0).setRb (oLink 64 + 4) 0 true).linkUp 64 = true ∧ (twin 4 0 0).twinState = 4 ∧
    (twin 2 1 3).twinState = 2 ∧ (twin 2 1 3).rf 0x14004 4 3 ≠ 0 ∧ (twin 2 1 3).rf 0x14004 8 6 = 3 ∧ (twin 2 1 2).rf 0x14004 8 6 < 3 ∧
    (twin 2 1 3).twin.heard = 0 ∧ (twin 3 0 0).full = true ∧ (twin 3 0 0).twin.took = false ∧ (twin 2 1 0).twin.handing = false := by decide +kernel
/-- Window 0 of function 0 belongs to context 0, which stands by for the twin; MIRROR_PART is partition 0. -/
def standing : Dev := (((((twin 2 1 0).setRb (oLink 64 + 4) 0 true).setRb (oFunc 0 + 0x40) 6 true).setRb 0x14018 0 true).setRf (oPart 0) 2 0 1).setRf (oPart 0) 31 16 1 |>.setRb (oPart 0 + 8) 0 true
theorem witness_mirror : winOk 0 0 = true ∧ winOk 255 7 = true ∧ winOk 256 0 = false ∧ standing.twinPath = true ∧ standing.standbyWin 0 0 = true ∧
    standing.full = true ∧ NMap.get (standing.onTwin fun t => { t with shadow := NMap.put [] 5 true }).twin.shadow false 5 = true ∧
    (standing.mirAddr 0 0 (64 * 63)).isSome = true ∧ (standing.mirAddr 0 0 (4096 + 64 * 63)).isSome = true ∧
    ((standing.mirAddr 0 0 0).any fun a => (standing.mirHeld a 64).isNone) = true ∧ (standing.setRf 0x14104 19 0 6).shadowed 5 = true ∧
    ((standing.setRf 0x14104 19 0 6).pointWaits { point := 3, pages := [7] }) = [] ∧
    standing.standbyPage (0 / 512) = true ∧ (standing.heldLines [0]).isNone = true ∧
    ((standing.onTwin fun t => { t with runs := [{ point := 3, pages := [] }] }).twin.runs.head?).isSome = true := by decide +kernel
/-- An image that verifies. -/
def image (svn : BitVec 8) : FlashImage := { verifies := true, svn := svn, digest := 7 }
/-- A record of a code; the rest verifies. -/
def boot (code : BitVec 8) : PowerOn :=
  { (default : PowerOn) with
    lantern := [image 9, default]
    keeper := [image 9, default]
    recordOk := true
    record := { (default : CfgRecord) with code := code, dies := 8, units := 3, floor := 9, keyHash := 0xABC }
    keyOk := true
    seed := 0x123
    idHash := 0xABC
    hostDomainOk := true
    railsOk := true
    sensors := 48000
    bstEn := true }
/-- The identity key of the device has been derived, and a Lantern image with SVN 9 runs. -/
def keyed : Dev := (up.onLtn fun l => { l with seed := some 0x123, idHash := 0xABC }).setRf 0x10008 15 8 9
theorem witness_start : codeOf (boot 3).record.code.toNat = some .gh840m ∧ codeOf 4 = none ∧ State.reset.dev.ltn.found = none ∧ up.stage ≠ 11 ∧ (up.setStage 11).stage = 11 ∧
    ((up.setStage 11).setRf 0x10000 15 8 3).rf 0x10000 15 8 ≠ 0x0A ∧ (up.setRb (oCtx 63) 0 true).inUse = true ∧ up.inUse = false ∧
    (up.beginDrain 5).pwr.drain = some 5 ∧ (up.setStage 9).stage = 9 ∧ (up.setStage 11).hostAlive = true ∧ (up.beginDrain 5).enginesIdle = true ∧
    (up.setStage 4).hostAlive = true ∧ (up.setStage 4).inUse = false ∧ (up.setStage 4).stage = 4 ∧ (up.setStage 0).hostAlive = false ∧
    ((up.onPwr fun p => { p with drain := some 4 }).beginDrain 5).pwr.drain ≠ some 5 := by decide +kernel
theorem witness_verification :
    let low : PowerOn := { boot 1 with record := { (boot 1).record with floor := 10 } }
    (keyed.images (boot 1) false).any (fun x => x.verifies && decide ((boot 1).record.floor.toNat ≤ x.svn.toNat)) = true ∧
    (keyed.images (boot 1) true).any (fun x => x.verifies && decide ((boot 1).record.floor.toNat ≤ x.svn.toNat)) = true ∧
    (keyed.images (default : PowerOn) false).any (fun x => x.verifies) = false ∧ (boot 1).record.floor.toNat ≤ keyed.rf 0x10008 15 8 ∧
    keyed.bound (boot 1).record = true ∧ up.bound (boot 1).record = false ∧ up.ltn.seed = none ∧ keyed.ltn.seed.isSome = true ∧
    (boot 1).record.keyHash = keyed.ltn.idHash ∧ (default : CfgRecord).keyHash ≠ keyed.ltn.idHash ∧
    (keyed.images low true).any (fun x => x.verifies) = true ∧ keyed.bound low.record = true ∧
    (keyed.images low true).any (fun x => x.verifies && decide (low.record.floor.toNat ≤ x.svn.toNat)) = false ∧
    keyed.rf 0x10008 15 8 < low.record.floor.toNat ∧ (codeOf 4).isSome = false ∧
    (keyed.images { low with keeper := [image 10] } true).any (fun x => x.verifies && decide (low.record.floor.toNat ≤ x.svn.toNat)) = true := by
  decide +kernel
theorem witness_module_service : (((up.setStage 3).onPwr fun p => { p with stopped := true }).onLtn fun l => { l with switchOn := true }).ltn.switchOn = true ∧
    (up.setStage 3).stage = 3 ∧ (up.onPwr fun p => { p with stopped := true }).pwr.stopped = true ∧ up.slotRuns true true = false ∧ 2 ≤ up.stage ∧
    up.spdmReached none = true ∧ up.ltn.spdmAlg = false ∧ ((up.onLtn fun l => { l with spdmAlg := true }).ltn.spdmAlg) = true ∧
    (up.onLtn fun l => { l with found := some (boot 1) }).ltn.found.isSome = true ∧ up.ltn.boardTest = false ∧ up.spdmReached (some 0) = false ∧
    (up.onLtn fun l => { l with boardTest := true }).ltn.boardTest = true ∧ up.ltn.found = none ∧ up.ltn.switchOn = false ∧
    (up.setRf 0x10000 3 0 10).slotRuns true true = false ∧ up.slotRuns false false = true := by decide +kernel
/-- DBG_SEL names the S-core of cluster 0, or nothing. -/
theorem witness_debug : up.full = true ∧ up.dbgTarget = some s0 ∧ ((up.setRf 0x900000 15 0 0xFFFF).dbgTarget).isNone = true ∧ (up.dbg s0).halted = false ∧
    ((up.onDbg s0 fun x => { x with halted := true }).dbg s0).halted = true ∧ Agent.ok s0 = true ∧ up.running 0 = true ∧
    ((up.onDbg s0 fun x => { x with haltReq := true }).dbg s0).haltReq = true ∧ (up.waitOf s0).yields = true := by decide +kernel
theorem witness_register_writes : linkOk 65 = true ∧ 65 < up.part.links ∧ (training.rb (oLink 0) 0) = true ∧ up.rb (oLink 0) 0 = false ∧
    (List.range 66).all (fun l => !(up.rb (oLink l) 0)) = true ∧ grpOk 63 = true ∧ 383 < up.part.clusters ∧ up.hostAlive = true ∧
    up.running 0 = true ∧ up.funcExists 0 = true ∧ (0x1FFFFF8 % 8 = 0) := by decide +kernel
theorem witness_group_list : let d := mapped.setMem .com ((List.range 16).foldl (fun (m : Mem) k => m.putWord (commonsBase / 8 + k) 0) mapped.commons)
    (d.memberList commonsBase 2).1.isSome = true ∧ (mapped.memberList 4 2).1 = none := by decide +kernel
theorem witness_plain_fields : (RegInfo.mk 0x20 false 0 0xF 0 0xF0 0).rw &&& (RegInfo.mk 0x20 false 0 0xF 0 0xF0 0).w1c = 0 := by decide +kernel

theorem test_witness_saturates : gives (.errorReport (rep1 0)) errored (fun e => decide ((NMap.find e.errs.recs 0).map (fun x : ErrRec => x.witness) = some 65535)) = true := by
  decide +kernel
theorem test_free : gives (.free 0) errored (fun e => (NMap.find e.errs.recs 0).isNone) = true := by decide +kernel
theorem test_recovery : gives (.powerOn { boot 1 with lantern := [] }) State.reset.dev (fun e => decide (e.stage = 10) && decide (e.rf 0x10000 15 8 = 1)) = true := by
  decide +kernel
theorem test_insertion : gives .insertion State.reset.dev (fun e => e.ltn.switchOn && e.ltn.present) = true := by decide +kernel
theorem test_debug_access_running : gives (.dbgAccRead 0) up (fun e => (e.dbg s0).accErr && decide (e.reg 0x900010 = 0)) = true := by decide +kernel
theorem test_third_heartbeat_lost : gives .heartbeatIntervalEnd (twin 2 1 3) (fun e => decide (e.twinState = 3)) = true := by decide +kernel
/-- What the part is after order 2 of a power-on (R441); a record of another device does not bind this one (R442). -/
theorem test_code_of_record : ((State.reset.dev.deriveKey (boot 3)).verifyOrder (boot 3) true).part = { code := .gh840m, units := 3 } := by
  decide +kernel
theorem test_foreign_record : let p := { boot 3 with idHash := 0xABD }
    (State.reset.dev.deriveKey p).bound p.record = false ∧ (State.reset.dev.deriveKey (boot 3)).bound (boot 3).record = true := by decide +kernel
theorem test_rest_in_safe_fault : gives .rest ((up.setStage 11).setRf 0x10000 15 8 3) (fun e => e.rb 0x10004 3 && decide (e.stage = 11)) = true := by
  decide +kernel

/-! ## Memory words, register writes, decoding -/

theorem witness_merge : ((local_ up 9 7).mem (.loc 0)).mark 9 = .written ∧ ((local_ up 9 7).mem (.loc 0)).mark 10 ≠ .written := by decide +kernel
theorem test_no_words : decodeTableWord 32 0xFFFFFFFF = none ∧ (st up).withFetchWord 32 7 = st up := by decide +kernel
/-- A die with a strap byte, whose pads read alike and which answers. -/
def strap (v : BitVec 8) : DieStrap := { strap := v, padsOk := 0xFF, answers := true, heard := [none, none, none], subFail := 0 }
theorem test_die_id : dieIdWord (strap 0x9E) 7 0 = 0x01D8DE9E ∧ strapFault up.part 8 6 (strap 0x9E) = 0 := by decide +kernel
theorem test_strap_faults : strapFault up.part 8 6 (strap 0x16) = 3 ∧ strapFault up.part 8 6 (strap 0x96) = 2 ∧ strapFault up.part 4 6 (strap 0x9E) = 7 := by decide +kernel

/-! ## Ill-formed commands -/

theorem wf_agent : (Instr.add (.sCore 383) rr).wf = true ∧ (Instr.add (.sCore 384) rr).wf = false ∧ (Instr.add (.group 0 true 15) rr).wf = true ∧
    (Instr.add (.group 0 true 16) rr).wf = false ∧ (Instr.add (.group 384 false 0) rr).wf = false := by decide +kernel
theorem wf_cluster : (Instr.groupLaunch 384).wf = false ∧ (Instr.missReturn 0 (2 ^ 28)).wf = false ∧ (Instr.streamTrackerTimeout 0 8).wf = false := by
  decide +kernel
theorem wf_message : (Instr.rds { sel with dst := 8 }).wf = false ∧ (Instr.rds { sel with src := 8 }).wf = false ∧ (Instr.rds { sel with line := 2 ^ 28 }).wf = false ∧
    (Instr.rds { sel with cl := 384 }).wf = false ∧ (Instr.rds sel).wf = true := by decide +kernel
theorem wf_engines : (Instr.copy 256).wf = false ∧ (Instr.gather 128).wf = false ∧ (Instr.clear .porter 128).wf = true ∧ (Instr.clear .gather 128).wf = false := by
  decide +kernel
theorem wf_links : (Instr.idleFrame 66 default).wf = false ∧ (Instr.laneFailed 0 4).wf = false ∧ (Instr.peerLost 4096).wf = false ∧
    (Instr.attemptTimeout 256 0 0).wf = false ∧ (Instr.attemptTimeout 0 4096 0).wf = false ∧ (Instr.attemptTimeout 0 0 65536).wf = false ∧
    (Instr.barrier 64).wf = false := by decide +kernel
theorem wf_host : (Instr.run { ww with port := 2 } run9).wf = false ∧ (Instr.run { ww with func := 256 } run9).wf = false ∧ (Instr.run { ww with win := 8 } run9).wf = false ∧
    (Instr.run { ww with slot := 64 } run9).wf = false ∧ (Instr.msixMessage 0 32).wf = false ∧ (Instr.hostMemRead 0 60 5).wf = false ∧
    (Instr.hostMemRead 0 0 0).wf = false ∧ (Instr.hostMemRead 0 (2 ^ 36) 1).wf = false ∧ (Instr.bisnpinvResponse 0 (2 ^ 30) none).wf = false ∧
    (Instr.aliasRelease 64).wf = false ∧ (Instr.vfEnableWrite true 256).wf = false ∧ (Instr.portLinkTrained 0 0 0).wf = false ∧
    (Instr.portLinkTrained 0 17 0).wf = false ∧ (Instr.portLinkTrained 0 16 4096).wf = false := by decide +kernel
theorem wf_op : (Instr.run ww { run9 with op := 2 }).wf = false ∧ (Instr.nop ww { run9 with op := 2 }).wf = true ∧ (Instr.nop ww { run9 with op := 7 }).wf = true := by
  decide +kernel
theorem wf_settings : (Instr.rtReq 64).wf = false ∧ (Instr.schCtxCluWrite 0 12 0).wf = false ∧ (Instr.cmnPartCfgWrite 64 0).wf = false ∧
    (Instr.cmnWinCfgWrite 256 0).wf = false ∧ (Instr.cmnRegEntWrite 0 16 0).wf = false ∧ (Instr.ptrRfsWrite 64 .base 0).wf = false ∧
    (Instr.triplicateCheck 0x2000000 0 0 0).wf = false ∧ (Instr.free 256).wf = false := by decide +kernel
theorem wf_device : (Instr.junctionSample 0 6 0).wf = false ∧ (Instr.junctionSample 8 0 0).wf = false ∧ (Instr.dieOut (some 4) 0).wf = false ∧
    (Instr.dieOut none 8).wf = false ∧ (Instr.alert (.regulator 8 .phaseFault)).wf = false ∧ (Instr.spdmRequest (some 2) .getDigests).wf = false ∧
    (Instr.powerOn (boot 4)).wf = true := by decide +kernel
theorem wf_registers : (Instr.registerWrite .bar2 0x2000000 4 0).wf = false ∧ (Instr.registerWrite .bar2 0 3 0).wf = false ∧
    (Instr.registerWrite (.vf 0 0) 0x10000 4 0).wf = false ∧ (Instr.registerWrite (.vf 0 2) 0 4 0).wf = false ∧ (Instr.registerWrite (.keeper 384) 0 4 0).wf = false := by decide +kernel
theorem wf_twin : (Instr.mirrorCommand (.acked 0 8 0)).wf = false ∧ (Instr.mirrorCommand (.received 0 0 0 0 65 0 true default)).wf = false ∧
    (Instr.mirrorRecord (.received 0 0 64 0 false 0)).wf = false ∧ (Instr.shadowPageCopy (.sent (2 ^ 19) true)).wf = false ∧
    (Instr.shadowPageCopy (.received (2 ^ 28) 0)).wf = false := by decide +kernel
theorem test_outside_changes_nothing : exec (.groupLaunch 384) (st up) = .next (st up) := rfl

/-! ## Words -/

theorem test_word_ld_acq : decodeInstr s0 0 0x260122A0 = some (.ldAcq s0 { rd := 5, rs1 := 9, rs2 := 0, sz := 1, mark := 1, scope := 2 }) := by decide +kernel
theorem test_word_cst_h : decodeInstr s0 0 0x000FE398 = some (.cstH s0 { rd := 7, imm := 0x7F }) := by decide +kernel
theorem test_word_mx_issue : decodeInstr g0 0 0x00018A32 = some (.mxIssue g0 { ra := 20, tok := 12, rsv := 0 } false) := by decide +kernel
theorem test_word_tok_wait : decodeInstr g0 0 0x000884B2 = some (.tokWait g0 { ra := 9, tok := 4, rsv := 0 }) := by decide +kernel
theorem test_zero_word : decodeInstr s0 0 0 = none := by decide +kernel
theorem test_add_word : encRR 0x02 0 { rd := 3, rs1 := 1, rs2 := 2 } = 2 + 3 * 2 ^ 7 + 1 * 2 ^ 13 + 2 * 2 ^ 19 := by decide +kernel

end Sys2Proof.Tests
end

section
namespace Sys2Proof.Machine

/-! ## Every command but the two starts is `run` under its own test of the units that it names -/

/-- An answer that is `run` of some effect under the test `ok`. -/
def RunsAs (ok : Bool) (s : State) (o : Host.Outcome State Fault Refusal) : Prop := ∃ f, o = run ok s f
theorem runsAs_run (ok : Bool) (s : State) (f : Dev → Dev) : RunsAs ok s (run ok s f) := ⟨f, rfl⟩
theorem runsAs_runDie (ok : Bool) (s : State) (f : Dev → Dev) : RunsAs ok s (runDie ok s f) := ⟨_, rfl⟩
theorem runsAs_instr4 (a : Agent) (s : State) (body : Dev → Out) : RunsAs (Agent.ok a) s (instr4 a s body) := ⟨_, rfl⟩
theorem runsAs_instr8 (a : Agent) (s : State) (w : Word) (body : Dev → Group → Out) :
    RunsAs (Agent.ok a) s (instr8 a s w body) := ⟨_, rfl⟩
theorem runsAs_requestRow (l : Nat) (m : LinkMsg) (kind : Nat) (s : State) (act : Dev → Bool × Dev) :
    RunsAs (linkOk l) s (requestRow l m kind s act) := runsAs_runDie _ _ _

/-- The test of a row of a window's OP is that of its slot and its OP byte. -/
theorem rowOk_eq (w : WinWrite) (c : HostCmd) (op : Nat) : rowOk w c op = (slotOk w && opRowOk c op) := by
  have h (n : Nat) (hn : n < 256) : decide (c.op = BitVec.ofNat 8 n) = decide (c.op.toNat = n) := by
    simp [← BitVec.toNat_inj, Nat.mod_eq_of_lt hn]
  have h1 := h 1 (by decide)
  have h2 := h 2 (by decide)
  simp [rowOk, winWriteOk, slotOk, portOk, windowOk, functionOk, opRowOk, opAssigned, h1, h2, Bool.and_assoc]
theorem runsAs_row (w : WinWrite) (c : HostCmd) (op : Nat) (s : State) (f : Dev → Dev) :
    RunsAs (slotOk w && opRowOk c op) s (run (rowOk w c op) s f) := rowOk_eq w c op ▸ runsAs_run _ _ _
/-- The test of a channel's row is that of the engine's channels. -/
theorem runsAs_channel (eng : Engine) (ch : Nat) (s : State) (f : Dev → Dev) :
    RunsAs (channelOk eng ch) s (runDie (chOk (engNo eng) ch) s f) := by
  cases eng <;> exact runsAs_runDie _ _ _
theorem runsAs_linkAtm (l : Nat) (m : LinkMsg) (s : State) : RunsAs (linkOk l) s (execLinkAtm l m s) := by
  unfold execLinkAtm
  split
  · exact runsAs_runDie _ _ _
  · exact runsAs_requestRow _ _ _ _ _

/-- What each command is: an instruction of 4 bytes or of 8, a row that acts whether or not the dies have stopped, or one of the
dies (R411), each run under the test that its units exist; or a start. -/
theorem exec_cases (c : Instr) (s : State) :
    RunsAs c.wf s (exec c s) ∨ (∃ p, c = .powerOn p) ∨ ∃ p, c = .restart p := by
  cases c
  case powerOn p => exact .inr (.inl ⟨p, rfl⟩)
  case restart p => exact .inr (.inr ⟨p, rfl⟩)
  all_goals
    left
    dsimp only [exec, Instr.wf]
  case add | sub | and | or | xor | sll | srl | sra | slt | sltu | mul | mulh | mulhu | div | divu | rem | remu | min | max |
      minu | maxu | addi | andi | ori | xori | slti | sltiu | slli | srli | srai | cstM | cstH | cstPc | st | ldRo | ldAcq |
      stRel | ldResv | stCond | amoAdd | amoAnd | amoOr | amoXor | amoMin | amoMax | amoMinu | amoMaxu | amoSwap | amoCas |
      amoFadd | beq | bne | blt | bge | bltu | bgeu | jal | jalr | csrr | csrw | csrs | csrc | clearPorterChannel |
      clearGatherChannel | startCollective | ecallUnassignedService | eret | fenceCo | fenceCl | fenceSy | fenceI | wfc |
      cmdDone | cpIssue | gtIssue | grpStart | tokWait | tokTest | tokClr =>
    exact runsAs_instr4 _ _ _
  case vAdd | vSub | vMul | vAnd | vOr | vXor | vShl | vShr | vSra | vMin | vMax | vSetp | vSel | vMov | vFadd | vFmul |
      vFma | vFmin | vFmax | vCvt | vRcp | vRsqrt | vExp2 | vLog2 | vFsetp | xchPick | xchLo | xchHi | xchSwz | pollAny |
      pollAll | pollMask | fragLd | fragSt | fragMma | fragFill | vLd | vSt | vLdRo | vAtomAdd | vAtomAnd | vAtomOr |
      vAtomXor | vAtomMin | vAtomMax | vAtomMinu | vAtomMaxu | vAtomSwap | vAtomCas | vAtomFadd | vBra | vJoin | vExit =>
    exact runsAs_instr8 _ _ _ _
  case ld | ebreak | mxIssue | groupLaunch | waybillQueueRoom | tokenArbitration | tokWaitRelease | regulatorWindowEnd |
      commandPlacement | commandDelivery | completionRecord | msixMessage | eventWrite | hostMemRead | hostMemWrite |
      bisnpinvResponse | hostGo | portDown | perstAssert | aliasRelease | sliceExpiry | timeoutCheck | clearErr | rtReq |
      rtDrop | schMoveGo | moveComplete | schCtxCfgWrite | schCtxCluWrite | clusterProbe | spareTakeover |
      spareTakeoverComplete | pwrStepCtlWrite | stepChangeComplete | sustainedEvaluation | peakMeasurement | junctionSample |
      thermalTrip | paceWindow | alert | alertRelease | inputBelowWarning | inputRecovered | recoveryIntervalEnd |
      inputBelowReset | railMonitorLow | warmReset | rearm | pwrLimitCfgWrite | halt | haltTakesEffect | resume | step |
      dbgAccRead | dbgAccWrite | cmnPartCfgWrite | replicaDisableComplete | lockWaysWrite | cmnWinCfgWrite | cmnRegEntWrite |
      cluMissCtlWrite | cohPeekAddrWrite | ptrRfsWrite | lnkCfgEnWrite | retrain | lnkDevIdWrite | lnkGrpCfgWrite |
      hifVfTblWrite | hifFnRingCfgWrite | hifFnEvtCfgWrite | hifFnEvtHeadWrite | hifLdgCfgWrite | ledgerRearm | ledgerMark |
      free | errorReport | reportFoldEnd | scrubRead | scrCtlWrite | triplicateCheck | healRequest | healComplete |
      healTimeout | dieOut | twnCfgWrite | heartbeat | heartbeatIntervalEnd | sidebandNotice | takeover | mirrorCommand |
      mirrorRecord | shadowPageCopy | shadowMark | shadowPointDone | handover | rejoin | insertion | rest | wake |
      lanternOvertemperature | removalDischarge | periodicSlice | recoverySlice | sliceComplete | sliceAbandoned | go |
      registerWrite | portLinkTrained | suddenInputLoss | railSequencingRestart | presentNHigh | orderlyPowerDown |
      warmResetWithoutDrain | spdmRequest | hostSnoop | vfEnableWrite | tapInstruction | flashUpdateWrite |
      twinIdentityExchange | lockWaysWritebackDone | msixVectorUnmask | inputSwitchOvercurrent =>
    exact runsAs_run _ _ _
  case clear | engineAbandon | sourceHealWaitEnd =>
    exact runsAs_channel _ _ _ _
  case wr =>
    exact runsAs_requestRow _ _ _ _ _
  case linkAtm =>
    exact runsAs_linkAtm _ _ _
  case run | nop | fnQuiesce | fnCopy | fnExport | fnImport | fnResume =>
    exact runsAs_row _ _ _ _ _
  all_goals exact runsAs_runDie _ _ _

/-- Settles O2: a row that runs answers a next state with the queue it found, and changes nothing when its test fails; the
two starts answer one too, and name no unit. -/
theorem everyCommandAnswers : Obligations.EveryCommandAnswers := by
  intro c s
  obtain ⟨f, hf⟩ | ⟨p, rfl⟩ | ⟨p, rfl⟩ := exec_cases c s
  · refine ⟨⟨_, hf, ?_⟩, fun hw => ?_⟩
    · exact (run_keeps rfl).1
    · rw [hf, hw, run_false]
  · exact ⟨⟨_, rfl, rfl⟩, nofun⟩
  · exact ⟨⟨_, rfl, rfl⟩, nofun⟩

end Sys2Proof.Machine
end

section
namespace Sys2Proof.Machine

/-! ## What the staged start runs keeps the part

`-implicitDefEqProofs` gives the kernel each rewriting step, where it would otherwise compare two whole devices. -/

/-- A fold whose steps all keep what `g` reads keeps it. -/
theorem foldl_keeps {α β γ : Type} (g : α → γ) {f : α → β → α} (h : ∀ a b, g (f a b) = g a) (l : List β) (a : α) :
    g (l.foldl f a) = g a := by
  induction l generalizing a with
  | nil => rfl
  | cons b l ih => rw [List.foldl_cons, ih, h]
@[simp] theorem foldl_part {β : Type} {f : Dev → β → Dev} (h : ∀ d b, (f d b).part = d.part) (l : List β) (d : Dev) :
    (l.foldl f d).part = d.part := foldl_keeps Dev.part h l d

@[simp] theorem foldl_setReg_part {β : Type} (o : Dev → β → Nat) (v : Dev → β → Word) (l : List β) (d : Dev) :
    (l.foldl (fun d b => d.setReg (o d b) (v d b)) d).part = d.part := foldl_part (fun d b => d.setReg_part (o d b) (v d b)) l d

@[simp] theorem Dev.bump_part (d : Dev) (o top x : Nat) : (d.bump o top x).part = d.part := rfl
@[simp] theorem Dev.fresh_part (d : Dev) : d.fresh.2.part = d.part := rfl
@[simp] theorem Dev.choose_part (d : Dev) (n : Nat) : (d.choose n).2.part = d.part := rfl
@[simp] theorem Dev.sens_part (d : Dev) (k v : Nat) : (d.sens k v).part = d.part := rfl
@[simp] theorem Dev.setStage_part (d : Dev) (k : Nat) : (d.setStage k).part = d.part := rfl
@[simp] theorem Dev.loseMemory_part (d : Dev) : d.loseMemory.part = d.part := rfl
@[simp] theorem Dev.loseLocals_part (d : Dev) : d.loseLocals.part = d.part := rfl
@[simp] theorem Dev.inputIs_part (d : Dev) (mv : BitVec 16) : (d.inputIs mv).part = d.part := rfl
@[simp] theorem Dev.refreshStep_part (d : Dev) : d.refreshStep.part = d.part := by simp [Dev.refreshStep]
@[simp] theorem Dev.setCluId_part (d : Dev) (n pos : Nat) (b : Bool) : (d.setCluId n pos b).part = d.part := rfl
@[simp] theorem Dev.countPresent_part (d : Dev) : d.countPresent.part = d.part := rfl
@[simp] theorem Dev.keeperLoop_part (d : Dev) (n : Nat) : (d.keeperLoop n).part = d.part := rfl
@[simp] theorem Dev.trainPort_part (d : Dev) (p : Nat) : (d.trainPort p).part = d.part := rfl
@[simp] theorem Dev.capOrder_part (d : Dev) : d.capOrder.part = d.part := by simp [Dev.capOrder]
@[simp] theorem Dev.deriveKey_part (d : Dev) (p : PowerOn) : (d.deriveKey p).part = d.part := rfl

@[simp] theorem Dev.raise_part (d : Dev) (f kind : Nat) (x : BitVec 448) : (d.raise f kind x).part = d.part := by
  simp [Dev.raise, apply_ite Dev.part]
@[simp] theorem Dev.newRec_part (d : Dev) (k : Nat) (key : ErrKey) (r : Report) (addr det : Word) :
    (d.newRec k key r addr det).part = d.part := Dev.raise_part _ _ _ _
@[simp] theorem Dev.witness_part (d : Dev) (k : Nat) (r : Report) (n : Nat) : (d.witness k r n).part = d.part := rfl
@[simp] theorem Dev.overflowReport_part (d : Dev) (r : Report) : (d.overflowReport r).part = d.part := by
  unfold Dev.overflowReport
  dsimp only
  split <;> simp
@[simp] theorem Dev.markFull_part (d : Dev) : d.markFull.part = d.part := by simp [Dev.markFull, apply_ite Dev.part]
@[simp] theorem Dev.aggregate_part (d : Dev) (r : Report) : (d.aggregate r).part = d.part := by
  unfold Dev.aggregate
  dsimp only
  repeat' split
  all_goals simp
@[simp] theorem Dev.report_part (d : Dev) (r : Report) : (d.report r).part = d.part := by simp [Dev.report, apply_ite Dev.part]
@[simp] theorem Dev.fault_part (d : Dev) (org : BitVec 32) (kind sub : Nat) (rep : BitVec 32) (wit : Nat) (addr det : Word) :
    (d.fault org kind sub rep wit addr det).part = d.part := Dev.report_part _ _

@[simp] theorem Dev.powerEvent_part (d : Dev) (k : Nat) : (d.powerEvent k).part = d.part := by
  simp [Dev.powerEvent, apply_ite Dev.part]
@[simp] theorem Dev.belowWarning_part (d : Dev) : d.belowWarning.part = d.part := by simp [Dev.belowWarning]
@[simp] theorem Dev.peakLimit_part (d : Dev) : d.peakLimit.part = d.part := by simp [Dev.peakLimit, apply_ite Dev.part]
@[simp] theorem Dev.powerSample_part (d : Dev) (w : Nat) : (d.powerSample w).part = d.part := by simp [Dev.powerSample]
@[simp] theorem Dev.thermal_part (d : Dev) : d.thermal.part = d.part := by simp [Dev.thermal, apply_ite Dev.part]
@[simp] theorem Dev.coreOff_part (d : Dev) : d.coreOff.part = d.part := by simp [Dev.coreOff]
@[simp] theorem Dev.safeFault_part (d : Dev) (cause failed : Nat) : (d.safeFault cause failed).part = d.part := by
  simp -implicitDefEqProofs [Dev.safeFault, apply_ite Dev.part]
@[simp] theorem Dev.fallInStart_part (d : Dev) (mv : BitVec 16) : (d.fallInStart mv).part = d.part := by
  simp [Dev.fallInStart, apply_ite Dev.part]

@[simp] theorem Dev.mapRow_part (d : Dev) (r : Nat) (failed : List Nat) : (d.mapRow r failed).part = d.part := by
  simp [Dev.mapRow, apply_ite Dev.part]
@[simp] theorem Dev.buildRemap_part (d : Dev) (failed : List Nat) : (d.buildRemap failed).part = d.part := by
  simp [Dev.buildRemap]
@[simp] theorem Dev.logFails_part (d : Dev) (l : List MemFail) : (d.logFails l).part = d.part := by
  unfold Dev.logFails
  rw [Dev.setReg_part]
  refine foldl_part (fun d k => ?_) _ d
  split <;> rfl
@[simp] theorem Dev.softRepair_part (d : Dev) (l : List MemFail) (keep : Bool) : (d.softRepair l keep).part = d.part := by
  simp [Dev.softRepair]

@[simp] theorem Dev.sensorsOrder_part (d : Dev) (p : PowerOn) : (d.sensorsOrder p).part = d.part := by
  simp [Dev.sensorsOrder, apply_ite Dev.part]
@[simp] theorem Dev.pathsOrder_part (d : Dev) (p : PowerOn) : (d.pathsOrder p).part = d.part := by
  simp [Dev.pathsOrder, apply_ite Dev.part]
@[simp] theorem Dev.railsOrder_part (d : Dev) (p : PowerOn) : (d.railsOrder p).part = d.part := by
  simp -implicitDefEqProofs [Dev.railsOrder, apply_ite Dev.part]
@[simp] theorem Dev.identityOrder_part (d : Dev) (p : PowerOn) : (d.identityOrder p).part = d.part := by
  simp -implicitDefEqProofs [Dev.identityOrder, apply_ite Dev.part]
@[simp] theorem Dev.testOrder_part (d : Dev) (p : PowerOn) (keep : Bool) : (d.testOrder p keep).part = d.part := by
  unfold Dev.testOrder
  cases p.structFail <;> cases p.edgeWireFail <;> simp -implicitDefEqProofs [apply_ite Dev.part]
@[simp] theorem Dev.enterFull_part (d : Dev) : d.enterFull.part = d.part := by
  simp -implicitDefEqProofs [Dev.enterFull, apply_ite Dev.part]
@[simp] theorem Dev.order_part (d : Dev) (p : PowerOn) (keep : Bool) (k : Nat) : (d.order p keep k).part = d.part := by
  simp [Dev.order, apply_ite Dev.part]

@[simp] theorem Dev.runOrders_part (p : PowerOn) (keep : Bool) (fuel k : Nat) (d : Dev) :
    (Dev.runOrders p keep fuel k d).part = d.part := by
  induction fuel generalizing k d with
  | zero => unfold Dev.runOrders; rfl
  | succ fuel ih =>
    have go : ∀ e : Dev, (Dev.runOrders.go p keep fuel k e).part = e.part := fun e => by
      simp [Dev.runOrders.go, apply_ite Dev.part, ih]
    unfold Dev.runOrders
    dsimp only
    split
    · rfl
    · split
      · simp [apply_ite Dev.part, go]
      · simp [go]
@[simp] theorem Dev.fullOrders_part (d : Dev) (p : PowerOn) (keep : Bool) : (d.fullOrders p keep).part = d.part := by
  simp [Dev.fullOrders]

end Sys2Proof.Machine
end

section
namespace Sys2Proof.Machine

/-! ## Fields of a word and of a register -/

/-- A bit of a word in which a field was written. -/
theorem getLsbD_setFld {w : Nat} (v : BitVec w) (hi lo x i : Nat) (hw : i < w) :
    (setFld v hi lo x).getLsbD i = if lo ≤ i ∧ i ≤ hi then x.testBit (i - lo) else v.getLsbD i := by
  simp only [setFld, BitVec.getLsbD_or, BitVec.getLsbD_and, BitVec.getLsbD_not, BitVec.getLsbD_ofNat, Nat.testBit_shiftLeft,
    Nat.testBit_two_pow_sub_one, Nat.testBit_mod_two_pow, hw, decide_true, Bool.true_and]
  by_cases h : lo ≤ i ∧ i ≤ hi
  · have h' : i - lo < hi + 1 - lo := by omega
    simp [h, h']
  · have h' : lo ≤ i → ¬ i - lo < hi + 1 - lo := by omega
    by_cases hl : lo ≤ i
    · simp [h, h' hl]
    · simp [hl]
/-- A bit of a field. -/
theorem testBit_fld {w : Nat} (v : BitVec w) (hi lo i : Nat) :
    (fld v hi lo).testBit i = (decide (i < hi + 1 - lo) && v.getLsbD (lo + i)) := by
  simp [fld, Nat.testBit_mod_two_pow, Nat.testBit_shiftRight, BitVec.testBit_toNat]
/-- A field that was written reads the value written. -/
theorem fld_setFld_same {w : Nat} (v : BitVec w) {hi : Nat} (lo x : Nat) (h : hi < w) :
    fld (setFld v hi lo x) hi lo = x % 2 ^ (hi + 1 - lo) := by
  refine Nat.eq_of_testBit_eq fun i => ?_
  rw [testBit_fld, Nat.testBit_mod_two_pow]
  by_cases hi' : i < hi + 1 - lo
  · rw [getLsbD_setFld _ _ _ _ _ (by omega), if_pos (by omega), Nat.add_sub_cancel_left]
  · simp [hi']
/-- A field keeps its value when a field that does not meet it is written. -/
theorem fld_setFld_disjoint {w : Nat} (v : BitVec w) {hi lo hi' lo' : Nat} (x : Nat) (hw : hi < w) (h : hi < lo' ∨ hi' < lo) :
    fld (setFld v hi' lo' x) hi lo = fld v hi lo := by
  refine Nat.eq_of_testBit_eq fun i => ?_
  rw [testBit_fld, testBit_fld]
  by_cases hi' : i < hi + 1 - lo
  · rw [getLsbD_setFld _ _ _ _ _ (by omega), if_neg (by omega)]
  · simp [hi']

theorem Dev.rf_setRf_same (d : Dev) (o lo x : Nat) {hi : Nat} (h : hi < 64) :
    (d.setRf o hi lo x).rf o hi lo = x % 2 ^ (hi + 1 - lo) := by
  rw [Dev.rf, Dev.setRf, Dev.reg_setReg_same, fld_setFld_same _ _ _ h]
theorem Dev.rf_setRf_disjoint (d : Dev) (o x : Nat) {hi lo hi' lo' : Nat} (hw : hi < 64) (h : hi < lo' ∨ hi' < lo) :
    (d.setRf o hi' lo' x).rf o hi lo = d.rf o hi lo := by
  rw [Dev.rf, Dev.setRf, Dev.reg_setReg_same, fld_setFld_disjoint _ _ hw h, Dev.rf]
theorem Dev.reg_setRf_ne (d : Dev) {o p : Nat} (hi lo x : Nat) (h : p ≠ o) : (d.setRf o hi lo x).reg p = d.reg p :=
  d.reg_setReg_ne _ h
theorem Dev.reg_setRb_ne (d : Dev) {o p : Nat} (k : Nat) (b : Bool) (h : p ≠ o) : (d.setRb o k b).reg p = d.reg p :=
  d.reg_setReg_ne _ h
@[simp] theorem Dev.reg_onPwr (d : Dev) (f : Pwr → Pwr) (o : Nat) : (d.onPwr f).reg o = d.reg o := rfl
@[simp] theorem Dev.reg_onLtn (d : Dev) (f : Lantern → Lantern) (o : Nat) : (d.onLtn f).reg o = d.reg o := rfl
@[simp] theorem Dev.reg_loseMemory (d : Dev) (o : Nat) : d.loseMemory.reg o = d.reg o := rfl

/-! ## Where a start stops -/

/-- The effective step is shown in PWR_STEP_STS alone. -/
theorem Dev.reg_refreshStep (d : Dev) {o : Nat} (h : o ≠ 0x20004) : d.refreshStep.reg o = d.reg o := by
  simp [Dev.refreshStep, Dev.reg_setRb_ne _ _ _ h]
@[simp] theorem Dev.refreshStep_ltn (d : Dev) : d.refreshStep.ltn = d.ltn := by simp [Dev.refreshStep]

/-- Without the core rail LTN_STAGE stands. -/
@[simp] theorem Dev.reg_coreOff_stage (d : Dev) : d.coreOff.reg 0x10000 = d.reg 0x10000 := by
  rw [Dev.coreOff, Dev.reg_refreshStep _ (by decide), Dev.reg_onPwr, Dev.reg_setRf_ne _ _ _ _ (by decide)]
  exact foldl_keeps (fun x : Dev => x.reg 0x10000) (fun x _ => x.reg_setReg_ne 0 (by omega)) _ d
@[simp] theorem Dev.coreOff_ltn (d : Dev) : d.coreOff.ltn = d.ltn := by
  rw [Dev.coreOff, Dev.refreshStep_ltn, Dev.onPwr_ltn, Dev.setRf_ltn]
  exact foldl_keeps Dev.ltn (fun x _ => x.setReg_ltn _ _) _ d

@[simp] theorem Dev.safeFault_ltn (d : Dev) (cause failed : Nat) : (d.safeFault cause failed).ltn = d.ltn := by
  unfold Dev.safeFault
  split
  · rw [Dev.setReg_ltn, Dev.setReg_ltn, Dev.coreOff_ltn]; rfl
  · rw [Dev.coreOff_ltn]; rfl
/-- SAFE_FAULT writes STAGE, the order that failed and CAUSE into LTN_STAGE, and nothing after that changes it. -/
theorem Dev.reg_safeFault_stage (d : Dev) (cause failed : Nat) :
    (d.safeFault cause failed).reg 0x10000 = (((d.setStage 11).setRf 0x10000 7 4 failed).setRf 0x10000 15 8 cause).reg 0x10000 := by
  unfold Dev.safeFault
  split
  · rw [Dev.reg_setReg_ne _ _ (by decide), Dev.reg_setReg_ne _ _ (by decide), Dev.reg_coreOff_stage, Dev.reg_loseMemory]
  · rw [Dev.reg_coreOff_stage, Dev.reg_loseMemory]
/-- What LTN_STAGE reads where a start has stopped. -/
theorem Dev.stopped_fields (d : Dev) (stage cause failed : Nat) :
    let y := ((d.setStage stage).setRf 0x10000 7 4 failed).setRf 0x10000 15 8 cause
    y.stage = stage % 16 ∧ y.rf 0x10000 15 8 = cause % 256 ∧ y.rf 0x10000 7 4 = failed % 16 := by
  refine ⟨?_, Dev.rf_setRf_same _ _ _ _ (by decide), ?_⟩
  · rw [Dev.stage, Dev.rf_setRf_disjoint _ _ _ (by decide) (by decide), Dev.rf_setRf_disjoint _ _ _ (by decide) (by decide)]
    exact Dev.rf_setRf_same _ _ _ _ (by decide)
  · rw [Dev.rf_setRf_disjoint _ _ _ (by decide) (by decide)]
    exact Dev.rf_setRf_same _ _ _ _ (by decide)
theorem Dev.safeFault_fields (d : Dev) (cause failed : Nat) :
    (d.safeFault cause failed).stage = 11 ∧ (d.safeFault cause failed).rf 0x10000 15 8 = cause % 256 ∧
      (d.safeFault cause failed).rf 0x10000 7 4 = failed % 16 := by
  simpa only [Dev.stage, Dev.rf, Dev.reg_safeFault_stage] using d.stopped_fields 11 cause failed

/-! ## Order 2 -/

/-- No slot is picked when none holds an image that verifies and is not below the floor. -/
theorem pickSlot_isNone (floor : Nat) (l : List FlashImage) (k : Nat) :
    (pickSlot floor l k).isNone = !(l.any fun i => i.verifies && decide (floor ≤ i.svn.toNat)) := by
  induction l generalizing k with
  | nil => rfl
  | cons i l ih =>
    rw [pickSlot, List.any_cons]
    split
    case isTrue h => simp [h]
    case isFalse h => rw [ih, Bool.eq_false_iff.2 h, Bool.false_or]

/-- The floor that a start goes by: that of a record that verifies (R440). -/
def startFloor (p : PowerOn) : Nat := if p.recordOk then p.record.floor.toNat else 0
/-- A slot holds an image that verifies. -/
def Dev.anyVerifies (d : Dev) (p : PowerOn) (keeper : Bool) : Bool := (d.images p keeper).any fun x => x.verifies
/-- A slot holds an image that may run. -/
def Dev.anyGood (d : Dev) (p : PowerOn) (keeper : Bool) : Bool :=
  (d.images p keeper).any fun x => x.verifies && decide (startFloor p ≤ x.svn.toNat)
/-- The Lantern image, found or running, is below the floor. -/
def Dev.lanternLow (d : Dev) (p : PowerOn) (fromOne : Bool) : Bool :=
  if fromOne then !d.anyGood p false else decide (d.rf 0x10008 15 8 < startFloor p)
/-- The record is accepted: CODE and UNITS say what the part is (R441, R442). -/
def Dev.takeRecord (d : Dev) (p : PowerOn) : Dev :=
  match codeOf p.record.code.toNat with
  | some k => if p.recordOk && d.bound p.record then
      ({ d with part := { code := k, units := p.record.units } } : Dev).onLtn fun l => { l with record := some p.record } else d
  | none => d
/-- The device that order 2 judges: the Lantern's slot, the floor and the record have been read. -/
def Dev.readOrder (d : Dev) (p : PowerOn) (fromOne : Bool) : Dev :=
  let d := if fromOne then d.bootSlot false (pickSlot (startFloor p) (d.images p false) 0) else d
  (if p.recordOk then d.setRf 0x10008 31 24 (startFloor p) else d).takeRecord p
/-- Everything that is wrong at order 2, by CAUSE (Table 16.3). -/
def Dev.verifyCauses (d : Dev) (p : PowerOn) (fromOne : Bool) : List Nat :=
  (if p.recordOk && (codeOf p.record.code.toNat).isSome then [] else [3]) ++
  (if d.ltn.seed.isNone then [6] else if p.recordOk && !(d.bound p.record) then [4] else []) ++
  (if d.lanternLow p fromOne then [5] else []) ++
  (if !d.anyVerifies p true then [2] else if !d.anyGood p true then [5] else [])

theorem Dev.bootSlot_part (d : Dev) (keeper : Bool) (x : Option (Nat × FlashImage)) : (d.bootSlot keeper x).part = d.part := by
  cases x <;> rfl
theorem Dev.bootSlot_ltn (d : Dev) (keeper : Bool) (x : Option (Nat × FlashImage)) :
    (d.bootSlot keeper x).ltn.seed = d.ltn.seed ∧ (d.bootSlot keeper x).ltn.idHash = d.ltn.idHash ∧
      (d.bootSlot keeper x).ltn.record = d.ltn.record := by
  cases x with
  | none => exact ⟨rfl, rfl, rfl⟩
  | some x => cases keeper <;> exact ⟨rfl, rfl, rfl⟩
theorem Dev.bootSlot_reg (d : Dev) (keeper : Bool) (x : Option (Nat × FlashImage)) {o : Nat} (h : o ≠ 0x10008) :
    (d.bootSlot keeper x).reg o = d.reg o := by
  cases x with
  | none => rfl
  | some x => rw [Dev.bootSlot, Dev.reg_setRf_ne _ _ _ _ h, Dev.reg_setRf_ne _ _ _ _ h, Dev.reg_onLtn]

theorem Dev.bootSlot_stage (d : Dev) (keeper : Bool) (x : Option (Nat × FlashImage)) : (d.bootSlot keeper x).stage = d.stage := by
  rw [Dev.stage, Dev.stage, Dev.rf, Dev.rf, d.bootSlot_reg keeper x (by decide)]

/-- What the record finds: the part, the key and the record kept before, and LTN_STAGE, are as they were. -/
theorem Dev.readOrder_eq (d : Dev) (p : PowerOn) (fromOne : Bool) : ∃ e : Dev, d.readOrder p fromOne = e.takeRecord p ∧
    e.part = d.part ∧ (e.ltn.seed = d.ltn.seed ∧ e.ltn.idHash = d.ltn.idHash ∧ e.ltn.record = d.ltn.record) ∧
    e.reg 0x10000 = d.reg 0x10000 := by
  refine ⟨_, rfl, ?_⟩
  cases fromOne <;> cases p.recordOk <;>
    simp [Dev.bootSlot_part, Dev.bootSlot_ltn, Dev.bootSlot_reg, Dev.reg_setRf_ne]

theorem Dev.bound_congr {d e : Dev} (hs : e.ltn.seed = d.ltn.seed) (hi : e.ltn.idHash = d.ltn.idHash) (r : CfgRecord) :
    e.bound r = d.bound r := by rw [Dev.bound, Dev.bound, hs, hi]
theorem Dev.takeRecord_key (d : Dev) (p : PowerOn) :
    (d.takeRecord p).ltn.seed = d.ltn.seed ∧ (d.takeRecord p).ltn.idHash = d.ltn.idHash := by
  unfold Dev.takeRecord
  split
  · split <;> exact ⟨rfl, rfl⟩
  · exact ⟨rfl, rfl⟩
/-- Reading leaves the identity key. -/
theorem Dev.readOrder_key (d : Dev) (p : PowerOn) (fromOne : Bool) :
    (d.readOrder p fromOne).ltn.seed = d.ltn.seed ∧ (d.readOrder p fromOne).ltn.idHash = d.ltn.idHash := by
  obtain ⟨e, he, -, ⟨hs, hi, -⟩, -⟩ := d.readOrder_eq p fromOne
  rw [he]
  exact ⟨(e.takeRecord_key p).1.trans hs, (e.takeRecord_key p).2.trans hi⟩
/-- A record that verifies, binds this device and names an ordering code says what the part is, and is kept. -/
theorem Dev.readOrder_accepts {d : Dev} {p : PowerOn} {k : Code} (fromOne : Bool) (hr : p.recordOk = true)
    (hb : d.bound p.record = true) (hk : codeOf p.record.code.toNat = some k) :
    (d.readOrder p fromOne).part = { code := k, units := p.record.units } ∧ (d.readOrder p fromOne).ltn.record = some p.record := by
  obtain ⟨e, he, -, ⟨hs, hi, -⟩, -⟩ := d.readOrder_eq p fromOne
  rw [he, Dev.takeRecord, hk]
  simp [hr, Dev.bound_congr hs hi, hb]
/-- Any other record says nothing. -/
theorem Dev.readOrder_refuses {d : Dev} {p : PowerOn} (fromOne : Bool)
    (h : p.recordOk = false ∨ d.bound p.record = false ∨ codeOf p.record.code.toNat = none) :
    (d.readOrder p fromOne).part = d.part ∧ (d.readOrder p fromOne).ltn.record = d.ltn.record := by
  obtain ⟨e, he, hp, ⟨hs, hi, hr⟩, -⟩ := d.readOrder_eq p fromOne
  suffices e.takeRecord p = e by rw [he, this]; exact ⟨hp, hr⟩
  unfold Dev.takeRecord
  rw [Dev.bound_congr hs hi]
  split
  case h_1 k hk =>
    refine if_neg ?_
    rcases h with h | h | h
    · simp [h]
    · simp [h]
    · rw [hk] at h; exact absurd h (by simp)
  case h_2 => rfl
/-- LTN_STAGE has the same reset value on every part. -/
theorem regReset_stage (k : Part) : regReset k 0x10000 = 0 := rfl
theorem Dev.readOrder_stage (d : Dev) (p : PowerOn) (fromOne : Bool) : (d.readOrder p fromOne).stage = d.stage := by
  obtain ⟨e, he, -, -, hs⟩ := d.readOrder_eq p fromOne
  have ht : (e.takeRecord p).reg 0x10000 = e.reg 0x10000 := by
    unfold Dev.takeRecord
    split
    · split
      · simp [Dev.reg, regReset_stage]
      · rfl
    · rfl
  rw [Dev.stage, Dev.stage, Dev.rf, Dev.rf, he, ht, hs]

/-- Everything that order 2 can do: it ends in RECOVERY, or what was read goes on, or it ends in SAFE_FAULT for one of the
causes found. -/
theorem Dev.verifyOrder_eq (d : Dev) (p : PowerOn) (fromOne : Bool) :
    d.verifyOrder p fromOne =
      if fromOne && !d.anyVerifies p false then ((d.setStage 10).setRf 0x10000 7 4 0).setRf 0x10000 15 8 1
      else if (d.verifyCauses p fromOne).isEmpty then
        (d.readOrder p fromOne).bootSlot true (pickSlot (startFloor p) (d.images p true) 0)
      else
        let x := (d.readOrder p fromOne).choose (d.verifyCauses p fromOne).length
        x.2.safeFault ((d.verifyCauses p fromOne).getD x.1 3) 1 := by
  obtain ⟨hs, hi⟩ := d.readOrder_key p fromOne
  have hb := Dev.bound_congr hs hi p.record
  simp only [Dev.verifyCauses, Dev.lanternLow, Dev.anyGood, ← pickSlot_isNone _ _ 0, ← hb, ← hs]
  rfl

/-- A Lantern image that verifies, or one that runs already, keeps a start out of RECOVERY. -/
theorem not_recovery {fromOne v : Bool} (h : fromOne = true → v = true) : ¬ (fromOne && !v) = true := by
  cases fromOne with
  | false => exact Bool.false_ne_true
  | true => simp [h rfl]
/-- Nothing wrong at order 2: the start goes on with what was read. -/
theorem Dev.verifyOrder_goesOn {d : Dev} {p : PowerOn} {fromOne : Bool} (hl : fromOne = true → d.anyVerifies p false = true)
    (hc : d.verifyCauses p fromOne = []) :
    d.verifyOrder p fromOne = (d.readOrder p fromOne).bootSlot true (pickSlot (startFloor p) (d.images p true) 0) := by
  rw [Dev.verifyOrder_eq, if_neg (not_recovery hl), hc]
  rfl
/-- One thing wrong at order 2: the start ends in SAFE_FAULT with its CAUSE, whatever the choice among causes. -/
theorem Dev.verifyOrder_oneCause {d : Dev} {p : PowerOn} {fromOne : Bool} {c : Nat}
    (hl : fromOne = true → d.anyVerifies p false = true) (hc : d.verifyCauses p fromOne = [c]) :
    d.verifyOrder p fromOne = ((d.readOrder p fromOne).choose 1).2.safeFault c 1 := by
  have hi : ((d.readOrder p fromOne).choose 1).1 = 0 := Nat.mod_one _
  rw [Dev.verifyOrder_eq, if_neg (not_recovery hl), hc]
  simp [hi]
/-- Whatever order 2 finds, the part and the record kept are those before it or those that were read. -/
theorem Dev.verifyOrder_part (d : Dev) (p : PowerOn) (fromOne : Bool) :
    let y := d.verifyOrder p fromOne
    (y.part = d.part ∧ y.ltn.record = d.ltn.record) ∨
      (y.part = (d.readOrder p fromOne).part ∧ y.ltn.record = (d.readOrder p fromOne).ltn.record) := by
  intro y
  rw [show y = _ from Dev.verifyOrder_eq d p fromOne]
  split
  · exact .inl ⟨rfl, rfl⟩
  · refine .inr ?_
    split
    · exact ⟨Dev.bootSlot_part _ _ _, (Dev.bootSlot_ltn _ _ _).2.2⟩
    · exact ⟨Dev.safeFault_part _ _ _, congrArg Lantern.record (Dev.safeFault_ltn _ _ _)⟩
/-- Order 2 changes the part only as a record says that verifies, binds this device and names an ordering code (R4, R441, R442). -/
theorem Dev.verifyOrder_part_cases (d : Dev) (p : PowerOn) (fromOne : Bool) :
    let y := d.verifyOrder p fromOne
    y.part = d.part ∨ p.recordOk = true ∧ d.bound p.record = true ∧ codeOf p.record.code.toNat = some y.part.code ∧
      y.part.units = p.record.units := by
  intro y
  rcases d.verifyOrder_part p fromOne with ⟨h, -⟩ | ⟨h, -⟩
  · exact .inl h
  · cases hr : p.recordOk
    case false => exact .inl (h.trans (Dev.readOrder_refuses _ (.inl hr)).1)
    cases hb : d.bound p.record
    case false => exact .inl (h.trans (Dev.readOrder_refuses _ (.inr (.inl hb))).1)
    cases hk : codeOf p.record.code.toNat with
    | none => exact .inl (h.trans (Dev.readOrder_refuses _ (.inr (.inr hk))).1)
    | some k =>
      have hp : y.part = { code := k, units := p.record.units } := h.trans (Dev.readOrder_accepts _ hr hb hk).1
      exact .inr ⟨rfl, rfl, by rw [hp], by rw [hp]⟩

/-- An image that may run verifies. -/
theorem Dev.anyVerifies_of_anyGood {d : Dev} {p : PowerOn} {keeper : Bool} (h : d.anyGood p keeper = true) :
    d.anyVerifies p keeper = true := by
  obtain ⟨x, hx, hg⟩ := List.any_eq_true.1 h
  exact List.any_eq_true.2 ⟨x, hx, (Bool.and_eq_true_iff.1 hg).1⟩
/-- Where the record has not verified there is no floor, and every image that verifies may run. -/
theorem Dev.anyGood_of_recordBad {d : Dev} {p : PowerOn} (h : p.recordOk = false) (keeper : Bool) :
    d.anyGood p keeper = d.anyVerifies p keeper := by
  simp [Dev.anyGood, Dev.anyVerifies, startFloor, h]

/-- A record that binds this device was bound by a key that is there. -/
theorem Dev.seed_of_bound {d : Dev} {r : CfgRecord} (h : d.bound r = true) : d.ltn.seed.isSome = true :=
  (Bool.and_eq_true_iff.1 h).1
/-- With a record that is accepted, what is wrong at order 2 is an image. -/
theorem Dev.verifyCauses_accepted {d : Dev} {p : PowerOn} (fromOne : Bool) (hr : p.recordOk = true) (hb : d.bound p.record = true)
    (hk : (codeOf p.record.code.toNat).isSome = true) :
    d.verifyCauses p fromOne = (if d.lanternLow p fromOne then [5] else []) ++
      (if !d.anyVerifies p true then [2] else if !d.anyGood p true then [5] else []) := by
  have hs := Option.isSome_iff_ne_none.1 (Dev.seed_of_bound hb)
  simp [Dev.verifyCauses, hr, hb, hk, hs]
/-- With images that may run, what is wrong at order 2 is the record or the key. -/
theorem Dev.verifyCauses_imagesGood {d : Dev} {p : PowerOn} {fromOne : Bool} (hl : d.lanternLow p fromOne = false)
    (hg : d.anyGood p true = true) :
    d.verifyCauses p fromOne = (if p.recordOk && (codeOf p.record.code.toNat).isSome then [] else [3]) ++
      (if d.ltn.seed.isNone then [6] else if p.recordOk && !(d.bound p.record) then [4] else []) := by
  simp [Dev.verifyCauses, hl, hg, Dev.anyVerifies_of_anyGood hg]
@[simp] theorem Dev.lanternLow_true (d : Dev) (p : PowerOn) : d.lanternLow p true = !d.anyGood p false := rfl
@[simp] theorem Dev.lanternLow_false (d : Dev) (p : PowerOn) :
    d.lanternLow p false = decide (d.rf 0x10008 15 8 < startFloor p) := rfl

/-- The Lantern has an image that may run: one that a start from order 1 finds, or the running one, which is not below the
floor. -/
def Dev.LanternFit (d : Dev) (p : PowerOn) (fromOne : Bool) : Prop :=
  d.lanternLow p fromOne = false ∧ (fromOne = true → d.anyVerifies p false = true)
theorem Dev.lanternFit_intro {d : Dev} {p : PowerOn} {fromOne : Bool}
    (h : if fromOne then d.anyGood p false = true else startFloor p ≤ d.rf 0x10008 15 8) : d.LanternFit p fromOne := by
  cases fromOne with
  | false => exact ⟨decide_eq_false (Nat.not_lt.2 h), nofun⟩
  | true => exact ⟨congrArg (!·) h, fun _ => Dev.anyVerifies_of_anyGood h⟩

/-! ## Where order 2 ends -/

/-- Order 2 of a start on `d` has ended as `y` in SAFE_FAULT with a CAUSE; only an image leaves a new part behind. -/
def Dev.EndsFor (d y : Dev) (cause : Nat) : Prop :=
  y.stage = 11 ∧ y.rf 0x10000 15 8 = cause ∧ y.rf 0x10000 7 4 = 1 ∧ (y.part = d.part ∨ cause = 5 ∨ cause = 2)

section
variable {d : Dev} {p : PowerOn} {fromOne : Bool}

theorem Dev.endsFor_oneCause {c : Nat} (hl : fromOne = true → d.anyVerifies p false = true) (hc : d.verifyCauses p fromOne = [c])
    (h256 : c < 256) (hp : (d.readOrder p fromOne).part = d.part ∨ c = 5 ∨ c = 2) : d.EndsFor (d.verifyOrder p fromOne) c := by
  rw [Dev.verifyOrder_oneCause hl hc]
  obtain ⟨h1, h2, h3⟩ := Dev.safeFault_fields ((d.readOrder p fromOne).choose 1).2 c 1
  exact ⟨h1, h2.trans (Nat.mod_eq_of_lt h256), h3, hp.imp_left (Dev.safeFault_part _ _ _).trans⟩

/-- RECOVERY (R436): no Lantern image verifies. -/
theorem Dev.verifyOrder_noLantern (h : d.anyVerifies p false = false) :
    (d.verifyOrder p true).stage = 10 ∧ (d.verifyOrder p true).rf 0x10000 15 8 = 1 := by
  have hy : d.verifyOrder p true = ((d.setStage 10).setRf 0x10000 7 4 0).setRf 0x10000 15 8 1 := by
    rw [Dev.verifyOrder_eq, h]
    rfl
  obtain ⟨h1, h2, -⟩ := d.stopped_fields 10 1 0
  exact hy ▸ ⟨h1, h2⟩
/-- CAUSE 3: the record cannot be read. -/
theorem Dev.endsFor_recordBad (hr : p.recordOk = false) (hv : d.anyVerifies p false = true) (hk : d.anyVerifies p true = true)
    (hs : d.ltn.seed.isSome = true) : d.EndsFor (d.verifyOrder p fromOne) 3 := by
  have hg := Dev.anyGood_of_recordBad (d := d) hr
  have hl : d.lanternLow p fromOne = false := by
    cases fromOne with
    | false => simp [startFloor, hr]
    | true => exact congrArg (!·) ((hg false).trans hv)
  refine Dev.endsFor_oneCause (fun _ => hv) ?_ (by decide) (.inl (Dev.readOrder_refuses _ (.inl hr)).1)
  simp [Dev.verifyCauses_imagesGood hl ((hg true).trans hk), hr, Option.isSome_iff_ne_none.1 hs]

section
variable (hl : d.LanternFit p fromOne) (hg : d.anyGood p true = true) (hr : p.recordOk = true)
include hl hg hr

/-- CAUSE 6: the PUF block gave no identity key. -/
theorem Dev.endsFor_noKey (hk : (codeOf p.record.code.toNat).isSome = true) (hs : d.ltn.seed = none) :
    d.EndsFor (d.verifyOrder p fromOne) 6 := by
  have hb : d.bound p.record = false := by simp [Dev.bound, hs]
  refine Dev.endsFor_oneCause hl.2 ?_ (by decide) (.inl (Dev.readOrder_refuses _ (.inr (.inl hb))).1)
  simp [Dev.verifyCauses_imagesGood hl.1 hg, hr, hk, hs]
/-- CAUSE 4: the record is of another device. -/
theorem Dev.endsFor_otherDevice (hk : (codeOf p.record.code.toNat).isSome = true) (hs : d.ltn.seed.isSome = true)
    (hh : p.record.keyHash ≠ d.ltn.idHash) : d.EndsFor (d.verifyOrder p fromOne) 4 := by
  have hb : d.bound p.record = false := by simp [Dev.bound, hh]
  refine Dev.endsFor_oneCause hl.2 ?_ (by decide) (.inl (Dev.readOrder_refuses _ (.inr (.inl hb))).1)
  simp [Dev.verifyCauses_imagesGood hl.1 hg, hr, hk, hb, Option.isSome_iff_ne_none.1 hs]
/-- CAUSE 3 for a CODE of no ordering code (log entry 70). -/
theorem Dev.endsFor_noCode (hb : d.bound p.record = true) (hk : codeOf p.record.code.toNat = none) :
    d.EndsFor (d.verifyOrder p fromOne) 3 := by
  refine Dev.endsFor_oneCause hl.2 ?_ (by decide) (.inl (Dev.readOrder_refuses _ (.inr (.inr hk))).1)
  simp [Dev.verifyCauses_imagesGood hl.1 hg, hr, hk, hb, Option.isSome_iff_ne_none.1 (Dev.seed_of_bound hb)]
/-- Nothing is wrong: the record says what the part is and is kept, and the start goes on. -/
theorem Dev.verifyOrder_accepts {k : Code} (hb : d.bound p.record = true) (hk : codeOf p.record.code.toNat = some k) :
    let y := d.verifyOrder p fromOne
    y.part = { code := k, units := p.record.units } ∧ y.ltn.record = some p.record ∧ y.stage = d.stage := by
  obtain ⟨hp, hrec⟩ := Dev.readOrder_accepts fromOne hr hb hk
  have hc : d.verifyCauses p fromOne = [] := by
    simp [Dev.verifyCauses_imagesGood hl.1 hg, hr, hk, hb, Option.isSome_iff_ne_none.1 (Dev.seed_of_bound hb)]
  rw [Dev.verifyOrder_goesOn hl.2 hc]
  exact ⟨(Dev.bootSlot_part _ _ _).trans hp, (Dev.bootSlot_ltn _ _ _).2.2.trans hrec,
    (Dev.bootSlot_stage _ _ _).trans (Dev.readOrder_stage _ _ _)⟩
end

section
variable (hr : p.recordOk = true) (hb : d.bound p.record = true) (hk : (codeOf p.record.code.toNat).isSome = true)
include hr hb hk

/-- CAUSE 5: every Keeper image that verifies is below the floor. -/
theorem Dev.endsFor_keeperLow (hl : d.LanternFit p fromOne) (hv : d.anyVerifies p true = true) (hg : d.anyGood p true = false) :
    d.EndsFor (d.verifyOrder p fromOne) 5 := by
  refine Dev.endsFor_oneCause hl.2 ?_ (by decide) (.inr (.inl rfl))
  simp [Dev.verifyCauses_accepted fromOne hr hb hk, hl.1, hv, hg]
/-- CAUSE 2: no Keeper image verifies. -/
theorem Dev.endsFor_noKeeper (hl : d.LanternFit p fromOne) (hv : d.anyVerifies p true = false) :
    d.EndsFor (d.verifyOrder p fromOne) 2 := by
  refine Dev.endsFor_oneCause hl.2 ?_ (by decide) (.inr (.inr rfl))
  simp [Dev.verifyCauses_accepted fromOne hr hb hk, hl.1, hv]
/-- CAUSE 5: the Lantern's image is below the floor. -/
theorem Dev.endsFor_lanternLow (hl : d.lanternLow p fromOne = true) (hv : fromOne = true → d.anyVerifies p false = true)
    (hg : d.anyGood p true = true) : d.EndsFor (d.verifyOrder p fromOne) 5 := by
  refine Dev.endsFor_oneCause hv ?_ (by decide) (.inr (.inl rfl))
  simp [Dev.verifyCauses_accepted fromOne hr hb hk, hl, hg, Dev.anyVerifies_of_anyGood hg]
end

/-- A record that has not verified, or is of another device, says nothing. -/
theorem Dev.verifyOrder_refuses (h : p.recordOk = false ∨ d.bound p.record = false) :
    (d.verifyOrder p fromOne).part = d.part ∧ (d.verifyOrder p fromOne).ltn.record = d.ltn.record := by
  rcases d.verifyOrder_part p fromOne with h' | ⟨hp, hrec⟩
  · exact h'
  · obtain ⟨h1, h2⟩ := Dev.readOrder_refuses fromOne (h.imp_right .inl)
    exact ⟨hp.trans h1, hrec.trans h2⟩
end

/-- Settles O58: each clause names what is wrong, so that the causes found are the one it gives, or none. -/
theorem verificationDecides : Obligations.VerificationDecides := by
  intro d p first y floor verify good lantern known ends
  have hfloor (hr : p.recordOk = true) : startFloor p = floor := if_pos hr
  have hgood (hr : p.recordOk = true) (keeper : Bool) : d.anyGood p keeper = good keeper := by
    simp only [good, Dev.anyGood, hfloor hr]
  have hfit (hr : p.recordOk = true) (hl : lantern) : d.LanternFit p first :=
    Dev.lanternFit_intro (by rw [hfloor hr, hgood hr]; exact hl)
  refine ⟨rfl, Dev.verifyOrder_noLantern, Dev.endsFor_recordBad, fun hr hk hl hg => ?_, fun hr hb hk => ?_, fun hr hb hl hg => ?_,
    Dev.verifyOrder_refuses⟩
  · have hg' := (hgood hr true).trans hg
    exact ⟨Dev.endsFor_noKey (hfit hr hl) hg' hr hk, Dev.endsFor_otherDevice (hfit hr hl) hg' hr hk⟩
  · refine ⟨fun hl hv hg => Dev.endsFor_keeperLow hr hb hk (hfit hr hl) hv ((hgood hr true).trans hg),
      fun hl hv => Dev.endsFor_noKeeper hr hb hk (hfit hr hl) hv, fun hf hv hg hg' => ?_, fun hf hlt hg => ?_⟩
    · have hlow : d.lanternLow p first = true := by
        rw [hf, Dev.lanternLow_true, hgood hr, hg]
        rfl
      exact Dev.endsFor_lanternLow hr hb hk hlow (fun _ => hv) ((hgood hr true).trans hg')
    · have hlow : d.lanternLow p first = true := by
        rw [hf, Dev.lanternLow_false, hfloor hr]
        exact decide_eq_true hlt
      exact Dev.endsFor_lanternLow hr hb hk hlow (fun h => absurd (hf.symm.trans h) Bool.false_ne_true) ((hgood hr true).trans hg)
  · have hg' := (hgood hr true).trans hg
    exact ⟨fun k => Dev.verifyOrder_accepts (hfit hr hl) hg' hr hb, Dev.endsFor_noCode (hfit hr hl) hg' hr hb⟩

end Sys2Proof.Machine
end

section
namespace Sys2Proof.Machine

/-- Where order 2 begins: the start has its findings, and at power-on the identity key has been derived (R443). -/
def Dev.startBegins (d : Dev) (p : PowerOn) (fromOne : Bool) : Dev :=
  let d := (d.onLtn fun l => { l with found := some p, record := none, starting := none, dbgWritten := false }).setReg 0x10000 0
  if fromOne then d.deriveKey p else d
@[simp] theorem Dev.startBegins_part (d : Dev) (p : PowerOn) (fromOne : Bool) : (d.startBegins p fromOne).part = d.part := by
  cases fromOne <;> rfl
/-- After order 2 no order of a start changes the part. -/
theorem Dev.startUp_part (d : Dev) (p : PowerOn) (fromOne : Bool) :
    (d.startUp p fromOne).part = ((d.startBegins p fromOne).verifyOrder p fromOne).part := by
  simp -implicitDefEqProofs [Dev.startUp, Dev.startBegins, Dev.goOn, apply_ite Dev.part]
/-- A start changes the part only as a record says that verifies, binds the device as it then is and names an ordering code. -/
theorem Dev.startUp_part_cases (d : Dev) (p : PowerOn) (fromOne : Bool) :
    let y := d.startUp p fromOne
    y.part = d.part ∨ p.recordOk = true ∧ (d.startBegins p fromOne).bound p.record = true ∧
      codeOf p.record.code.toNat = some y.part.code ∧ y.part.units = p.record.units := by
  intro y
  rw [show y.part = _ from d.startUp_part p fromOne, ← d.startBegins_part p fromOne]
  exact Dev.verifyOrder_part_cases _ p fromOne

theorem Dev.bound_iff (d : Dev) (r : CfgRecord) : d.bound r = true ↔ d.ltn.seed.isSome = true ∧ r.keyHash = d.ltn.idHash := by
  simp [Dev.bound]
/-- At power-on a record binds the device when its hash is that of the key which this power-on derived. -/
theorem Dev.bound_powerOn (d : Dev) (p : PowerOn) (r : CfgRecord) :
    (d.startBegins p true).bound r = true ↔ p.keyOk = true ∧ r.keyHash = p.idHash := by
  rw [Dev.bound_iff]
  cases h : p.keyOk <;> simp [Dev.startBegins, Dev.deriveKey, h]
/-- At a restart the key is still that of the power-on before it. -/
theorem Dev.bound_restart (d : Dev) (p : PowerOn) (r : CfgRecord) :
    (d.startBegins p false).bound r = true ↔ d.ltn.seed.isSome = true ∧ r.keyHash = d.ltn.idHash := by
  rw [Dev.bound_iff]
  rfl

/-- What a power-on makes of the part. -/
theorem Dev.switchOn_part_cases (d : Dev) (p : PowerOn) :
    let y := d.switchOn p
    y.part = d.part ∨ p.recordOk = true ∧ (p.keyOk = true ∧ p.record.keyHash = p.idHash) ∧
      codeOf p.record.code.toNat = some y.part.code ∧ y.part.units = p.record.units := by
  unfold Dev.switchOn
  split
  · exact .inl rfl
  · refine (Dev.startUp_part_cases _ p true).imp_right fun ⟨hr, hb, hc, hu⟩ => ?_
    exact ⟨hr, (Dev.bound_powerOn _ p _).1 hb, hc, hu⟩
/-- What a restart makes of the part. -/
theorem restart_part_cases {p : PowerOn} {s t : State} (h : execRestart p s = .next t) :
    t.dev.part = s.dev.part ∨ p.recordOk = true ∧ (s.dev.ltn.seed.isSome = true ∧ p.record.keyHash = s.dev.ltn.idHash) ∧
      codeOf p.record.code.toNat = some t.dev.part.code ∧ t.dev.part.units = p.record.units := by
  obtain rfl : _ = t := Host.Outcome.next.inj h
  dsimp only
  split
  · refine (Dev.startUp_part_cases _ p false).imp_right fun ⟨hr, hb, hc, hu⟩ => ?_
    exact ⟨hr, (Dev.bound_restart _ p _).1 hb, hc, hu⟩
  · exact .inl rfl
/-- A command that is no start keeps the part. -/
theorem exec_part_cases {c : Instr} {s t : State} (h : exec c s = .next t) :
    t.dev.part = s.dev.part ∨ (∃ p, c = .powerOn p) ∨ ∃ p, c = .restart p :=
  (exec_cases c s).imp_left fun ⟨_, hf⟩ => (run_keeps (hf.symm.trans h)).2

/-- Settles O3: the block's own step and every row that runs keep the part, and a start changes it at order 2 alone. -/
theorem partChangesAtStart : Obligations.PartChangesAtStart := by
  intro s t h
  unfold step at h
  split at h
  case h_1 => exact .inl (run_keeps h).2
  case h_2 c rest hq =>
    obtain hp | ⟨p, rfl⟩ | ⟨p, rfl⟩ := exec_part_cases h
    · exact .inl hp
    · obtain rfl : _ = t := Host.Outcome.next.inj h
      refine (s.dev.switchOn_part_cases p).imp_right fun ⟨hr, hb, hc, hu⟩ => ⟨p, .inl ?_, hr, hc, hu, fun _ => hb, fun hn => ?_⟩
      · rw [hq]; rfl
      · rw [hq] at hn
        exact absurd hn nofun
    · refine (restart_part_cases h).imp_right fun ⟨hr, hb, hc, hu⟩ => ⟨p, .inr ?_, hr, hc, hu, fun hn => ?_, fun _ => hb⟩
      · rw [hq]; rfl
      · rw [hq] at hn
        exact absurd hn nofun

end Sys2Proof.Machine
end

section
namespace Sys2Proof.Machine

/-! ## What a command answers -/

/-- A command whose test holds gives the effect that its own effect has on this device. -/
theorem run_gives {ok : Bool} {s : State} {f g : Dev → Dev} (hok : ok = true) (h : f s.dev = g s.dev) :
    run ok s f = s.gives g := by
  rw [hok, run_true]
  exact State.gives_congr h

/-- An effect that keeps the part leaves the device that it makes. -/
theorem State.onDev_dev_of_part {s : State} {f : Dev → Dev} (h : (f s.dev).part = s.dev.part) : (s.onDev f).dev = f s.dev := by
  rw [State.onDev, ← h]

/-! ## What a report leaves alone (R400 to R404) -/

/-- A device that differs from another only in what a report can change: the status and the overflow count of the error
aggregator, the aggregator's own state, and the pages of the functions, where its event waits. -/
def Dev.onlyReports (d e : Dev) : Prop :=
  (∃ regs errs fns, e = { d with regs := regs, errs := errs, fns := fns }) ∧
    ∀ o, o ≠ 0x708004 → o ≠ 0x708008 → e.reg o = d.reg o

theorem Dev.onlyReports_refl (d : Dev) : d.onlyReports d := ⟨⟨_, _, _, rfl⟩, fun _ _ _ => rfl⟩

section
variable {d e : Dev} (h : d.onlyReports e)
include h

theorem Dev.onlyReports.bist : e.bist = d.bist := by
  obtain ⟨⟨_, _, _, rfl⟩, -⟩ := h
  rfl
theorem Dev.onlyReports.onErrs (f : Errs → Errs) : d.onlyReports (e.onErrs f) := by
  obtain ⟨⟨_, _, _, rfl⟩, hr⟩ := h
  exact ⟨⟨_, _, _, rfl⟩, hr⟩
theorem Dev.onlyReports.raise (f kind : Nat) (x : BitVec 448) : d.onlyReports (e.raise f kind x) := by
  obtain ⟨⟨_, _, _, rfl⟩, hr⟩ := h
  unfold Dev.raise
  dsimp only
  split <;> exact ⟨⟨_, _, _, rfl⟩, hr⟩
theorem Dev.onlyReports.witness (k : Nat) (r : Report) (n : Nat) : d.onlyReports (e.witness k r n) := h.onErrs _
theorem Dev.onlyReports.newRec (k : Nat) (key : ErrKey) (r : Report) (addr det : Word) :
    d.onlyReports (e.newRec k key r addr det) := by
  unfold Dev.newRec
  exact (h.onErrs fun _ => _).raise _ _ _
theorem Dev.onlyReports.setStatus (k : Nat) (b : Bool) : d.onlyReports (e.setRb 0x708004 k b) := by
  obtain ⟨⟨_, _, _, rfl⟩, hr⟩ := h
  exact ⟨⟨_, _, _, rfl⟩, fun o h4 h8 => (Dev.reg_setRb_ne _ k b h4).trans (hr o h4 h8)⟩
theorem Dev.onlyReports.bumpOverflow (top n : Nat) : d.onlyReports (e.bump 0x708008 top n) := by
  obtain ⟨⟨_, _, _, rfl⟩, hr⟩ := h
  exact ⟨⟨_, _, _, rfl⟩, fun o h4 h8 => (Dev.reg_setReg_ne _ _ h8).trans (hr o h4 h8)⟩
theorem Dev.onlyReports.overflowReport (r : Report) : d.onlyReports (e.overflowReport r) := by
  have hs := (h.bumpOverflow 0xFFFFFFFF 1).setStatus 9 true
  unfold Dev.overflowReport
  dsimp only
  split
  · exact hs.witness _ _ _
  · exact hs.newRec _ _ _ _ _
theorem Dev.onlyReports.markFull : d.onlyReports e.markFull := by
  unfold Dev.markFull
  split
  · exact h.setStatus 9 true
  · exact h
theorem Dev.onlyReports.aggregate (r : Report) : d.onlyReports (e.aggregate r) := by
  have hs := h.onErrs fun x =>
    { x with seqs := NMap.put x.seqs r.reporter.toNat (NMap.get x.seqs 0 r.reporter.toNat + 1) }
  unfold Dev.aggregate
  dsimp only
  split
  case h_1 => exact hs.witness _ _ _
  case h_2 =>
    split
    case h_1 => exact hs.overflowReport _
    case h_2 =>
      split
      case isTrue => exact (hs.newRec _ _ _ _ _).markFull
      case isFalse =>
        split
        case h_1 => exact hs.witness _ _ _
        case h_2 => exact (hs.newRec _ _ _ _ _).markFull
theorem Dev.onlyReports.report (r : Report) : d.onlyReports (e.report r) := by
  unfold Dev.report
  split
  · exact h.onErrs _
  · exact (h.onErrs _).aggregate _
theorem Dev.onlyReports.fault (org : BitVec 32) (kind sub : Nat) (rep : BitVec 32) (wit : Nat) (addr det : Word) :
    d.onlyReports (e.fault org kind sub rep wit addr det) := h.report _

end

end Sys2Proof.Machine
end

section
namespace Sys2Proof.Machine

/-! ## Takeover of a cluster (R361, R363, R407) -/

/-- The takeover is the whole effect of its command. -/
theorem exec_spareTakeover {n : Nat} (hn : n < 384) (s : State) (dead : Bool) :
    exec (.spareTakeover n dead) s = s.gives fun d => d.takeOver n dead := by
  change execSpareTakeover n dead s = _
  exact run_gives (decide_eq_true hn) rfl

/-- The row of a cluster has a good spare that is idle, and the cluster does not already run on it. -/
def Dev.goodSpare (d : Dev) (n : Nat) : Prop :=
  d.posOf n ≠ 8 ∧ (d.reg (oRow (rowOf n))).getLsbD 4 = true ∧ fld (d.reg (oRow (rowOf n))) 3 0 = 15 ∧
    (d.reg (oRow (rowOf n))).getLsbD 16 = false
/-- One of the aliases still names a placement on the cluster, or its contexts need more of them than are free. -/
def Dev.takeoverWaits (d : Dev) (n : Nat) : Prop :=
  (d.aliases.any fun f => (d.sharesOn n).contains f.ctx && decide (f.newCl = n)) = true ∨
    d.aliases.length + (d.sharesOn n).length > 64

/-- Whether aliases name a placement of one of the contexts: asked of each context, or of all aliases at once. -/
theorem Dev.any_aliasTo (d : Dev) (l : List Nat) (n : Nat) :
    (l.any fun c => d.aliasTo c n) = d.aliases.any fun f => l.contains f.ctx && decide (f.newCl = n) := by
  rw [Bool.eq_iff_iff]
  simp only [Dev.aliasTo, List.any_eq_true, Bool.and_eq_true, decide_eq_true_eq, List.contains_iff_mem]
  constructor
  · rintro ⟨c, hc, f, hf, rfl, hn⟩
    exact ⟨f, hf, hc, hn⟩
  · rintro ⟨f, hf, hc, hn⟩
    exact ⟨f.ctx, hc, f, hf, rfl, hn⟩

section
variable {d : Dev} {n : Nat} (dead : Bool) (hf : d.full = true) (hp : d.present n = true)
  (hb : d.bist.failed.contains n = true)
include hf hp hb

open Classical in
/-- What becomes of a present cluster that has failed. -/
theorem Dev.takeOver_failed : d.takeOver n dead =
    if d.goodSpare n then
      if d.takeoverWaits n then d.setRb 0x518000 7 true else (d.setRb 0x518000 7 false).spareServes n (d.posOf n) dead
    else d.slotAbsent n (d.posOf n) := by
  unfold Dev.takeOver
  rw [hf, hp, hb, if_neg (by decide)]
  dsimp only
  refine if_congr ?_ (if_congr ?_ rfl rfl) rfl
  · simp [Dev.goodSpare, bitAt, and_assoc]
  · rw [d.any_aliasTo, Dev.takeoverWaits]

theorem Dev.takeOver_spareServes (hg : d.goodSpare n) (hw : ¬ d.takeoverWaits n) :
    d.takeOver n dead = (d.setRb 0x518000 7 false).spareServes n (d.posOf n) dead := by
  rw [Dev.takeOver_failed dead hf hp hb, if_pos hg, if_neg hw]
theorem Dev.takeOver_waits (hg : d.goodSpare n) (hw : d.takeoverWaits n) : d.takeOver n dead = d.setRb 0x518000 7 true := by
  rw [Dev.takeOver_failed dead hf hp hb, if_pos hg, if_pos hw]
theorem Dev.takeOver_slotAbsent (hg : ¬ d.goodSpare n) : d.takeOver n dead = d.slotAbsent n (d.posOf n) := by
  rw [Dev.takeOver_failed dead hf hp hb, if_neg hg]

end

end Sys2Proof.Machine
end

section
namespace Sys2Proof.Machine

/-! ## A slice is asked for (BIST_SLICE_CTL, Table 17.4) -/

/-- In full function a write of BIST_SLICE_CTL is heard. -/
theorem exec_go {s : State} (hf : s.dev.full = true) (v : BitVec 32) :
    exec (.go v) s = s.gives fun d => d.goSlice (zext v) := by
  change execGo v s = _
  exact run_gives rfl (if_pos hf)

/-- A field of a word that was extended with zeros. -/
theorem fld_zext (v : BitVec 32) (hi lo : Nat) : fld (zext v) hi lo = v.toNat / 2 ^ lo % 2 ^ (hi + 1 - lo) := by
  have h : (zext v).toNat = v.toNat := BitVec.toNat_setWidth_of_le (by decide)
  rw [fld, h, Nat.shiftRight_eq_div_pow]
theorem bitAt_zext (v : BitVec 32) {k : Nat} (h : k < 64) : bitAt (zext v) k = v.getLsbD k := by
  simp [bitAt, zext, h]

/-- Whether a position is there is read from the row map. -/
theorem Dev.posPresent_congr {d e : Dev} {i : Nat} (hp : e.part = d.part) (hr : e.reg (oRow (i / 9)) = d.reg (oRow (i / 9))) :
    e.posPresent i = d.posPresent i := by
  rw [Dev.posPresent, Dev.posPresent, hp, Dev.rb, Dev.rb, hr]
/-- Whether a controller is free is read from LTN_STAGE, the drain, the dies and the slices. -/
theorem Dev.sliceFree_congr {d e : Dev} (die : Nat) (hp : e.part = d.part) (hr : e.reg 0x10000 = d.reg 0x10000)
    (hw : e.pwr = d.pwr) (hb : e.bist.slices = d.bist.slices) : e.sliceFree die = d.sliceFree die := by
  unfold Dev.sliceFree Dev.full Dev.stage Dev.rf
  rw [hp, hr, hw, hb]

/-- The position that a value of BIST_SLICE_CTL names. -/
def goPos (v : BitVec 32) : Nat := 54 * (v.toNat % 8) + 9 * (v.toNat / 8 % 8) + v.toNat / 64 % 16
/-- A request that is refused: its position is not there, or runs already. -/
def Dev.goRefused (d : Dev) (v : BitVec 32) : Prop :=
  v.toNat % 8 ≥ d.part.dies ∨ v.toNat / 8 % 8 > 5 ∨ v.toNat / 64 % 16 > 8 ∨ d.posPresent (goPos v) = false ∨
    ∃ y, NMap.find d.bist.slices (v.toNat % 8) = some y ∧ y.pos = goPos v
/-- The device whose BIST_SLICE_CTL shows what was written. -/
def Dev.withSliceCtl (d : Dev) (v : BitVec 32) : Dev := d.setRf 0x800004 9 0 (v.toNat % 1024)
/-- A request that is taken: the manager waits for its position. -/
def Dev.goTaken (d : Dev) (v : BitVec 32) : Dev :=
  ((d.withSliceCtl v).onBist fun b => { b with want := some (goPos v) }).setRb 0x800008 0 true

theorem goPos_lt (v : BitVec 32) : goPos v < 500 := by unfold goPos; omega
theorem Dev.posPresent_withSliceCtl (d : Dev) (v : BitVec 32) :
    (d.withSliceCtl v).posPresent (goPos v) = d.posPresent (goPos v) := by
  have h := goPos_lt v
  exact Dev.posPresent_congr rfl (d.reg_setRf_ne _ _ _ (by unfold oRow; omega))
theorem Dev.sliceFree_goTaken (d : Dev) (v : BitVec 32) (die : Nat) :
    (d.goTaken v).sliceFree die = d.sliceFree die := by
  refine Dev.sliceFree_congr die rfl ?_ rfl rfl
  exact (Dev.reg_setRb_ne _ _ _ (by decide)).trans (Dev.reg_setRf_ne d _ _ _ (by decide))

open Classical in
/-- Everything that a write of BIST_SLICE_CTL can do. -/
theorem Dev.goSlice_eq (d : Dev) (v : BitVec 32) : d.goSlice (zext v) =
    if v.getLsbD 10 = true then
      if d.goRefused v then (d.withSliceCtl v).setRb 0x800008 3 true
      else if (d.goTaken v).sliceFree (v.toNat % 8) && !((d.goTaken v).recoveryDue (v.toNat % 8)) &&
          (d.goTaken v).atCommandEnd (goPos v) then (d.goTaken v).startSlice (goPos v) 2
      else d.goTaken v
    else d.withSliceCtl v := by
  have h90 : fld (zext v) 9 0 = v.toNat % 1024 := by simpa using fld_zext v 9 0
  have hdie : fld (zext v) 2 0 = v.toNat % 8 := by simpa using fld_zext v 2 0
  have hrow : fld (zext v) 5 3 = v.toNat / 8 % 8 := fld_zext v 5 3
  have hpos : fld (zext v) 9 6 = v.toNat / 64 % 16 := fld_zext v 9 6
  unfold Dev.goSlice
  dsimp only
  rw [h90, hdie, hrow, hpos, bitAt_zext v (by decide)]
  by_cases h10 : v.getLsbD 10 = true
  case neg => rw [if_pos (by simpa using h10), if_neg h10]; rfl
  case pos =>
    rw [if_neg (by simp [h10]), if_pos h10]
    refine if_congr (or_congr Iff.rfl (or_congr Iff.rfl (or_congr Iff.rfl (or_congr ?_ ?_)))) rfl rfl
    · exact Eq.congr_left (d.posPresent_withSliceCtl v)
    · rw [Dev.setRf_bist]
      cases NMap.find d.bist.slices (v.toNat % 8) <;> simp [goPos]

section
variable {d : Dev} {v : BitVec 32}

theorem Dev.goSlice_noGo (h : v.getLsbD 10 = false) : d.goSlice (zext v) = d.withSliceCtl v := by
  rw [Dev.goSlice_eq, h, if_neg (by decide)]
theorem Dev.goSlice_refused (h : v.getLsbD 10 = true) (hr : d.goRefused v) :
    d.goSlice (zext v) = (d.withSliceCtl v).setRb 0x800008 3 true := by
  rw [Dev.goSlice_eq, if_pos h, if_pos hr]
/-- A request that is taken waits where the controller of its die is not free. -/
theorem Dev.goSlice_taken (h : v.getLsbD 10 = true) (hr : ¬ d.goRefused v) (hfree : d.sliceFree (v.toNat % 8) = false) :
    d.goSlice (zext v) = d.goTaken v := by
  rw [Dev.goSlice_eq, if_pos h, if_neg hr, Dev.sliceFree_goTaken, hfree, if_neg (by simp)]

end

end Sys2Proof.Machine
end

section
namespace Sys2Proof.Machine

/-! ## A slice starts, or is abandoned (R457, R460 to R462) -/

section
variable {s : State} {die i : Nat} (hd : die < 8) (hfree : s.dev.sliceFree die = true) (hrec : s.dev.recoveryDue die = false)
  (hend : s.dev.atCommandEnd i = true)
include hd hfree hrec hend

/-- The controller takes the position that the manager asked for. -/
theorem exec_periodicSlice_wanted (hw : s.dev.wantedOn die = some i) (hp : s.dev.posPresent i = true) :
    exec (.periodicSlice die) s = s.gives fun d => d.startSlice i 2 := by
  change execPeriodicSlice die s = _
  refine run_gives (decide_eq_true hd) ?_
  rw [if_neg (by simp [hfree, hrec]), hw]
  dsimp only
  rw [if_neg (by simp [hp]), if_pos hend]
/-- With none asked for, the controller takes the oldest one. -/
theorem exec_periodicSlice_oldest (hw : s.dev.wantedOn die = none) (hen : s.dev.rb 0x800000 0 = true)
    (ho : (s.dev.oldest die).1 = some i) :
    exec (.periodicSlice die) s = s.gives fun d => (d.oldest die).2.startSlice i 0 := by
  change execPeriodicSlice die s = _
  refine run_gives (decide_eq_true hd) ?_
  rw [if_neg (by simp [hfree, hrec]), hw]
  dsimp only
  rw [if_neg (by simp [hen])]
  generalize s.dev.oldest die = x at ho ⊢
  obtain ⟨_, d'⟩ := x
  obtain rfl : _ = some i := ho
  exact if_pos hend

end

theorem exec_sliceAbandoned {die : Nat} (hd : die < 8) (s : State) :
    exec (.sliceAbandoned die) s = s.gives fun d => d.abandonSlice die := by
  change execSliceAbandoned die s = _
  exact run_gives (decide_eq_true hd) rfl
/-- An abandoned slice releases its position, and ends the request where the manager asked for it. -/
theorem Dev.abandonSlice_running {d : Dev} {die : Nat} {y : Slice} (h : NMap.find d.bist.slices die = some y) :
    d.abandonSlice die = if y.kind = 2 then (d.releaseSlice die y).requestOver y.pos 3 else d.releaseSlice die y := by
  rw [Dev.abandonSlice, h]

end Sys2Proof.Machine
end

section
namespace Sys2Proof.Machine

/-! ## A slice ends (R458, R459) -/

/-- The result that a position shows, what is known of intermittent positions, and what the part is, are as they were. -/
def Dev.samePos (i : Nat) (d e : Dev) : Prop :=
  e.part = d.part ∧ e.reg (oPos i) = d.reg (oPos i) ∧ e.bist.inter = d.bist.inter

theorem Dev.samePos_refl (i : Nat) (d : Dev) : d.samePos i d := ⟨rfl, rfl, rfl⟩
/-- The results of the positions lie below the registers of the clusters. -/
theorem oPos_ne_oClu {i : Nat} (h : i < 432) (n k : Nat) : oPos i ≠ oClu n + k := by
  unfold oPos oClu
  omega

section
variable {i : Nat} {d e : Dev} (h : d.samePos i e)
include h

theorem Dev.samePos.setReg {o : Nat} (v : Word) (ho : oPos i ≠ o) : d.samePos i (e.setReg o v) := by
  obtain ⟨hp, hr, hb⟩ := h
  exact ⟨hp, (e.reg_setReg_ne v ho).trans hr, hb⟩
theorem Dev.samePos.onCl (n : Nat) (f : Cluster → Cluster) : d.samePos i (e.onCl n f) := h
theorem Dev.samePos.fresh : d.samePos i e.fresh.2 := h
theorem Dev.samePos.fault (org : BitVec 32) (kind sub : Nat) (rep : BitVec 32) (wit : Nat) (addr det : Word) :
    d.samePos i (e.fault org kind sub rep wit addr det) := by
  obtain ⟨hp, hr, hb⟩ := h
  have hf := e.onlyReports_refl.fault org kind sub rep wit addr det
  exact ⟨(e.fault_part ..).trans hp, (hf.2 _ (by unfold oPos; omega) (by unfold oPos; omega)).trans hr,
    (congrArg Bist.inter hf.bist).trans hb⟩
theorem Dev.samePos.requestOver (pos result : Nat) : d.samePos i (e.requestOver pos result) := by
  obtain ⟨hp, hr, hb⟩ := h
  have ho : oPos i ≠ 0x800008 := by unfold oPos; omega
  unfold Dev.requestOver
  split
  · exact ⟨hp, ((Dev.reg_setRf_ne _ _ _ _ ho).trans (Dev.reg_setRb_ne _ _ _ ho)).trans hr, hb⟩
  · exact ⟨hp, hr, hb⟩
theorem Dev.samePos.releaseSlice (hi : i < 432) (die : Nat) (x : Slice) : d.samePos i (e.releaseSlice die x) := by
  have hdel : d.samePos i { e with bist := { e.bist with slices := NMap.del e.bist.slices die } } := h
  unfold Dev.releaseSlice
  dsimp only
  split
  · exact hdel
  · exact (hdel.setReg _ (oPos_ne_oClu hi _ _)).onCl _ _
theorem Dev.samePos.keeperLoop (hi : i < 432) (n : Nat) : d.samePos i (e.keeperLoop n) :=
  (h.fresh.setReg _ (oPos_ne_oClu hi n _)).onCl n _

end

/-- The position is tested, and its age is zero. -/
def Dev.posTested (d : Dev) (i : Nat) : Dev := (d.setRb (oPos i) 0 true).setRf (oPos i) 15 8 0
theorem Dev.posTested_tested (d : Dev) (i : Nat) : (d.posTested i).rb (oPos i) 0 = true := by
  rw [Dev.posTested, Dev.rb, bitAt, Dev.setRf, Dev.reg_setReg_same, getLsbD_setFld _ _ _ _ _ (by decide), if_neg (by decide),
    Dev.setRb, Dev.setRf, Dev.reg_setReg_same, getLsbD_setFld _ _ _ _ _ (by decide)]
  rfl
theorem Dev.posTested_age (d : Dev) (i : Nat) : (d.posTested i).rf (oPos i) 15 8 = 0 :=
  Dev.rf_setRf_same _ _ _ _ (by decide)

/-- A position that passes is tested, and nothing later in the pass changes what it shows. -/
theorem Dev.samePos_positionPasses (d : Dev) {x : Slice} (hi : x.pos < 432) (saveOk : Bool) :
    (d.posTested x.pos).samePos x.pos (d.positionPasses x saveOk) := by
  have hover : (d.posTested x.pos).samePos x.pos
      (if x.kind = 2 then (d.posTested x.pos).requestOver x.pos 1 else d.posTested x.pos) := by
    split
    · exact (Dev.samePos_refl _ _).requestOver _ _
    · exact Dev.samePos_refl _ _
  have hrel := hover.releaseSlice hi (x.pos / 54) x
  unfold Dev.positionPasses
  dsimp only
  split
  case h_1 => exact hrel
  case h_2 n _ =>
    have hcl := hrel.onCl n fun c => { c with v0Dead := false, v1Dead := false, mDead := false }
    split
    case isTrue => exact hcl
    case isFalse =>
      have hregs := (hcl.fresh.setReg 0 (oPos_ne_oClu hi n 0x20)).setReg 1 (oPos_ne_oClu hi n 0x40)
      exact ((hregs.onCl n _).keeperLoop hi n).fault _ _ _ _ _ _ _

/-- One slice more has been compared. -/
def Dev.countSlice (d : Dev) : Dev := d.setRf 0x800008 31 16 ((d.rf 0x800008 31 16 + 1) % 65536)
/-- The position is no longer known as intermittent. -/
def Dev.forgetInter (d : Dev) (i : Nat) : Dev :=
  d.onBist fun b => { b with inter := b.inter.filter fun j => decide (j ≠ i) }

section
variable {d : Dev} {x : Slice} {r : SliceResult}

theorem Dev.compareSlice_passes (hs : r.sigOk = true) (hm : r.marchOk = true) (ha : x.again = false) :
    d.compareSlice x r = ((d.forgetInter x.pos).countSlice).positionPasses x r.saveOk := by
  unfold Dev.compareSlice
  dsimp only
  rw [hs, hm, ha, if_pos (by decide), if_pos (by decide)]
  rfl
theorem Dev.compareSlice_again (hf : r.sigOk = false ∨ r.marchOk = false) (hr : d.rb 0x800000 9 = true) (ha : x.again = false) :
    d.compareSlice x r = d.onBist fun b => { b with slices := NMap.put b.slices (x.pos / 54) { x with again := true } } := by
  unfold Dev.compareSlice
  dsimp only
  rw [if_neg (by rcases hf with h | h <;> simp [h]), hr, ha, if_pos (by decide)]
theorem Dev.compareSlice_fails (hf : r.sigOk = false ∨ r.marchOk = false) (hr : d.rb 0x800000 9 = false ∨ x.again = true) :
    d.compareSlice x r =
      (let e := if r.sigOk then d.countSlice else d.countSlice.selfTest x 0 0 r.signature.toNat
       if r.marchOk then e else e.selfTest x 1 r.arrayIdx 0).positionFails x := by
  unfold Dev.compareSlice
  dsimp only
  rw [if_neg (by rcases hf with h | h <;> simp [h]), if_neg (by rcases hr with h | h <;> simp [h])]
  rfl

/-- A position that passes at the first run shows that it is tested, and is not intermittent. -/
theorem Dev.compareSlice_passes_shows (hs : r.sigOk = true) (hm : r.marchOk = true) (ha : x.again = false) (hi : x.pos < 432) :
    let e := d.compareSlice x r
    e.part = d.part ∧ e.bist.inter.contains x.pos = false ∧ e.rb (oPos x.pos) 0 = true ∧ e.rf (oPos x.pos) 15 8 = 0 := by
  intro e
  obtain ⟨hp, hreg, hb⟩ := ((d.forgetInter x.pos).countSlice).samePos_positionPasses hi r.saveOk
  rw [show e = _ from Dev.compareSlice_passes hs hm ha]
  refine ⟨hp, ?_, ?_, ?_⟩
  · rw [hb]
    simp [Dev.posTested, Dev.countSlice, Dev.forgetInter]
  · rw [Dev.rb, hreg]
    exact Dev.posTested_tested _ _
  · rw [Dev.rf, hreg]
    exact Dev.posTested_age _ _

end

/-- In full function the results of the slice that runs on a die are compared. -/
theorem exec_sliceComplete {s : State} {die : Nat} {y : Slice} (r : SliceResult) (hd : die < 8) (hf : s.dev.full = true)
    (hy : NMap.find s.dev.bist.slices die = some y) :
    exec (.sliceComplete die r) s = s.gives fun d => d.compareSlice y r := by
  change execSliceComplete die r s = _
  refine run_gives (decide_eq_true hd) ?_
  rw [hy]
  exact if_pos hf

/-- Settles O53: the takeover from what is wrong with the slot, the request from the fields of BIST_SLICE_CTL, and a slice's end
from what its comparison does. -/
theorem selfTestAndTakeoverComplete : Obligations.SelfTestAndTakeoverComplete := by
  refine ⟨fun s n dead hn hf hp => ⟨fun hs hb => ?probe, fun hb => ⟨fun hg hw => ?serves, fun hg hw => ?waits,
      fun hg => ?absent⟩, fun hh h8 hs => ?complete⟩,
    fun s die hd hf => ⟨fun hfree hrec => ⟨fun i hw hp he => ?wanted, fun i hw hen ho he => ?oldest⟩,
      fun n hn hfree hp hdead hb he => ?recovery,
      fun v => ⟨fun h10 => ?noGo, fun h10 hbad => ?refused, fun h10 hbad hfree => ?taken⟩,
      fun y r hy hdie => ⟨fun hs hm ha hi => ?passes, fun hr h9 ha => ?again, fun hr h9 => ?fails⟩,
      fun y hy hk => ?abandoned, fun y hy hk => ?requestAbandoned⟩⟩
  case probe =>
    change execClusterProbe n false s = _
    refine run_gives (decide_eq_true hn) ?_
    rw [hf, hs, if_pos (by decide), Dev.clusterFailed, hp, hb, if_pos (by decide)]
  case serves =>
    exact (exec_spareTakeover hn s dead).trans (State.gives_congr (Dev.takeOver_spareServes dead hf hp hb hg hw))
  case waits => exact (exec_spareTakeover hn s dead).trans (State.gives_congr (Dev.takeOver_waits dead hf hp hb hg hw))
  case absent => exact (exec_spareTakeover hn s dead).trans (State.gives_congr (Dev.takeOver_slotAbsent dead hf hp hb hg))
  case complete =>
    change execSpareTakeoverComplete n s = _
    refine run_gives (decide_eq_true hn) ?_
    rw [hf, hp, hh, h8, hs, if_pos (by decide)]
  case wanted => exact exec_periodicSlice_wanted hd hfree hrec he hw hp
  case oldest => exact exec_periodicSlice_oldest hd hfree hrec he hw hen ho
  case recovery =>
    change execRecoverySlice n s = _
    refine run_gives (decide_eq_true hn) ?_
    rw [hfree, hp, hdead, hb]
    exact if_pos he
  case noGo => exact (exec_go hf v).trans (State.gives_congr (Dev.goSlice_noGo h10))
  case refused => exact (exec_go hf v).trans (State.gives_congr (Dev.goSlice_refused h10 hbad))
  case taken => exact (exec_go hf v).trans (State.gives_congr (Dev.goSlice_taken h10 hbad hfree))
  case passes =>
    obtain ⟨hpart, hshows⟩ := Dev.compareSlice_passes_shows (d := s.dev) hs hm ha hi
    refine ⟨_, exec_sliceComplete r hd hf hy, ?_⟩
    rw [State.onDev_dev_of_part hpart]
    exact hshows
  case again =>
    subst hdie
    exact (exec_sliceComplete r hd hf hy).trans (State.gives_congr (Dev.compareSlice_again hr h9 ha))
  case fails => exact (exec_sliceComplete r hd hf hy).trans (State.gives_congr (Dev.compareSlice_fails hr h9))
  case abandoned =>
    exact (exec_sliceAbandoned hd s).trans (State.gives_congr ((Dev.abandonSlice_running hy).trans (if_neg hk)))
  case requestAbandoned =>
    exact (exec_sliceAbandoned hd s).trans (State.gives_congr ((Dev.abandonSlice_running hy).trans (if_pos hk)))

end Sys2Proof.Machine
end

section
namespace Sys2Proof.Machine

/-! ## What the power block shows, and what its events leave alone (R49, R52, R69) -/

/-- Full function is read from LTN_STAGE. -/
theorem Dev.full_congr {d e : Dev} (h : e.reg 0x10000 = d.reg 0x10000) : e.full = d.full := by
  unfold Dev.full Dev.stage Dev.rf
  rw [h]
theorem Dev.stage_of_full {d : Dev} (h : d.full = true) : d.stage = 8 := of_decide_eq_true h

/-- A bit of a register that was written reads what was written. -/
theorem Dev.rb_setRb_same (d : Dev) (o : Nat) {k : Nat} (b : Bool) (h : k < 64) : (d.setRb o k b).rb o k = b := by
  rw [Dev.rb, bitAt, Dev.setRb, Dev.setRf, Dev.reg_setReg_same, getLsbD_setFld _ _ _ _ _ h, if_pos ⟨le_rfl, le_rfl⟩,
    Nat.sub_self]
  cases b <;> rfl

/-- A new effective step is the only change of the controller when PWR_STEP_STS follows it. -/
@[simp] theorem Dev.refreshStep_pwr (d : Dev) : d.refreshStep.pwr = { d.pwr with target := d.wanted } := by
  simp [Dev.refreshStep]
/-- STARTS_BLOCKED (Table 2.5): during a dip and a drain, and while the dies are stopped. -/
theorem Dev.refreshStep_startsBlocked (d : Dev) :
    d.refreshStep.rb 0x20004 11 = (decide (d.pwr.dip ≠ 0) || d.pwr.drain.isSome || d.pwr.stopped) :=
  Dev.rb_setRb_same _ _ _ (by decide)
/-- Below the warning level the effective step is 0 (R49). -/
theorem Dev.wanted_of_dip {d : Dev} (h : d.pwr.dip = 1) : d.wanted = 0 := if_pos (.inl h)

theorem Dev.onlyReports.pwr {d e : Dev} (h : d.onlyReports e) : e.pwr = d.pwr := by
  obtain ⟨⟨_, _, _, rfl⟩, -⟩ := h
  rfl
/-- A bit of PWR_EVT that becomes set is reported; one that is set already stands. -/
theorem Dev.powerEvent_cases (d : Dev) (k : Nat) :
    d.powerEvent k = d ∨ (d.setRb 0x20010 k true).onlyReports (d.powerEvent k) := by
  unfold Dev.powerEvent
  split
  case isTrue => exact .inl rfl
  case isFalse => exact .inr (((Dev.onlyReports_refl _).fault _ _ _ _ _ _ _).raise _ _ _)
@[simp] theorem Dev.powerEvent_pwr (d : Dev) (k : Nat) : (d.powerEvent k).pwr = d.pwr := by
  rcases d.powerEvent_cases k with h | h
  · rw [h]
  · rw [h.pwr, Dev.setRb_pwr]
@[simp] theorem Dev.full_powerEvent (d : Dev) (k : Nat) : (d.powerEvent k).full = d.full := by
  rcases d.powerEvent_cases k with h | h
  · rw [h]
  · exact Dev.full_congr ((h.2 _ (by decide) (by decide)).trans (d.reg_setRb_ne _ _ (by decide)))

@[simp] theorem Dev.full_onPwr (d : Dev) (f : Pwr → Pwr) : (d.onPwr f).full = d.full := rfl
@[simp] theorem Dev.full_refreshStep (d : Dev) : d.refreshStep.full = d.full :=
  Dev.full_congr (d.reg_refreshStep (by decide))
@[simp] theorem Dev.full_sens (d : Dev) (k v : Nat) : (d.sens k v).full = d.full :=
  Dev.full_congr (d.reg_setReg_ne _ (by omega))
@[simp] theorem Dev.full_inputIs (d : Dev) (mv : BitVec 16) : (d.inputIs mv).full = d.full :=
  (Dev.full_congr (Dev.reg_setRf_ne _ _ _ _ (by decide))).trans (d.full_sens _ _)
@[simp] theorem Dev.full_belowWarning (d : Dev) : d.belowWarning.full = d.full := by simp [Dev.belowWarning]
@[simp] theorem Dev.inputIs_pwr (d : Dev) (mv : BitVec 16) : (d.inputIs mv).pwr = d.pwr := rfl

/-- The dies of a device in full function have power. -/
theorem Dev.powered_of_full {d : Dev} (h : d.full = true) : d.powered = true := by
  simp [Dev.powered, Dev.stage_of_full h]
theorem Dev.endPower_of_full {d : Dev} (h : d.full = true) (cause : Nat) : d.endPower cause = d.beginDrain cause := if_pos h

end Sys2Proof.Machine
end

section
namespace Sys2Proof.Machine

/-! ## The manager's settings (R51, R61, R69) -/

theorem Dev.mgr_of_hostAlive {d : Dev} (h : d.hostAlive = true) (f : Dev → Dev) : d.mgr f = f d := if_pos h

/-- REQ_STEP and PACED are what was written; without paced mode no window can have failed. -/
theorem Dev.writeStepCtl_zext (d : Dev) (v : BitVec 32) :
    d.writeStepCtl (zext v) =
      (let x := (d.setRf 0x20000 2 0 (v.toNat % 8)).setRb 0x20000 4 (v.getLsbD 4)
       if v.getLsbD 4 then x else x.setRb 0x20004 10 false).refreshStep := by
  have hstep : fld (zext v) 2 0 = v.toNat % 8 := by simpa using fld_zext v 2 0
  unfold Dev.writeStepCtl
  rw [hstep, bitAt_zext v (by decide)]

/-- The least of a field of the value written and of its reset value fits the field. -/
theorem min_fld_mod {w : Nat} (v : BitVec w) (hi lo x : Nat) : min (fld v hi lo) x % 2 ^ (hi + 1 - lo) = min (fld v hi lo) x :=
  Nat.mod_eq_of_lt ((Nat.min_le_left _ _).trans_lt (Nat.mod_lt _ (Nat.two_pow_pos _)))
theorem exec_pwrLimitCfgWrite {s : State} (h : s.dev.hostAlive = true) (v : BitVec 32) :
    exec (.pwrLimitCfgWrite v) s = s.gives fun d => d.writeLimit (zext v) := by
  change execPwrLimitCfgWrite v s = _
  exact run_gives rfl (Dev.mgr_of_hostAlive h _)
/-- Neither limit exceeds its reset value, and no other register changes. -/
theorem Dev.writeLimit_fields (d : Dev) (v : BitVec 32) :
    let top := regReset d.part 0x2000C
    let e := d.writeLimit (zext v)
    e.part = d.part ∧ e.rf 0x2000C 11 0 = min (v.toNat % 4096) (fld top 11 0) ∧
      e.rf 0x2000C 27 16 = min (v.toNat / 65536 % 4096) (fld top 27 16) ∧ ∀ o, o ≠ 0x2000C → e.reg o = d.reg o := by
  intro top e
  have hlow : fld (zext v) 11 0 = v.toNat % 4096 := by simpa using fld_zext v 11 0
  have hhigh : fld (zext v) 27 16 = v.toNat / 65536 % 4096 := fld_zext v 27 16
  refine ⟨rfl, ?_, ?_, fun o ho => ?_⟩
  · rw [← hlow, ← min_fld_mod]
    exact (Dev.rf_setRf_disjoint _ _ _ (by decide) (by decide)).trans (Dev.rf_setRf_same _ _ _ _ (by decide))
  · rw [← hhigh, ← min_fld_mod]
    exact Dev.rf_setRf_same _ _ _ _ (by decide)
  · exact (Dev.reg_setRf_ne _ _ _ _ ho).trans (Dev.reg_setRf_ne _ _ _ _ ho)

end Sys2Proof.Machine
end

section
namespace Sys2Proof.Machine

/-! ## The sustained-power governor (R59) -/

/-- The samples of the last 10 ms have entered the 1 s mean, and LTN_SENS index 3 shows it. -/
def Dev.evaluated (d : Dev) (meanW msW : Nat) : Dev :=
  let e := (d.unsampled meanW msW).onPwr fun p => { p with slots := p.acc :: p.slots.take 99, acc := (0, 0) }
  e.sens 3 (meanOf e.pwr.second)
/-- The governor acts on what the samples have brought. -/
theorem exec_sustainedEvaluation {s : State} (hs : s.dev.sampling = true) (meanW msW : Nat) (fits : Bool) :
    exec (.sustainedEvaluation meanW msW fits) s = s.gives fun d => (d.evaluated meanW msW).sustained fits := by
  change execSustainedEvaluation meanW msW fits s = _
  refine run_gives rfl ?_
  rw [hs]
  rfl

/-- The limit of the sustained power (R61). -/
def Dev.sustainedLimit (d : Dev) : Nat := d.rf 0x2000C 11 0
/-- The projected 1 s mean, at the latest 1 ms mean that LTN_SENS shows: sum and number of samples. -/
def Dev.projectedMean (d : Dev) : Nat × Nat := d.pwr.projected (d.rf 0x11008 15 0)

section
variable {d : Dev} {fits : Bool}

/-- A projected mean above the limit lowers the step. -/
theorem Dev.sustained_lowers (h : d.sustainedLimit * d.projectedMean.2 < d.projectedMean.1) :
    d.sustained fits = (d.onPwr fun p => { p with sus := d.stepBelow, susOk := 0 }).refreshStep := if_pos h

section
variable (hn : d.projectedMean.1 ≤ d.sustainedLimit * d.projectedMean.2)
include hn

/-- Below 95% of the limit the step rises when it may, and the time below counts on. -/
theorem Dev.sustained_low (h : d.pwr.second.1 * 100 < 95 * d.sustainedLimit * d.pwr.second.2) :
    d.sustained fits =
      if d.pwr.susOk ≥ 10 ∧ d.pwr.sus < d.rf 0x20000 2 0 ∧ d.nextFits (meanOf d.pwr.second) fits = true then
        (d.onPwr fun p => { p with sus := p.sus + 1, susOk := 1 }).refreshStep
      else d.onPwr fun p => { p with susOk := p.susOk + 1 } :=
  (if_neg (Nat.not_lt.2 hn)).trans (if_pos h)
/-- Between 95% and the limit the time below starts again. -/
theorem Dev.sustained_between (h : 95 * d.sustainedLimit * d.pwr.second.2 ≤ d.pwr.second.1 * 100) :
    d.sustained fits = d.onPwr fun p => { p with susOk := 0 } :=
  (if_neg (Nat.not_lt.2 hn)).trans (if_neg (Nat.not_lt.2 h))

end
end

/-! ## The peak limiter (R60) -/

/-- A sample of the input power has entered the 1 ms mean, and LTN_SENS index 2 shows it. -/
def Dev.sampled (d : Dev) (inputW : Nat) : Dev :=
  let e := d.onPwr fun p => { p with ms := inputW :: p.ms.take 999, acc := (p.acc.1 + inputW, p.acc.2 + 1) }
  e.sens 2 (meanOf e.pwr.milli)
/-- The limiter acts on the mean with the new sample. -/
theorem exec_peakMeasurement {s : State} (hs : s.dev.sampling = true) (inputW : Nat) :
    exec (.peakMeasurement inputW) s = s.gives fun d => (d.sampled inputW).peakLimit := by
  change execPeakMeasurement inputW s = _
  refine run_gives rfl ?_
  rw [hs]
  rfl

/-- A mean below 85% of the limit is not above 97% of it. -/
theorem not_over_of_under {lim n x : Nat} (h : x ≤ 85 * lim * n) : ¬ 97 * lim * n < x :=
  Nat.not_lt.2 (h.trans (by gcongr; decide))

section
variable {d : Dev}

/-- Above 97% of the limit the step falls, unless it has fallen within 50 µs. -/
theorem Dev.peakLimit_over (h : 97 * d.rf 0x2000C 27 16 * d.pwr.milli.2 < d.pwr.milli.1 * 100) :
    d.peakLimit =
      if d.pwr.peakHot = 0 ∨ d.pwr.peakHot ≥ 50 then
        let x := (d.onPwr fun p => { p with peak := d.stepBelow, peakHot := 1, peakOk := 0 }).refreshStep
        if d.governed > 0 then x.powerEvent 3 else x
      else d.onPwr fun p => { p with peakHot := p.peakHot + 1, peakOk := 0 } := if_pos h
/-- Below 85% of the limit a step is given back after 1 ms (log entry 84). -/
theorem Dev.peakLimit_under (h : d.pwr.milli.1 * 100 < 85 * d.rf 0x2000C 27 16 * d.pwr.milli.2) :
    d.peakLimit =
      if d.pwr.peakOk ≥ 1000 ∧ d.pwr.peak < 7 then
        (d.onPwr fun p => { p with peakHot := 0, peak := p.peak + 1, peakOk := 1 }).refreshStep
      else d.onPwr fun p => { p with peakHot := 0, peakOk := p.peakOk + 1 } :=
  (if_neg (not_over_of_under h.le)).trans (if_pos h)
/-- Between the two the step stands, and both times start again. -/
theorem Dev.peakLimit_between (hl : 85 * d.rf 0x2000C 27 16 * d.pwr.milli.2 ≤ d.pwr.milli.1 * 100)
    (hh : d.pwr.milli.1 * 100 ≤ 97 * d.rf 0x2000C 27 16 * d.pwr.milli.2) :
    d.peakLimit = d.onPwr fun p => { p with peakHot := 0, peakOk := 0 } :=
  (if_neg (Nat.not_lt.2 hh)).trans (if_neg (Nat.not_lt.2 hl))

end

end Sys2Proof.Machine
end

section
namespace Sys2Proof.Machine

/-! ## Drains begin (R67, log entry 83) -/

@[simp] theorem Dev.notify_pwr (d : Dev) (cause : Nat) : (d.notify cause).pwr = d.pwr := by
  simp [Dev.notify, apply_ite Dev.pwr]
section
variable {d : Dev} {k : Nat} (cause : Nat) (hs : d.pwr.stopped = false) (hk : d.pwr.drain = some k)
include hs hk

/-- A second cause changes no more of a drain than its cause; only one that ends the power of a drain for rest sends a notice. -/
theorem Dev.beginDrain_again : d.beginDrain cause =
    ((if d.pwr.drain = some 5 ∧ endsPower cause = true then d.notify 1 else d).onPwr fun p =>
      { p with drain := some (drainCause p.drain cause) }).refreshStep :=
  (if_neg (by simp [hs])).trans (if_pos (by simp [hk]))
/-- A drain that is under way keeps its cause, unless the new one ends the power and its own does not. -/
theorem Dev.beginDrain_again_cause :
    (d.beginDrain cause).pwr.drain = some (if endsPower cause = true ∧ endsPower k = false then cause else k) := by
  rw [Dev.beginDrain_again cause hs hk]
  simp [apply_ite Dev.pwr, hk, drainCause]

end

/-! ## Dips of the supply (R48, R65 to R67) -/

/-- A dip keeps the step in force when it begins, takes the effective step to 0 and blocks starts. -/
theorem Dev.belowWarning_begins {d : Dev} (h : d.pwr.dip = 0) :
    let e := d.belowWarning
    e.pwr.before = d.pwr.target ∧ e.pwr.target = 0 ∧ e.rb 0x20004 11 = true := by
  refine ⟨?_, ?_, ?_⟩
  · simp [Dev.belowWarning, h]
  · simp [Dev.belowWarning, Dev.wanted_of_dip]
  · exact Dev.refreshStep_startsBlocked _

section
variable {s : State} {mv : BitVec 16} (h2 : 2 ≤ s.dev.stage)

include h2 in
theorem exec_inputBelowWarning (hmv : mv.toNat < 44000) :
    exec (.inputBelowWarning mv) s = s.gives fun d => (d.inputIs mv).belowWarning := by
  change execInputBelowWarning mv s = _
  exact run_gives rfl (if_neg (by simp [h2, hmv]))
include h2 in
theorem exec_inputRecovered (hmv : 46000 < mv.toNat) :
    exec (.inputRecovered mv) s = s.gives fun d =>
      ((d.inputIs mv).onPwr fun p => { p with dip := if p.dip = 1 then 2 else p.dip }).refreshStep := by
  change execInputRecovered mv s = _
  exact run_gives rfl ((if_neg (by simp [h2])).trans (if_pos hmv))

end

/-- In full function the reset level finds a dip under way or begins one, and an orderly drain begins. -/
theorem exec_inputBelowReset {s : State} {mv : BitVec 16} (hmv : mv.toNat < 38000) (hf : s.dev.full = true) :
    exec (.inputBelowReset mv) s = s.gives fun d =>
      ((if d.pwr.dip = 1 then d.inputIs mv else (d.inputIs mv).belowWarning).powerEvent 1).beginDrain 1 := by
  have h8 := Dev.stage_of_full hf
  change execInputBelowReset mv s = _
  refine run_gives rfl ((if_neg (by simp [h8, hmv])).trans ((if_neg (by simp [h8])).trans (if_pos ?_)))
  rw [Dev.full_powerEvent]
  split <;> simp [hf]
/-- A low rail is input below the reset level (R48). -/
theorem exec_railMonitorLow {s : State} {die : Nat} {mv : BitVec 16} (h8 : die < 8) (hd : die < s.dev.part.dies)
    (hf : s.dev.full = true) (hmv : mv.toNat < 450) :
    exec (.railMonitorLow die mv) s = s.gives fun d => ((d.sens (56 + die) mv.toNat).powerEvent 1).beginDrain 1 := by
  change execRailMonitorLow die mv s = _
  refine run_gives (decide_eq_true h8) ((if_neg ?_).trans (if_pos ?_))
  · simp [Dev.powered_of_full hf, hd, hmv]
  · simp [hf]
theorem exec_lanternOvertemperature {s : State} (hf : s.dev.full = true) :
    exec .lanternOvertemperature s = s.gives fun d =>
      (d.fresh.2.sens 64 (1841 + d.fresh.1.toNat % 4096)).beginDrain 3 := by
  change execLanternOvertemperature s = _
  refine run_gives rfl ((if_neg (by simp [Dev.stage_of_full hf])).trans (Dev.endPower_of_full ?_ _))
  exact (Dev.full_sens _ _ _).trans hf

/-! ## Readings, windows and ALERT (R54, R62, R64) -/

theorem exec_junctionSample {s : State} {die k : Nat} (t : BitVec 16) (h8 : die < 8) (hk : k < 6) (hp : s.dev.powered = true)
    (hd : die < s.dev.part.dies) :
    exec (.junctionSample die k t) s = s.gives fun d => (d.sens (8 + 6 * die + k) t.toNat).thermal := by
  change execJunctionSample die k t s = _
  exact run_gives (by simp [h8, hk]) (if_neg (by simp [hp, hd]))
theorem exec_thermalTrip {s : State} (hp : s.dev.powered = true) (h : s.dev.hottest ≥ 1728) :
    exec .thermalTrip s = s.gives fun d => (d.powerEvent 6).endPower 2 := by
  change execThermalTrip s = _
  exact run_gives rfl (if_pos (by simp [hp, h]))
/-- A window of paced mode shows whether it was missed, and only a miss in paced mode is an event. -/
theorem exec_paceWindow {s : State} (hf : s.dev.full = true) (met : Bool) :
    exec (.paceWindow met) s = s.gives fun d =>
      if d.rb 0x20000 4 && !met then (d.setRb 0x20004 10 true).powerEvent 5 else d.setRb 0x20004 10 false := by
  change execPaceWindow met s = _
  exact run_gives rfl (if_neg (by simp [hf]))

/-- ALERT is asserted: the step falls to 0, and the regulator and the cause are logged. -/
def Dev.alerted (d : Dev) (src : AlertSource) : Dev :=
  ((d.onPwr fun p => { p with alert := true, alerts := src :: p.alerts }).refreshStep).powerEvent 2
theorem exec_alert_chassis {s : State} (h : s.dev.stage ≠ 0) :
    exec (.alert .chassis) s = s.gives fun d => d.alerted .chassis := by
  change execAlert .chassis s = _
  exact run_gives rfl (if_neg h)
/-- Of a regulator's causes only a failed phase does more than hold the step. -/
theorem exec_alert_regulator {s : State} {die : Nat} (h : s.dev.stage ≠ 0) (hd : die < 8) (c : AlertCause) :
    exec (.alert (.regulator die c)) s = s.gives fun d =>
      if c = .phaseFault then (d.alerted (.regulator die c)).phaseFailed die else d.alerted (.regulator die c) := by
  change execAlert (.regulator die c) s = _
  cases c <;> exact run_gives (decide_eq_true hd) (if_neg h)

end Sys2Proof.Machine
end

section
namespace Sys2Proof.Machine

/-! ## Drains end, and the rails return (R67, R277, R358) -/

section
variable {d : Dev}

/-- The drain for the reset level ends at the Lantern's reset stage. -/
theorem Dev.endDrain_reset (h : d.pwr.drain = some 1) (hb : d.atBoundary = true) :
    d.endDrain = ((((d.drainAll.deviceReset 1).resetDies).setStage 3).onPwr fun p => { p with drain := none }).refreshStep := by
  unfold Dev.endDrain
  rw [h]
  exact if_pos hb
/-- The drain of a thermal trip ends the power. -/
theorem Dev.endDrain_trip (h : d.pwr.drain = some 2) (hb : d.atBoundary = true) :
    d.endDrain = (d.drainAll.deviceReset 2).powerDown := by
  unfold Dev.endDrain
  rw [h]
  exact if_pos hb
theorem Dev.finishPowerDown_idle (h : d.enginesIdle = true) : d.finishPowerDown = d.drainAll.powerDown := if_pos h
/-- The drain of a power-down ends the power once the engines are idle. -/
theorem Dev.endDrain_powerDown (h : d.pwr.drain = some 4) (hi : d.enginesIdle = true) : d.endDrain = d.drainAll.powerDown := by
  unfold Dev.endDrain
  rw [h]
  exact Dev.finishPowerDown_idle hi

end

theorem exec_warmReset (s : State) : exec .warmReset s = s.gives Dev.endDrain := rfl
theorem exec_warmResetWithoutDrain {s : State} (hf : s.dev.full = true) :
    exec .warmResetWithoutDrain s = s.gives fun d =>
      ((((d.abandonSlices.writeBackAll.deviceReset 3).resetDies).setStage 3).onPwr fun p => { p with drain := none }).refreshStep := by
  change execWarmResetWithoutDrain s = _
  exact run_gives rfl (if_pos hf)
theorem exec_orderlyPowerDown {s : State} (hf : s.dev.full = true) (h4 : (s.dev.beginDrain 4).pwr.drain = some 4)
    (hi : (s.dev.beginDrain 4).enginesIdle = true) :
    exec .orderlyPowerDown s = s.gives fun d => (d.beginDrain 4).drainAll.powerDown := by
  change execOrderlyPowerDown s = _
  exact run_gives rfl ((if_neg (by simp [hf])).trans ((if_pos (.inr h4)).trans (Dev.finishPowerDown_idle hi)))

section
variable {s : State} (h3 : s.dev.stage = 3) (hp : s.dev.ltn.found.isSome = true)
include h3 hp

/-- After a warm reset the device re-enters full function. -/
theorem exec_railSequencingRestart_reenters (hn : s.dev.ltn.starting = none) (hs : s.dev.pwr.stopped = false) :
    exec .railSequencingRestart s = s.gives Dev.reenter := by
  have hp' : s.dev.ltn.found ≠ none := Option.isSome_iff_ne_none.1 hp
  change execRailSequencingRestart s = _
  refine run_gives rfl ((if_neg (by simp [h3, hp'])).trans ((if_neg (by simp [hn])).trans (if_neg (by simp [hs]))))
/-- After a fall during a start order 5 begins again (R438). -/
theorem exec_railSequencingRestart_resumes (hn : s.dev.ltn.starting.isSome = true) :
    exec .railSequencingRestart s = s.gives fun d => ((d.onPwr fun p => { p with dip := 0 }).refreshStep).resumeStart := by
  have hp' : s.dev.ltn.found ≠ none := Option.isSome_iff_ne_none.1 hp
  change execRailSequencingRestart s = _
  exact run_gives rfl ((if_neg (by simp [h3, hp'])).trans (if_pos hn))

end
end Sys2Proof.Machine
end

section
namespace Sys2Proof.Machine

/-! ## The power is gone (R67, R69, R454) -/

/-- What every listed entry and the default satisfy, every entry read satisfies. -/
theorem NMap.get_of_forall {α : Type} {P : α → Prop} {m : NMap α} {x : α} (hm : ∀ e ∈ m, P e.2) (hx : P x) (k : Nat) :
    P (NMap.get m x k) := by
  induction m with
  | nil => exact hx
  | cons e m ih =>
    obtain ⟨i, v⟩ := e
    obtain ⟨hv, hm⟩ := List.forall_mem_cons.1 hm
    rw [NMap.get]
    split
    · exact hv
    · exact ih hm

/-- Nothing is left in a Local that has lost its power. -/
theorem Dev.powerOff_loc (d : Dev) (n : Nat) : (d.powerOff.mem (.loc n)).cells = [] := by
  refine NMap.get_of_forall (P := fun m : Mem => m.cells = []) (fun e he => ?_) rfl n
  obtain ⟨k, -, rfl⟩ := List.mem_map.1 he
  rfl
/-- LTN_STAGE reads 0. -/
theorem Dev.powerOff_stage (d : Dev) : d.powerOff.stage = 0 := by
  have h : d.powerOff.reg 0x10000 = regReset d.part 0x10000 := by
    cases ht : d.rb 0x20010 6 <;> simp [Dev.reg, Dev.powerOff, ht, NMap.get]
  rw [Dev.stage, Dev.rf, h, regReset_stage]
  rfl
/-- PWR_EVT has the same reset value on every part. -/
theorem regReset_powerEvents (k : Part) : regReset k 0x20010 = 0 := rfl
/-- THERMAL_TRIP is kept. -/
theorem Dev.powerOff_trip (d : Dev) : d.powerOff.rb 0x20010 6 = d.rb 0x20010 6 := by
  have h : d.powerOff.reg 0x20010 = if d.rb 0x20010 6 then 64 else 0 := by
    cases ht : d.rb 0x20010 6 <;> simp [Dev.reg, Dev.powerOff, ht, NMap.get, regReset_powerEvents]
  rw [Dev.rb, h]
  cases d.rb 0x20010 6 <;> rfl

/-- In rest the loss of input ends the retention. -/
theorem exec_suddenInputLoss_rest {s : State} (h : s.dev.stage = 9) :
    exec .suddenInputLoss s = s.gives fun d => { d.loseMemory with ltn := { d.ltn with retained := false } } := by
  change execSuddenInputLoss s = _
  exact run_gives rfl (if_pos h)
theorem exec_suddenInputLoss {s : State} (h : s.dev.stage ≠ 9) : exec .suddenInputLoss s = s.gives Dev.powerOff := by
  change execSuddenInputLoss s = _
  exact run_gives rfl (if_neg h)

end Sys2Proof.Machine
end

section
namespace Sys2Proof.Machine

/-- Settles O51: each command is the effect of its case, and the two governors' cases are those of the means that their samples
bring. -/
theorem powerAndResetsComplete : Obligations.PowerAndResetsComplete := by
  refine ⟨fun s => ⟨fun v ha => ⟨?stepCtl, ?limit, ?rearm⟩, fun h => ?stepReached, fun meanW msW fits hs => ?sustained,
      fun inputW hs => ?peak, fun die k t h8 hk hp hd => exec_junctionSample t h8 hk hp hd, exec_thermalTrip,
      fun met hf => ⟨fun h => ?windowMet, fun hm hp => ?windowMissed⟩,
      fun src h => ⟨?chassis, fun die hd => ⟨?regulator, ?phaseFault⟩⟩, rfl,
      fun mv h2 => ⟨exec_inputBelowWarning h2, exec_inputRecovered h2, fun hmv hf h1 => ?resetInDip, fun hmv hf h1 => ?reset,
        fun hmv h0 => ?dipBegins, fun die h8 hd hf hmv => exec_railMonitorLow h8 hd hf hmv⟩,
      fun h => ?recovered, exec_lanternOvertemperature, fun cause _ hs k hk => Dev.beginDrain_again_cause cause hs hk⟩,
    fun s => ⟨fun h hb => ?drainReset, fun h hb => ?drainTrip, fun h hi => ?drainPowerDown, exec_warmResetWithoutDrain,
      exec_orderlyPowerDown, exec_railSequencingRestart_reenters, exec_railSequencingRestart_resumes, fun h => ?restLost,
      fun h => ?powerLost⟩⟩
  case stepCtl =>
    change execPwrStepCtlWrite v s = _
    exact run_gives rfl ((Dev.mgr_of_hostAlive ha _).trans (Dev.writeStepCtl_zext _ v))
  case limit =>
    obtain ⟨hpart, hfields⟩ := s.dev.writeLimit_fields v
    refine ⟨_, exec_pwrLimitCfgWrite ha v, ?_⟩
    rw [State.onDev_dev_of_part hpart]
    exact hfields
  case rearm =>
    change execRearm s = _
    exact run_gives rfl (Dev.mgr_of_hostAlive ha _)
  case stepReached =>
    change execStepChangeComplete s = _
    exact run_gives rfl (if_pos h)
  case sustained =>
    intro b e y lim now next upFits raised
    have hy : y = s.dev.evaluated meanW msW := by
      have hb : b = s.dev.unsampled meanW msW := ite_not _ _ _
      simp only [y, e, hb, Dev.evaluated]
    have hx : exec (.sustainedEvaluation meanW msW fits) s = s.gives fun _ => y.sustained fits :=
      (exec_sustainedEvaluation hs meanW msW fits).trans (State.gives_congr (congrArg (Dev.sustained · fits) hy.symm))
    refine ⟨fun h => hx.trans (State.gives_congr (Dev.sustained_lowers h)), fun hn hb => ⟨fun hr => ?_, fun hr => ?_⟩,
      fun hn hb => hx.trans (State.gives_congr (Dev.sustained_between hn hb))⟩
    · exact hx.trans (State.gives_congr ((Dev.sustained_low hn hb).trans (if_pos hr)))
    · exact hx.trans (State.gives_congr ((Dev.sustained_low hn hb).trans (if_neg hr)))
  case peak =>
    intro e m y lim low
    have hx : exec (.peakMeasurement inputW) s = s.gives fun _ => y.peakLimit :=
      (exec_peakMeasurement hs inputW).trans (State.gives_congr rfl)
    refine ⟨fun ho hh => ?_, fun ho h0 h50 => ?_, fun hu hk hp => ?_, fun hu hk => ?_, fun hl hh => ?_⟩
    · exact hx.trans (State.gives_congr ((Dev.peakLimit_over ho).trans (if_pos hh)))
    · exact hx.trans (State.gives_congr ((Dev.peakLimit_over ho).trans (if_neg (by omega))))
    · exact hx.trans (State.gives_congr ((Dev.peakLimit_under hu).trans (if_pos ⟨hk, hp⟩)))
    · exact hx.trans (State.gives_congr ((Dev.peakLimit_under hu).trans (if_neg (by omega))))
    · exact hx.trans (State.gives_congr (Dev.peakLimit_between hl hh))
  case windowMet =>
    exact (exec_paceWindow hf met).trans (State.gives_congr (if_neg (by rcases h with h | h <;> simp [h])))
  case windowMissed => exact (exec_paceWindow hf met).trans (State.gives_congr (if_pos (by simp [hm, hp])))
  case chassis =>
    rintro rfl
    exact exec_alert_chassis h
  case regulator =>
    rintro (rfl | rfl)
    · exact (exec_alert_regulator h hd _).trans (State.gives_congr (if_neg nofun))
    · exact (exec_alert_regulator h hd _).trans (State.gives_congr (if_neg nofun))
  case phaseFault =>
    rintro rfl
    exact (exec_alert_regulator h hd _).trans (State.gives_congr (if_pos rfl))
  case resetInDip =>
    refine (exec_inputBelowReset hmv hf).trans (State.gives_congr ?_)
    rw [if_pos h1]
  case reset =>
    refine (exec_inputBelowReset hmv hf).trans (State.gives_congr ?_)
    rw [if_neg h1]
  case dipBegins =>
    refine ⟨_, exec_inputBelowWarning h2 hmv, ?_⟩
    rw [State.onDev_dev_of_part (by simp)]
    exact Dev.belowWarning_begins (d := s.dev.inputIs mv) h0
  case recovered =>
    change execRecoveryIntervalEnd s = _
    exact run_gives rfl (if_neg (not_not.2 h))
  case drainReset => exact (exec_warmReset s).trans (State.gives_congr (Dev.endDrain_reset h hb))
  case drainTrip => exact (exec_warmReset s).trans (State.gives_congr (Dev.endDrain_trip h hb))
  case drainPowerDown => exact (exec_warmReset s).trans (State.gives_congr (Dev.endDrain_powerDown h hi))
  case restLost => exact ⟨_, exec_suddenInputLoss_rest h, rfl⟩
  case powerLost =>
    refine ⟨_, exec_suddenInputLoss h, ?_⟩
    rw [State.onDev_dev_of_part rfl]
    exact ⟨s.dev.powerOff_stage, rfl, rfl, s.dev.powerOff_trip, rfl, rfl, rfl, fun n _ => ⟨s.dev.powerOff_loc n, rfl, rfl⟩⟩

end Sys2Proof.Machine
end

section
namespace Sys2Proof.Machine

/-! ## The fields of the words that the formats form (Tables 3.4, 3.5) -/

/-- A field of a word given as a number is that number's bits there. -/
theorem extract_ofNat {x k n : Nat} {v : BitVec n} (hk : k + n ≤ 64) (hx : x / 2 ^ k % 2 ^ n = v.toNat) :
    (BitVec.ofNat 64 x).extractLsb' k n = v := by
  refine BitVec.eq_of_toNat_eq ?_
  rw [BitVec.extractLsb'_toNat, BitVec.toNat_ofNat, Nat.shiftRight_eq_div_pow, ← hx]
  have h64 : 2 ^ 64 = 2 ^ k * 2 ^ (64 - k) := by rw [← pow_add, Nat.add_sub_cancel' (by omega)]
  rw [h64, Nat.mod_mul_right_div_self]
  exact Nat.mod_mod_of_dvd _ (pow_dvd_pow 2 (by omega))
/-- The number that a field of a word is. -/
theorem extract_ofNat_toNat {x k n m : Nat} (hk : k + n ≤ 64) (hm : m < 2 ^ n) (hx : x / 2 ^ k % 2 ^ n = m) :
    ((BitVec.ofNat 64 x).extractLsb' k n).toNat = m := by
  have hv : (BitVec.ofNat n m).toNat = m := by simp [Nat.mod_eq_of_lt hm]
  rw [extract_ofNat hk (hx.trans hv.symm), hv]

section
variable {op k : Nat}

@[simp] theorem opOf_encRR (f : FmtRR) (h : op < 128) : opOf (encRR op k f) = op :=
  extract_ofNat_toNat (by decide) h (by omega)
@[simp] theorem opOf_encRI (f : FmtRI) (h : op < 128) : opOf (encRI op f) = op :=
  extract_ofNat_toNat (by decide) h (by omega)
@[simp] theorem opOf_encUI (f : FmtUI) (h : op < 128) : opOf (encUI op f) = op :=
  extract_ofNat_toNat (by decide) h (by omega)
@[simp] theorem opOf_encMB (f : FmtMB) (h : op < 128) : opOf (encMB op f) = op :=
  extract_ofNat_toNat (by decide) h (by omega)
@[simp] theorem opOf_encMA (f : FmtMA) (h : op < 128) : opOf (encMA op k f) = op :=
  extract_ofNat_toNat (by decide) h (by omega)
@[simp] theorem opOf_encBR (f : FmtBR) : opOf (encBR k f) = 0x28 :=
  extract_ofNat_toNat (by decide) (by decide) (by omega)
@[simp] theorem opOf_encJL (f : FmtJL) : opOf (encJL f) = 0x2A :=
  extract_ofNat_toNat (by decide) (by decide) (by omega)
@[simp] theorem opOf_encSY (f : FmtSY) : opOf (encSY k f) = 0x2E :=
  extract_ofNat_toNat (by decide) (by decide) (by omega)
@[simp] theorem opOf_encTK (f : FmtTK) (h : op < 128) : opOf (encTK op k f) = op :=
  extract_ofNat_toNat (by decide) h (by omega)

@[simp] theorem asRR_encRR (f : FmtRR) (h : op < 128) : asRR (encRR op k f) = f := by
  obtain ⟨rd, rs1, rs2⟩ := f
  simp only [asRR, encRR, FmtRR.mk.injEq]
  exact ⟨extract_ofNat (by decide) (by omega), extract_ofNat (by decide) (by omega), extract_ofNat (by decide) (by omega)⟩
@[simp] theorem asRI_encRI (f : FmtRI) (h : op < 128) : asRI (encRI op f) = f := by
  obtain ⟨rd, rs1, imm⟩ := f
  simp only [asRI, encRI, FmtRI.mk.injEq]
  exact ⟨extract_ofNat (by decide) (by omega), extract_ofNat (by decide) (by omega), extract_ofNat (by decide) (by omega)⟩
@[simp] theorem asUI_encUI (f : FmtUI) (h : op < 128) : asUI (encUI op f) = f := by
  obtain ⟨rd, imm⟩ := f
  simp only [asUI, encUI, FmtUI.mk.injEq]
  exact ⟨extract_ofNat (by decide) (by omega), extract_ofNat (by decide) (by omega)⟩
@[simp] theorem asMB_encMB (f : FmtMB) (h : op < 128) : asMB (encMB op f) = f := by
  obtain ⟨rd, rs1, size, imm⟩ := f
  simp only [asMB, encMB, FmtMB.mk.injEq]
  exact ⟨extract_ofNat (by decide) (by omega), extract_ofNat (by decide) (by omega), extract_ofNat (by decide) (by omega),
    extract_ofNat (by decide) (by omega)⟩
@[simp] theorem asMA_encMA (f : FmtMA) (h : op < 128) : asMA (encMA op k f) = f := by
  obtain ⟨rd, rs1, rs2, sz, mark, scope⟩ := f
  simp only [asMA, encMA, FmtMA.mk.injEq]
  exact ⟨extract_ofNat (by decide) (by omega), extract_ofNat (by decide) (by omega), extract_ofNat (by decide) (by omega),
    extract_ofNat (by decide) (by omega), extract_ofNat (by decide) (by omega), extract_ofNat (by decide) (by omega)⟩
@[simp] theorem asBR_encBR (f : FmtBR) (h : k < 8) : asBR (encBR k f) = f := by
  obtain ⟨rs1, rs2, off⟩ := f
  simp only [asBR, encBR, FmtBR.mk.injEq]
  exact ⟨extract_ofNat (by decide) (by omega), extract_ofNat (by decide) (by omega), extract_ofNat (by decide) (by omega)⟩
@[simp] theorem asJL_encJL (f : FmtJL) : asJL (encJL f) = f := by
  obtain ⟨rd, off⟩ := f
  simp only [asJL, encJL, FmtJL.mk.injEq]
  exact ⟨extract_ofNat (by decide) (by omega), extract_ofNat (by decide) (by omega)⟩
@[simp] theorem asSY_encSY (f : FmtSY) (h : k < 16) : asSY (encSY k f) = f := by
  obtain ⟨rd, rs1, sys⟩ := f
  simp only [asSY, encSY, FmtSY.mk.injEq]
  exact ⟨extract_ofNat (by decide) (by omega), extract_ofNat (by decide) (by omega), extract_ofNat (by decide) (by omega)⟩
@[simp] theorem asTK_encTK (f : FmtTK) (h : op < 128) (hk : k < 8) : asTK (encTK op k f) = f := by
  obtain ⟨ra, tok, rsv⟩ := f
  simp only [asTK, encTK, FmtTK.mk.injEq]
  exact ⟨extract_ofNat (by decide) (by omega), extract_ofNat (by decide) (by omega), extract_ofNat (by decide) (by omega)⟩

/-! The selectors. -/
@[simp] theorem funct7_encRR (f : FmtRR) (h : op < 128) (hk : k < 128) : ((encRR op k f).extractLsb' 25 7).toNat = k :=
  extract_ofNat_toNat (by decide) hk (by omega)
@[simp] theorem sub_encMA (f : FmtMA) (h : op < 128) (hk : k < 4) : ((encMA op k f).extractLsb' 30 2).toNat = k :=
  extract_ofNat_toNat (by decide) hk (by omega)
@[simp] theorem cond_encBR (f : FmtBR) (hk : k < 8) : ((encBR k f).extractLsb' 7 3).toNat = k :=
  extract_ofNat_toNat (by decide) hk (by omega)
@[simp] theorem fn4_encSY (f : FmtSY) (hk : k < 16) : ((encSY k f).extractLsb' 19 4).toNat = k :=
  extract_ofNat_toNat (by decide) hk (by omega)
@[simp] theorem fn3_encTK (f : FmtTK) (h : op < 128) (hk : k < 8) : ((encTK op k f).extractLsb' 19 3).toNat = k :=
  extract_ofNat_toNat (by decide) hk (by omega)

/-! The 64-bit words, each as one number. -/
theorem wordGL_eq (f : FmtGL) : wordGL op k f = BitVec.ofNat 64
    (op + f.gd.toNat * 2 ^ 7 + f.pred.toNat * 2 ^ 8 + f.neg.toNat * 2 ^ 11 + f.vd.toNat * 2 ^ 12 + f.va.toNat * 2 ^ 20
      + f.vb.toNat * 2 ^ 28 + f.vc.toNat * 2 ^ 36 + k * 2 ^ 44 + f.ty.toNat * 2 ^ 52 + f.rnd.toNat * 2 ^ 56 + f.ub.toNat * 2 ^ 59
      + f.rsv.toNat * 2 ^ 60) := by
  rw [wordGL, encGL, ← BitVec.ofNat_add]
  exact congrArg _ (by omega)
theorem wordGM_eq (f : FmtGM) : wordGM op f = BitVec.ofNat 64
    (op + f.gd.toNat * 2 ^ 7 + f.pred.toNat * 2 ^ 8 + f.neg.toNat * 2 ^ 11 + f.vd.toNat * 2 ^ 12 + f.va.toNat * 2 ^ 20
      + f.ubase.toNat * 2 ^ 28 + f.size.toNat * 2 ^ 34 + f.mark.toNat * 2 ^ 37 + f.scope.toNat * 2 ^ 39 + f.aop.toNat * 2 ^ 41
      + f.imm.toNat * 2 ^ 45) := by
  rw [wordGM, encGM, ← BitVec.ofNat_add]
  exact congrArg _ (by omega)
theorem wordGC_eq (f : FmtGC) : wordGC k f = BitVec.ofNat 64
    (0x11 + f.gd.toNat * 2 ^ 7 + f.pred.toNat * 2 ^ 8 + f.neg.toNat * 2 ^ 11 + k * 2 ^ 12 + f.rsv.toNat * 2 ^ 16
      + f.off.toNat * 2 ^ 32) := by
  rw [wordGC, encGC, ← BitVec.ofNat_add]
  exact congrArg _ (by omega)

@[simp] theorem opOf_wordGL (f : FmtGL) (h : op < 128) : opOf (wordGL op k f) = op := by
  rw [wordGL_eq]
  exact extract_ofNat_toNat (by decide) h (by omega)
@[simp] theorem opOf_wordGM (f : FmtGM) (h : op < 128) : opOf (wordGM op f) = op := by
  rw [wordGM_eq]
  exact extract_ofNat_toNat (by decide) h (by omega)
@[simp] theorem opOf_wordGC (f : FmtGC) : opOf (wordGC k f) = 0x11 := by
  rw [wordGC_eq]
  exact extract_ofNat_toNat (by decide) (by decide) (by omega)
@[simp] theorem fn_wordGL (f : FmtGL) (h : op < 128) (hk : k < 256) : ((wordGL op k f).extractLsb' 44 8).toNat = k := by
  rw [wordGL_eq]
  exact extract_ofNat_toNat (by decide) hk (by omega)
@[simp] theorem aop_wordGM (f : FmtGM) (h : op < 128) : (wordGM op f).extractLsb' 41 4 = f.aop := by
  rw [wordGM_eq]
  exact extract_ofNat (by decide) (by omega)
@[simp] theorem fn_wordGC (f : FmtGC) (hk : k < 16) : ((wordGC k f).extractLsb' 12 4).toNat = k := by
  rw [wordGC_eq]
  exact extract_ofNat_toNat (by decide) hk (by omega)
@[simp] theorem asGL_wordGL (f : FmtGL) (h : op < 128) (hk : k < 256) : asGL (wordGL op k f) = f := by
  rw [wordGL_eq]
  obtain ⟨vd, va, vb, vc, ty, rnd, ub, gd, pred, neg, rsv⟩ := f
  simp only [asGL, FmtGL.mk.injEq]
  refine ⟨?_, ?_, ?_, ?_, ?_, ?_, ?_, ?_, ?_, ?_, ?_⟩ <;> exact extract_ofNat (by decide) (by omega)
@[simp] theorem asGM_wordGM (f : FmtGM) (h : op < 128) : asGM (wordGM op f) = f := by
  rw [wordGM_eq]
  obtain ⟨vd, va, ubase, imm, size, mark, scope, aop, gd, pred, neg⟩ := f
  simp only [asGM, FmtGM.mk.injEq]
  refine ⟨?_, ?_, ?_, ?_, ?_, ?_, ?_, ?_, ?_, ?_, ?_⟩ <;> exact extract_ofNat (by decide) (by omega)
@[simp] theorem asGC_wordGC (f : FmtGC) (hk : k < 16) : asGC (wordGC k f) = f := by
  rw [wordGC_eq]
  obtain ⟨off, gd, pred, neg, rsv⟩ := f
  simp only [asGC, FmtGC.mk.injEq]
  refine ⟨?_, ?_, ?_, ?_, ?_⟩ <;> exact extract_ofNat (by decide) (by omega)

end

end Sys2Proof.Machine
end

section
namespace Sys2Proof.Machine

/-! ## What a word decodes to, by its OP (Table 3.10) -/

section
variable (a : Agent) (s10 : Word) {w : Word}

theorem decodeInstr_op02 (h : opOf w = 0x02) :
    decodeInstr a s10 w = rowRR a (w.extractLsb' 25 7).toNat (asRR w) := by
  simp only [decodeInstr, h]
theorem decodeInstr_op20 (h : opOf w = 0x20) :
    decodeInstr a s10 w = rowMA20 a (w.extractLsb' 30 2).toNat (asMA w) := by
  simp only [decodeInstr, h]
theorem decodeInstr_op22 (h : opOf w = 0x22) :
    decodeInstr a s10 w = rowMA22 a (w.extractLsb' 30 2).toNat (asMA w) := by
  simp only [decodeInstr, h]
theorem decodeInstr_op24 (h : opOf w = 0x24) :
    decodeInstr a s10 w = rowMA24 a (w.extractLsb' 30 2).toNat (asMA w) := by
  simp only [decodeInstr, h]
theorem decodeInstr_op26 (h : opOf w = 0x26) :
    decodeInstr a s10 w = rowMA26 a (w.extractLsb' 30 2).toNat (asMA w) := by
  simp only [decodeInstr, h]
theorem decodeInstr_op28 (h : opOf w = 0x28) :
    decodeInstr a s10 w = rowBR a (w.extractLsb' 7 3).toNat (asBR w) := by
  simp only [decodeInstr, h]
theorem decodeInstr_op2E (h : opOf w = 0x2E) :
    decodeInstr a s10 w = rowSY a s10 (w.extractLsb' 19 4).toNat (asSY w) := by
  simp only [decodeInstr, h]
theorem decodeInstr_op32 (h : opOf w = 0x32) :
    decodeInstr a s10 w = rowTK32 a (w.extractLsb' 19 3).toNat (asTK w) := by
  simp only [decodeInstr, h]
theorem decodeInstr_op34 (h : opOf w = 0x34) :
    decodeInstr a s10 w = rowTK34 a (w.extractLsb' 19 3).toNat (asTK w) := by
  simp only [decodeInstr, h]
theorem decodeInstr_op01 (h : opOf w = 0x01) :
    decodeInstr a s10 w = rowGL1 a (w.extractLsb' 44 8).toNat (asGL w) := by
  simp only [decodeInstr, h]
theorem decodeInstr_op03 (h : opOf w = 0x03) :
    decodeInstr a s10 w = rowGL3 a (w.extractLsb' 44 8).toNat (asGL w) := by
  simp only [decodeInstr, h]
theorem decodeInstr_op05 (h : opOf w = 0x05) :
    decodeInstr a s10 w = rowGL5 a (w.extractLsb' 44 8).toNat (asGL w) := by
  simp only [decodeInstr, h]
theorem decodeInstr_op07 (h : opOf w = 0x07) :
    decodeInstr a s10 w = rowGL7 a (w.extractLsb' 44 8).toNat (asGL w) := by
  simp only [decodeInstr, h]
theorem decodeInstr_op0F (h : opOf w = 0x0F) :
    decodeInstr a s10 w = rowGMF a (w.extractLsb' 41 4).toNat (asGM w) := by
  simp only [decodeInstr, h]
theorem decodeInstr_op11 (h : opOf w = 0x11) :
    decodeInstr a s10 w = rowGC a (w.extractLsb' 12 4).toNat (asGC w) := by
  simp only [decodeInstr, h]
theorem decodeInstr_op04 (h : opOf w = 0x04) : decodeInstr a s10 w = some (.addi a (asRI w)) := by
  simp only [decodeInstr, h]
theorem decodeInstr_op06 (h : opOf w = 0x06) : decodeInstr a s10 w = some (.andi a (asRI w)) := by
  simp only [decodeInstr, h]
theorem decodeInstr_op08 (h : opOf w = 0x08) : decodeInstr a s10 w = some (.ori a (asRI w)) := by
  simp only [decodeInstr, h]
theorem decodeInstr_op0A (h : opOf w = 0x0A) : decodeInstr a s10 w = some (.xori a (asRI w)) := by
  simp only [decodeInstr, h]
theorem decodeInstr_op0C (h : opOf w = 0x0C) : decodeInstr a s10 w = some (.slti a (asRI w)) := by
  simp only [decodeInstr, h]
theorem decodeInstr_op0E (h : opOf w = 0x0E) : decodeInstr a s10 w = some (.sltiu a (asRI w)) := by
  simp only [decodeInstr, h]
theorem decodeInstr_op10 (h : opOf w = 0x10) : decodeInstr a s10 w = some (.slli a (asRI w)) := by
  simp only [decodeInstr, h]
theorem decodeInstr_op12 (h : opOf w = 0x12) : decodeInstr a s10 w = some (.srli a (asRI w)) := by
  simp only [decodeInstr, h]
theorem decodeInstr_op14 (h : opOf w = 0x14) : decodeInstr a s10 w = some (.srai a (asRI w)) := by
  simp only [decodeInstr, h]
theorem decodeInstr_op16 (h : opOf w = 0x16) : decodeInstr a s10 w = some (.cstM a (asUI w)) := by
  simp only [decodeInstr, h]
theorem decodeInstr_op18 (h : opOf w = 0x18) : decodeInstr a s10 w = some (.cstH a (asUI w)) := by
  simp only [decodeInstr, h]
theorem decodeInstr_op36 (h : opOf w = 0x36) : decodeInstr a s10 w = some (.cstPc a (asUI w)) := by
  simp only [decodeInstr, h]
theorem decodeInstr_op1A (h : opOf w = 0x1A) : decodeInstr a s10 w = some (.ld a (asMB w) false) := by
  simp only [decodeInstr, h]
theorem decodeInstr_op1C (h : opOf w = 0x1C) : decodeInstr a s10 w = some (.st a (asMB w)) := by
  simp only [decodeInstr, h]
theorem decodeInstr_op1E (h : opOf w = 0x1E) : decodeInstr a s10 w = some (.ldRo a (asMB w)) := by
  simp only [decodeInstr, h]
theorem decodeInstr_op2A (h : opOf w = 0x2A) : decodeInstr a s10 w = some (.jal a (asJL w)) := by
  simp only [decodeInstr, h]
theorem decodeInstr_op2C (h : opOf w = 0x2C) : decodeInstr a s10 w = some (.jalr a (asRI w)) := by
  simp only [decodeInstr, h]
theorem decodeInstr_op09 (h : opOf w = 0x09) : decodeInstr a s10 w = some (.vLd a (asGM w)) := by
  simp only [decodeInstr, h]
theorem decodeInstr_op0B (h : opOf w = 0x0B) : decodeInstr a s10 w = some (.vSt a (asGM w)) := by
  simp only [decodeInstr, h]
theorem decodeInstr_op0D (h : opOf w = 0x0D) : decodeInstr a s10 w = some (.vLdRo a (asGM w)) := by
  simp only [decodeInstr, h]

/-- A word whose OP Table 3.10 does not list is no instruction (R76). -/
theorem decodeInstr_unlisted (h : opOf w ∉ [0x01, 0x02, 0x03, 0x04, 0x05, 0x06, 0x07, 0x08, 0x09, 0x0A, 0x0B, 0x0C, 0x0D,
    0x0E, 0x0F, 0x10, 0x11, 0x12, 0x14, 0x16, 0x18, 0x1A, 0x1C, 0x1E, 0x20, 0x22, 0x24, 0x26, 0x28, 0x2A, 0x2C, 0x2E, 0x32, 0x34,
    0x36]) : decodeInstr a s10 w = none := by
  unfold decodeInstr
  split
  case h_36 => rfl
  all_goals
    rename_i hop
    rw [hop] at h
    exact absurd (by decide) h

end

end Sys2Proof.Machine
end

section
namespace Sys2Proof.Machine

/-! ## Each format's words are the row of their selector -/

section
variable (a : Agent) (s10 : Word) {k : Nat}

theorem decode_encRR (f : FmtRR) (hk : k < 128) : decodeInstr a s10 (encRR 0x02 k f) = rowRR a k f := by
  rw [decodeInstr_op02 _ _ (opOf_encRR f (by decide)), funct7_encRR f (by decide) hk, asRR_encRR f (by decide)]
theorem decode_encMA20 (f : FmtMA) (hk : k < 4) : decodeInstr a s10 (encMA 0x20 k f) = rowMA20 a k f := by
  rw [decodeInstr_op20 _ _ (opOf_encMA f (by decide)), sub_encMA f (by decide) hk, asMA_encMA f (by decide)]
theorem decode_encMA22 (f : FmtMA) (hk : k < 4) : decodeInstr a s10 (encMA 0x22 k f) = rowMA22 a k f := by
  rw [decodeInstr_op22 _ _ (opOf_encMA f (by decide)), sub_encMA f (by decide) hk, asMA_encMA f (by decide)]
theorem decode_encMA24 (f : FmtMA) (hk : k < 4) : decodeInstr a s10 (encMA 0x24 k f) = rowMA24 a k f := by
  rw [decodeInstr_op24 _ _ (opOf_encMA f (by decide)), sub_encMA f (by decide) hk, asMA_encMA f (by decide)]
theorem decode_encMA26 (f : FmtMA) (hk : k < 4) : decodeInstr a s10 (encMA 0x26 k f) = rowMA26 a k f := by
  rw [decodeInstr_op26 _ _ (opOf_encMA f (by decide)), sub_encMA f (by decide) hk, asMA_encMA f (by decide)]
theorem decode_encBR (f : FmtBR) (hk : k < 8) : decodeInstr a s10 (encBR k f) = rowBR a k f := by
  rw [decodeInstr_op28 _ _ (opOf_encBR f), cond_encBR f hk, asBR_encBR f hk]
theorem decode_encSY (f : FmtSY) (hk : k < 16) : decodeInstr a s10 (encSY k f) = rowSY a s10 k f := by
  rw [decodeInstr_op2E _ _ (opOf_encSY f), fn4_encSY f hk, asSY_encSY f hk]
theorem decode_encTK32 (f : FmtTK) (hk : k < 8) : decodeInstr a s10 (encTK 0x32 k f) = rowTK32 a k f := by
  rw [decodeInstr_op32 _ _ (opOf_encTK f (by decide)), fn3_encTK f (by decide) hk, asTK_encTK f (by decide) hk]
theorem decode_encTK34 (f : FmtTK) (hk : k < 8) : decodeInstr a s10 (encTK 0x34 k f) = rowTK34 a k f := by
  rw [decodeInstr_op34 _ _ (opOf_encTK f (by decide)), fn3_encTK f (by decide) hk, asTK_encTK f (by decide) hk]
theorem decode_wordGL1 (f : FmtGL) (hk : k < 256) : decodeInstr a s10 (wordGL 0x01 k f) = rowGL1 a k f := by
  rw [decodeInstr_op01 _ _ (opOf_wordGL f (by decide)), fn_wordGL f (by decide) hk, asGL_wordGL f (by decide) hk]
theorem decode_wordGL3 (f : FmtGL) (hk : k < 256) : decodeInstr a s10 (wordGL 0x03 k f) = rowGL3 a k f := by
  rw [decodeInstr_op03 _ _ (opOf_wordGL f (by decide)), fn_wordGL f (by decide) hk, asGL_wordGL f (by decide) hk]
theorem decode_wordGL5 (f : FmtGL) (hk : k < 256) : decodeInstr a s10 (wordGL 0x05 k f) = rowGL5 a k f := by
  rw [decodeInstr_op05 _ _ (opOf_wordGL f (by decide)), fn_wordGL f (by decide) hk, asGL_wordGL f (by decide) hk]
theorem decode_wordGL7 (f : FmtGL) (hk : k < 256) : decodeInstr a s10 (wordGL 0x07 k f) = rowGL7 a k f := by
  rw [decodeInstr_op07 _ _ (opOf_wordGL f (by decide)), fn_wordGL f (by decide) hk, asGL_wordGL f (by decide) hk]
theorem decode_wordGMF (f : FmtGM) : decodeInstr a s10 (wordGM 0x0F f) = rowGMF a f.aop.toNat f := by
  rw [decodeInstr_op0F _ _ (opOf_wordGM f (by decide)), aop_wordGM f (by decide), asGM_wordGM f (by decide)]
theorem decode_wordGC (f : FmtGC) (hk : k < 16) : decodeInstr a s10 (wordGC k f) = rowGC a k f := by
  rw [decodeInstr_op11 _ _ (opOf_wordGC f), fn_wordGC f hk, asGC_wordGC f hk]

end

/-- Settles O6: each format's fields stand apart in its word, so that OP, the selector and every operand are read back, and the
row of OP and selector is the instruction's. -/
theorem wordsDecode : Obligations.WordsDecode := by
  intro a s10
  refine ⟨fun f => ?rr, fun f => ?ri, fun f => ?ui, fun f => ?mb, fun f => ?ma20, fun f => ?ma22, fun f => ?ma24, fun f => ?ma26,
    fun f => ?br, fun f => ?jl, fun f => ?sy, fun f => ?fence, fun f => ?ecall, fun f => ?tk32, fun f => ?tk34, fun f => ?gl1,
    fun f => ?gl3, fun f => ?gl5, fun f => ?gl7, fun f => ?gm, fun f => ?atom, fun f => ?gc, fun w => decodeInstr_unlisted a s10, rfl⟩
  case rr => simp [decode_encRR, rowRR]
  case ri =>
    simp [decodeInstr_op04, decodeInstr_op06, decodeInstr_op08, decodeInstr_op0A, decodeInstr_op0C, decodeInstr_op0E,
      decodeInstr_op10, decodeInstr_op12, decodeInstr_op14, decodeInstr_op2C]
  case ui => simp [decodeInstr_op16, decodeInstr_op18, decodeInstr_op36]
  case mb => simp [decodeInstr_op1A, decodeInstr_op1C, decodeInstr_op1E]
  case ma20 => simp [decode_encMA20, rowMA20]
  case ma22 => simp [decode_encMA22, rowMA22]
  case ma24 => simp [decode_encMA24, rowMA24]
  case ma26 => simp [decode_encMA26, rowMA26]
  case br => simp [decode_encBR, rowBR]
  case jl => simp [decodeInstr_op2A]
  case sy => simp [decode_encSY, rowSY]
  case fence => simp +contextual [decode_encSY, rowSY]
  case ecall => exact decode_encSY a s10 f (by decide)
  case tk32 => simp [decode_encTK32, rowTK32]
  case tk34 => simp [decode_encTK34, rowTK34]
  case gl1 => simp [decode_wordGL1, rowGL1]
  case gl3 => simp [decode_wordGL3, rowGL3]
  case gl5 => simp [decode_wordGL5, rowGL5]
  case gl7 => simp [decode_wordGL7, rowGL7]
  case gm => simp [decodeInstr_op09, decodeInstr_op0B, decodeInstr_op0D]
  case atom => simp +contextual [decode_wordGMF, rowGMF]
  case gc => simp [decode_wordGC, rowGC]

end Sys2Proof.Machine
end

section
namespace Sys2Proof.Machine

/-! ## The trap of a Guest's scalar access outside what it may reach (R30, R79, R206, R214) -/

section
variable {d : Dev} {a : Agent} {k : Acc} {marked : Bool} {addr n : Nat}

theorem inDevSpace_iff : inDevSpace addr = true ↔ devBase ≤ addr ∧ addr < devBase + devSize := by simp [inDevSpace]
theorem Dev.inShare_eq_false {ctx : Nat} :
    d.inShare ctx addr n = false ↔ addr < (d.share ctx).1 ∨ (d.share ctx).2 < addr + n ∨ keeperArea < addr + n := by
  simp only [Dev.inShare, Bool.and_eq_false_iff, decide_eq_false_iff_not]
  omega

/-- The device register space is the Keeper's (R79). -/
theorem Dev.accessTrap_guest_devSpace (hg : d.level a = .guest) (hd : inDevSpace addr = true) :
    d.accessTrap a k marked false addr n = some cPRIVILEGE := by
  simp [Dev.accessTrap, hg, if_pos (inDevSpace_iff.1 hd)]
/-- Local outside the share, or in the Keeper area, where the access is not a load of the command slot (R206). -/
theorem Dev.accessTrap_guest_local (hg : d.level a = .guest) (hn : addr % n = 0) (hl : addr < localSize)
    (hs : d.inShare (d.cl a.cluster).s.ctx.toNat addr n = false)
    (hk : k = .load ∨ k = .loadRo → ¬((d.cl a.cluster).s.cmd.toNat ≤ addr ∧ addr + n ≤ (d.cl a.cluster).s.cmd.toNat + 64)) :
    d.accessTrap a k marked false addr n = some cUNMAPPED := by
  have hd : ¬(devBase ≤ addr ∧ addr < devBase + devSize) := by
    simp only [devBase, localSize] at *
    omega
  have hno : ¬((k = .load ∨ k = .loadRo) ∧ (d.cl a.cluster).s.cmd.toNat ≤ addr ∧ addr + n ≤ (d.cl a.cluster).s.cmd.toNat + 64) :=
    fun h => hk h.1 h.2
  simp only [Dev.accessTrap, if_neg hd, hn, hl, hg, hs]
  simpa using by grind
/-- Between Local and the Commons there is nothing (R29, R30). -/
theorem Dev.accessTrap_gap (hn : addr % n = 0) (hl : localSize ≤ addr) (hc : addr < commonsBase) :
    d.accessTrap a k marked false addr n = some cUNMAPPED := by
  have hd : ¬(devBase ≤ addr ∧ addr < devBase + devSize) := by
    simp only [devBase, commonsBase] at *
    omega
  simp [Dev.accessTrap, if_neg hd, hn, Nat.not_lt.2 hl, Nat.not_le.2 hc]
/-- A Commons address in no active store partition (R214). -/
theorem Dev.accessTrap_commons_unmapped (hn : addr % n = 0) (hc : commonsBase ≤ addr) (hb : addr < devBase)
    (hp : d.partAt addr = none) : d.accessTrap a k marked false addr n = some cUNMAPPED := by
  have hl : ¬addr < localSize := by
    simp only [commonsBase, localSize] at *
    omega
  simp [Dev.accessTrap, Nat.not_le.2 hb, hn, hl, hp]
/-- A Commons address in a partition of another function that is not shared (R214). -/
theorem Dev.accessTrap_commons_foreign (hg : d.level a = .guest) (hn : addr % n = 0) (hc : commonsBase ≤ addr) (hb : addr < devBase)
    {p : Nat} (hp : d.partAt addr = some p) (hf : d.partFunc p ≠ (d.cl a.cluster).s.func.toNat) (hr : d.partRo p = false) :
    d.accessTrap a k marked false addr n = some cUNMAPPED := by
  have hl : ¬addr < localSize := by
    simp only [commonsBase, localSize] at *
    omega
  simp [Dev.accessTrap, Nat.not_le.2 hb, hn, hl, hp, hg, hf, hr]

/-- Every aligned access of a Guest to memory that is closed to it (R206, R214) takes ADDRESS_UNMAPPED. -/
theorem Dev.accessTrap_closed (hg : d.level a = .guest) (load : Bool) (hk : k = .load ∨ k = .loadRo → load = true)
    (h : addr % n = 0 ∧
      ((addr < localSize ∧ (addr < (d.share (d.cl a.cluster).s.ctx.toNat).1 ∨
            (d.share (d.cl a.cluster).s.ctx.toNat).2 < addr + n ∨ keeperArea < addr + n) ∧
          (load = true → ¬((d.cl a.cluster).s.cmd.toNat ≤ addr ∧ addr + n ≤ (d.cl a.cluster).s.cmd.toNat + 64))) ∨
        (localSize ≤ addr ∧ addr < commonsBase) ∨ (commonsBase ≤ addr ∧ addr < devBase ∧ d.partAt addr = none) ∨
        (commonsBase ≤ addr ∧ addr < devBase ∧ ∃ p, d.partAt addr = some p ∧
          d.partFunc p ≠ (d.cl a.cluster).s.func.toNat ∧ d.partRo p = false))) :
    d.accessTrap a k marked false addr n = some cUNMAPPED := by
  obtain ⟨hn, ⟨hl, hs, hc⟩ | ⟨hl, hc⟩ | ⟨hc, hb, hp⟩ | ⟨hc, hb, p, hp, hf, hr⟩⟩ := h
  · exact Dev.accessTrap_guest_local hg hn hl (Dev.inShare_eq_false.2 hs) fun h => hc (hk h)
  · exact Dev.accessTrap_gap hn hl hc
  · exact Dev.accessTrap_commons_unmapped hn hc hb hp
  · exact Dev.accessTrap_commons_foreign hg hn hc hb hp hf hr

end

/-! ## A scalar access whose address traps takes that trap and does nothing else (R81) -/

theorem opLoad_trap {d : Dev} {a : Agent} {rd addr n c : Nat} {signed : Bool} {k : LoadKind} {marked : Bool}
    (h : d.accessTrap a (if k.ro then .loadRo else .load) marked false addr n = some c) :
    opLoad a rd addr n signed k marked d = .trap c (BitVec.ofNat 64 addr) := by
  simp only [opLoad, h]
theorem opStore_trap {d : Dev} {a : Agent} {rs2 addr n c : Nat} {relSy marked : Bool}
    (h : d.accessTrap a .store marked false addr n = some c) :
    opStore a rs2 addr n relSy marked d = .trap c (BitVec.ofNat 64 addr) := by
  simp only [opStore, h]

/-- Without a parity error `ld` is an instruction as any other. -/
theorem exec_ld (a : Agent) (f : FmtMB) (s : State) : exec (.ld a f false) s = instr4 a s fun d =>
    if f.size = 7 then .trap cILLEGAL (encMB 0x1A f)
    else opLoad a f.rd.toNat (d.addrMB a f) (sizeBytes f.size.toNat) (decide (f.size.toNat < 4))
      { ro := false, plain := true, acqSy := false, len := 4 } (decide (sizeBytes f.size.toNat < 4)) d := rfl

section
variable {s : State} {a : Agent} (h : s.canIssue a) {c : Nat}
include h

theorem exec_ld_trap {f : FmtMB} (hz : f.size ≠ 7)
    (ht : s.dev.accessTrap a .load (decide (sizeBytes f.size.toNat < 4)) false (s.dev.addrMB a f) (sizeBytes f.size.toNat) = some c) :
    exec (.ld a f false) s = s.gives fun d => d.trapped a c (BitVec.ofNat 64 (s.dev.addrMB a f)) :=
  (exec_ld a f s).trans (instr4_out h ((if_neg hz).trans (opLoad_trap ht)) _ rfl)
theorem exec_ldRo_trap {f : FmtMB} (hz : f.size ≠ 7)
    (ht : s.dev.accessTrap a .loadRo true false (s.dev.addrMB a f) (sizeBytes f.size.toNat) = some c) :
    exec (.ldRo a f) s = s.gives fun d => d.trapped a c (BitVec.ofNat 64 (s.dev.addrMB a f)) :=
  instr4_out h ((if_neg hz).trans (opLoad_trap ht)) _ rfl
theorem exec_st_trap {f : FmtMB} (hz : f.size.toNat < 4)
    (ht : s.dev.accessTrap a .store (decide (sizeBytes f.size.toNat < 4)) false (s.dev.addrMB a f) (sizeBytes f.size.toNat) = some c) :
    exec (.st a f) s = s.gives fun d => d.trapped a c (BitVec.ofNat 64 (s.dev.addrMB a f)) :=
  instr4_out h ((if_neg (Nat.not_le.2 hz)).trans (opStore_trap ht)) _ rfl

variable {f : FmtMA}
theorem exec_ldAcq_trap (hm : marksOk true false f.mark f.scope = true)
    (ht : s.dev.accessTrap a .load true false (s.dev.addrMA a f) (szBytes f.sz) = some c) :
    exec (.ldAcq a f) s = s.gives fun d => d.trapped a c (BitVec.ofNat 64 (s.dev.addrMA a f)) :=
  instr4_out h ((if_pos hm).trans (opLoad_trap ht)) _ rfl
theorem exec_stRel_trap (hm : marksOk false true f.mark f.scope = true)
    (ht : s.dev.accessTrap a .store true false (s.dev.addrMA a f) (szBytes f.sz) = some c) :
    exec (.stRel a f) s = s.gives fun d => d.trapped a c (BitVec.ofNat 64 (s.dev.addrMA a f)) :=
  instr4_out h ((if_pos hm).trans (opStore_trap ht)) _ rfl
theorem exec_ldResv_trap (hm : marksOk true false f.mark f.scope = true)
    (ht : s.dev.accessTrap a .load true false (s.dev.addrMA a f) (szBytes f.sz) = some c) :
    exec (.ldResv a f) s = s.gives fun d => d.trapped a c (BitVec.ofNat 64 (s.dev.addrMA a f)) :=
  instr4_out (o := .trap c (BitVec.ofNat 64 (s.dev.addrMA a f))) h (by simp [hm, ht]) _ rfl
theorem exec_stCond_trap (hm : marksOk false true f.mark f.scope = true)
    (ht : s.dev.accessTrap a .store true false (s.dev.addrMA a f) (szBytes f.sz) = some c) :
    exec (.stCond a f) s = s.gives fun d => d.trapped a c (BitVec.ofNat 64 (s.dev.addrMA a f)) :=
  instr4_out (o := .trap c (BitVec.ofNat 64 (s.dev.addrMA a f))) h (by simp [hm, ht]) _ rfl
theorem opAmo_trap {op sub : Nat} {fn : AmoFn} (hm : marksOk true true f.mark f.scope = true)
    (ht : s.dev.accessTrap a .atomic true false (s.dev.addrMA a f) (szBytes f.sz) = some c) :
    opAmo a f op sub fn s = s.gives fun d => d.trapped a c (BitVec.ofNat 64 (s.dev.addrMA a f)) :=
  instr4_out (o := .trap c (BitVec.ofNat 64 (s.dev.addrMA a f))) h (by simp [hm, ht]) _ rfl

end

/-- The scalar atomics are one operation with eleven functions (Table 3.11). -/
theorem exec_amo_mem {a : Agent} {f : FmtMA} {c : Instr} (hc : c ∈ [Instr.amoAdd a f, .amoAnd a f, .amoOr a f, .amoXor a f,
    .amoMin a f, .amoMax a f, .amoMinu a f, .amoMaxu a f, .amoSwap a f, .amoCas a f, .amoFadd a f]) (s : State) :
    ∃ op sub fn, exec c s = opAmo a f op sub fn s := by
  simp only [List.mem_cons, List.not_mem_nil, or_false] at hc
  rcases hc with rfl | rfl | rfl | rfl | rfl | rfl | rfl | rfl | rfl | rfl | rfl <;> exact ⟨_, _, _, rfl⟩

/-- Settles O17: the address of each access is checked before anything is done, and every closed address fails the check. -/
theorem guestIsolation : Obligations.GuestIsolation := by
  intro s a b f h hg ctx slot closed dies kills x n y m
  have unmapped {k : Acc} {marked : Bool} {addr n : Nat} (load : Bool) (hk : k = .load ∨ k = .loadRo → load = true)
      (hc : closed load addr n) : s.dev.accessTrap a k marked false addr n = some cUNMAPPED := Dev.accessTrap_closed hg load hk hc
  have privilege {k : Acc} {marked : Bool} {addr : Nat} (n : Nat) (hd : inDevSpace addr = true) :
      s.dev.accessTrap a k marked false addr n = some cPRIVILEGE := Dev.accessTrap_guest_devSpace hg hd
  refine ⟨fun hz hc => ⟨?_, ?_⟩, fun hz hc => ?_, fun hm hc => ⟨?_, ?_⟩, fun hm hc => ⟨?_, ?_⟩, fun hm hc c hmem => ?_,
    fun hd => ⟨fun hz => ⟨?_, ?_⟩, fun hz => ?_⟩,
    fun hd => ⟨fun hm => ⟨?_, ?_⟩, fun hm => ⟨?_, ?_⟩, fun hm c hmem => ?_⟩⟩
  · exact exec_ld_trap h hz (unmapped true (fun _ => rfl) hc)
  · exact exec_ldRo_trap h hz (unmapped true (fun _ => rfl) hc)
  · exact exec_st_trap h hz (unmapped false nofun hc)
  · exact exec_ldAcq_trap h hm (unmapped true (fun _ => rfl) hc)
  · exact exec_ldResv_trap h hm (unmapped true (fun _ => rfl) hc)
  · exact exec_stRel_trap h hm (unmapped false nofun hc)
  · exact exec_stCond_trap h hm (unmapped false nofun hc)
  · obtain ⟨op, sub, fn, e⟩ := exec_amo_mem hmem s
    exact e.trans (opAmo_trap h hm (unmapped false nofun hc))
  · exact exec_ld_trap h hz (privilege _ hd)
  · exact exec_ldRo_trap h hz (privilege _ hd)
  · exact exec_st_trap h hz (privilege _ hd)
  · exact exec_ldAcq_trap h hm (privilege _ hd)
  · exact exec_ldResv_trap h hm (privilege _ hd)
  · exact exec_stRel_trap h hm (privilege _ hd)
  · exact exec_stCond_trap h hm (privilege _ hd)
  · obtain ⟨op, sub, fn, e⟩ := exec_amo_mem hmem s
    exact e.trans (opAmo_trap h hm (privilege _ hd))

end Sys2Proof.Machine
end

section
namespace Sys2Proof.Machine

/-! ## Bytes of a word, and the words of a memory after a write (R86) -/

/-- A bit of a byte of a word. -/
theorem getLsbD_byteOf (v : Word) (k : Nat) {i : Nat} (hi : i < 8) :
    (BitVec.ofNat 8 (v.toNat >>> (8 * k))).getLsbD i = v.getLsbD (8 * k + i) := by
  rw [BitVec.getLsbD_ofNat, Nat.testBit_shiftRight, BitVec.testBit_toNat, decide_eq_true hi, Bool.true_and]
/-- Two words with the same bits in a byte have the same byte. -/
theorem byteOf_congr {v w : Word} {k : Nat} (h : ∀ i < 8, v.getLsbD (8 * k + i) = w.getLsbD (8 * k + i)) :
    BitVec.ofNat 8 (v.toNat >>> (8 * k)) = BitVec.ofNat 8 (w.toNat >>> (8 * k)) :=
  BitVec.eq_of_getLsbD_eq fun i hi => by rw [getLsbD_byteOf v k hi, getLsbD_byteOf w k hi, h i hi]

/-- Merging the first `n` bytes. -/
theorem getLsbD_mergeBytes_range (mask : BitVec 8) (old new : Word) (n : Nat) {i : Nat} (hi : i < 64) :
    ((List.range n).foldl (fun v k => if mask.getLsbD k then setFld v (8 * k + 7) (8 * k) (fld new (8 * k + 7) (8 * k)) else v)
      old).getLsbD i = if i < 8 * n ∧ mask.getLsbD (i / 8) then new.getLsbD i else old.getLsbD i := by
  induction n with
  | zero => simp
  | succ n ih =>
    rw [List.range_succ, List.foldl_append, List.foldl_cons, List.foldl_nil]
    by_cases hin : 8 * n ≤ i ∧ i ≤ 8 * n + 7
    · have hdiv : i / 8 = n := by omega
      have hlt : i - 8 * n < 8 * n + 7 + 1 - 8 * n := by omega
      cases hm : mask.getLsbD n
      · simp [ih, hdiv, hm]
      · rw [if_pos rfl, getLsbD_setFld _ _ _ _ _ hi, if_pos hin, testBit_fld, if_pos ⟨by omega, hdiv ▸ hm⟩]
        simp [hlt, Nat.add_sub_cancel' hin.1]
    · have hiff : i < 8 * (n + 1) ↔ i < 8 * n := by omega
      cases hm : mask.getLsbD n
      · simp [ih, hiff]
      · rw [if_pos rfl, getLsbD_setFld _ _ _ _ _ hi, if_neg hin, ih, if_congr (and_congr_left' hiff) rfl rfl]
/-- A byte of a merged word is the new one where the mask selects it. -/
theorem byteOf_mergeBytes (mask : BitVec 8) (old new : Word) {k : Nat} (hk : k < 8) :
    BitVec.ofNat 8 ((mergeBytes mask old new).toNat >>> (8 * k)) =
      if mask.getLsbD k then BitVec.ofNat 8 (new.toNat >>> (8 * k)) else BitVec.ofNat 8 (old.toNat >>> (8 * k)) := by
  have hbit (i : Nat) (hi : i < 8) : (mergeBytes mask old new).getLsbD (8 * k + i) =
      if mask.getLsbD k then new.getLsbD (8 * k + i) else old.getLsbD (8 * k + i) := by
    have hdiv : (8 * k + i) / 8 = k := by omega
    have hlt : 8 * k + i < 8 * 8 := by omega
    rw [mergeBytes, getLsbD_mergeBytes_range mask old new 8 hlt, hdiv]
    simp [hlt]
  cases hm : mask.getLsbD k
  · exact byteOf_congr fun i hi => by simp [hbit i hi, hm]
  · exact byteOf_congr fun i hi => by simp [hbit i hi, hm]

/-- A byte of the number that a list of bytes spells. -/
theorem natOfBytes_byte (l : List Byte) (k : Nat) : natOfBytes l / 256 ^ k % 256 = (l.getD k 0).toNat := by
  induction l generalizing k with
  | nil => simp [natOfBytes]
  | cons b l ih =>
    have hb := b.isLt
    cases k with
    | zero => simp only [natOfBytes, List.getD_cons_zero]; omega
    | succ k =>
      have hdiv : (b.toNat + 256 * natOfBytes l) / 256 = natOfBytes l := by omega
      rw [natOfBytes, pow_succ', ← Nat.div_div_eq_div_mul, hdiv, ih k, List.getD_cons_succ]
/-- A byte of a stored word. -/
theorem Mem.byteOf_word (m : Mem) (w : Nat) {k : Nat} (hk : k < 8) :
    BitVec.ofNat 8 ((m.word w).toNat >>> (8 * k)) = m.byte (8 * w + k) := by
  refine BitVec.eq_of_toNat_eq ?_
  have h := natOfBytes_byte ((List.range 8).map fun k => m.byte (8 * w + k)) k
  rw [List.getD_eq_getElem _ _ (by simpa using hk), List.getElem_map, List.getElem_range] at h
  have h64 : 2 ^ 64 = 256 ^ k * 256 ^ (8 - k) := by rw [← pow_add, Nat.add_sub_cancel' hk.le]; rfl
  have h256 : 256 ∣ 256 ^ (8 - k) := dvd_pow_self _ (by omega)
  rw [BitVec.toNat_ofNat, Mem.word, BitVec.toNat_ofNat, Nat.shiftRight_eq_div_pow, pow_mul, h64]
  norm_num only
  rw [Nat.mod_mul_right_div_self, Nat.mod_mod_of_dvd _ h256, h]

/-- Bytes stored one after another. -/
theorem Mem.byte_foldl_setByte (m : Mem) (b : Nat) (g : Nat → Byte) (n x : Nat) :
    ((List.range n).foldl (fun m k => m.setByte (b + k) (g k)) m).byte x =
      if b ≤ x ∧ x < b + n then g (x - b) else m.byte x := by
  induction n with
  | zero => simp
  | succ n ih =>
    rw [List.range_succ, List.foldl_append, List.foldl_cons, List.foldl_nil, Mem.byte_setByte, ih]
    by_cases hx : x = b + n
    · simp [hx]
    · have hiff : b ≤ x ∧ x < b + (n + 1) ↔ b ≤ x ∧ x < b + n := by omega
      rw [if_neg hx, if_congr hiff rfl rfl]
/-- A byte of a memory after eight bytes were stored. -/
theorem Mem.byte_setBytes8 (m : Mem) (w : Nat) (v : Word) (x : Nat) :
    (m.setBytes8 w v).byte x = if x / 8 = w then BitVec.ofNat 8 (v.toNat >>> (8 * (x % 8))) else m.byte x := by
  rw [Mem.setBytes8, Mem.byte_foldl_setByte]
  by_cases h : x / 8 = w
  · rw [if_pos h, if_pos (by omega), show x - 8 * w = x % 8 by omega]
  · rw [if_neg h, if_neg (by omega)]
/-- A byte of a memory after a whole word was written. -/
theorem Mem.byte_putWord (m : Mem) (w : Nat) (v : Word) (x : Nat) :
    (m.putWord w v).byte x = if x / 8 = w then BitVec.ofNat 8 (v.toNat >>> (8 * (x % 8))) else m.byte x :=
  m.byte_setBytes8 w v x
theorem Mem.mark_setMark (m : Mem) (w y : Nat) (k : Mark) :
    ({ m with marks := NMap.set m.marks (.touched 0) w k } : Mem).mark y = if y = w then k else m.mark y :=
  NMap.get_set _ _ _ _ _
/-- Only the mark of the word written changes. -/
theorem Mem.mark_putWord (m : Mem) (w : Nat) (v : Word) (y : Nat) :
    (m.putWord w v).mark y = if y = w then .written else m.mark y := by
  rw [Mem.putWord, Mem.mark_setMark, Mem.mark, Mem.setBytes8_marks, Mem.mark]
theorem Mem.mark_poison (m : Mem) (w y : Nat) : (m.poison w).mark y = if y = w then .poisoned else m.mark y := by
  rw [Mem.poison, Mem.mark_setMark, Mem.mark, Mem.setBytes8_marks, Mem.mark]

/-! ## Stores of bytes of a word (R86, R390) -/

section
variable {m : Mem} {id w : Nat} {mask : BitVec 8} {v : Word}

theorem Mem.mergeW_whole : m.mergeW id w 0xFF v = (m.putWord w v, none) := rfl
theorem Mem.mergeW_nothing : m.mergeW id w 0 v = (m, none) := rfl
/-- A store of part of a written word. -/
theorem Mem.mergeW_written (h : m.mark w = .written) (hf : mask ≠ 0xFF) (h0 : mask ≠ 0) :
    m.mergeW id w mask v = (m.putWord w (mergeBytes mask (m.word w) v), none) := by
  simp only [Mem.mergeW, if_neg hf, if_neg h0, Mem.readW, h]
/-- A store of part of a poisoned word is discarded. -/
theorem Mem.mergeW_poisoned (h : m.mark w = .poisoned) (hf : mask ≠ 0xFF) (h0 : mask ≠ 0) :
    m.mergeW id w mask v = (m, some false) := by
  simp only [Mem.mergeW, if_neg hf, if_neg h0, Mem.readW, h, Bool.false_eq_true, if_false]
/-- A store of part of a word that is met as uncorrectable poisons it. -/
theorem Mem.mergeW_damaged (h : m.mark w = .damaged) (hf : mask ≠ 0xFF) (h0 : mask ≠ 0) :
    m.mergeW id w mask v = (m.poison w, some true) := by
  simp only [Mem.mergeW, if_neg hf, if_neg h0, Mem.readW, h, if_true]

/-- A store of bytes of a written word puts the merged word there. -/
theorem Mem.mergeW_merges (h : m.mark w = .written) :
    (m.mergeW id w mask v).2 = none ∧
    (∀ y, (m.mergeW id w mask v).1.mark y = m.mark y) ∧
    ∀ x, (m.mergeW id w mask v).1.byte x =
      if x / 8 = w ∧ mask.getLsbD (x % 8) then BitVec.ofNat 8 (v.toNat >>> (8 * (x % 8))) else m.byte x := by
  have hmark (u : Word) (y : Nat) : (m.putWord w u).mark y = m.mark y := by
    rw [Mem.mark_putWord]
    split
    case isTrue hy => rw [hy, h]
    case isFalse => rfl
  by_cases hf : mask = 0xFF
  · subst hf
    rw [Mem.mergeW_whole]
    refine ⟨rfl, hmark v, fun x => ?_⟩
    have hbit : (0xFF : BitVec 8).getLsbD (x % 8) = true :=
      (by decide : ∀ k < 8, (0xFF : BitVec 8).getLsbD k = true) _ (Nat.mod_lt _ (by decide))
    simp only [Mem.byte_putWord, hbit, and_true]
  by_cases h0 : mask = 0
  · subst h0
    rw [Mem.mergeW_nothing]
    exact ⟨rfl, fun _ => rfl, fun x => by simp⟩
  · rw [Mem.mergeW_written h hf h0]
    refine ⟨rfl, hmark _, fun x => ?_⟩
    rw [Mem.byte_putWord]
    by_cases hx : x / 8 = w
    · rw [if_pos hx, byteOf_mergeBytes _ _ _ (Nat.mod_lt x (by decide)), m.byteOf_word w (Nat.mod_lt x (by decide))]
      have hsplit : 8 * w + x % 8 = x := by omega
      simp only [hx, hsplit, true_and]
    · simp [hx]

end

/-- Settles O5, by what a store of bytes does to a written, a poisoned and a damaged word. -/
theorem mergeWritesItsBytes : Obligations.MergeWritesItsBytes := by
  intro m id w mask v
  refine ⟨fun h => ?_, fun h => ⟨fun hf h0 => ⟨fun hp => Mem.mergeW_poisoned hp hf h0, fun hd => ?_⟩, ?_⟩⟩
  · obtain ⟨hnone, hmark, hbyte⟩ := Mem.mergeW_merges (id := id) (mask := mask) (v := v) h
    refine ⟨hnone, (hmark w).trans h, fun k hk => ?_, fun x hx => ⟨?_, hmark _⟩⟩
    · have hdiv : (8 * w + k) / 8 = w := by omega
      have hmod : (8 * w + k) % 8 = k := by omega
      simp only [hbyte, hdiv, hmod, true_and]
    · rw [hbyte, if_neg fun h => hx h.1]
  · exact ⟨Mem.mergeW_damaged hd hf h0, by rw [Mem.mark_poison, if_pos rfl]⟩
  · rintro rfl
    rw [Mem.mergeW_whole]
    refine ⟨rfl, by rw [Mem.mark_putWord, if_pos rfl], fun k hk => ?_⟩
    have hdiv : (8 * w + k) / 8 = w := by omega
    have hmod : (8 * w + k) % 8 = k := by omega
    rw [Mem.byte_putWord, hdiv, hmod, if_pos rfl]

end Sys2Proof.Machine
end

section
namespace Sys2Proof.Machine

/-! ## What the register forms do (R77, R106) -/

section
variable {s : State} {a : Agent} (h : s.canIssue a)
include h

/-- A register form writes its operation's result of rs1 and rs2 to rd, and its agent moves past it. -/
theorem instr4_opRR (f : FmtRR) (op : Word → Word → Word) : instr4 a s (opRR a f op) =
    s.gives fun d => (d.wr a f.rd.toNat (op (s.dev.rd a f.rs1.toNat) (s.dev.rd a f.rs2.toNat))).past a 4 :=
  instr4_out h rfl _ rfl
theorem instr4_opRI (f : FmtRI) (op : Word → Word) : instr4 a s (opRI a f op) =
    s.gives fun d => (d.wr a f.rd.toNat (op (s.dev.rd a f.rs1.toNat))).past a 4 :=
  instr4_out h rfl _ rfl
theorem instr4_opUI (f : FmtUI) (v : Dev → Word) : instr4 a s (opUI a f v) =
    s.gives fun d => (d.wr a f.rd.toNat (v s.dev)).past a 4 :=
  instr4_out h rfl _ rfl
theorem instr4_opShiftI {f : FmtRI} (hi : f.imm.toNat < 64) (code : Nat) (op : Word → Nat → Word) :
    instr4 a s (opShiftI a f code op) =
      s.gives fun d => (d.wr a f.rd.toNat (op (s.dev.rd a f.rs1.toNat) f.imm.toNat)).past a 4 :=
  instr4_out h (if_pos hi) _ rfl
/-- A shift by 64 or more is no immediate form (Table 3.10). -/
theorem instr4_opShiftI_illegal {f : FmtRI} (hi : 64 ≤ f.imm.toNat) (code : Nat) (op : Word → Nat → Word) :
    instr4 a s (opShiftI a f code op) = s.gives fun d => d.trapped a cILLEGAL (encRI code f) :=
  instr4_out h (if_neg (Nat.not_lt.2 hi)) _ rfl

end

/-! ## The operations (R87, R88, Table 3.11) -/

theorem fld_low7 (y : Word) : fld y 6 0 = y.toNat % 128 := by simp [fld]
theorem shl64_eq (x : Word) (n : Nat) : shl64 x n = if 64 ≤ n then 0 else x <<< n := rfl
theorem shr64_eq (x : Word) (n : Nat) : shr64 x n = if 64 ≤ n then 0 else x >>> n := rfl
theorem sra64_of_lt (x : Word) {n : Nat} (h : n < 64) : sra64 x n = x.sshiftRight n := by rw [sra64, Nat.min_eq_left h.le]
theorem sra64_eq (x : Word) (n : Nat) :
    sra64 x n = if 64 ≤ n then (if x.msb then BitVec.allOnes 64 else 0) else x.sshiftRight n := by
  split
  case isTrue h =>
    rw [sra64, Nat.min_eq_right h]
    refine BitVec.eq_of_getLsbD_eq fun i hi => ?_
    rw [BitVec.getLsbD_sshiftRight]
    cases x.msb
    · simp
    · rw [if_pos rfl, BitVec.getLsbD_allOnes]
      simp [hi]
  case isFalse h => exact sra64_of_lt x (Nat.not_le.1 h)
theorem ofBool64_decide (p : Prop) [Decidable p] : ofBool64 (decide p) = if p then 1 else 0 := by simp [ofBool64]

/-- Settles O7: each form is one operation of its operands. -/
theorem registerInstructionsComplete : Obligations.RegisterInstructionsComplete := by
  refine ⟨fun s a f h => ?_, fun s a h => ⟨fun f => ?_, fun f => ?_⟩⟩
  · intro x y n R
    have rr (op : Word → Word → Word) {v : Word} (hv : op x y = v) : instr4 a s (opRR a f op) = R v :=
      hv ▸ instr4_opRR h f op
    exact ⟨rr _ rfl, rr _ rfl, rr _ rfl, rr _ rfl, rr _ rfl, rr _ (by rw [fld_low7, shl64_eq]),
      rr _ (by rw [fld_low7, shr64_eq]), rr _ (by rw [fld_low7, sra64_eq]), rr _ (ofBool64_decide _), rr _ (ofBool64_decide _),
      rr _ rfl, rr _ rfl, rr _ rfl, rr _ rfl, rr _ rfl, rr _ rfl, rr _ rfl, rr _ rfl, rr _ rfl, rr _ rfl, rr _ rfl⟩
  · intro x R n
    have ri (op : Word → Word) {v : Word} (hv : op x = v) : instr4 a s (opRI a f op) = R v := hv ▸ instr4_opRI h f op
    have hsext : (sext f.imm).toInt = f.imm.toInt := BitVec.toInt_signExtend_of_le (by decide)
    refine ⟨ri _ rfl, ri _ rfl, ri _ rfl, ri _ rfl, ri _ ?_, ri _ (ofBool64_decide _),
      fun hn => ⟨?_, ?_, ?_⟩, fun hn => ⟨?_, ?_, ?_⟩⟩
    · rw [ofBool64_decide, hsext]
    · exact (instr4_opShiftI h hn 0x10 shl64).trans (by rw [shl64_eq, if_neg (Nat.not_le.2 hn)])
    · exact (instr4_opShiftI h hn 0x12 shr64).trans (by rw [shr64_eq, if_neg (Nat.not_le.2 hn)])
    · exact (instr4_opShiftI h hn 0x14 sra64).trans (by rw [sra64_of_lt _ hn])
    · exact instr4_opShiftI_illegal h hn 0x10 shl64
    · exact instr4_opShiftI_illegal h hn 0x12 shr64
    · exact instr4_opShiftI_illegal h hn 0x14 sra64
  · exact ⟨instr4_opUI h f _, instr4_opUI h f _, instr4_opUI h f _⟩

/-! ## Division (R87) -/

theorem maxNeg64_toInt : maxNeg64.toInt = -2 ^ 63 := by decide
theorem toInt_bounds (x : Word) : -2 ^ 63 ≤ x.toInt ∧ x.toInt < 2 ^ 63 := by
  have h1 := BitVec.le_toInt x
  have h2 := BitVec.toInt_lt (x := x)
  constructor <;> omega
/-- A number that 64 bits can hold is what they hold. -/
theorem toInt_ofInt64 {i : Int} (h1 : -2 ^ 63 ≤ i) (h2 : i < 2 ^ 63) : (BitVec.ofInt 64 i).toInt = i := by
  rw [BitVec.toInt_ofInt]
  exact Int.bmod_eq_of_le (by omega) (by omega)
theorem toInt_ne_zero {y : Word} (h : y ≠ 0) : y.toInt ≠ 0 := fun h0 => h (BitVec.toInt_inj.1 h0)

/-- A quotient can be represented unless it is that of the most negative value by -1. -/
theorem tdiv_bounds {x y : Word} (hy : y ≠ 0) (hc : ¬(x = maxNeg64 ∧ y.toInt = -1)) :
    -2 ^ 63 ≤ x.toInt.tdiv y.toInt ∧ x.toInt.tdiv y.toInt < 2 ^ 63 := by
  obtain ⟨hx1, hx2⟩ := toInt_bounds x
  have hy0 := toInt_ne_zero hy
  by_cases hm : y.toInt = -1
  · have hx : x.toInt ≠ -2 ^ 63 := fun h => hc ⟨BitVec.toInt_inj.1 (h.trans maxNeg64_toInt.symm), hm⟩
    rw [hm, Int.tdiv_neg, Int.tdiv_one]
    omega
  by_cases h1 : y.toInt = 1
  · rw [h1, Int.tdiv_one]
    omega
  · have h2 : 2 ≤ y.toInt.natAbs := by omega
    have hle : (x.toInt.tdiv y.toInt).natAbs ≤ x.toInt.natAbs / 2 :=
      (Int.natAbs_tdiv _ _).trans_le (Nat.div_le_div_left h2 (by decide))
    omega
theorem tmod_bounds (x : Word) {y : Word} (hy : y ≠ 0) :
    -2 ^ 63 ≤ x.toInt.tmod y.toInt ∧ x.toInt.tmod y.toInt < 2 ^ 63 := by
  obtain ⟨hy1, hy2⟩ := toInt_bounds y
  have hy0 := toInt_ne_zero hy
  have hlt : x.toInt.natAbs % y.toInt.natAbs < y.toInt.natAbs := Nat.mod_lt _ (by omega)
  rw [← Int.natAbs_tmod] at hlt
  omega

theorem div64_toInt {x y : Word} (hy : y ≠ 0) (hc : ¬(x = maxNeg64 ∧ y.toInt = -1)) :
    (div64 x y).toInt = x.toInt.tdiv y.toInt := by
  rw [div64, if_neg hy, if_neg hc]
  exact toInt_ofInt64 (tdiv_bounds hy hc).1 (tdiv_bounds hy hc).2
theorem rem64_toInt (x : Word) {y : Word} (hy : y ≠ 0) : (rem64 x y).toInt = x.toInt.tmod y.toInt := by
  rw [rem64, if_neg hy]
  exact toInt_ofInt64 (tmod_bounds x hy).1 (tmod_bounds x hy).2
theorem divu64_toNat (x : Word) {y : Word} (hy : y ≠ 0) : (divu64 x y).toNat = x.toNat / y.toNat := by
  rw [divu64, if_neg hy, BitVec.toNat_ofNat]
  exact Nat.mod_eq_of_lt (lt_of_le_of_lt (Nat.div_le_self _ _) x.isLt)
theorem remu64_toNat (x : Word) {y : Word} (hy : y ≠ 0) : (remu64 x y).toNat = x.toNat % y.toNat := by
  rw [remu64, if_neg hy, BitVec.toNat_ofNat]
  exact Nat.mod_eq_of_lt (lt_of_le_of_lt (Nat.mod_le _ _) x.isLt)

/-- Settles O8: quotients and remainders that 64 bits can hold are exact, the others are R87's. -/
theorem divisionCorners : Obligations.DivisionCorners := by
  intro x y
  refine ⟨fun h => if_neg (not_lt.2 h), fun h => if_pos h, rfl, rfl, rfl, by decide, by decide, fun hy hc => ?_,
    fun hy => ⟨divu64_toNat x hy, remu64_toNat x hy⟩, ?_⟩
  · refine ⟨div64_toInt hy hc, rem64_toInt x hy, ?_⟩
    rw [div64_toInt hy hc, rem64_toInt x hy, mul_comm]
    exact Int.mul_tdiv_add_tmod _ _
  · rintro s a f h rfl rfl
    exact ⟨instr4_opRR h f div64, instr4_opRR h f divu64, instr4_opRR h f rem64, instr4_opRR h f remu64⟩

/-! ## Branches and jumps (R78, R91) -/

section
variable {s : State} {a : Agent} (h : s.canIssue a)
include h

/-- A branch goes to its target or past. -/
theorem instr4_opBR {f : FmtBR} (ht : targetTrap (s.dev.targetBR a f) = none) {c : Nat} {p : Bool}
    (hp : condHolds c (s.dev.rd a f.rs1.toNat) (s.dev.rd a f.rs2.toNat) = p) :
    instr4 a s (opBR a f c) = if p then s.gives fun d => d.reached a (s.dev.targetBR a f).toNat else s.gives fun d => d.past a 4 := by
  cases p
  · exact instr4_out (o := .done s.dev) h (by simp [opBR, hp]) _ rfl
  · exact instr4_out (o := .goto s.dev (s.dev.targetBR a f).toNat) h (by simp [opBR, hp, ht]) _ rfl
/-- A jump links and goes to its target. -/
theorem instr4_opJump {rd : Nat} {t : Dev → Word} (ht : targetTrap (t s.dev) = none) :
    instr4 a s (fun d => opJump a rd (t d) d) =
      s.gives fun d => (d.wr a rd (BitVec.ofNat 64 (s.dev.pc a + 4))).reached a (t s.dev).toNat :=
  instr4_out (o := .goto (s.dev.wr a rd (s.dev.linkVal a)) (t s.dev).toNat) h (by simp [opJump, ht]) _ rfl
/-- A jump to an address that is not a multiple of 4 traps. -/
theorem instr4_opJump_misaligned {rd : Nat} {t : Dev → Word} (ht : (t s.dev).toNat % 4 ≠ 0) :
    instr4 a s (fun d => opJump a rd (t d) d) = s.gives fun d => d.trapped a cMISALIGNED (t s.dev) :=
  instr4_out (o := .trap cMISALIGNED (t s.dev)) h (by simp [opJump, targetTrap, ht]) _ rfl

end

/-- Settles O10: a branch's condition picks its target, a jump's target is formed before rd is written. -/
theorem controlFlowComplete : Obligations.ControlFlowComplete := by
  refine ⟨fun s a f h => ?_, fun s a h => ⟨fun f => ?_, fun f => ?_⟩⟩
  · intro x y t go ht
    exact ⟨instr4_opBR h ht rfl, instr4_opBR h ht rfl, instr4_opBR h ht rfl, instr4_opBR h ht rfl, instr4_opBR h ht rfl,
      instr4_opBR h ht rfl⟩
  · exact fun ht => instr4_opJump (t := fun d => d.targetJL a f) h ht
  · exact ⟨fun ht => instr4_opJump (t := fun d => d.rd a f.rs1.toNat + sext f.imm) h ht,
      fun ht => instr4_opJump_misaligned (t := fun d => d.rd a f.rs1.toNat + sext f.imm) h ht⟩

end Sys2Proof.Machine
end

section
namespace Sys2Proof.Machine

/-! ## The agents of the device: an update of one leaves the others alone -/

/-- What an index of an array holds after a write. -/
theorem NMap.find_put {α : Type} (m : NMap α) (v : α) (k j : Nat) :
    NMap.find (NMap.put m k v) j = if j = k then some v else NMap.find m j := by
  induction m with
  | nil => simp [NMap.put, NMap.find, eq_comm]
  | cons x rest ih =>
    obtain ⟨i, w⟩ := x
    simp only [NMap.put]
    split
    case isTrue => simp [NMap.find, eq_comm (a := j) (b := k)]
    case isFalse =>
      split
      case isTrue hk => subst hk; simp only [NMap.find, eq_comm (a := j) (b := k)]; split <;> rfl
      case isFalse hk =>
        simp only [NMap.find, ih]
        grind

/-- Two groups of one cluster that some ordering code has are told apart by their index. -/
theorem Agent.eq_of_groupIdx {a b : Agent} (ha : Agent.ok a = true) (hb : Agent.ok b = true) (hga : a.isGroup = true)
    (hgb : b.isGroup = true) (hc : a.cluster = b.cluster) (hi : a.groupIdx = b.groupIdx) : a = b := by
  cases a with
  | sCore n => cases hga
  | group n v k =>
    cases b with
    | sCore m => cases hgb
    | group m v' k' =>
      simp only [Agent.cluster] at hc
      simp only [Agent.ok, Bool.and_eq_true, decide_eq_true_eq] at ha hb
      simp only [Agent.groupIdx] at hi
      have hv : v = v' := by cases v <;> cases v' <;> simp [bit] at hi ⊢ <;> omega
      subst hv
      exact Agent.group.injEq .. ▸ ⟨hc, rfl, by omega⟩

theorem Dev.grp_of_isGroup (d : Dev) {a : Agent} (h : a.isGroup = true) :
    d.grp a = NMap.find (d.cl a.cluster).groups a.groupIdx := by
  cases a with
  | sCore n => cases h
  | group n v k => rfl

section
variable {d : Dev} {a b : Agent} (ha : Agent.ok a = true) (hb : Agent.ok b = true)
include ha hb

/-- The group that a slot holds after a group was replaced. -/
theorem Dev.grp_setGrp (hga : a.isGroup = true) (g : Group) : (d.setGrp a g).grp b = if b = a then some g else d.grp b := by
  cases hgb : b.isGroup with
  | false =>
    have hne : b ≠ a := fun e => by rw [e, hga] at hgb; cases hgb
    cases b with
    | sCore m => rw [if_neg hne]; rfl
    | group m v k => cases hgb
  | true =>
    rw [Dev.grp_of_isGroup _ hgb, Dev.grp_of_isGroup _ hgb, Dev.setGrp, Dev.cl_onCl]
    by_cases hc : b.cluster = a.cluster
    · rw [if_pos hc, NMap.find_put, hc]
      exact if_congr ⟨Agent.eq_of_groupIdx hb ha hgb hga hc, fun e => e ▸ rfl⟩ rfl rfl
    · rw [if_neg hc, if_neg fun e : b = a => hc (congrArg Agent.cluster e)]

end

/-! ## The register files (R71) -/

/-- What a register write of an S-core leaves in its cluster. -/
theorem Dev.cl_wr_sCore (d : Dev) (n m r : Nat) (v : Word) : (d.wr (.sCore n) r v).cl m =
    if m = n then { d.cl n with s := { (d.cl n).s with regs := if r = 0 then (d.cl n).s.regs else NMap.set (d.cl n).s.regs 0 r v } }
    else d.cl m := by
  by_cases h : r = 0
  · subst h
    by_cases hm : m = n <;> simp [hm]
  · by_cases hm : m = n
    · simp [Dev.wr_sCore d n r v h, hm, h]
    · rw [Dev.wr_sCore d n r v h, Dev.cl_onS_ne _ _ hm, if_neg hm]
theorem Dev.onlyClusters_wr_sCore (d : Dev) (n r : Nat) (v : Word) : d.onlyClusters (d.wr (.sCore n) r v) := by
  by_cases h : r = 0
  · subst h; exact d.onlyClusters_refl
  · rw [Dev.wr_sCore d n r v h]; exact ⟨_, rfl⟩
theorem Dev.wr_group (d : Dev) {a : Agent} {g : Group} (hg : d.grp a = some g) {r : Nat} (v : Word) (h : r ≠ 0) :
    d.wr a r v = d.setGrp a { g with u := NMap.set g.u 0 r v } := by
  cases a with
  | sCore n => cases hg
  | group n v1 k => simp [Dev.wr, h, Dev.onGrp, hg]
theorem Dev.rd_group (d : Dev) {a : Agent} {g : Group} (hg : d.grp a = some g) {r : Nat} (h : r ≠ 0) :
    d.rd a r = NMap.get g.u 0 r := by
  cases a with
  | sCore n => cases hg
  | group n v1 k => simp [Dev.rd, h, hg]
/-- Registers are read from the group, or from the S-core. -/
theorem Dev.rd_congr_group {d e : Dev} {a : Agent} (hga : a.isGroup = true) (h : e.grp a = d.grp a) (r : Nat) : e.rd a r = d.rd a r := by
  cases a with
  | sCore n => cases hga
  | group n v1 k => simp [Dev.rd, h]
theorem Dev.rd_congr_sCore {d e : Dev} {n : Nat} (h : (e.cl n).s.regs = (d.cl n).s.regs) (r : Nat) :
    e.rd (.sCore n) r = d.rd (.sCore n) r := by
  simp [Dev.rd, h]

/-- A register of an S-core after a write of one of its registers. -/
theorem Dev.rd_wr_sCore (d : Dev) (n r q : Nat) (v : Word) :
    (d.wr (.sCore n) r v).rd (.sCore n) q = if q = 0 then 0 else if q = r then v else d.rd (.sCore n) q := by
  by_cases hq : q = 0
  · subst hq; simp
  rw [if_neg hq, Dev.rd_sCore _ _ _ hq, Dev.rd_sCore _ _ _ hq, Dev.cl_wr_sCore, if_pos rfl]
  by_cases hr : r = 0
  · rw [if_pos hr, if_neg (by omega)]
  · simp only [if_neg hr, NMap.get_set]

section
variable {d : Dev} {a : Agent} (ha : Agent.ok a = true) (hg : a.isGroup = true → (d.grp a).isSome = true)
include ha hg

/-- A register of an agent after a write of one of its registers. -/
theorem Dev.rd_wr_same (r q : Nat) (v : Word) : (d.wr a r v).rd a q = if q = 0 then 0 else if q = r then v else d.rd a q := by
  cases a with
  | sCore n => exact d.rd_wr_sCore n r q v
  | group n v1 k =>
    obtain ⟨g, hgrp⟩ := Option.isSome_iff_exists.1 (hg rfl)
    by_cases hq : q = 0
    · subst hq; simp
    rw [if_neg hq]
    by_cases hr : r = 0
    · subst hr; simp [hq]
    · have hnew := Dev.grp_setGrp (d := d) ha ha rfl { g with u := NMap.set g.u 0 r v }
      rw [if_pos rfl] at hnew
      rw [Dev.wr_group d hgrp v hr, Dev.rd_group _ hnew hq, Dev.rd_group d hgrp hq, NMap.get_set]
/-- A register of another agent. -/
theorem Dev.rd_wr_ne {b : Agent} (hb : Agent.ok b = true) (hne : b ≠ a) (r q : Nat) (v : Word) : (d.wr a r v).rd b q = d.rd b q := by
  by_cases hr : r = 0
  · subst hr; rfl
  cases a with
  | sCore n =>
    rw [Dev.wr_sCore d n r v hr]
    cases b with
    | sCore m =>
      have hm : m ≠ n := fun e => hne (e ▸ rfl)
      exact Dev.rd_congr_sCore (by rw [Dev.cl_onS_ne _ _ hm]) q
    | group m v1 k =>
      refine Dev.rd_congr_group rfl ?_ q
      rw [Dev.grp_of_isGroup _ rfl, Dev.grp_of_isGroup _ rfl, Dev.onS, Dev.cl_onCl]
      split
      case isTrue h => rw [h]
      case isFalse => rfl
  | group n v1 k =>
    obtain ⟨g, hgrp⟩ := Option.isSome_iff_exists.1 (hg rfl)
    rw [Dev.wr_group d hgrp v hr]
    cases b with
    | sCore m =>
      refine Dev.rd_congr_sCore ?_ q
      rw [Dev.setGrp, Dev.cl_onCl]
      split
      case isTrue h => rw [h]
      case isFalse => rfl
    | group m v2 l => exact Dev.rd_congr_group rfl (by rw [Dev.grp_setGrp ha hb rfl, if_neg hne]) q

end

/-- Settles O9: an S-core's registers lie in its cluster, a group's in its slot, and a write reaches one of them. -/
theorem registerFile : Obligations.RegisterFile :=
  fun d a v r q ha hg => ⟨d.rd_zero a, d.wr_zero a v, Dev.rd_wr_same ha hg r q v, fun _ hb hne => Dev.rd_wr_ne ha hg hb hne r q v⟩

end Sys2Proof.Machine
end

section
namespace Sys2Proof.Machine

/-- The later of two writes of an index stands. -/
theorem NMap.put_put {α : Type} (m : NMap α) (k : Nat) (v w : α) : NMap.put (NMap.put m k v) k w = NMap.put m k w := by
  induction m with
  | nil => simp [NMap.put]
  | cons x rest ih =>
    obtain ⟨i, u⟩ := x
    simp only [NMap.put]
    split
    · simp [NMap.put]
    · split
      · simp [NMap.put]
      · rename_i h1 h2
        simp [NMap.put, h1, h2, ih]
/-! ## What an S-core's completed instruction leaves, in a calm cluster

Whether or not the debug block steps the core: a stepped core is halted then, and its reservation has ended (R101, R275). -/

/-- `e` is `d` after an instruction of the S-core of cluster `n` has completed and the core has moved to `target`. -/
structure Dev.MovedTo (d e : Dev) (n target : Nat) : Prop where
  rest : ∃ cs rs, e = { d with clusters := cs, coh := { d.coh with resv := rs } }
  own : e.cl n = { d.cl n with
    s := { (d.cl n).s with
      pc := BitVec.ofNat 48 target
      retired := (d.cl n).s.retired + 1
      resv := if (d.dbg (.sCore n)).stepping then none else (d.cl n).s.resv }
    dbg := if (d.dbg (.sCore n)).stepping
      then NMap.put (d.cl n).dbg 0 { d.dbg (.sCore n) with stepping := false, halted := true, reason := 2 } else (d.cl n).dbg }
  others : ∀ m, m ≠ n → e.cl m = d.cl m
  coh : (d.dbg (.sCore n)).stepping = false → e.coh = d.coh

theorem Dev.pc_sCore (d : Dev) (n : Nat) : d.pc (.sCore n) = (d.cl n).s.pc.toNat := rfl
theorem Dev.tr_sCore (d : Dev) (n : Nat) : d.tr (.sCore n) = (d.cl n).s.tr := rfl
theorem Dev.level_sCore (d : Dev) (n : Nat) : d.level (.sCore n) = (d.cl n).s.level := rfl
theorem Dev.resvOf_sCore (d : Dev) (n : Nat) : d.resvOf (.sCore n) = (d.cl n).s.resv := rfl
theorem Dev.dbg_sCore (d : Dev) (n : Nat) : d.dbg (.sCore n) = NMap.get (d.cl n).dbg Dbg.none 0 := rfl

/-- A cluster whose S-core has been stepped: the core is halted and its reservation has ended. -/
def Cluster.stepped (c : Cluster) : Cluster :=
  { c with
    s := { c.s with resv := none }
    dbg := NMap.put c.dbg 0 { NMap.get c.dbg Dbg.none 0 with stepping := false, halted := true, reason := 2 } }
/-- A core that is stepped ends its reservation and halts (R101). -/
theorem Dev.stepEnd_stepping (d : Dev) (n : Nat) (h : (d.dbg (.sCore n)).stepping = true) : d.stepEnd (.sCore n) =
    { d.onCl n Cluster.stepped with
      coh := { d.coh with resv := d.coh.resv.filter fun r => decide (r.a ≠ .sCore n) } } := by
  rw [Dev.stepEnd, if_pos h]
  simp only [Dev.endResv, Dev.setResv, Dev.onDbg, Dev.onS, Dev.onCl, Dev.setCl, Dev.cl, Agent.cluster, Agent.dbgIdx,
    NMap.get_put_same, NMap.put_put, Cluster.stepped]

/-- Completing an instruction of a core that is stepped, in a calm cluster. -/
theorem Dev.complete_stepping (d : Dev) (n : Nat) (h : d.calm n = true) (hs : (d.dbg (.sCore n)).stepping = true) :
    (∃ cs rs, d.complete (.sCore n) = { d with clusters := cs, coh := { d.coh with resv := rs } }) ∧
    (d.complete (.sCore n)).cl n =
      Cluster.stepped { d.cl n with s := { (d.cl n).s with retired := (d.cl n).s.retired + 1 } } ∧
    ∀ m, m ≠ n → (d.complete (.sCore n)).cl m = d.cl m := by
  have hstep := (d.retire (.sCore n)).stepEnd_stepping n (by rw [Dev.dbg_sCore, Dev.retire, Dev.cl_onS_same]; exact hs)
  have hcl (m : Nat) : ((d.retire (.sCore n)).stepEnd (.sCore n)).cl m =
      if m = n then ((d.retire (.sCore n)).cl n).stepped else (d.retire (.sCore n)).cl m := by
    rw [hstep]
    exact Dev.cl_onCl _ n m Cluster.stepped
  have hown : ((d.retire (.sCore n)).stepEnd (.sCore n)).cl n =
      Cluster.stepped { d.cl n with s := { (d.cl n).s with retired := (d.cl n).s.retired + 1 } } := by
    rw [hcl, if_pos rfl, Dev.retire, Dev.cl_onS_same]
  have hcalm : ((d.retire (.sCore n)).stepEnd (.sCore n)).calm n = true :=
    (Dev.calm_congr (by rw [hown]; rfl) (by rw [hown]; rfl)).trans h
  have hset : d.complete (.sCore n) = _ := Dev.settle_calm _ n hcalm
  refine ⟨?_, ?_, fun m hm => ?_⟩
  · rw [hset, hstep]; exact ⟨_, _, rfl⟩
  · rw [hset, Dev.cl_setCl_same, hown]
  · rw [hset, Dev.cl_setCl_ne _ _ hm, hcl, if_neg hm, Dev.retire, Dev.cl_onS_ne _ _ hm]

/-- Everything that the end of an S-core's instruction does in a calm cluster. -/
theorem Dev.movedTo_reached (d : Dev) (n target : Nat) (h : d.calm n = true) : d.MovedTo (d.reached (.sCore n) target) n target := by
  have hpc : (d.setPc (.sCore n) target).cl n = { d.cl n with s := { (d.cl n).s with pc := BitVec.ofNat 48 target } } :=
    Dev.cl_onS_same _ _ _
  have hothers (m : Nat) (hm : m ≠ n) : (d.setPc (.sCore n) target).cl m = d.cl m := Dev.cl_onS_ne _ _ hm
  have hcalm : (d.setPc (.sCore n) target).calm n = true := (Dev.calm_congr (by rw [hpc]) (by rw [hpc])).trans h
  have hdbg : (d.setPc (.sCore n) target).dbg (.sCore n) = d.dbg (.sCore n) := by rw [Dev.dbg_sCore, hpc, Dev.dbg_sCore]
  cases hs : (d.dbg (.sCore n)).stepping with
  | false =>
    obtain ⟨⟨cs, hrest⟩, hown, hne⟩ := Dev.complete_calm _ n hcalm (hdbg ▸ hs)
    refine ⟨⟨cs, d.coh.resv, hrest⟩, hown.trans ?_, fun m hm => (hne m hm).trans (hothers m hm), fun _ => ?_⟩
    · rw [hpc, hs]
      rfl
    · rw [Dev.reached, hrest]
      rfl
  | true =>
    obtain ⟨⟨cs, rs, hrest⟩, hown, hne⟩ := Dev.complete_stepping _ n hcalm (hdbg ▸ hs)
    refine ⟨⟨cs, rs, hrest⟩, hown.trans ?_, fun m hm => (hne m hm).trans (hothers m hm), fun hf => absurd (hs.symm.trans hf) nofun⟩
    rw [hpc, hs]
    rfl
theorem Dev.movedTo_past (d : Dev) (n len : Nat) (h : d.calm n = true) :
    d.MovedTo (d.past (.sCore n) len) n ((d.cl n).s.pc.toNat + len) :=
  d.movedTo_reached n _ h

namespace Dev.MovedTo
variable {d e : Dev} {n target : Nat} (h : d.MovedTo e n target)
include h

theorem part : e.part = d.part := by obtain ⟨cs, rs, rfl⟩ := h.rest; rfl
theorem errs : e.errs = d.errs := by obtain ⟨cs, rs, rfl⟩ := h.rest; rfl
theorem reg (o : Nat) : e.reg o = d.reg o := by obtain ⟨cs, rs, rfl⟩ := h.rest; rfl
theorem mem (sp : MSpace) : e.mem sp = d.mem sp := by obtain ⟨cs, rs, rfl⟩ := h.rest; cases sp <;> rfl
theorem net : e.coh.net = d.coh.net := by obtain ⟨cs, rs, rfl⟩ := h.rest; rfl
theorem dir : e.coh.dir = d.coh.dir := by obtain ⟨cs, rs, rfl⟩ := h.rest; rfl
theorem reps : e.coh.reps = d.coh.reps := by obtain ⟨cs, rs, rfl⟩ := h.rest; rfl
theorem rd (r : Nat) : e.rd (.sCore n) r = d.rd (.sCore n) r := Dev.rd_congr_sCore (by rw [h.own]) r
theorem tr : e.tr (.sCore n) = d.tr (.sCore n) := by rw [Dev.tr_sCore, h.own, Dev.tr_sCore]
theorem level : e.level (.sCore n) = d.level (.sCore n) := by
  rw [Dev.level_sCore, h.own, Dev.level_sCore]
theorem resvOf : e.resvOf (.sCore n) = if (d.dbg (.sCore n)).stepping then none else d.resvOf (.sCore n) :=
  by
  rw [Dev.resvOf_sCore, h.own, Dev.resvOf_sCore]
theorem dbg : e.dbg (.sCore n) = if (d.dbg (.sCore n)).stepping
    then { d.dbg (.sCore n) with stepping := false, halted := true, reason := 2 } else d.dbg (.sCore n) := by
  rw [Dev.dbg_sCore, h.own]
  cases (d.dbg (.sCore n)).stepping
  · rfl
  · exact NMap.get_put_same _ _ _ _

end Dev.MovedTo

/-- The next state of an instruction that moves past keeps what the part is. -/
theorem State.onDev_dev_past {s : State} {n len : Nat} {f : Dev → Dev} (hcalm : (f s.dev).calm n = true)
    (hpart : (f s.dev).part = s.dev.part) : (s.onDev fun d => (f d).past (.sCore n) len).dev = (f s.dev).past (.sCore n) len :=
  State.onDev_dev_of_part (f := fun d => (f d).past (.sCore n) len) ((Dev.movedTo_past _ n len hcalm).part.trans hpart)

/-! ## The frame of the register forms (R71, R106) -/

/-- A write of a register leaves nothing to end in a calm cluster. -/
theorem Dev.calm_wr_sCore (d : Dev) (n r : Nat) (v : Word) : (d.wr (.sCore n) r v).calm n = d.calm n :=
  Dev.calm_congr (by rw [Dev.cl_wr_sCore, if_pos rfl]) (by rw [Dev.cl_wr_sCore, if_pos rfl])

/-- Every register form writes one value to rd and moves past. -/
theorem registerForm_gives {s : State} {n : Nat} {f : FmtRR} {g : FmtRI} {u : FmtUI} {c : Instr} {rd : BitVec 6}
    (h : s.canIssue (.sCore n))
    (hc : c ∈ [Instr.add (.sCore n) f, .sub (.sCore n) f, .and (.sCore n) f, .or (.sCore n) f, .xor (.sCore n) f, .sll (.sCore n) f,
        .srl (.sCore n) f, .sra (.sCore n) f, .slt (.sCore n) f, .sltu (.sCore n) f, .mul (.sCore n) f, .mulh (.sCore n) f,
        .mulhu (.sCore n) f, .div (.sCore n) f, .divu (.sCore n) f, .rem (.sCore n) f, .remu (.sCore n) f, .min (.sCore n) f,
        .max (.sCore n) f, .minu (.sCore n) f, .maxu (.sCore n) f] ∧ rd = f.rd ∨
      c ∈ [Instr.addi (.sCore n) g, .andi (.sCore n) g, .ori (.sCore n) g, .xori (.sCore n) g, .slti (.sCore n) g,
        .sltiu (.sCore n) g] ∧ rd = g.rd ∨
      c ∈ [Instr.slli (.sCore n) g, .srli (.sCore n) g, .srai (.sCore n) g] ∧ g.imm.toNat < 64 ∧ rd = g.rd ∨
      c ∈ [Instr.cstM (.sCore n) u, .cstH (.sCore n) u, .cstPc (.sCore n) u] ∧ rd = u.rd) :
    ∃ v, exec c s = s.gives fun d => (d.wr (.sCore n) rd.toNat v).past (.sCore n) 4 := by
  simp only [List.mem_cons, List.not_mem_nil, or_false] at hc
  obtain ⟨hc, rfl⟩ | ⟨hc, rfl⟩ | ⟨hc, hi, rfl⟩ | ⟨hc, rfl⟩ := hc
  · rcases hc with rfl | rfl | rfl | rfl | rfl | rfl | rfl | rfl | rfl | rfl | rfl | rfl | rfl | rfl | rfl | rfl | rfl | rfl | rfl |
      rfl | rfl <;> exact ⟨_, instr4_opRR h f _⟩
  · rcases hc with rfl | rfl | rfl | rfl | rfl | rfl <;> exact ⟨_, instr4_opRI h g _⟩
  · rcases hc with rfl | rfl | rfl <;> exact ⟨_, instr4_opShiftI h hi _ _⟩
  · rcases hc with rfl | rfl | rfl <;> exact ⟨_, instr4_opUI h u _⟩

/-- Settles O11: a register form is a register write, and then what moving past leaves. -/
theorem registerFormsFrame : Obligations.RegisterFormsFrame := by
  intro s n f g u c rd h hcalm hc
  obtain ⟨v, hexec⟩ := registerForm_gives h hc
  have hwr (m : Nat) := s.dev.cl_wr_sCore n m rd.toNat v
  have hcalm' : (s.dev.wr (.sCore n) rd.toNat v).calm n = true := (s.dev.calm_wr_sCore n rd.toNat v).trans hcalm
  have honly := s.dev.onlyClusters_wr_sCore n rd.toNat v
  have hdbg : (s.dev.wr (.sCore n) rd.toNat v).dbg (.sCore n) = s.dev.dbg (.sCore n) := by
    rw [Dev.dbg_sCore, hwr, if_pos rfl, Dev.dbg_sCore]
  have hpart : (s.dev.wr (.sCore n) rd.toNat v).part = s.dev.part := by obtain ⟨cs, e⟩ := honly; rw [e]
  have hcoh : (s.dev.wr (.sCore n) rd.toNat v).coh = s.dev.coh := by obtain ⟨cs, e⟩ := honly; rw [e]
  have herrs : (s.dev.wr (.sCore n) rd.toNat v).errs = s.dev.errs := by obtain ⟨cs, e⟩ := honly; rw [e]
  have hmv := Dev.movedTo_past _ n 4 hcalm'
  have hdev := State.onDev_dev_past (f := fun d => d.wr (.sCore n) rd.toNat v) (len := 4) hcalm' hpart
  have hown := hmv.own
  rw [hwr, if_pos rfl] at hown
  refine ⟨_, hexec, rfl, ?_⟩
  rw [hdev]
  refine ⟨fun r hr => ?_, rfl, by rw [hown], by rw [hown], ?_, ?_, by rw [hown], by rw [hown], fun hs => ⟨?_, ?_, ?_⟩,
    fun hs => ⟨?_, ?_, ?_, ?_, ?_, ?_⟩, by rw [hown], by rw [hown], by rw [hown], by rw [hown], fun m hm => ?_, fun o => ?_,
    fun sp x => ?_, ?_⟩
  · rw [hmv.rd, Dev.rd_wr_sCore, if_neg hr]
    split
    case isTrue h0 => rw [h0]; rfl
    case isFalse => rfl
  · rw [hmv.tr, Dev.tr_sCore, hwr, if_pos rfl, Dev.tr_sCore]
  · rw [hmv.level, Dev.level_sCore, hwr, if_pos rfl, Dev.level_sCore]
  · rw [hmv.resvOf, hdbg, hs, Dev.resvOf_sCore, hwr, if_pos rfl]; rfl
  · rw [hmv.coh (hdbg ▸ hs), hcoh]
  · rw [hmv.dbg, hdbg, hs]; rfl
  · rw [hmv.resvOf, hdbg, hs]; rfl
  · rw [hmv.dbg, hdbg, hs]; rfl
  · rw [hmv.dbg, hdbg, hs]; rfl
  · rw [hmv.net, hcoh]
  · rw [hmv.dir, hcoh]
  · rw [hmv.reps, hcoh]
  · rw [hmv.others m hm, hwr, if_neg hm]
  · rw [hmv.reg, Dev.onlyClusters_reg honly]
  · rw [hmv.mem, Dev.onlyClusters_mem honly]
  · rw [hmv.errs, herrs]

end Sys2Proof.Machine
end

section
namespace Sys2Proof.Machine

/-! ## The token instructions complete (R161 to R163) -/

section
variable {s : State} {a : Agent} {f : FmtTK} (h : s.canIssue a) (hf : f.rsv = 0)
include h hf

theorem exec_tokTest : exec (.tokTest a f) s = s.gives fun d =>
    ((d.sawToken a ((s.dev.cl a.cluster).tok f.tok.toNat)).wr a f.ra.toNat ((s.dev.cl a.cluster).tok f.tok.toNat).word).past a 4 :=
  instr4_out h (if_neg (not_not.2 hf)) _ rfl
theorem exec_tokWait (ht : ((s.dev.cl a.cluster).tok f.tok.toNat).st ≠ .pending ∨ s.dev.ownLaunch a f.tok.toNat = true) :
    exec (.tokWait a f) s = s.gives fun d =>
      ((d.sawToken a ((s.dev.cl a.cluster).tok f.tok.toNat)).wr a f.ra.toNat ((s.dev.cl a.cluster).tok f.tok.toNat).word).past a 4 :=
  instr4_out h ((if_neg (not_not.2 hf)).trans (if_neg fun hp => by rcases ht with ht | ht <;> simp [ht] at hp)) _ rfl
theorem exec_tokWait_waits (ht : ((s.dev.cl a.cluster).tok f.tok.toNat).st = .pending)
    (ho : s.dev.ownLaunch a f.tok.toNat = false) :
    exec (.tokWait a f) s = s.gives fun d => d.setWait a (.token f.ra.toNat f.tok.toNat) :=
  instr4_out h ((if_neg (not_not.2 hf)).trans (if_pos ⟨ht, by rw [ho]; rfl⟩)) _ rfl
theorem exec_tokClr (hra : f.ra = 0) (ht : ((s.dev.cl a.cluster).tok f.tok.toNat).st ≠ .pending) :
    exec (.tokClr a f) s = s.gives fun d => (d.onCl a.cluster fun c => c.setTok f.tok.toNat Token.free).past a 4 :=
  instr4_out h ((if_neg (by simp [hf, hra])).trans (if_neg ht)) _ rfl
theorem exec_tokClr_busy (hra : f.ra = 0) (ht : ((s.dev.cl a.cluster).tok f.tok.toNat).st = .pending) :
    exec (.tokClr a f) s = s.gives fun d => d.trapped a cBUSY (BitVec.ofNat 64 f.tok.toNat) :=
  instr4_out h ((if_neg (by simp [hf, hra])).trans (if_pos ht)) _ rfl

end

/-- A token that is no longer PENDING lets the agent that waits for it go on. -/
theorem exec_tokWaitRelease {s : State} {a : Agent} {rd tok : Nat} (ha : Agent.ok a = true) (hw : s.dev.waitOf a = .token rd tok)
    (hh : (s.dev.dbg a).halted = false) (ht : ((s.dev.cl a.cluster).tok tok).st ≠ .pending) :
    exec (.tokWaitRelease a) s = s.gives fun d =>
      (((d.setWait a .none).sawToken a ((d.cl a.cluster).tok tok)).wr a rd ((d.cl a.cluster).tok tok).word).past a 4 := by
  refine (run_gives ha ?_ : execTokWaitRelease a s = _)
  rw [hw]
  exact if_neg (by simp [hh, ht])

/-! ## The issues complete, or take the first of their traps (R95, R206) -/

/-- A form that the issue has (R95, Table 3.10). -/
def issueLegal (a : Agent) (k : IssueKind) (f : FmtTK) : Prop := f.rsv = 0 ∧ ¬(a.isGroup = true ∧ k = .grp)

section
variable {d : Dev} {a : Agent} {k : IssueKind} {f : FmtTK} (hl : issueLegal a k f)
include hl

theorem issueLegal.noTrap : ¬(f.rsv ≠ 0 ∨ a.isGroup = true ∧ k = .grp) := fun h => h.elim (fun h => h hl.1) hl.2
theorem Dev.issueTrap_misaligned (h : d.addrTK a f % 64 ≠ 0) :
    d.issueTrap a k f = some (cMISALIGNED, BitVec.ofNat 64 (d.addrTK a f)) :=
  (if_neg hl.noTrap).trans (if_pos h)
section
variable (h64 : d.addrTK a f % 64 = 0)
include h64
theorem Dev.issueTrap_operand (h : ¬d.addrTK a f + 64 ≤ localSize) :
    d.issueTrap a k f = some (cOPERAND, BitVec.ofNat 64 (d.addrTK a f)) :=
  (if_neg hl.noTrap).trans ((if_neg (not_not.2 h64)).trans (if_pos (Nat.not_le.1 h)))
variable (hin : d.addrTK a f + 64 ≤ localSize)
include hin
theorem Dev.issueTrap_unmapped (h : ¬d.accessTrap a .load false true (d.addrTK a f) 64 = none) :
    d.issueTrap a k f = some (cUNMAPPED, BitVec.ofNat 64 (d.addrTK a f)) :=
  (if_neg hl.noTrap).trans ((if_neg (not_not.2 h64)).trans ((if_neg (Nat.not_lt.2 hin)).trans (if_pos (Option.isSome_iff_ne_none.2 h))))
variable (hacc : d.accessTrap a .load false true (d.addrTK a f) 64 = none)
include hacc
theorem Dev.issueTrap_busy (h : ((d.cl a.cluster).tok f.tok.toNat).st = .pending) :
    d.issueTrap a k f = some (cBUSY, BitVec.ofNat 64 f.tok.toNat) :=
  (if_neg hl.noTrap).trans ((if_neg (not_not.2 h64)).trans ((if_neg (Nat.not_lt.2 hin)).trans
    ((if_neg (by simp [hacc])).trans (if_pos h))))
theorem Dev.issueTrap_none (h : ¬((d.cl a.cluster).tok f.tok.toNat).st = .pending) : d.issueTrap a k f = none :=
  (if_neg hl.noTrap).trans ((if_neg (not_not.2 h64)).trans ((if_neg (Nat.not_lt.2 hin)).trans
    ((if_neg (by simp [hacc])).trans (if_neg h))))
end
end

/-- The four issues are one operation. -/
theorem exec_issue {a : Agent} {k : IssueKind} {f : FmtTK} {c : Instr}
    (hc : c = .cpIssue a f ∧ k = .cp ∨ c = .gtIssue a f ∧ k = .gt ∨ c = .grpStart a f ∧ k = .grp ∨
      c = .mxIssue a f false ∧ k = .mx)
    (s : State) : exec c s = instr4 a s (issueOut a k f) := by
  obtain ⟨rfl, rfl⟩ | ⟨rfl, rfl⟩ | ⟨rfl, rfl⟩ | ⟨rfl, rfl⟩ := hc <;> rfl

section
variable {s : State} {a : Agent} {k : IssueKind} {f : FmtTK} (h : s.canIssue a)
include h

theorem instr4_issue_trap {c : Nat} {v : Word} (ht : s.dev.issueTrap a k f = some (c, v)) :
    instr4 a s (issueOut a k f) = s.gives fun d => d.trapped a c v :=
  instr4_out (o := .trap c v) h (by simp only [issueOut, ht]) _ rfl
/-- An issue without a trap, with room, with no store to wait for, whose 64 bytes read well, is queued. -/
theorem instr4_issue_done {w : BitVec 512} {x : Dev} (ht : s.dev.issueTrap a k f = none)
    (hmx : k = .mx → (s.dev.cl a.cluster).wbq.length < 16) (hout : k = .cp ∨ k = .gt → (s.dev.cl a.cluster).outq.length < 16)
    (hw : s.dev.issueWaits a k = false) (hr : s.dev.copy64 a.cluster (s.dev.addrTK a f) = (.ok w, x)) :
    instr4 a s (issueOut a k f) = s.gives fun _ => (x.enqueue a k f w).past a 4 := by
  refine instr4_out (o := .done (x.enqueue a k f w)) h ?_ _ rfl
  have h1 : ¬(k = .mx ∧ (s.dev.cl a.cluster).wbq.length ≥ 16) := fun hk => absurd (hmx hk.1) (Nat.not_lt.2 hk.2)
  have h2 : ¬((k = .cp ∨ k = .gt) ∧ (s.dev.cl a.cluster).outq.length ≥ 16) := fun hk => absurd (hout hk.1) (Nat.not_lt.2 hk.2)
  simp only [issueOut, ht, if_neg h1, if_neg h2, hw, hr, Bool.false_eq_true, if_false]

end

/-- Settles O28: the traps of an issue are looked at in the order of R95, and without one it is queued. -/
theorem tokensAndIssuesComplete : Obligations.TokensAndIssuesComplete := by
  refine ⟨fun s a f => ?_, fun s a k f c h hc => ?_⟩
  · intro t got
    exact ⟨fun h hf => ⟨exec_tokTest h hf, exec_tokWait h hf, exec_tokWait_waits h hf, exec_tokClr h hf, exec_tokClr_busy h hf⟩,
      fun rd tok ha hw hh ht => exec_tokWaitRelease ha hw hh ht⟩
  · intro addr room inside allowed legal pending
    have trapped {x : Nat} {v : Word} (ht : s.dev.issueTrap a k f = some (x, v)) : exec c s = s.gives fun d => d.trapped a x v :=
      (exec_issue hc s).trans (instr4_issue_trap h ht)
    refine ⟨fun w x hl h64 hin hacc hp hroom hw hr => ?_, fun hl hm => trapped (Dev.issueTrap_misaligned hl hm),
      fun hl h64 hout => trapped (Dev.issueTrap_operand hl h64 hout),
      fun hl h64 hin hacc => trapped (Dev.issueTrap_unmapped hl h64 hin hacc),
      fun hl h64 hin hacc hp => trapped (Dev.issueTrap_busy hl h64 hin hacc hp), ?_⟩
    · exact (exec_issue hc s).trans
        (instr4_issue_done h (Dev.issueTrap_none hl h64 hin hacc hp) hroom.1 hroom.2 hw hr)
    · obtain ⟨ha, hr, -, -⟩ := h
      exact (run_gives (g := fun d => d.internalError a) ha (if_pos hr) : execMxIssue a f true s = _)

end Sys2Proof.Machine
end

section
namespace Sys2Proof.Machine

/-! ## Tokens of a cluster (R157) -/

theorem Cluster.tok_setTok (c : Cluster) (k i : Nat) (t : Token) : (c.setTok k t).tok i = if i = k then t else c.tok i :=
  NMap.get_set _ _ _ _ _
/-- The token that a claim leaves (R157). -/
def Cluster.claimed (c : Cluster) (a : Agent) (source : Nat) (tag : BitVec 16) (epoch : Word) : Token :=
  { st := .pending, status := 0, tag := tag, source := source, issuer := a.core, group := a.slot
    epoch := setFld 0 23 0 epoch.toNat, cid := c.cid }
theorem Cluster.tok_claim (c : Cluster) (k i : Nat) (a : Agent) (source : Nat) (tag : BitVec 16) (epoch : Word) :
    (c.claim k a source tag epoch).tok i = if i = k then c.claimed a source tag epoch else c.tok i :=
  c.tok_setTok k i _
/-- A completion for the command that claimed a token just now reaches it (R157). -/
theorem Cluster.complete_claim (c : Cluster) (k : Nat) (a : Agent) (source : Nat) (tag : BitVec 16) (epoch : Word) (status : Nat) :
    (c.claim k a source tag epoch).complete k c.cid status =
      (c.claim k a source tag epoch).setTok k { c.claimed a source tag epoch with st := .done, status := BitVec.ofNat 8 status } := by
  have ht : (c.claim k a source tag epoch).tok k = c.claimed a source tag epoch := by rw [Cluster.tok_claim, if_pos rfl]
  rw [Cluster.complete, ht]
  exact if_pos ⟨rfl, rfl⟩

/-! ## What an issue leaves (R95, R107, R283), by its kind -/

/-- TAG of the token that an issue claims. -/
def issueTag (w : BitVec 512) : IssueKind → BitVec 16
  | .mx => wTAG w
  | .grp => 0
  | .gt => BitVec.ofNat 16 (bytesAt w 6 2)
  | .cp => BitVec.ofNat 16 (bytesAt w 4 2)
/-- The token that an issue claims. -/
def Dev.issueToken (d : Dev) (a : Agent) (k : IssueKind) (w : BitVec 512) : Token :=
  (d.cl a.cluster).claimed a (issueSource k) (issueTag w k) (d.cl a.cluster).s.epoch
/-- The work of an issue is taken: a copy or gather is on a channel that the issuer's function may use (R283). -/
def Dev.issueTaken (d : Dev) (a : Agent) (k : IssueKind) (w : BitVec 512) : Prop :=
  k = .mx ∨ k = .grp ∨
    d.channelOk (decide (k = .gt)) (outChannel (decide (k = .gt)) w) (d.cl a.cluster).s.func.toNat = true

/-- What an issue leaves in its cluster `c`. -/
structure Dev.IssueLeaves (d : Dev) (a : Agent) (k : IssueKind) (f : FmtTK) (w : BitVec 512) (c : Cluster) : Prop where
  s : c.s = (d.cl a.cluster).s
  groups : c.groups = (d.cl a.cluster).groups
  taken : d.issueTaken a k w → c.tokens = ((d.cl a.cluster).setTok f.tok.toNat (d.issueToken a k w)).tokens
  bad : ¬d.issueTaken a k w → c.outq = (d.cl a.cluster).outq ∧
    ∃ c' : Cluster, (∀ i, i ≠ f.tok.toNat → c'.tok i = (d.cl a.cluster).tok i) ∧
    c.tokens = (c'.setTok f.tok.toNat
      { d.issueToken a k w with st := .done, status := if k = .gt then 0x41 else 0x31 }).tokens
  waybill : k = .mx → ∃ b, c.wbq = (d.cl a.cluster).wbq ++ [b] ∧ b.w = w ∧ b.tok = f.tok.toNat ∧ b.seed = (d.cl a.cluster).srSeed
  noWaybill : k ≠ .mx → c.wbq = (d.cl a.cluster).wbq
  launch : k = .grp →
    ∃ l, c.launches = (d.cl a.cluster).launches ++ [l] ∧ l.record = w ∧ l.tok = f.tok.toNat ∧ l.next = 0 ∧ l.resident = 0
  noLaunch : k ≠ .grp → c.launches = (d.cl a.cluster).launches
  out : d.issueTaken a k w → k = .cp ∨ k = .gt →
    ∃ o, c.outq = (d.cl a.cluster).outq ++ [o] ∧ o.record = w ∧ o.tok = f.tok.toNat ∧ o.gather = decide (k = .gt)

/-- A copy or gather on a channel that the issuer may use is queued. -/
theorem Dev.enqueue_out {d : Dev} {a : Agent} {k : IssueKind} {w : BitVec 512} (f : FmtTK) (hk : k = .cp ∨ k = .gt)
    (h : d.channelOk (decide (k = .gt)) (outChannel (decide (k = .gt)) w) (d.cl a.cluster).s.func.toNat = true) :
    ∃ o : OutCmd, d.enqueue a k f w = d.setCl a.cluster { (d.cl a.cluster).setTok f.tok.toNat (d.issueToken a k w) with
      outq := (d.cl a.cluster).outq ++ [o] } ∧ o.record = w ∧ o.tok = f.tok.toNat ∧ o.gather = decide (k = .gt) := by
  obtain rfl | rfl := hk
  · exact ⟨_, if_pos h, rfl, rfl, rfl⟩
  · exact ⟨_, if_pos h, rfl, rfl, rfl⟩
/-- One on a channel that the issuer may not use has a token that is DONE at once, with BAD_CHANNEL. -/
theorem Dev.enqueue_badChannel {d : Dev} {a : Agent} {k : IssueKind} {w : BitVec 512} (f : FmtTK) (hk : k = .cp ∨ k = .gt)
    (h : ¬d.channelOk (decide (k = .gt)) (outChannel (decide (k = .gt)) w) (d.cl a.cluster).s.func.toNat = true) :
    d.enqueue a k f w = d.setCl a.cluster (((d.cl a.cluster).setTok f.tok.toNat (d.issueToken a k w)).setTok f.tok.toNat
      { d.issueToken a k w with st := .done, status := if k = .gt then 0x41 else 0x31 }) := by
  obtain rfl | rfl := hk
  · exact (if_neg h).trans (congrArg _ (Cluster.complete_claim ..))
  · exact (if_neg h).trans (congrArg _ (Cluster.complete_claim ..))

/-- An issue changes its own cluster, and numbers its launch. -/
theorem Dev.enqueue_leaves (d : Dev) (a : Agent) (k : IssueKind) (f : FmtTK) (w : BitVec 512) :
    ∃ (c : Cluster) (i : Nat), d.enqueue a k f w = { d.setCl a.cluster c with nextCid := i } ∧ d.IssueLeaves a k f w c := by
  have out (hk : k = .cp ∨ k = .gt) : k ≠ .mx ∧ k ≠ .grp := by obtain rfl | rfl := hk <;> exact ⟨nofun, nofun⟩
  by_cases hk : k = .cp ∨ k = .gt
  · obtain ⟨hmx, hgrp⟩ := out hk
    by_cases h : d.channelOk (decide (k = .gt)) (outChannel (decide (k = .gt)) w) (d.cl a.cluster).s.func.toNat = true
    · obtain ⟨o, he, ho⟩ := Dev.enqueue_out f hk h
      exact ⟨_, d.nextCid, he, ⟨rfl, rfl, fun _ => rfl, fun hn => absurd (.inr (.inr h)) hn, fun e => absurd e hmx, fun _ => rfl,
        fun e => absurd e hgrp, fun _ => rfl, fun _ _ => ⟨o, rfl, ho⟩⟩⟩
    · have hn : ¬d.issueTaken a k w := fun ht => ht.elim hmx fun ht => ht.elim hgrp h
      exact ⟨_, d.nextCid, Dev.enqueue_badChannel f hk h, ⟨rfl, rfl, fun ht => absurd ht hn,
        fun _ => ⟨rfl, _, fun i hi => by rw [Cluster.tok_setTok, if_neg hi], rfl⟩, fun e => absurd e hmx, fun _ => rfl,
        fun e => absurd e hgrp, fun _ => rfl, fun ht => absurd ht hn⟩⟩
  · cases k with
    | cp => exact absurd (.inl rfl) hk
    | gt => exact absurd (.inr rfl) hk
    | mx => exact ⟨_, d.nextCid, rfl, ⟨rfl, rfl, fun _ => rfl, fun hn => absurd (.inl rfl) hn, fun _ => ⟨_, rfl, rfl, rfl, rfl⟩,
        fun hn => absurd rfl hn, nofun, fun _ => rfl, fun _ => nofun⟩⟩
    | grp => exact ⟨_, d.nextCid + 1, rfl, ⟨rfl, rfl, fun _ => rfl, fun hn => absurd (.inr (.inl rfl)) hn, nofun, fun _ => rfl,
        fun _ => ⟨_, rfl, rfl, rfl, rfl, rfl⟩, fun hn => absurd rfl hn, fun _ => nofun⟩⟩

/-! ## What the token instructions that complete at once leave -/

theorem Cluster.tok_congr {c c' : Cluster} (h : c.tokens = c'.tokens) (i : Nat) : c.tok i = c'.tok i := by simp [Cluster.tok, h]
/-- Reading a token changes nothing but what a DONE one makes stale (R165, R269). -/
theorem Dev.cl_sawToken_same (d : Dev) (a : Agent) (t : Token) :
    ∃ ms, (d.sawToken a t).cl a.cluster = { d.cl a.cluster with misses := ms } := by
  unfold Dev.sawToken
  split
  · exact ⟨_, Dev.cl_onCl_same ..⟩
  · exact ⟨_, rfl⟩
theorem Dev.cl_sawToken_ne (d : Dev) (a : Agent) (t : Token) {m : Nat} (h : m ≠ a.cluster) : (d.sawToken a t).cl m = d.cl m := by
  unfold Dev.sawToken
  split
  · exact Dev.cl_onCl_ne _ _ h
  · rfl
theorem Dev.onlyClusters_sawToken (d : Dev) (a : Agent) (t : Token) : d.onlyClusters (d.sawToken a t) := by
  unfold Dev.sawToken
  split
  · exact Dev.onlyClusters_setCl d.onlyClusters_refl _ _
  · exact d.onlyClusters_refl

/-- `e` is `d` but for registers, tokens and stale reads of cluster `n`, of which `tokens` are the tokens. -/
def Dev.TokenStep (d e : Dev) (n : Nat) (tokens : NMap Token) : Prop :=
  d.onlyClusters e ∧ (∀ m, m ≠ n → e.cl m = d.cl m) ∧
    ∃ rs ms, e.cl n = { d.cl n with s := { (d.cl n).s with regs := rs }, misses := ms, tokens := tokens }

/-- Reading a token into a register. -/
theorem Dev.tokenStep_read (d : Dev) (n r : Nat) (t : Token) (v : Word) :
    d.TokenStep ((d.sawToken (.sCore n) t).wr (.sCore n) r v) n (d.cl n).tokens := by
  obtain ⟨ms, hsame : (d.sawToken (.sCore n) t).cl n = { d.cl n with misses := ms }⟩ := d.cl_sawToken_same (.sCore n) t
  refine ⟨?_, fun m hm => ?_, ?_⟩
  · obtain ⟨cs, hs⟩ := d.onlyClusters_sawToken (.sCore n) t
    obtain ⟨cs', hw⟩ := (d.sawToken (.sCore n) t).onlyClusters_wr_sCore n r v
    exact ⟨cs', by rw [hw, hs]⟩
  · rw [Dev.cl_wr_sCore, if_neg hm, Dev.cl_sawToken_ne d (.sCore n) t hm]
  · exact ⟨_, _, by rw [Dev.cl_wr_sCore, if_pos rfl, hsame]⟩
/-- Making a token FREE. -/
theorem Dev.tokenStep_clear (d : Dev) (n k : Nat) :
    d.TokenStep (d.onCl n fun c => c.setTok k Token.free) n ((d.cl n).setTok k Token.free).tokens :=
  ⟨⟨_, rfl⟩, fun _ hm => Dev.cl_onCl_ne _ _ hm, _, _, Dev.cl_onCl_same ..⟩

/-- What is left after such a step and moving past, in a calm cluster. -/
theorem Dev.TokenStep.past {d e : Dev} {n : Nat} {ts : NMap Token} (h : d.TokenStep e n ts) (hcalm : d.calm n = true) :
    e.calm n = true ∧ e.part = d.part ∧ ((e.past (.sCore n) 4).cl n).tokens = ts ∧
    (∀ m, m ≠ n → (e.past (.sCore n) 4).cl m = d.cl m) ∧ (∀ sp, (e.past (.sCore n) 4).mem sp = d.mem sp) ∧
    (∀ o, (e.past (.sCore n) 4).reg o = d.reg o) ∧ ((e.past (.sCore n) 4).cl n).wbq = (d.cl n).wbq ∧
    ((e.past (.sCore n) 4).cl n).outq = (d.cl n).outq ∧ (e.past (.sCore n) 4).tr (.sCore n) = d.tr (.sCore n) ∧
    ∀ r, (e.past (.sCore n) 4).rd (.sCore n) r = e.rd (.sCore n) r := by
  obtain ⟨honly, hothers, rs, ms, hown⟩ := h
  have hc : e.calm n = true := (Dev.calm_congr (by rw [hown]) (by rw [hown])).trans hcalm
  have hmv := e.movedTo_past n 4 hc
  have hmine := hmv.own
  rw [hown] at hmine
  refine ⟨hc, ?_, by rw [hmine], fun m hm => (hmv.others m hm).trans (hothers m hm),
    fun sp => (hmv.mem sp).trans (Dev.onlyClusters_mem honly sp), fun o => (hmv.reg o).trans (Dev.onlyClusters_reg honly o),
    by rw [hmine], by rw [hmine], ?_, hmv.rd⟩
  · obtain ⟨cs, he⟩ := honly
    rw [he]
  · rw [hmv.tr, Dev.tr_sCore, hown, Dev.tr_sCore]

theorem Dev.TokenStep.next {s t : State} {n : Nat} {ts : NMap Token} {c : Instr} {F : Dev → Dev} (h : s.dev.TokenStep (F s.dev) n ts)
    (hcalm : s.dev.calm n = true) (hx : exec c s = s.gives fun d => (F d).past (.sCore n) 4) (hexec : exec c s = .next t) :
    t.dev = (F s.dev).past (.sCore n) 4 := by
  obtain ⟨hc, hpart, -⟩ := h.past hcalm
  exact (congrArg State.dev (Host.Outcome.next.inj (hexec.symm.trans hx))).trans (State.onDev_dev_past hc hpart)

/-- Settles O29, by what each token instruction writes and what an issue leaves in its cluster. -/
theorem tokenEffects : Obligations.TokenEffects := by
  refine ⟨fun s n f c t h hcalm hf ht hc hexec => ?_, fun d a k f w => ?_⟩
  · obtain hc | ⟨rfl, hra⟩ : (c = .tokTest (.sCore n) f ∨ c = .tokWait (.sCore n) f) ∨ c = .tokClr (.sCore n) f ∧ f.ra = 0 := by
      rwa [or_assoc]
    · have hx : exec c s = s.gives fun d => ((d.sawToken (.sCore n) ((s.dev.cl n).tok f.tok.toNat)).wr (.sCore n) f.ra.toNat
          ((s.dev.cl n).tok f.tok.toNat).word).past (.sCore n) 4 := by
        obtain rfl | rfl := hc
        · exact exec_tokTest h hf
        · exact exec_tokWait h hf (.inl ht)
      have hne : c ≠ .tokClr (.sCore n) f := by obtain rfl | rfl := hc <;> exact nofun
      have hstep := s.dev.tokenStep_read n f.ra.toNat ((s.dev.cl n).tok f.tok.toNat) ((s.dev.cl n).tok f.tok.toNat).word
      obtain ⟨-, -, htok, hcl, hmem, hreg, hwbq, houtq, htr, hrd⟩ := hstep.past hcalm
      have hsaw : (s.dev.sawToken (.sCore n) ((s.dev.cl n).tok f.tok.toNat)).rd (.sCore n) = s.dev.rd (.sCore n) := by
        obtain ⟨ms, hsame : (s.dev.sawToken (.sCore n) ((s.dev.cl n).tok f.tok.toNat)).cl n = { s.dev.cl n with misses := ms }⟩ :=
          s.dev.cl_sawToken_same (.sCore n) ((s.dev.cl n).tok f.tok.toNat)
        exact funext fun r => Dev.rd_congr_sCore (by rw [hsame]) r
      rw [hstep.next (F := fun d => (d.sawToken (.sCore n) ((s.dev.cl n).tok f.tok.toNat)).wr (.sCore n) f.ra.toNat
        ((s.dev.cl n).tok f.tok.toNat).word) hcalm hx hexec]
      refine ⟨fun r hr => ?_, fun _ => ⟨htok, fun hr => ?_⟩, fun e => absurd e hne, fun k _ => Cluster.tok_congr htok k, hcl,
        fun sp x => by rw [hmem], hreg, hwbq, houtq, htr⟩
      · rw [hrd, Dev.rd_wr_sCore, if_neg hr, hsaw]
        split
        case isTrue h0 => rw [h0]; rfl
        case isFalse => rfl
      · have hr0 : f.ra.toNat ≠ 0 := fun h0 => hr (BitVec.eq_of_toNat_eq h0)
        rw [hrd, Dev.rd_wr_sCore, if_neg hr0, if_pos rfl]
    · have hx : exec (.tokClr (.sCore n) f) s = s.gives fun d =>
          (d.onCl n fun c => c.setTok f.tok.toNat Token.free).past (.sCore n) 4 := exec_tokClr h hf hra ht
      have hstep := s.dev.tokenStep_clear n f.tok.toNat
      obtain ⟨-, -, htok, hcl, hmem, hreg, hwbq, houtq, htr, hrd⟩ := hstep.past hcalm
      rw [hstep.next (F := fun d => d.onCl n fun c => c.setTok f.tok.toNat Token.free) hcalm hx hexec]
      refine ⟨fun r _ => ?_, fun hne => absurd rfl hne, fun _ => ?_, fun k hk => ?_, hcl, fun sp x => by rw [hmem], hreg,
        hwbq, houtq, htr⟩
      · rw [hrd]
        exact Dev.rd_congr_sCore (by rw [Dev.cl_onCl_same]; rfl) r
      · rw [Cluster.tok_congr htok, Cluster.tok_setTok, if_pos rfl]
      · rw [Cluster.tok_congr htok, Cluster.tok_setTok, if_neg hk]
  · obtain ⟨c, i, he, hl⟩ := d.enqueue_leaves a k f w
    have hcl (m : Nat) : (d.enqueue a k f w).cl m = (d.setCl a.cluster c).cl m := by rw [he]; rfl
    have hmem (sp : MSpace) : (d.enqueue a k f w).mem sp = (d.setCl a.cluster c).mem sp := by rw [he]; cases sp <;> rfl
    intro n x t good
    have hx : x = c := (hcl n).trans (d.cl_setCl_same n c)
    have htok : ∃ st status, t = { d.issueToken a k w with st := st, status := status } ∧ (good → st = .pending) ∧
        (¬good → st = .done ∧ status = if k = .gt then 0x41 else 0x31) ∧ ∀ i, i ≠ f.tok.toNat → x.tok i = (d.cl n).tok i := by
      by_cases hg : good
      · have ht (i : Nat) := (Cluster.tok_congr (hl.taken hg) i).trans (Cluster.tok_setTok ..)
        refine ⟨.pending, 0, ?_, fun _ => rfl, fun hn => absurd hg hn, fun i hi => ?_⟩
        · rw [show t = c.tok f.tok.toNat from hx ▸ rfl, ht, if_pos rfl]; rfl
        · rw [hx, ht, if_neg hi]
      · obtain ⟨-, c', hc', htoks⟩ := hl.bad hg
        have ht (i : Nat) := (Cluster.tok_congr htoks i).trans (Cluster.tok_setTok ..)
        refine ⟨.done, if k = .gt then 0x41 else 0x31, ?_, fun hg' => absurd hg' hg, fun _ => ⟨rfl, rfl⟩, fun i hi => ?_⟩
        · rw [show t = c.tok f.tok.toNat from hx ▸ rfl, ht, if_pos rfl]
        · rw [hx, ht, if_neg hi, hc' i hi]
    obtain ⟨st, status, ht, hgood, hbad, hne⟩ := htok
    rw [ht, hx]
    refine ⟨rfl, rfl, rfl, rfl, hgood, fun hg => ⟨(hbad hg).1, (hbad hg).2, (hl.bad hg).1⟩, hx ▸ hne, hl.waybill,
      hl.noWaybill, hl.launch,
      hl.noLaunch, hl.out, hl.s, hl.groups, fun m hm => (hcl m).trans (Dev.cl_setCl_ne _ _ hm), fun sp y => ?_⟩
    rw [hmem, Dev.mem_setCl]

end Sys2Proof.Machine
end

section
namespace Sys2Proof.Machine

/-! ## Trap entry (R82) -/

theorem getLsbD_setBit {w : Nat} (v : BitVec w) (k i : Nat) (b : Bool) (hw : i < w) :
    (setBit v k b).getLsbD i = if i = k then b else v.getLsbD i := by
  rw [setBit, getLsbD_setFld _ _ _ _ _ hw]
  by_cases h : i = k
  · subst h
    rw [if_pos ⟨le_rfl, le_rfl⟩, if_pos rfl, Nat.sub_self]
    cases b <;> rfl
  · rw [if_neg fun e => h (Nat.le_antisymm e.2 e.1), if_neg h]

section
variable (t : TrapRegs) (lvl : Level) (pc cause : Nat) (val : Word)

theorem TrapRegs.take_ppriv : (t.take lvl pc cause val).1.tstatus.getLsbD 0 = decide (lvl = .keeper) := by
  simp [TrapRegs.take, getLsbD_setBit, -BitVec.getLsbD_eq_getElem]
theorem TrapRegs.take_fatal : (t.take lvl pc cause val).1.tstatus.getLsbD 1 = decide (cause = cINTERNAL) := by
  simp [TrapRegs.take, getLsbD_setBit, -BitVec.getLsbD_eq_getElem]
theorem TrapRegs.take_delegated : (t.take lvl pc cause val).1.tstatus.getLsbD 2 = (t.take lvl pc cause val).2 := by
  simp [TrapRegs.take, getLsbD_setBit, -BitVec.getLsbD_eq_getElem]
/-- A trap is delegated at Guest level alone, when its cause can be and GDELEG lets it (R82). -/
theorem TrapRegs.take_snd_iff : (t.take lvl pc cause val).2 = true ↔
    lvl = .guest ∧ delegable cause = true ∧ t.gdeleg.getLsbD cause = true := by
  simp [TrapRegs.take, bitAt, and_assoc]

end

/-- The S-core `s` after it has taken a trap; `e` is what an ecall saves. -/
def SCore.trapped (s : SCore) (cause : Nat) (val : Word) (e : Option TrapRegs) : SCore :=
  let t := s.tr.take s.level s.pc.toNat cause val
  if t.2 then { s with resv := none, tr := t.1, pc := s.tr.gtvec.setWidth 48 }
  else { s with resv := none, tr := t.1, level := .keeper, pc := s.ktvec.setWidth 48, ecallTr := e }

theorem Dev.cl_endResv_sCore (d : Dev) (n m : Nat) : (d.endResv (.sCore n)).cl m =
    if m = n then { d.cl n with s := { (d.cl n).s with resv := none } } else d.cl m :=
  d.cl_onCl n m fun c => { c with s := { c.s with resv := none } }
/-- A trap of an S-core changes the core and what its command records. -/
theorem Dev.cl_trapS_same (d : Dev) (n cause : Nat) (val : Word) :
    ∃ e r, (d.trapS n cause val).cl n = { d.cl n with s := (d.cl n).s.trapped cause val e, run := r } := by
  have hend : (d.endResv (.sCore n)).cl n = { d.cl n with s := { (d.cl n).s with resv := none } } := by
    rw [Dev.cl_endResv_sCore, if_pos rfl]
  unfold Dev.trapS SCore.trapped
  cases hdel : ((d.cl n).s.tr.take (d.cl n).s.level (d.cl n).s.pc.toNat cause val).2 with
  | true =>
    refine ⟨none, (d.cl n).run, ?_⟩
    simp only [hdel, if_true, Dev.cl_onS_same, hend, BitVec.ofNat_toNat]
    rfl
  | false =>
    simp only [hdel, Bool.false_eq_true, if_false, BitVec.ofNat_toNat]
    split
    · exact ⟨_, _, by rw [Dev.onRun, Dev.cl_onCl_same, Dev.cl_onS_same, hend]⟩
    · exact ⟨_, (d.cl n).run, by rw [Dev.cl_onS_same, hend]⟩
theorem Dev.cl_trapS_ne (d : Dev) {n m : Nat} (cause : Nat) (val : Word) (h : m ≠ n) : (d.trapS n cause val).cl m = d.cl m := by
  have hend : (d.endResv (.sCore n)).cl m = d.cl m := by rw [Dev.cl_endResv_sCore, if_neg h]
  simp only [Dev.trapS]
  split
  · rw [Dev.cl_onS_ne _ _ h, hend]
  · split
    · rw [Dev.onRun, Dev.cl_onCl_ne _ _ h, Dev.cl_onS_ne _ _ h, hend]
    · rw [Dev.cl_onS_ne _ _ h, hend]

theorem Dev.grp_setGrp_same (d : Dev) {a : Agent} (h : a.isGroup = true) (g : Group) : (d.setGrp a g).grp a = some g := by
  rw [Dev.grp_of_isGroup _ h, Dev.setGrp, Dev.cl_onCl_same, NMap.find_put, if_pos rfl]
theorem Group.pcOf_setPcs (g : Group) (m : BitVec 32) (pc : Nat) {l : Nat} (h : l < 32) :
    (g.setPcs m pc).pcOf l = if m.getLsbD l then BitVec.ofNat 48 pc else g.pcOf l := by
  simp [Group.setPcs, Group.pcOf, h]

/-- A delegated trap of a group moves the trapping threads to GTVEC. -/
theorem Dev.trapG_delegated (d : Dev) (a : Agent) (g : Group) (cause : Nat) (val : Word) (h : delegable cause = true)
    (hg : g.tr.gdeleg.getLsbD cause = true) : d.trapG a g cause val = (d.endResv a).setGrp a
      ({ g with tr := (g.tr.take .guest (g.lowPc.getD 0) cause val).1, resv := none }.setPcs g.active g.tr.gtvec.toNat) := by
  have hdel : (g.tr.take .guest (g.lowPc.getD 0) cause val).2 = true := (TrapRegs.take_snd_iff ..).2 ⟨rfl, h, hg⟩
  simp only [Dev.trapG, hdel, if_true]
  rfl

/-! ## `eret` (R82, R136) -/

theorem TrapRegs.ret_delegated (t : TrapRegs) : t.ret.tstatus.getLsbD 2 = false := by
  simp [TrapRegs.ret, getLsbD_setBit, -BitVec.getLsbD_eq_getElem]
theorem TrapRegs.ret_ppriv (t : TrapRegs) : t.ret.tstatus.getLsbD 0 = t.tstatus.getLsbD 0 := by
  simp [TrapRegs.ret, getLsbD_setBit, -BitVec.getLsbD_eq_getElem]
/-- A target that can be reached lies below 2^48. -/
theorem toNat_lt_of_targetTrap {t : Word} (h : targetTrap t = none) : t.toNat < 2 ^ 48 := by
  unfold targetTrap at h
  split at h
  · cases h
  · split at h
    · cases h
    · omega

/-- The S-core `s` after the trap return, before it moves. -/
def SCore.returned (s : SCore) : SCore :=
  { s with
    resv := none
    tr := s.tr.ret
    level := if decide (s.level = .keeper) && bitAt s.tr.tstatus 0 then .keeper else .guest
    ecallTr := none }

/-- The device after the trap return of the S-core of cluster `n`, before the core moves. -/
def Dev.returned (d : Dev) (n : Nat) : Dev :=
  let e := (d.endResv (.sCore n)).setTr (.sCore n) (d.tr (.sCore n)).ret
  let up := decide ((e.cl n).s.level = .keeper) && bitAt (d.tr (.sCore n)).tstatus 0
  e.onCl n fun c => { c with entering := c.entering && up, s := { c.s with level := if up then .keeper else .guest, ecallTr := none } }
theorem Dev.cl_returned (d : Dev) (n : Nat) :
    ∃ e, (d.returned n).cl n = { d.cl n with s := (d.cl n).s.returned, entering := e } := by
  have hcl : ((d.endResv (.sCore n)).setTr (.sCore n) (d.tr (.sCore n)).ret).cl n =
      { d.cl n with s := { (d.cl n).s with resv := none, tr := (d.cl n).s.tr.ret } } := by
    rw [Dev.setTr, Dev.cl_onS_same, Dev.cl_endResv_sCore, if_pos rfl]
    rfl
  exact ⟨_, by rw [Dev.returned, Dev.cl_onCl_same, hcl]; rfl⟩
theorem exec_eret {s : State} {n : Nat} (f : FmtSY) (h : s.canIssue (.sCore n)) (ht : targetTrap (s.dev.tr (.sCore n)).tpc = none) :
    exec (.eret (.sCore n) f) s = s.gives fun d => (d.returned n).reached (.sCore n) (s.dev.tr (.sCore n)).tpc.toNat := by
  refine instr4_out h (o := .goto (s.dev.returned n) (s.dev.tr (.sCore n)).tpc.toNat) ?_ _ rfl
  simp only [ht]
  rfl

/-- `eret` of an S-core in a calm cluster: the core is at TPC, and all else of it is as after the trap return. -/
theorem exec_eret_calm {s : State} {n : Nat} (f : FmtSY) (h : s.canIssue (.sCore n)) (hcalm : s.dev.calm n = true)
    (ht : targetTrap (s.dev.tr (.sCore n)).tpc = none) :
    ∃ x, exec (.eret (.sCore n) f) s = .next x ∧ x.dev.resvOf (.sCore n) = none ∧
      (x.dev.cl n).s.pc = (s.dev.tr (.sCore n)).tpc.setWidth 48 ∧ x.dev.tr (.sCore n) = (s.dev.tr (.sCore n)).ret ∧
      x.dev.level (.sCore n) = (s.dev.cl n).s.returned.level ∧ ∀ r, x.dev.rd (.sCore n) r = s.dev.rd (.sCore n) r := by
  obtain ⟨e, hcl⟩ := s.dev.cl_returned n
  have hcalm' : (s.dev.returned n).calm n = true := (Dev.calm_congr (by rw [hcl]) (by rw [hcl])).trans hcalm
  have hmv := (s.dev.returned n).movedTo_reached n (s.dev.tr (.sCore n)).tpc.toNat hcalm'
  have hdev := State.onDev_dev_of_part (s := s)
    (f := fun d => (d.returned n).reached (.sCore n) (s.dev.tr (.sCore n)).tpc.toNat) hmv.part
  refine ⟨_, exec_eret f h ht, ?_⟩
  rw [hdev]
  refine ⟨?_, ?_, ?_, ?_, fun r => ?_⟩
  · rw [hmv.resvOf, Dev.resvOf_sCore, hcl]
    exact ite_self _
  · rw [hmv.own, BitVec.ofNat_toNat]
  · rw [hmv.tr, Dev.tr_sCore, hcl]
    rfl
  · rw [hmv.level, Dev.level_sCore, hcl]
  · rw [hmv.rd]
    exact Dev.rd_congr_sCore (by rw [hcl]; rfl) r

theorem SCore.returned_level_keeper (s : SCore) :
    s.returned.level = .keeper ↔ s.level = .keeper ∧ s.tr.tstatus.getLsbD 0 = true := by
  simp only [SCore.returned, bitAt]
  cases s.level <;> simp
theorem SCore.returned_level_guest {s : SCore} (h : s.level = .guest) : s.returned.level = .guest := by
  simp [SCore.returned, h]

/-- Settles O19: what a trap takes from its core or group, and what `eret` gives back. -/
theorem trapEntry : Obligations.TrapEntry := by
  intro d n cause val hcause s x deleg
  obtain ⟨e, r, hx : x = _⟩ := d.cl_trapS_same n cause val
  have hdel : (s.tr.take s.level s.pc.toNat cause val).2 = true ↔ deleg := TrapRegs.take_snd_iff ..
  have htr : x.s.tr = (s.tr.take s.level s.pc.toNat cause val).1 := by
    rw [hx, SCore.trapped]; split <;> rfl
  have hregs : x.s.regs = s.regs := by rw [hx, SCore.trapped]; split <;> rfl
  have hresv : x.s.resv = none := by rw [hx, SCore.trapped]; split <;> rfl
  rw [htr, hregs, hresv]
  refine ⟨BitVec.ofNat_toNat .., rfl, rfl, TrapRegs.take_ppriv .., TrapRegs.take_fatal .., fun h => ?_, fun h => ?_, rfl, rfl, rfl,
    rfl, rfl, fun m hm => d.cl_trapS_ne cause val hm, fun v1 k g _ hg hc hgd => ?_, fun s f h hcalm ht => ?_⟩
  · have h2 := hdel.2 h
    rw [TrapRegs.take_delegated, hx, SCore.trapped, if_pos h2]
    exact ⟨h2, h.1, rfl⟩
  · have h2 : ¬_ := mt hdel.1 h
    rw [TrapRegs.take_delegated, hx, SCore.trapped, if_neg h2]
    exact ⟨Bool.eq_false_iff.2 h2, rfl, rfl⟩
  · rw [Dev.trapG_delegated _ _ _ _ _ hc hgd]
    refine ⟨_, Dev.grp_setGrp_same _ rfl _, rfl, rfl, rfl, ?_, TrapRegs.take_fatal .., ?_, fun l hl => ?_⟩
    · exact TrapRegs.take_ppriv ..
    · exact (TrapRegs.take_delegated ..).trans ((TrapRegs.take_snd_iff ..).2 ⟨rfl, hc, hgd⟩)
    · rw [Group.pcOf_setPcs _ _ _ hl, BitVec.ofNat_toNat]
      rfl
  · obtain ⟨x, hexec, -, hpc, htr, hlevel, -⟩ := exec_eret_calm f h hcalm ht
    refine ⟨x, hexec, ?_, by rw [htr, TrapRegs.ret_delegated], fun hup => ?_, fun hg => hlevel.trans (SCore.returned_level_guest hg)⟩
    · rw [Dev.pc_sCore, hpc, BitVec.toNat_setWidth, Nat.mod_eq_of_lt (toNat_lt_of_targetTrap ht)]
    · rw [hlevel, SCore.returned_level_keeper]
      refine ⟨And.right, fun hp => ⟨?_, hp⟩⟩
      cases hl : (s.dev.cl n).s.level with
      | keeper => rfl
      | guest => exact absurd (hp.symm.trans (hup hl)) nofun

/-! ## `ebreak` (Table 3.7, R101) -/

/-- What `ebreak` does. -/
def breakOut (a : Agent) (d : Dev) : Out :=
  if (d.dbg a).onBreak then .wait ((d.endResv a).onDbg a fun x => { x with halted := true, stepping := false, reason := 3 })
  else .trap cBREAK 0
theorem exec_ebreak (s : State) (a : Agent) (f : FmtSY) : exec (.ebreak a f false) s = instr4 a s (breakOut a) := rfl

/-- Settles O20: `eret` returns and then moves; `ebreak` halts or traps as HALT_ON_BREAK says. -/
theorem trapReturnAndBreak : Obligations.TrapReturnAndBreak := by
  intro s n f h t
  refine ⟨fun ht hcalm => ?_, fun hb => ?_, fun hb => ?_⟩
  · obtain ⟨x, hexec, hresv, hpc, htr, hlevel, hrd⟩ := exec_eret_calm f h hcalm ht
    exact ⟨x, hexec, hpc, by rw [htr, TrapRegs.ret_delegated], by rw [htr, TrapRegs.ret_ppriv], hresv,
      by rw [hlevel]; exact SCore.returned_level_keeper _, hrd⟩
  · exact (exec_ebreak s _ f).trans (instr4_out h (if_neg (Bool.eq_false_iff.1 hb)) _ rfl)
  · exact (exec_ebreak s _ f).trans (instr4_out h (if_pos hb) _ rfl)

end Sys2Proof.Machine
end

section
namespace Sys2Proof.Machine

/-! ## The integer atomics (Table 3.11, R90) -/

section
variable {n : Nat} (hn : n = 4 ∨ n = 8)
include hn

theorem toNat_lowBytes (v : Word) : (lowBytes n v).toNat = v.toNat % 256 ^ n := by
  obtain rfl | rfl := hn <;> simp only [lowBytes, BitVec.toNat_ofNat] <;> omega
/-- The low bytes of a value have its sign. -/
theorem signedOf_lowBytes (v : Word) : signedOf n (lowBytes n v) = signedOf n v := by
  rw [signedOf, toNat_lowBytes hn, signedOf, show 256 ^ n = 2 ^ (8 * n) from Nat.pow_mul 2 8 n ▸ rfl]
  congr 1
  exact BitVec.eq_of_toNat_eq (by simp)
theorem toNat_lowBytes_add (x y : Word) : (lowBytes n (x + y)).toNat = (x.toNat + y.toNat) % 256 ^ n := by
  rw [toNat_lowBytes hn, BitVec.toNat_add]
  obtain rfl | rfl := hn <;> omega
theorem eq_lowBytes_iff (x y : Word) : x = lowBytes n y ↔ x.toNat = y.toNat % 256 ^ n := by
  rw [← BitVec.toNat_inj, toNat_lowBytes hn]

end

/-- An integer atomic of one lane. -/
theorem Atm.apply_single {t : Atm} {l : Nat} {v cmp : Word} (h : t.lanes = [(l, v, cmp)]) (hf : t.fn ≠ .fadd) (old : Word) :
    t.apply old = (amoInt t.fn t.n old v cmp, [(l, old)]) := by
  unfold Atm.apply
  rw [h]
  split
  case h_1 e => exact absurd e hf
  case h_2 => rfl

/-- Settles O16: one lane's result is that of the operation on the low `n` bytes of its operand. -/
theorem atomicResults : Obligations.AtomicResults := by
  intro t l v cmp old hn hl hold m
  have result {fn : AmoFn} (e : t.fn = fn) (hf : fn ≠ .fadd) : (t.apply old).1 = amoInt fn t.n old v cmp := by
    rw [Atm.apply_single hl (e ▸ hf), e]
  have hv := toNat_lowBytes hn v
  refine ⟨fun h => by rw [Atm.apply_single hl h], fun h => ?_, fun h => ?_, fun h => ?_, fun h => ?_, fun h => ?_, fun h => ?_,
    fun h => ?_, fun h => ?_, fun h => ?_, fun h => ?_⟩ <;> rw [result h nofun, amoInt]
  · exact toNat_lowBytes_add hn old v
  · rw [BitVec.toNat_and, hv]; rfl
  · rw [BitVec.toNat_or, hv]; rfl
  · rw [BitVec.toNat_xor, hv]; rfl
  · exact hv
  · rw [apply_ite BitVec.toNat, hv]
    exact if_congr (eq_lowBytes_iff hn old cmp) rfl rfl
  · rw [apply_ite BitVec.toNat, hv, min_def]
  · rw [apply_ite BitVec.toNat, hv, max_def]
  · rw [apply_ite (signedOf t.n), signedOf_lowBytes hn, min_def]
  · rw [apply_ite (signedOf t.n), signedOf_lowBytes hn, max_def]

end Sys2Proof.Machine
end

section
namespace Sys2Proof.Machine

/-! ## A scalar store commits to its core's queue (R259) -/

/-- The device after an agent's store of `v` has entered the queue of its core (R259, R275). -/
def Dev.queued (d : Dev) (a : Agent) (addr n : Nat) (v : Word) (relSy : Bool) : Dev :=
  (d.onCl a.cluster fun c =>
    { c.setQ a.core ((d.cl a.cluster).q a.core ++ [⟨c.sseq, a, [⟨addr, n, v⟩], relSy⟩]) with
      sseq := c.sseq + 1 }).ownStore a [(addr, n)]

section
variable {d : Dev} {a : Agent} {rs2 addr n : Nat} {relSy marked : Bool}

theorem Dev.commit_of_room (v : Word) (h : ((d.cl a.cluster).q a.core).length < queueCap a.core) :
    d.commit a [⟨addr, n, v⟩] relSy = some (d.queued a addr n v relSy) :=
  if_neg (Nat.not_le.2 h)
theorem opStore_of_room (ht : d.accessTrap a .store marked false addr n = none) (hd : inDevSpace addr = false)
    (h : ((d.cl a.cluster).q a.core).length < queueCap a.core) :
    opStore a rs2 addr n relSy marked d = .done (d.queued a addr n (lowBytes n (d.rd a rs2)) relSy) := by
  simp only [opStore, ht, hd, Dev.commit_of_room _ h]
  rfl
/-- A marked access of the device register space traps (R80). -/
theorem Dev.inDevSpace_of_accessTrap {k : Acc} (ht : d.accessTrap a k true false addr n = none) : inDevSpace addr = false := by
  refine Bool.eq_false_iff.2 fun hd => ?_
  rw [Dev.accessTrap, if_pos (inDevSpace_iff.1 hd)] at ht
  grind

end

section
variable {s : State} {a : Agent} (h : s.canIssue a) (hroom : ((s.dev.cl a.cluster).q a.core).length < queueCap a.core)
include h hroom

theorem exec_st {f : FmtMB} (hz : f.size.toNat < 4)
    (ht : s.dev.accessTrap a .store (decide (sizeBytes f.size.toNat < 4)) false (s.dev.addrMB a f) (sizeBytes f.size.toNat) = none)
    (hd : inDevSpace (s.dev.addrMB a f) = false) : exec (.st a f) s = s.gives fun d =>
      (d.queued a (s.dev.addrMB a f) (sizeBytes f.size.toNat) (lowBytes (sizeBytes f.size.toNat) (s.dev.rd a f.rd.toNat)) false).past a 4 :=
  instr4_out h ((if_neg (Nat.not_le.2 hz)).trans (opStore_of_room ht hd hroom)) _ rfl
theorem exec_stRel {f : FmtMA} (hm : marksOk false true f.mark f.scope = true)
    (ht : s.dev.accessTrap a .store true false (s.dev.addrMA a f) (szBytes f.sz) = none) :
    exec (.stRel a f) s = s.gives fun d =>
      (d.queued a (s.dev.addrMA a f) (szBytes f.sz) (lowBytes (szBytes f.sz) (s.dev.rd a f.rs2.toNat))
        (decide (f.mark = 2 ∧ f.scope = 2))).past a 4 :=
  instr4_out h ((if_pos hm).trans (opStore_of_room ht (Dev.inDevSpace_of_accessTrap ht) hroom)) _ rfl

end

/-! ## The frame of a scalar store (R78, R259) -/

/-- `e` is `d` but for the clusters and the reservations that the homes record. -/
def Dev.onlyClustersResv (d e : Dev) : Prop := ∃ cs rs, e = { d with clusters := cs, coh := { d.coh with resv := rs } }

/-- A store of an S-core can end its reservation, and changes nothing else of it. -/
theorem Dev.ownStore_sCore (d : Dev) (n : Nat) (runs : List (Nat × Nat)) :
    d.onlyClustersResv (d.ownStore (.sCore n) runs) ∧
    (∃ r, (d.ownStore (.sCore n) runs).cl n = { d.cl n with s := { (d.cl n).s with resv := r } }) ∧
    ∀ m, m ≠ n → (d.ownStore (.sCore n) runs).cl m = d.cl m := by
  unfold Dev.ownStore
  split
  · exact ⟨⟨_, _, rfl⟩, ⟨_, rfl⟩, fun _ _ => rfl⟩
  · simp only
    split
    · exact ⟨⟨_, _, rfl⟩, ⟨none, by rw [Dev.cl_endResv_sCore, if_pos rfl]⟩,
        fun m hm => by rw [Dev.cl_endResv_sCore, if_neg hm]⟩
    · exact ⟨⟨_, _, rfl⟩, ⟨_, rfl⟩, fun _ _ => rfl⟩
/-- A store of an S-core that commits changes its queue, the number of stores, and the core's reservation. -/
theorem Dev.queued_sCore (d : Dev) (n addr k : Nat) (v : Word) (relSy : Bool) :
    d.onlyClustersResv (d.queued (.sCore n) addr k v relSy) ∧
    (∃ r, (d.queued (.sCore n) addr k v relSy).cl n = { d.cl n with
      s := { (d.cl n).s with resv := r }
      qS := (d.cl n).qS ++ [⟨(d.cl n).sseq, .sCore n, [⟨addr, k, v⟩], relSy⟩]
      sseq := (d.cl n).sseq + 1 }) ∧
    ∀ m, m ≠ n → (d.queued (.sCore n) addr k v relSy).cl m = d.cl m := by
  obtain ⟨⟨cs, rs, hrest⟩, ⟨r, hown⟩, hothers⟩ := (d.onCl n fun c =>
    { c.setQ 0 ((d.cl n).qS ++ [⟨c.sseq, .sCore n, [⟨addr, k, v⟩], relSy⟩]) with sseq := c.sseq + 1 }).ownStore_sCore n [(addr, k)]
  refine ⟨⟨cs, rs, hrest⟩, ⟨r, hown.trans ?_⟩, fun m hm => (hothers m hm).trans (Dev.cl_onCl_ne _ _ hm)⟩
  rw [Dev.cl_onCl_same]
  rfl

/-- Settles O13: the store enters the queue, may end its core's own reservation, and the core moves past it. -/
theorem storeFrame : Obligations.StoreFrame := by
  intro s n f t h hcalm hz addr k ht hd hroom hexec
  rw [exec_st (a := .sCore n) h hroom hz ht hd] at hexec
  obtain ⟨⟨cs, rs, hrest⟩, ⟨r, hown⟩, hothers⟩ :=
    s.dev.queued_sCore n addr k (lowBytes k (s.dev.rd (.sCore n) f.rd.toNat)) false
  have hpart := congrArg Dev.part hrest
  have hcalm' := (Dev.calm_congr (by rw [hown]) (by rw [hown])).trans hcalm
  have hmv := Dev.movedTo_past _ n 4 hcalm'
  have hdev := State.onDev_dev_past
    (f := fun d => d.queued (.sCore n) addr k (lowBytes k (s.dev.rd (.sCore n) f.rd.toNat)) false) (len := 4) hcalm' hpart
  obtain rfl := Host.Outcome.next.inj hexec
  rw [hdev]
  have hmine := hmv.own
  rw [hown] at hmine
  refine ⟨fun r => ?_, fun sp x => ?_, fun o => ?_, by rw [hmine], by rw [hmine], by rw [hmine], ?_,
    fun m hm => (hmv.others m hm).trans (hothers m hm), ⟨_, by rw [hmine], rfl, rfl, rfl⟩⟩
  · exact (hmv.rd r).trans (Dev.rd_congr_sCore (by rw [hown]) r)
  · rw [hmv.mem, hrest]
    cases sp <;> exact ⟨rfl, rfl⟩
  · rw [hmv.reg, hrest]
    rfl
  · rw [hmv.tr, Dev.tr_sCore, hown, Dev.tr_sCore]

end Sys2Proof.Machine
end

section
namespace Sys2Proof.Machine

/-! ## Reading Local (R89, R386) -/

theorem Dev.readW_written {d : Dev} {sp : MSpace} {w : Nat} (h : (d.mem sp).mark w = .written) (sub : Nat) :
    d.readW sp w sub = (some ((d.mem sp).word w), d) := by
  simp only [Dev.readW, Mem.readW, h]
theorem mergeBytes_zero (old new : Word) : mergeBytes 0 old new = old :=
  BitVec.eq_of_getLsbD_eq fun i hi => (getLsbD_mergeBytes_range 0 old new 8 hi).trans (by simp)

/-! ## No store of the core's queue meets the word (R259, R260) -/

theorem rangesMeet_eq_false {a n b m : Nat} : rangesMeet a n b m = false ↔ b + m ≤ a ∨ a + n ≤ b := by
  simp [rangesMeet]
  omega
/-- A run that meets no byte of a word lays nothing over it. -/
theorem ByteRun.over8_of_not_meets {r : ByteRun} {w : Nat} (h : rangesMeet r.addr r.n (w * 8) 8 = false) : r.over8 w (0, 0) = (0, 0) := by
  rw [rangesMeet_eq_false] at h
  unfold ByteRun.over8
  split
  · rfl
  · have h0 : r.n = 0 := by omega
    have hm : BitVec.ofNat 8 ((2 ^ r.n - 1) <<< (r.addr % 8)) = 0 := by simp [h0]
    simp only [hm, mergeBytes_zero]
    rfl
theorem foldl_eq_self {α β : Type} (f : β → α → β) (b : β) (l : List α) (h : ∀ x ∈ l, f b x = b) : l.foldl f b = b := by
  induction l with
  | nil => rfl
  | cons x l ih => rw [List.foldl_cons, h x List.mem_cons_self, ih fun y hy => h y (List.mem_cons_of_mem x hy)]

section
variable {d : Dev} {a : Agent} {w : Nat} (h : d.noStoreMeets a (w * 8) 8 = true)
include h

theorem Dev.not_meets_of_noStoreMeets {e : StoreEntry} (he : e ∈ (d.cl a.cluster).q a.core) {r : ByteRun} (hr : r ∈ e.runs) :
    rangesMeet r.addr r.n (w * 8) 8 = false := by
  simp only [Dev.noStoreMeets, List.all_eq_true] at h
  simpa using h e he r hr
/-- Nothing is forwarded to a load of the word. -/
theorem Dev.forward_of_noStoreMeets (acqSy : Bool) : (d.cl a.cluster).forward a acqSy false w = (0, 0) := by
  refine foldl_eq_self _ _ _ fun e he => ?_
  split
  · rfl
  · exact foldl_eq_self _ _ _ fun r hr => ByteRun.over8_of_not_meets (Dev.not_meets_of_noStoreMeets h he hr)
/-- A load inside the word meets no store of another agent. -/
theorem Dev.meetsOther_of_noStoreMeets {addr n : Nat} (hlo : w * 8 ≤ addr) (hhi : addr + n ≤ w * 8 + 8) (hl : addr < commonsBase) :
    (d.cl a.cluster).meetsOther a addr n = false := by
  have hno (e : StoreEntry) (he : e ∈ (d.cl a.cluster).q a.core) (r : ByteRun) (hr : r ∈ e.runs) :
      rangesMeet r.addr r.n addr n = false := by
    have hm := Dev.not_meets_of_noStoreMeets h he hr
    rw [rangesMeet_eq_false] at hm ⊢
    omega
  simp only [Cluster.meetsOther, decide_eq_false (Nat.not_le.2 hl), Bool.false_and, Bool.or_false, List.any_eq_false,
    Bool.and_eq_true, List.any_eq_true, not_and, not_exists]
  exact fun e he _ r hr => by simp [hno e he r hr]

end

/-! ## A load of a written word of Local that no store waits for -/

/-- The `n` bytes at `addr` of the Local of an agent's cluster. -/
def Dev.localBytes (d : Dev) (a : Agent) (addr n : Nat) : Nat :=
  ((d.mem (.loc a.cluster)).word (addr / 8)).toNat / 256 ^ (addr % 8) % 256 ^ n
/-- A word of Local that a load reads from memory. -/
def Dev.localReadable (d : Dev) (a : Agent) (addr : Nat) : Prop :=
  addr < localSize ∧ (d.mem (.loc a.cluster)).mark (addr / 8) = .written ∧ d.noStoreMeets a (addr / 8 * 8) 8 = true

theorem lt_commonsBase_of_local {addr : Nat} (h : addr < localSize) : addr < commonsBase := h.trans (by decide)
theorem inDevSpace_of_local {addr : Nat} (h : addr < localSize) : inDevSpace addr = false := by
  refine Bool.eq_false_iff.2 fun hd => ?_
  rw [inDevSpace_iff] at hd
  simp only [localSize, devBase] at *
  omega
theorem shiftRight_bytes (x k : Nat) : x >>> (8 * k) = x / 256 ^ k := by
  rw [Nat.shiftRight_eq_div_pow, Nat.pow_mul]
/-- An access of `n` bytes needs its first byte. -/
theorem Piece.need_ne_zero {p : Piece} (h : 1 ≤ p.n) : p.need ≠ 0 := by
  intro h0
  have hbit := congrArg (fun v : BitVec 8 => v.getLsbD (p.addr % 8)) h0
  have hlt : p.addr % 8 < 8 := Nat.mod_lt _ (by decide)
  simp only [Piece.need, BitVec.getLsbD_ofNat, Nat.testBit_shiftLeft, Nat.testBit_two_pow_sub_one] at hbit
  simp [hlt] at hbit
  omega

section
variable {d : Dev} {a : Agent} {p : Piece} (hr : d.localReadable a p.addr) (hn : 1 ≤ p.n)
include hr

theorem Piece.com_of_readable : p.com = false := decide_eq_false (Nat.not_le.2 (lt_commonsBase_of_local hr.1))

include hn
theorem Dev.pieceVal_of_readable (k : LoadKind) :
    d.pieceVal a k [] p = (some (BitVec.ofNat 64 (d.localBytes a p.addr p.n)), d) := by
  obtain ⟨-, hmark, hno⟩ := id hr
  have hcover : ¬(0 &&& p.need = p.need) := fun h0 => Piece.need_ne_zero hn (h0.symm.trans BitVec.zero_and)
  simp only [Dev.pieceVal, Piece.com_of_readable hr, Bool.and_false, Bool.false_eq_true, if_false, Dev.forward_of_noStoreMeets hno,
    Dev.readW_written hmark, mergeBytes_zero, if_neg hcover, shiftRight_bytes]
  rfl
/-- Such a load writes its register at once. -/
theorem Dev.load_of_readable {k : LoadKind} (hin : p.addr % 8 + p.n ≤ 8) : d.load a k [p] = .done
    ((if k.plain || k.ro then d else d.freshen a none).putPiece a p (BitVec.ofNat 64 (d.localBytes a p.addr p.n))) := by
  obtain ⟨hl, -, hno⟩ := id hr
  have hother : (d.cl a.cluster).meetsOther a p.addr p.n = false :=
    Dev.meetsOther_of_noStoreMeets hno (by omega) (by omega) (lt_commonsBase_of_local hl)
  simp [Dev.load, hother, Piece.com_of_readable hr, Dev.finishLoad, Dev.readPieces, Dev.pieceVal_of_readable hr hn k]

end

/-- An aligned access of 1, 2, 4 or 8 bytes lies in one word. -/
theorem mod_add_le_of_aligned {addr n : Nat} (hn : n = 1 ∨ n = 2 ∨ n = 4 ∨ n = 8) (ha : addr % n = 0) : addr % 8 + n ≤ 8 := by
  obtain rfl | rfl | rfl | rfl := hn <;> omega
theorem Dev.aligned_of_accessTrap {d : Dev} {a : Agent} {k : Acc} {marked lane : Bool} {addr n : Nat}
    (h : d.accessTrap a k marked lane addr n = none) : addr % n = 0 := by
  by_contra hne
  rw [Dev.accessTrap] at h
  by_cases hd : devBase ≤ addr ∧ addr < devBase + devSize
  · rw [if_pos hd, if_pos hne] at h
    split at h <;> cases h
  · rw [if_neg hd, if_pos hne] at h
    cases h

/-- A scalar load of a readable word of Local. -/
theorem opLoad_of_readable {d : Dev} {a : Agent} {rd addr n : Nat} {signed : Bool} {k : LoadKind} {marked : Bool}
    (ht : d.accessTrap a (if k.ro then .loadRo else .load) marked false addr n = none) (hr : d.localReadable a addr)
    (hn : n = 1 ∨ n = 2 ∨ n = 4 ∨ n = 8) : opLoad a rd addr n signed k marked d = .done
      (((if k.plain || k.ro then d else d.freshen a none).wr a rd
        ((scalarPiece rd addr n signed).ext (BitVec.ofNat 64 (d.localBytes a addr n)))).upset (.loc a.cluster) (addr / 8)) := by
  have hdev := inDevSpace_of_local hr.1
  have hload := Dev.load_of_readable (p := scalarPiece rd addr n signed) (k := k) hr (by simp only [scalarPiece]; omega)
    (mod_add_le_of_aligned hn (Dev.aligned_of_accessTrap ht))
  simp only [opLoad, ht, hdev, hload, Out.afterLoad, if_pos hr.1]
  rfl

/-! ## The extension of a loaded value (Table 3.6) -/

theorem Dev.toNat_localBytes (d : Dev) (a : Agent) (addr : Nat) {n : Nat} (hn : n = 1 ∨ n = 2 ∨ n = 4 ∨ n = 8) :
    (BitVec.ofNat 64 (d.localBytes a addr n)).toNat = d.localBytes a addr n ∧ d.localBytes a addr n < 2 ^ (8 * n) := by
  have hlt : d.localBytes a addr n < 256 ^ n := Nat.mod_lt _ (Nat.pow_pos (by decide))
  rw [BitVec.toNat_ofNat]
  obtain rfl | rfl | rfl | rfl := hn <;> omega

theorem sizeBytes_cases (z : Nat) : sizeBytes z = 1 ∨ sizeBytes z = 2 ∨ sizeBytes z = 4 ∨ sizeBytes z = 8 := by
  have h : z % 4 = 0 ∨ z % 4 = 1 ∨ z % 4 = 2 ∨ z % 4 = 3 := by omega
  obtain h | h | h | h := h <;> simp [sizeBytes, h]
theorem szBytes_cases (z : BitVec 1) : szBytes z = 4 ∨ szBytes z = 8 := by
  unfold szBytes
  split
  · exact .inr rfl
  · exact .inl rfl

theorem ext_scalarPiece (d : Dev) (a : Agent) (rd addr z : Nat) :
    (scalarPiece rd addr (sizeBytes z) (decide (z < 4))).ext (BitVec.ofNat 64 (d.localBytes a addr (sizeBytes z))) =
      extend z (d.localBytes a addr (sizeBytes z)) := by
  obtain ⟨hval, hlt⟩ := d.toNat_localBytes a addr (sizeBytes_cases z)
  unfold Piece.ext extend scalarPiece
  simp only [hval, decide_eq_true_eq, Nat.mod_eq_of_lt hlt]
theorem ext_scalarPiece_sz (rd addr : Nat) {n : Nat} (hn : n = 4 ∨ n = 8) (v : Word) :
    (scalarPiece rd addr n true).ext v = extendSz n v := by
  obtain rfl | rfl := hn
  · rfl
  · simp [Piece.ext, scalarPiece, extendSz]

/-! ## The scalar loads -/

section
variable {s : State} {a : Agent} (h : s.canIssue a)
include h

theorem exec_ld_readable {f : FmtMB} (hz : f.size ≠ 7) (hr : s.dev.localReadable a (s.dev.addrMB a f))
    (ht : s.dev.accessTrap a .load (decide (sizeBytes f.size.toNat < 4)) false (s.dev.addrMB a f) (sizeBytes f.size.toNat) = none) :
    exec (.ld a f false) s = s.gives fun d => ((d.wr a f.rd.toNat
      (extend f.size.toNat (s.dev.localBytes a (s.dev.addrMB a f) (sizeBytes f.size.toNat)))).upset (.loc a.cluster)
        (s.dev.addrMB a f / 8)).past a 4 :=
  (exec_ld a f s).trans (instr4_out h ((if_neg hz).trans (opLoad_of_readable ht hr (sizeBytes_cases _))) _
    (by rw [ext_scalarPiece]; rfl))
theorem exec_ldRo_readable {f : FmtMB} (hz : f.size ≠ 7) (hr : s.dev.localReadable a (s.dev.addrMB a f))
    (ht : s.dev.accessTrap a .loadRo true false (s.dev.addrMB a f) (sizeBytes f.size.toNat) = none) :
    exec (.ldRo a f) s = s.gives fun d => ((d.wr a f.rd.toNat
      (extend f.size.toNat (s.dev.localBytes a (s.dev.addrMB a f) (sizeBytes f.size.toNat)))).upset (.loc a.cluster)
        (s.dev.addrMB a f / 8)).past a 4 :=
  instr4_out h ((if_neg hz).trans (opLoad_of_readable ht hr (sizeBytes_cases _))) _ (by rw [ext_scalarPiece]; rfl)
theorem exec_ldAcq_readable {f : FmtMA} (hm : marksOk true false f.mark f.scope = true)
    (hr : s.dev.localReadable a (s.dev.addrMA a f)) (ht : s.dev.accessTrap a .load true false (s.dev.addrMA a f) (szBytes f.sz) = none) :
    exec (.ldAcq a f) s = s.gives fun d => (((if f.mark = 0 then d else d.freshen a none).wr a f.rd.toNat
      (extendSz (szBytes f.sz) (BitVec.ofNat 64 (s.dev.localBytes a (s.dev.addrMA a f) (szBytes f.sz))))).upset (.loc a.cluster)
        (s.dev.addrMA a f / 8)).past a 4 :=
  instr4_out h ((if_pos hm).trans (opLoad_of_readable ht hr (.inr (.inr (szBytes_cases _))))) _
    (by rw [ext_scalarPiece_sz _ _ (szBytes_cases _)]; simp)

end

/-- Settles O12: nothing is forwarded to the load, so that it takes the word's own bytes; a store with room is queued. -/
theorem localMemoryComplete : Obligations.LocalMemoryComplete := by
  refine ⟨fun s a h => ⟨fun f hz hr => ⟨fun ht => ?_, fun ht => ?_⟩, fun f hm hr ht => ?_⟩,
    fun s a h => fun hroom => ⟨fun f hz ht hd => ?_, fun f hm ht => ?_⟩⟩
  · exact (exec_ld_readable h hz hr ht).trans (State.gives_congr rfl)
  · exact (exec_ldRo_readable h hz hr ht).trans (State.gives_congr rfl)
  · exact (exec_ldAcq_readable h hm hr ht).trans (State.gives_congr rfl)
  · exact (exec_st h hroom hz ht hd).trans (State.gives_congr rfl)
  · exact (exec_stRel h hroom hm ht).trans (State.gives_congr rfl)

end Sys2Proof.Machine
end

section
namespace Sys2Proof.Machine

/-! ## What a reservation's end leaves alone (R275) -/

theorem Dev.onlyClusters_onGrp (d : Dev) (a : Agent) (f : Group → Group) : d.onlyClusters (d.onGrp a f) := by
  cases h : d.grp a with
  | none => simpa only [Dev.onGrp, h] using d.onlyClusters_refl
  | some g =>
    simp only [Dev.onGrp, h]
    exact ⟨_, rfl⟩
theorem Dev.onlyClusters_setResv (d : Dev) (a : Agent) (r : Option Resv) : d.onlyClusters (d.setResv a r) := by
  cases a with
  | sCore n => exact ⟨_, rfl⟩
  | group n v k => exact d.onlyClusters_onGrp _ _
theorem Dev.mem_setResv (d : Dev) (a : Agent) (r : Option Resv) (sp : MSpace) : (d.setResv a r).mem sp = d.mem sp :=
  Dev.onlyClusters_mem (d.onlyClusters_setResv a r) sp
theorem Dev.mem_endResv (d : Dev) (a : Agent) (sp : MSpace) : (d.endResv a).mem sp = d.mem sp := by
  refine Eq.trans ?_ (d.mem_setResv a none sp)
  cases sp <;> rfl
theorem Dev.mem_ownStore (d : Dev) (a : Agent) (runs : List (Nat × Nat)) (sp : MSpace) : (d.ownStore a runs).mem sp = d.mem sp := by
  cases h : d.resvOf a with
  | none => simp only [Dev.ownStore, h]
  | some r =>
    simp only [Dev.ownStore, h]
    split
    · exact d.mem_endResv a sp
    · rfl
theorem Dev.mem_killLocal (d : Dev) (n : Nat) (by_ : Option Agent) (addr len : Nat) (sp : MSpace) :
    (d.killLocal n by_ addr len).mem sp = d.mem sp := by
  refine foldl_keeps (fun e : Dev => e.mem sp) (fun e b => ?_) _ d
  cases h : e.resvOf b with
  | none => rfl
  | some r =>
    simp only
    split
    · exact e.mem_setResv b none sp
    · rfl

/-! ## An atomic on a written word of Local (R90, R130) -/

theorem Dev.homeAtm_written {d : Dev} {sp : MSpace} {t : Atm} (h : (d.mem sp).mark (t.addr / 8) = .written) :
    ∃ e r, d.homeAtm sp t = (e, some r) := by
  simp only [Dev.homeAtm, Dev.readW_written h]
  exact ⟨_, _, rfl⟩
theorem Dev.localAtm_written {d : Dev} {a : Agent} {t : Atm} (h : (d.mem (.loc a.cluster)).mark (t.addr / 8) = .written) :
    ∃ e r, d.localAtm a t = (e, some r) :=
  Dev.homeAtm_written (by rw [Dev.mem_onCl, Dev.mem_killLocal, h])

/-- One atomic on a written word of Local, which no store keeps back, is performed at once. -/
theorem Dev.atom_local {d : Dev} {a : Agent} {rd n len mark scope : Nat} {t : Atm} (hl : t.addr < localSize)
    (hw : d.atomWaits a mark scope [t] = false) (hm : (d.mem (.loc a.cluster)).mark (t.addr / 8) = .written) :
    d.atom a rd n len mark scope [t] = .done
      (((((d.ownStore a [(t.addr, t.n)]).localAtm a t).1.atomFlags a t (((d.ownStore a [(t.addr, t.n)]).localAtm a t).2.getD [])).freshen a
        none).putAtom a rd n (((d.ownStore a [(t.addr, t.n)]).localAtm a t).2.getD [])) := by
  have hcheck : d.atomCheck a [t] = .good d := by
    change (if t.addr < localSize then (match d.readW (.loc a.cluster) (t.addr / 8) 0 with
      | (none, d) => AtomCheck.bad d t.addr
      | (some _, d) => d.atomCheck a []) else _) = _
    rw [if_pos hl, Dev.readW_written hm]
    rfl
  obtain ⟨e, r, hatm⟩ : ∃ e r, (d.ownStore a [(t.addr, t.n)]).localAtm a t = (e, some r) :=
    Dev.localAtm_written (by rw [Dev.mem_ownStore, hm])
  simp [Dev.atom, hw, hl, hcheck, Dev.sendAtms, hatm]

/-- The atomic that a scalar instruction asks for (Table 3.11). -/
def Dev.amo (d : Dev) (a : Agent) (f : FmtMA) (fn : AmoFn) : Atm :=
  { by_ := a, fn := fn, addr := d.addrMA a f, n := szBytes f.sz, lanes := [(32, d.rd a f.rs2.toNat, d.rd a f.rd.toNat)], exact := false }

theorem lowBytes_shift (n k : Nat) (v : Word) : lowBytes n (v >>> (8 * k)) = BitVec.ofNat 64 (v.toNat / 256 ^ k % 256 ^ n) := by
  rw [lowBytes, BitVec.toNat_ushiftRight, shiftRight_bytes]

/-- Whether a `st.cond` that could succeed fails (R275, R276): 1 when it does. -/
def Dev.condTry (d : Dev) (a : Agent) : Nat × Dev := if d.stFailed a then (0, d) else d.choose 2
theorem Dev.rd_condTry (d : Dev) (a b : Agent) (r : Nat) : (d.condTry a).2.rd b r = d.rd b r := by
  unfold Dev.condTry
  split
  · rfl
  · cases b <;> rfl
theorem Dev.rd_setStFail (d : Dev) (a : Agent) (b : Bool) (r : Nat) : (d.setStFail a b).rd a r = d.rd a r := by
  cases a with
  | sCore n => exact Dev.rd_congr_sCore (by rw [Dev.setStFail, Dev.cl_onS_same]) r
  | group n v k =>
    cases hg : d.grp (.group n v k) with
    | none => simp only [Dev.setStFail, Dev.onGrp, hg]
    | some g =>
      have hnew : ((d.setStFail (.group n v k) b).grp (.group n v k)) = some { g with stFail := b } := by
        simp only [Dev.setStFail, Dev.onGrp, hg]
        exact d.grp_setGrp_same rfl _
      by_cases hr : r = 0
      · rw [hr, Dev.rd_zero, Dev.rd_zero]
      · rw [Dev.rd_group _ hnew hr, Dev.rd_group _ hg hr]

section
variable {s : State} {a : Agent} {f : FmtMA} (h : s.canIssue a) (hl : s.dev.addrMA a f < localSize)
include h hl

theorem opAmo_local (op sub : Nat) {fn : AmoFn} (hm : marksOk true true f.mark f.scope = true)
    (ht : s.dev.accessTrap a .atomic true false (s.dev.addrMA a f) (szBytes f.sz) = none)
    (hmark : (s.dev.mem (.loc a.cluster)).mark (s.dev.addrMA a f / 8) = .written)
    (hw : s.dev.atomWaits a f.mark.toNat f.scope.toNat [s.dev.amo a f fn] = false) :
    opAmo a f op sub fn s = s.gives fun d =>
      let x := (d.ownStore a [(s.dev.addrMA a f, szBytes f.sz)]).localAtm a (s.dev.amo a f fn)
      (((x.1.atomFlags a (s.dev.amo a f fn) (x.2.getD [])).freshen a none).putAtom a f.rd.toNat (szBytes f.sz) (x.2.getD [])).past a 4 := by
  have hatom := Dev.atom_local (rd := f.rd.toNat) (n := szBytes f.sz) (len := 4) (t := s.dev.amo a f fn) hl hw hmark
  refine instr4_out h (o := .done _) ?_ _ rfl
  simp only [hm, ht]
  exact hatom

/-! ## Reservations in Local (R274 to R276) -/

theorem exec_ldResv_local (hm : marksOk true false f.mark f.scope = true)
    (ht : s.dev.accessTrap a .load true false (s.dev.addrMA a f) (szBytes f.sz) = none)
    (hw : s.dev.atomWaits a 0 0 [resvAtm a (s.dev.addrMA a f) (szBytes f.sz)] = false)
    (hmark : (s.dev.mem (.loc a.cluster)).mark (s.dev.addrMA a f / 8) = .written) :
    exec (.ldResv a f) s = s.gives fun d => (((((d.endResv a).freshen a none).setResv a
      (some { addr := s.dev.addrMA a f, n := szBytes f.sz, commons := false })).wr a f.rd.toNat
        (extendSz (szBytes f.sz) (BitVec.ofNat 64 (d.localBytes a (s.dev.addrMA a f) (szBytes f.sz))))).past a 4) := by
  refine instr4_out h (o := .done ((((s.dev.endResv a).freshen a none).setResv a
    (some { addr := s.dev.addrMA a f, n := szBytes f.sz, commons := false })).wr a f.rd.toNat
      (extendSz (szBytes f.sz) (BitVec.ofNat 64 (s.dev.localBytes a (s.dev.addrMA a f) (szBytes f.sz)))))) ?_ _ rfl
  have hge : ¬s.dev.addrMA a f ≥ localSize := Nat.not_le.2 hl
  simp only [hm, ht, hw, hge, hl, Dev.loadResvLocal, Dev.readW_written hmark, lowBytes_shift]
  rfl

section
variable (hm : marksOk false true f.mark f.scope = true)
  (ht : s.dev.accessTrap a .store true false (s.dev.addrMA a f) (szBytes f.sz) = none)
  (hw : s.dev.atomWaits a f.mark.toNat f.scope.toNat [resvAtm a (s.dev.addrMA a f) (szBytes f.sz)] = false)
include hm ht hw

theorem exec_stCond_free (hr : s.dev.resvHolds a (s.dev.addrMA a f) (szBytes f.sz) = false) :
    exec (.stCond a f) s = s.gives fun d => ((d.endResv a).wr a f.rd.toNat 1).past a 4 := by
  refine instr4_out h (o := .done ((s.dev.endResv a).wr a f.rd.toNat 1)) ?_ _ rfl
  have hge : ¬s.dev.addrMA a f ≥ localSize := Nat.not_le.2 hl
  simp only [hm, ht, hw, hge, hr]
  rfl

theorem exec_stCond_held (hr : s.dev.resvHolds a (s.dev.addrMA a f) (szBytes f.sz) = true) :
    exec (.stCond a f) s = s.gives fun d =>
        let x := if d.stFailed a then (0, d) else d.choose 2
        let y := (x.2.setStFail a (decide (x.1 = 1))).endResv a
        if x.1 = 1 then (y.wr a f.rd.toNat 1).past a 4
        else ((y.localStore a.cluster (some a)
          { addr := s.dev.addrMA a f, n := szBytes f.sz, val := BitVec.ofNat 64 ((d.rd a f.rs2.toNat).toNat % 256 ^ szBytes f.sz) }).wr a
            f.rd.toNat 0).past a 4 := by
  refine instr4_out h (o := if (s.dev.condTry a).1 = 1 then
      .done ((((s.dev.condTry a).2.setStFail a (decide ((s.dev.condTry a).1 = 1))).endResv a).wr a f.rd.toNat 1)
    else .done (((((s.dev.condTry a).2.setStFail a (decide ((s.dev.condTry a).1 = 1))).endResv a).localStore a.cluster (some a)
      { addr := s.dev.addrMA a f, n := szBytes f.sz, val := lowBytes (szBytes f.sz) (s.dev.rd a f.rs2.toNat) }).wr a f.rd.toNat 0)) ?_ _ ?_
  · have hge : ¬s.dev.addrMA a f ≥ localSize := Nat.not_le.2 hl
    have hrd := (s.dev.condTry a).2.rd_setStFail a (decide ((s.dev.condTry a).1 = 1)) f.rs2.toNat
    rw [s.dev.rd_condTry] at hrd
    rw [← hrd]
    simp only [hm, ht, hw, hge, hr, hl, Dev.condStore]
    rfl
  · rw [apply_ite (s.dev.conclude a 4)]
    rfl
end
end

/-- Settles O15: an atomic whose word reads well is performed at once; a reservation in Local asks no home. -/
theorem atomicsComplete : Obligations.AtomicsComplete := by
  refine ⟨fun s a f h => ?_, fun s a f h => ?_⟩
  · intro addr n op R hm ht hl hmark hw
    have amo (o sub : Nat) (fn : AmoFn) : opAmo a f o sub fn s = R fn :=
      opAmo_local h hl o sub hm ht hmark hw
    exact ⟨amo .., amo .., amo .., amo .., amo .., amo .., amo .., amo .., amo .., amo .., amo ..⟩
  · intro addr n hl
    exact ⟨exec_ldResv_local h hl, fun hm ht hw => ⟨exec_stCond_free h hl hm ht hw, exec_stCond_held h hl hm ht hw⟩⟩

end Sys2Proof.Machine
end

section
namespace Sys2Proof.Machine

/-! ## System register instructions (R74, Table 3.2) -/

section
variable {a : Agent} {f : FmtSY} {k : Nat} {d : Dev}

theorem csrOp_unassigned {w : Option (Word → Word → Word)} (h : csrAccess f.sys.toNat (d.level a) = none) :
    csrOp a f k w d = .trap cILLEGAL (encSY k f) := by
  simp only [csrOp, h]
theorem csrOp_closed {w : Option (Word → Word → Word)} (h : csrAccess f.sys.toNat (d.level a) = some .none) :
    csrOp a f k w d = .trap cPRIVILEGE (BitVec.ofNat 64 f.sys.toNat) := by
  simp only [csrOp, h]
theorem csrOp_read (h : csrAccess f.sys.toNat (d.level a) = some .ro ∨ csrAccess f.sys.toNat (d.level a) = some .rw) :
    csrOp a f k none d = .done ((d.csrRead a f.sys.toNat).2.wr a f.rd.toNat (d.csrRead a f.sys.toNat).1) := by
  obtain h | h := h <;> simp only [csrOp, h]
theorem csrOp_write {g : Word → Word → Word} (h : csrAccess f.sys.toNat (d.level a) = some .rw) :
    csrOp a f k (some g) d = .done (((d.csrRead a f.sys.toNat).2.csrWrite a f.sys.toNat
      (g (d.csrRead a f.sys.toNat).1 (d.rd a f.rs1.toNat))).wr a f.rd.toNat (d.csrRead a f.sys.toNat).1) := by
  simp only [csrOp, h]
  rfl
theorem csrOp_readOnly {g : Word → Word → Word} (h : csrAccess f.sys.toNat (d.level a) = some .ro) :
    csrOp a f k (some g) d = .trap cILLEGAL (encSY k f) := by
  simp only [csrOp, h]
  rfl

end

/-- The system register instructions, each with the value that it writes. -/
theorem exec_csrWrite {a : Agent} {f : FmtSY} {c : Instr} (hc : c = .csrw a f ∨ c = .csrs a f ∨ c = .csrc a f) (s : State) :
    ∃ k g, exec c s = instr4 a s (csrOp a f k (some g)) := by
  rcases hc with rfl | rfl | rfl <;> exact ⟨_, _, rfl⟩
theorem exec_csr {a : Agent} {f : FmtSY} {c : Instr} (hc : c = .csrr a f ∨ c = .csrw a f ∨ c = .csrs a f ∨ c = .csrc a f)
    (s : State) :
    ∃ k w, exec c s = instr4 a s (csrOp a f k w) := by
  obtain rfl | hc := hc
  · exact ⟨_, _, rfl⟩
  · obtain ⟨k, g, h⟩ := exec_csrWrite hc s
    exact ⟨k, some g, h⟩

/-! ## Fences (R92, R267) -/

theorem instr4_fenceOp {s : State} {a : Agent} (h : s.canIssue a) {f : FmtSY} {scope : Nat} (hs : f.sys.toNat = scope) :
    instr4 a s (fenceOp a f scope) = s.gives fun d => d.setWait a (.fence scope (d.cl a.cluster).sseq) :=
  instr4_out h (if_neg (not_not.2 hs)) _ rfl
theorem runDie_gives {ok : Bool} {s : State} {f g : Dev → Dev} (hok : ok = true) (hp : s.dev.pwr.stopped = false)
    (h : f s.dev = g s.dev) : runDie ok s f = s.gives g :=
  run_gives hok ((if_neg (Bool.eq_false_iff.1 hp)).trans h)
theorem exec_fenceComplete {s : State} {a : Agent} {scope mark : Nat} (ha : Agent.ok a = true) (hp : s.dev.pwr.stopped = false)
    (hw : s.dev.waitOf a = .fence scope mark) (hd : (s.dev.cl a.cluster).fenceDone a.core scope mark = true) :
    exec (.fenceComplete a) s = s.gives fun d => ((d.setWait a .none).freshen a none).past a 4 := by
  refine (runDie_gives ha hp ?_ : execFenceComplete a s = _)
  simp only [hw, hd]
  rfl

/-! ## What a completed instruction keeps while its command runs -/

theorem Cluster.complete_tokens (c : Cluster) (k cid status : Nat) : ∃ ts, c.complete k cid status = { c with tokens := ts } := by
  unfold Cluster.complete
  dsimp only
  split
  · exact ⟨_, rfl⟩
  · exact ⟨_, rfl⟩
/-- Completing launches changes the token file. -/
theorem Cluster.foldl_complete (ls : List Launch) (c : Cluster) :
    ∃ ts, ls.foldl (fun c l => c.complete l.tok l.cid (if l.trapped then 0x21 else 0)) c = { c with tokens := ts } := by
  induction ls generalizing c with
  | nil => exact ⟨_, rfl⟩
  | cons l ls ih =>
    obtain ⟨ts, h⟩ := c.complete_tokens l.tok l.cid (if l.trapped then 0x21 else 0)
    obtain ⟨ts', h'⟩ := ih { c with tokens := ts }
    exact ⟨ts', by rw [List.foldl_cons, h, h']⟩
/-- While the running command is not ending, settling changes the tokens and the launches alone. -/
theorem Dev.settle_running {d : Dev} {n : Nat} {r : RunCmd} (h : (d.cl n).run = some r) (he : r.ending = none) :
    ∃ ts ls, (d.settle n).cl n = { d.cl n with tokens := ts, launches := ls } := by
  obtain ⟨ts, hts⟩ := Cluster.foldl_complete ((d.cl n).launches.filter Launch.over)
    { d.cl n with launches := (d.cl n).launches.filter fun l => !l.over }
  refine ⟨ts, (d.cl n).launches.filter fun l => !l.over, ?_⟩
  have hcl := Dev.cl_onCl_same d n fun c => (c.launches.filter Launch.over).foldl
    (fun c l => c.complete l.tok l.cid (if l.trapped then 0x21 else 0)) { c with launches := c.launches.filter fun l => !l.over }
  rw [hts] at hcl
  unfold Dev.settle Dev.tryEnd
  simp only [hcl, h, he]

theorem Dev.stepEnd_sCore (d : Dev) (n : Nat) :
    ∃ rs db, ((d.stepEnd (.sCore n)).cl n) = { d.cl n with s := { (d.cl n).s with resv := rs }, dbg := db } := by
  cases h : (d.dbg (.sCore n)).stepping with
  | false => exact ⟨_, _, by rw [Dev.stepEnd, if_neg (Bool.eq_false_iff.1 h)]⟩
  | true =>
    rw [Dev.stepEnd_stepping d n h]
    exact ⟨_, _, Dev.cl_onCl_same d n Cluster.stepped⟩
/-- What an S-core's completed instruction leaves in the cluster of a command that is not ending. -/
theorem Dev.past_running {d : Dev} {n : Nat} {r : RunCmd} (h : (d.cl n).run = some r) (he : r.ending = none) (len : Nat) :
    ∃ p rt rs db ts ls, (d.past (.sCore n) len).cl n = { d.cl n with
      s := { (d.cl n).s with pc := p, retired := rt, resv := rs }, dbg := db, tokens := ts, launches := ls } := by
  have hpc : ((d.setPc (.sCore n) (d.pc (.sCore n) + len)).retire (.sCore n)).cl n = { d.cl n with s := { (d.cl n).s with
      pc := BitVec.ofNat 48 (d.pc (.sCore n) + len), retired := (d.cl n).s.retired + 1 } } := by
    rw [Dev.retire, Dev.cl_onS_same, Dev.setPc, Dev.cl_onS_same]
  obtain ⟨rs, db, hstep⟩ := ((d.setPc (.sCore n) (d.pc (.sCore n) + len)).retire (.sCore n)).stepEnd_sCore n
  rw [hpc] at hstep
  obtain ⟨ts, ls, hset⟩ := Dev.settle_running (by rw [hstep]; exact h) he
  exact ⟨_, _, rs, db, ts, ls, by rw [Dev.past, Dev.complete]; exact hset.trans (by rw [hstep])⟩

/-! ## `wfc` (R93, R97) -/

theorem Dev.clusters_fault (d : Dev) (org : BitVec 32) (kind sub : Nat) (rep : BitVec 32) (wit : Nat) (addr det : Word) :
    (d.fault org kind sub rep wit addr det).clusters = d.clusters := by
  obtain ⟨⟨_, _, _, h⟩, -⟩ := d.onlyReports_refl.fault org kind sub rep wit addr det
  rw [h]
theorem Dev.clusters_mergeW (d : Dev) (sp : MSpace) (w : Nat) (mask : BitVec 8) (v : Word) :
    (d.mergeW sp w mask v).clusters = d.clusters := by
  have hset (m : Mem) : (d.setMem sp m).clusters = d.clusters := by cases sp <;> rfl
  rcases h : (d.mem sp).mergeW sp.id w mask v with ⟨m, _ | _ | _⟩
  · simp only [Dev.mergeW, h, hset]
  · simp [Dev.mergeW, h, hset]
  · simp only [Dev.mergeW, h]
    exact (Dev.clusters_fault _ ..).trans (hset m)
theorem Dev.level_setResv (d : Dev) (a : Agent) (r : Option Resv) (m : Nat) : ((d.setResv a r).cl m).s.level = (d.cl m).s.level := by
  cases a with
  | sCore n =>
    by_cases h : m = n
    · rw [h, Dev.setResv, Dev.cl_onS_same]
    · rw [Dev.setResv, Dev.cl_onS_ne _ _ h]
  | group n v k =>
    cases h : d.grp (.group n v k) with
    | none => simp only [Dev.setResv, Dev.onGrp, h]
    | some g =>
      simp only [Dev.setResv, Dev.onGrp, h, Dev.setGrp, Dev.cl_onCl]
      split
      case isTrue h => rw [h]
      case isFalse => rfl
/-- Writing a command's copy leaves the level of every S-core alone. -/
theorem Dev.level_localPut (d : Dev) (n addr : Nat) (bs : List (BitVec 8)) (m : Nat) :
    ((d.localPut n addr bs).cl m).s.level = (d.cl m).s.level := by
  have hkill : ((d.killLocal n none addr bs.length).cl m).s.level = (d.cl m).s.level := by
    refine foldl_keeps (fun e : Dev => (e.cl m).s.level) (fun e b => ?_) _ d
    cases h : e.resvOf b with
    | none => rfl
    | some r =>
      simp only
      split
      · exact e.level_setResv b none m
      · rfl
  refine Eq.trans (foldl_keeps (fun e : Dev => (e.cl m).s.level) (fun e k => ?_) _ _) hkill
  simp only [Dev.cl, Dev.clusters_mergeW]

/-- That no agent is served by data read before changes the outstanding reads alone. -/
theorem Dev.cl_freshen (d : Dev) (a : Agent) (line : Option Nat) (m : Nat) :
    ∃ ms, (d.freshen a line).cl m = { d.cl m with misses := ms } := by
  by_cases h : m = a.cluster
  · exact ⟨_, by rw [h, Dev.freshen, Dev.cl_onCl_same]⟩
  · exact ⟨(d.cl m).misses, by rw [Dev.freshen, Dev.cl_onCl_ne _ _ h]⟩
theorem Dev.cl_foldl_freshen (l : List Agent) (d : Dev) (m : Nat) :
    ∃ ms, (l.foldl (fun (d : Dev) a => d.freshen a none) d).cl m = { d.cl m with misses := ms } := by
  induction l generalizing d with
  | nil => exact ⟨_, rfl⟩
  | cons a l ih =>
    obtain ⟨ms, h⟩ := d.cl_freshen a none m
    obtain ⟨ms', h'⟩ := ih (d.freshen a none)
    exact ⟨ms', by rw [List.foldl_cons, h', h]⟩

theorem Dev.cl_freshenAll (d : Dev) (n : Nat) : ∃ ms, (d.freshenAll n).cl n = { d.cl n with misses := ms } :=
  Dev.cl_foldl_freshen _ d n

/-- The cluster that has taken the command `r`, with its copy at `slot` and `rest` still queued. -/
def Cluster.tookCmd (c : Cluster) (rest : List CmdRec) (r : RunCmd) (slot : Word) : Cluster :=
  { c.l1rInval with
    cmdq := rest
    tokens := []
    run := some r
    entering := true
    s := { c.s with cmd := slot, yield := false, wait := .none } }
/-- The place of the copy of the oldest command `q` in Local, and the device once it is there. -/
def Dev.placeCmd (d : Dev) (n : Nat) (q : CmdRec) : Nat × Dev :=
  let x := (d.waited q).2.fresh
  let slot := keeperArea + x.1.toNat % 0x3000 * 64
  (slot, x.2.localPut n slot (toBytes 64 (HostCmdWord (d.waited q).1.c)))
theorem Dev.level_placeCmd (d : Dev) (n : Nat) (q : CmdRec) : ((d.placeCmd n q).2.cl n).s.level = (d.cl n).s.level :=
  Dev.level_localPut ..
/-- The record of the command `q` as it starts. -/
def Dev.startedRun (d : Dev) (n : Nat) (q : CmdRec) : RunCmd :=
  { cid := (d.placeCmd n q).2.nextCid, q := (d.waited q).1, epoch := (NMap.get d.ctxs CtxRt.reset q.ctx).epoch, cluster := n, ns := 0,
    wbFailed := 0, wbToken := 0, trap := none, ending := none, internal := false, moved := false }
theorem Dev.takeCmd_clusters {d : Dev} {n rd : Nat} {q : CmdRec} {rest : List CmdRec} (h : (d.cl n).cmdq = q :: rest) :
    (d.takeCmd n rd).clusters = ((((d.placeCmd n q).2.onCl n fun c =>
      c.tookCmd rest (d.startedRun n q) (BitVec.ofNat 64 (d.placeCmd n q).1)).freshenAll n).wr (.sCore n) rd
        (BitVec.ofNat 64 (d.placeCmd n q).1)).clusters := by
  rw [Dev.takeCmd, h]
  rfl

/-- What `wfc` leaves when it returns with the oldest command of its queue. -/
structure Dev.TookCmd (d e : Dev) (n rd : Nat) (rest : List CmdRec) : Prop where
  run : ∃ r, (e.cl n).run = some r ∧ r.ending = none
  cmdq : (e.cl n).cmdq = rest
  l1r : (e.cl n).l1r = []
  level : (e.cl n).s.level = (d.cl n).s.level
  yield : (e.cl n).s.yield = false
  cmd : rd ≠ 0 → (e.cl n).s.cmd = e.rd (.sCore n) rd
theorem Dev.takeCmd_took {d : Dev} {n rd : Nat} {q : CmdRec} {rest : List CmdRec} (h : (d.cl n).cmdq = q :: rest) :
    d.TookCmd (d.takeCmd n rd) n rd rest := by
  obtain ⟨ms, hms⟩ := ((d.placeCmd n q).2.onCl n fun c =>
    c.tookCmd rest (d.startedRun n q) (BitVec.ofNat 64 (d.placeCmd n q).1)).cl_freshenAll n
  rw [Dev.cl_onCl_same] at hms
  have hcl : (d.takeCmd n rd).cl n = _ :=
    (congrArg (fun cs => NMap.get cs Cluster.reset n) (Dev.takeCmd_clusters (rd := rd) h)).trans (Dev.cl_wr_sCore _ n n rd _)
  rw [if_pos rfl, hms] at hcl
  refine ⟨⟨d.startedRun n q, by rw [hcl]; rfl, rfl⟩, by rw [hcl]; rfl, by rw [hcl]; rfl, ?_, by rw [hcl]; rfl, fun hrd => ?_⟩
  · rw [hcl]
    exact d.level_placeCmd n q
  · rw [Dev.rd_sCore _ _ _ hrd, hcl]
    simp only [if_neg hrd, NMap.get_set, if_true]
    rfl
/-- The same once the S-core has moved past its `wfc`. -/
theorem Dev.TookCmd.past {d e : Dev} {n rd : Nat} {rest : List CmdRec} (h : d.TookCmd e n rd rest) (len : Nat) :
    d.TookCmd (e.past (.sCore n) len) n rd rest := by
  obtain ⟨⟨r, hrun, he⟩, hq, hl, hlevel, hy, hcmd⟩ := h
  obtain ⟨p, rt, rs, db, ts, ls, hcl⟩ := Dev.past_running hrun he len
  refine ⟨⟨r, by rw [hcl]; exact hrun, he⟩, by rw [hcl]; exact hq, by rw [hcl]; exact hl, by rw [hcl]; exact hlevel,
    by rw [hcl]; exact hy, fun hrd => ?_⟩
  rw [hcl]
  exact (hcmd hrd).trans (Dev.rd_congr_sCore (by rw [hcl]) rd).symm

section
variable {s : State} {n : Nat} {f : FmtSY}

section
variable (h : s.canIssue (.sCore n)) (hk : s.dev.level (.sCore n) = .keeper) (hr : (s.dev.cl n).run = none)
include h hk hr

theorem exec_wfc_take (hq : (s.dev.cl n).cmdq ≠ []) (hb : s.dev.blocked = false) :
    exec (.wfc (.sCore n) f) s = s.gives fun d => (d.takeCmd n f.rd.toNat).past (.sCore n) 4 := by
  refine instr4_out h (o := .done (s.dev.takeCmd n f.rd.toNat)) ?_ _ rfl
  rw [Dev.level_sCore] at hk
  simp [hk, hr, hq, hb]
theorem exec_wfc_wait (hq : (s.dev.cl n).cmdq = [] ∨ s.dev.blocked = true) :
    exec (.wfc (.sCore n) f) s = s.gives fun d => d.setWait (.sCore n) (.wfc f.rd.toNat) := by
  refine instr4_out h (o := .wait (s.dev.setWait (.sCore n) (.wfc f.rd.toNat))) ?_ _ rfl
  rw [Dev.level_sCore] at hk
  simp [hk, hr, hq]

end

theorem exec_commandDelivery {rd : Nat} (hn : n < 384) (hw : (s.dev.cl n).s.wait = .wfc rd) (hr : s.dev.running n = true)
    (hh : (s.dev.dbg (.sCore n)).halted = false) (hq : (s.dev.cl n).cmdq ≠ []) (hb : s.dev.blocked = false) :
    exec (.commandDelivery n) s = s.gives fun d => (d.takeCmd n rd).past (.sCore n) 4 := by
  refine (run_gives (g := fun d => (d.takeCmd n rd).past (.sCore n) 4) (decide_eq_true hn) ?_ : execCommandDelivery n s = _)
  simp [hw, hr, hh, hq, hb]

/-! ## `cmd.done` (R94) -/

theorem exec_cmdDone_running {r : RunCmd} (h : s.canIssue (.sCore n)) (hr : (s.dev.cl n).run = some r) (he : r.ending = none) :
    exec (.cmdDone (.sCore n) f) s = s.gives fun d =>
      ((d.onRun n fun r => { r with ending := some (.done (s.dev.rd (.sCore n) f.rs1.toNat)) }).setWait (.sCore n) .cmdDone).settle n := by
  have hend : s.dev.onRun n (fun r => { r with ending := match r.ending with
      | some e => some e
      | none => some (.done (s.dev.rd (.sCore n) f.rs1.toNat)) }) =
        s.dev.onRun n fun r => { r with ending := some (.done (s.dev.rd (.sCore n) f.rs1.toNat)) } := by
    simp only [Dev.onRun, Dev.onCl, hr, Option.map_some, he]
  refine instr4_out h (o := .wait _) ?_ _ rfl
  simp only [hr]
  exact congrArg (fun d : Dev => Out.wait ((d.setWait (.sCore n) .cmdDone).settle n)) hend
theorem exec_cmdDone_idle (h : s.canIssue (.sCore n)) (hr : (s.dev.cl n).run = none) (hS : (s.dev.cl n).qS = [])
    (h0 : (s.dev.cl n).q0 = []) (h1 : (s.dev.cl n).q1 = []) (hb : (s.dev.cl n).buf = []) :
    exec (.cmdDone (.sCore n) f) s = s.gives fun d =>
      (d.onS n fun x => { x with level := .keeper }).reached (.sCore n) ((s.dev.cl n).s.ktvec.toNat + 0x40) := by
  refine instr4_out h (o := .goto _ _) ?_ _ rfl
  simp [hr, hS, h0, h1, hb]

end

/-- Settles O18; what `wfc` leaves holds also after the move past it, since the command that it starts is not ending. -/
theorem systemInstructionsComplete : Obligations.SystemInstructionsComplete := by
  refine ⟨fun s a f h => ?_, fun s a f => ⟨fun h => ?_, fun scope mark ha hp hw hd => exec_fenceComplete ha hp hw hd⟩,
    fun s n f => ?_⟩
  · intro num acc W
    refine ⟨fun hacc => instr4_out h (csrOp_read hacc) _ rfl, fun hacc => ?_, fun hacc c hc => ?_,
      fun hacc c hc => ?_, fun hacc c hc => ?_⟩
    · have write (k : Nat) (g : Word → Word → Word) : instr4 a s (csrOp a f k (some g)) = W g := instr4_out h (csrOp_write hacc) _ rfl
      exact ⟨write .., write .., write ..⟩
    · obtain ⟨k, g, hexec⟩ := exec_csrWrite hc s
      exact ⟨_, hexec.trans (instr4_out h (csrOp_readOnly hacc) _ rfl)⟩
    · obtain ⟨k, w, hexec⟩ := exec_csr hc s
      exact ⟨_, hexec.trans (instr4_out h (csrOp_unassigned hacc) _ rfl)⟩
    · obtain ⟨k, w, hexec⟩ := exec_csr hc s
      exact hexec.trans (instr4_out h (csrOp_closed hacc) _ rfl)
  · have sys {k : BitVec 9} (hk : f.sys = k) : f.sys.toNat = k.toNat := congrArg BitVec.toNat hk
    exact ⟨fun hk => instr4_fenceOp h (sys hk), fun hk => instr4_fenceOp h (sys hk), fun hk => instr4_fenceOp h (sys hk),
      instr4_out h rfl _ rfl⟩
  · refine ⟨fun h hk hr => ⟨exec_wfc_take h hk hr, exec_wfc_wait h hk hr, fun t hq hb hrd hexec => ?_⟩,
      fun rd => exec_commandDelivery, fun r => exec_cmdDone_running, exec_cmdDone_idle⟩
    obtain ⟨q, rest, hq'⟩ := List.exists_cons_of_ne_nil hq
    have htook := (Dev.takeCmd_took (rd := f.rd.toNat) hq').past 4
    obtain rfl := Host.Outcome.next.inj ((exec_wfc_take h hk hr hq hb).symm.trans hexec)
    have hne : f.rd.toNat ≠ 0 := fun h0 => hrd (BitVec.eq_of_toNat_eq h0)
    exact ⟨htook.cmd hne, htook.cmdq.trans (by rw [hq']; rfl), htook.level.trans hk, htook.yield, htook.l1r⟩

end Sys2Proof.Machine
end

section
namespace Sys2Proof.Machine

/-! ## The services of the Keeper (R84, Table 3.7) -/

/-- The service of clearing a channel of engine `eng`: for the function that owns it only. -/
def Dev.clearService (d : Dev) (n eng : Nat) : Word × Dev :=
  let arg := (d.rd (.sCore n) 11).toNat
  if arg < d.chanCount eng ∧ d.rf (oChan eng arg) 15 8 = (d.cl n).s.func.toNat then (0, d.clearChan eng arg) else (1, d)

section
variable {d : Dev} {n : Nat}

theorem Dev.service_clearPorter (h : (d.rd (.sCore n) 10).toNat = 0x0101) : d.service n = d.clearService n 0 := if_pos h
theorem Dev.service_clearGather (h : (d.rd (.sCore n) 10).toNat = 0x0102) : d.service n = d.clearService n 1 := by
  have h1 : (d.rd (.sCore n) 10).toNat ≠ 0x0101 := by omega
  exact (if_neg h1).trans (if_pos h)
theorem Dev.service_unassigned (h1 : (d.rd (.sCore n) 10).toNat ≠ 0x0101) (h2 : (d.rd (.sCore n) 10).toNat ≠ 0x0102)
    (h3 : (d.rd (.sCore n) 10).toNat ≠ 0x0201) : d.service n = (BitVec.allOnes 64, d) :=
  (if_neg h1).trans ((if_neg h2).trans (if_neg h3))

section
variable (h : (d.rd (.sCore n) 10).toNat = 0x0201)
include h

theorem Dev.service_coll {w : BitVec 512} {x : Dev} (ha : (d.rd (.sCore n) 11).toNat % 64 = 0)
    (hs : d.inShare (d.cl n).s.ctx.toNat (d.rd (.sCore n) 11).toNat 64 = true)
    (hw : d.copy64 n (d.rd (.sCore n) 11).toNat = (.ok w, x)) :
    d.service n = x.startColl (d.cl n).s.ctx.toNat (d.cl n).s.func.toNat (x.cl n).cid w := by
  have h1 : (d.rd (.sCore n) 10).toNat ≠ 0x0101 := by omega
  have h2 : (d.rd (.sCore n) 10).toNat ≠ 0x0102 := by omega
  refine (if_neg h1).trans ((if_neg h2).trans ((if_pos h).trans ((if_pos ⟨ha, hs⟩).trans ?_)))
  rw [hw]
theorem Dev.service_coll_refused (ha : ¬((d.rd (.sCore n) 11).toNat % 64 = 0 ∧
    d.inShare (d.cl n).s.ctx.toNat (d.rd (.sCore n) 11).toNat 64 = true)) : d.service n = (1, d) := by
  have h1 : (d.rd (.sCore n) 10).toNat ≠ 0x0101 := by omega
  have h2 : (d.rd (.sCore n) 10).toNat ≠ 0x0102 := by omega
  exact (if_neg h1).trans ((if_neg h2).trans ((if_pos h).trans (if_neg ha)))

end
end

/-! ## `ecall` (R83) -/

theorem exec_ecall {a : Agent} {f : FmtSY} {c : Instr}
    (hc : c ∈ [Instr.clearPorterChannel a f, .clearGatherChannel a f, .startCollective a f, .ecallUnassignedService a f]) (s : State) :
    exec c s = instr4 a s (ecallOp a f) := by
  simp only [List.mem_cons, List.not_mem_nil, or_false] at hc
  rcases hc with rfl | rfl | rfl | rfl <;> rfl

section
variable {s : State} {n : Nat} {f : FmtSY} (h : s.canIssue (.sCore n))
include h

theorem instr4_ecallOp_keeper (hk : s.dev.level (.sCore n) = .keeper) :
    instr4 (.sCore n) s (ecallOp (.sCore n) f) = s.gives fun d => d.trapped (.sCore n) cECALL 0 :=
  instr4_out h (if_pos (.inl hk)) _ rfl
/-- An `ecall` that no debug halt meets is its service. -/
theorem instr4_ecallOp_guest (hg : s.dev.level (.sCore n) = .guest) (ht : (s.dev.dbg (.sCore n)).onTrap = false)
    (hs : (s.dev.dbg (.sCore n)).stepping = false) (hr : (s.dev.dbg (.sCore n)).haltReq = false) :
    instr4 (.sCore n) s (ecallOp (.sCore n) f) = s.gives fun d =>
      (((d.service n).2.endResv (.sCore n)).wr (.sCore n) 10 (d.service n).1).setPc (.sCore n) ((d.service n).2.pc (.sCore n) + 4) := by
  have hno : ¬((s.dev.cl n).s.level = .keeper ∨ (s.dev.dbg (.sCore n)).onTrap = true ∨ (s.dev.dbg (.sCore n)).stepping = true ∨
      (s.dev.dbg (.sCore n)).haltReq = true) := by
    rw [Dev.level_sCore] at hg
    simp [hg, ht, hs, hr]
  exact instr4_out h (if_neg hno) _ rfl

end

/-- Settles O33: an `ecall` answers what the service that s10 selects answers. -/
theorem servicesComplete : Obligations.ServicesComplete := by
  intro s n f h a what arg mine answers
  refine ⟨fun hg ht hs hr => ?_, fun hk c hc => (exec_ecall hc s).trans (instr4_ecallOp_keeper h hk)⟩
  have served {c : Instr} (hc : c ∈ [Instr.clearPorterChannel a f, .clearGatherChannel a f, .startCollective a f,
      .ecallUnassignedService a f]) {v : Word} {g : Dev → Dev} (hv : s.dev.service n = (v, g s.dev)) : exec c s = answers v g :=
    ((exec_ecall hc s).trans (instr4_ecallOp_guest h hg ht hs hr)).trans (State.gives_congr (by rw [hv]))
  refine ⟨fun hw hm => served (by simp) ((Dev.service_clearPorter hw).trans (if_pos hm)),
    fun hw hm => served (by simp) ((Dev.service_clearPorter hw).trans (if_neg hm)),
    fun hw hm => served (by simp) ((Dev.service_clearGather hw).trans (if_pos hm)),
    fun hw hm => served (by simp) ((Dev.service_clearGather hw).trans (if_neg hm)),
    fun w x hw ha hs hx => served (by simp) (Dev.service_coll hw ha hs hx),
    fun hw hn => served (by simp) (Dev.service_coll_refused hw fun ⟨ha, hs⟩ => ?_),
    fun h1 h2 h3 => served (by simp) (Dev.service_unassigned h1 h2 h3)⟩
  exact hn.elim (fun hn => hn ha) fun hn => absurd (hs.symm.trans hn) nofun

end Sys2Proof.Machine
end

section
namespace Sys2Proof.Machine

/-! ## The debug block (R101 to R104, R139) -/

/-- The debug block notes that it has been written (Table 16.5). -/
def Dev.dbgNoted (d : Dev) : Dev := d.onLtn fun l => { l with dbgWritten := true }
theorem Dev.dbgWrite_full {d : Dev} (h : d.full = true) (f : Dev → Dev) : d.dbgWrite f = f d.dbgNoted := if_pos h
theorem Dev.onTarget_none {d : Dev} (h : d.dbgTarget = none) (f : Agent → Dev → Dev) : d.onTarget f = d := by
  simp only [Dev.onTarget, h]
theorem Dev.onTarget_some {d : Dev} {a : Agent} (h : d.dbgTarget = some a) (f : Agent → Dev → Dev) : d.onTarget f = f a d := by
  simp only [Dev.onTarget, h]

section
variable {s : State} (h : s.dev.full = true)
include h

/-- A command of the debug block in full function. -/
theorem run_dbgWrite {f g : Dev → Dev} (hf : f s.dev.dbgNoted = g s.dev) : run true s (fun d => d.dbgWrite f) = s.gives g :=
  run_gives rfl ((Dev.dbgWrite_full h f).trans hf)

theorem exec_dbg_noTarget (hn : s.dev.dbgTarget = none) : exec .halt s = s.gives Dev.dbgNoted ∧
    exec .resume s = s.gives Dev.dbgNoted ∧ exec .step s = s.gives Dev.dbgNoted :=
  have hno (f : Agent → Dev → Dev) : s.dev.dbgNoted.onTarget f = s.dev.dbgNoted := Dev.onTarget_none (d := s.dev.dbgNoted) hn f
  ⟨run_dbgWrite h (hno _), run_dbgWrite h (hno _), run_dbgWrite h (hno _)⟩

section
variable {a : Agent} (ht : s.dev.dbgTarget = some a)
include ht

theorem exec_dbg_running (hr : (s.dev.dbg a).halted = false) :
    (exec .halt s = s.gives fun d => d.dbgNoted.onDbg a fun x => { x with haltReq := true }) ∧
    (exec .step s = s.gives fun d => d.dbgNoted.onDbg a fun x => { x with haltReq := true }) ∧ exec .resume s = s.gives Dev.dbgNoted := by
  have hnot : ¬(s.dev.dbgNoted.dbg a).halted = true := Bool.eq_false_iff.1 hr
  exact ⟨run_dbgWrite h ((Dev.onTarget_some (d := s.dev.dbgNoted) ht _).trans (if_neg hnot)),
    run_dbgWrite h ((Dev.onTarget_some (d := s.dev.dbgNoted) ht _).trans ((if_neg hnot).trans (if_neg hnot))),
    run_dbgWrite h ((Dev.onTarget_some (d := s.dev.dbgNoted) ht _).trans (if_neg hnot))⟩
theorem exec_dbg_halted (hr : (s.dev.dbg a).halted = true) : exec .halt s = s.gives Dev.dbgNoted ∧
    (exec .step s = s.gives fun d =>
      d.dbgNoted.onDbg a fun x => { x with halted := false, stepping := true, reason := 0, cause := 0 }) ∧
    exec .resume s = s.gives fun d => d.dbgNoted.unhalt a := by
  have hyes : (s.dev.dbgNoted.dbg a).halted = true := hr
  exact ⟨run_dbgWrite h ((Dev.onTarget_some (d := s.dev.dbgNoted) ht _).trans (if_pos hyes)),
    run_dbgWrite h ((Dev.onTarget_some (d := s.dev.dbgNoted) ht _).trans (if_pos hyes)),
    run_dbgWrite h (Dev.onTarget_some (d := s.dev.dbgNoted) ht _)⟩

end
end

/-! ## A halt takes effect (R102) -/

theorem Dev.dbg_onDbg (d : Dev) (a : Agent) (f : Dbg → Dbg) : (d.onDbg a f).dbg a = f (d.dbg a) := by
  rw [Dev.dbg, Dev.onDbg, Dev.cl_onCl_same]
  exact NMap.get_put_same ..
theorem Dev.waitOf_group (d : Dev) (n : Nat) (v : Bool) (k : Nat) :
    d.waitOf (.group n v k) = ((d.grp (.group n v k)).map Group.wait).getD .none := by
  cases h : d.grp (.group n v k) <;> simp only [Dev.waitOf, h] <;> rfl
theorem Dev.cl_onDbg (d : Dev) (a : Agent) (f : Dbg → Dbg) : ∃ x, (d.onDbg a f).cl a.cluster = { d.cl a.cluster with dbg := x } :=
  ⟨_, Dev.cl_onCl_same ..⟩
theorem Dev.grp_onDbg (d : Dev) (n : Nat) (v : Bool) (k : Nat) (f : Dbg → Dbg) :
    (d.onDbg (.group n v k) f).grp (.group n v k) = d.grp (.group n v k) := by
  rw [Dev.grp_of_isGroup _ rfl, Dev.grp_of_isGroup _ rfl, Dev.onDbg, Dev.cl_onCl_same]
theorem Dev.waitOf_onDbg (d : Dev) (a : Agent) (f : Dbg → Dbg) : (d.onDbg a f).waitOf a = d.waitOf a := by
  cases a with
  | sCore n =>
    obtain ⟨x, hx : (d.onDbg (.sCore n) f).cl n = _⟩ := d.cl_onDbg (.sCore n) f
    simp only [Dev.waitOf, hx]
    rfl
  | group n v k => rw [Dev.waitOf_group, Dev.grp_onDbg, Dev.waitOf_group]
theorem Dev.grp_onGrp_same (d : Dev) {n : Nat} {v : Bool} {k : Nat} {g : Group} (h : d.grp (.group n v k) = some g) (f : Group → Group) :
    (d.onGrp (.group n v k) f).grp (.group n v k) = some (f g) := by
  simp only [Dev.onGrp, h]
  exact d.grp_setGrp_same rfl _
theorem Dev.waitOf_haltNow (d : Dev) (a : Agent) (h : (∃ n, a = .sCore n) ∨ (d.grp a).isSome = true) :
    (d.haltNow a).waitOf a = .none := by
  refine (Dev.waitOf_onDbg _ a _).trans ?_
  cases a with
  | sCore n => exact congrArg (fun c : Cluster => c.s.wait) (Dev.cl_onS_same (d.endResv (.sCore n)) n _)
  | group n v k =>
    obtain ⟨g, hg⟩ := Option.isSome_iff_exists.1 (h.resolve_left nofun)
    have hend : (d.endResv (.group n v k)).grp (.group n v k) = some { g with resv := none } := d.grp_onGrp_same hg _
    have hwait := (d.endResv (.group n v k)).grp_onGrp_same hend fun g => { g with wait := .none }
    exact (Dev.waitOf_group _ n v k).trans (by rw [Dev.setWait, hwait]; rfl)
theorem exec_haltTakesEffect {s : State} {a : Agent} (ha : Agent.ok a = true) (hr : s.dev.running a.cluster = true)
    (hthere : (∃ n, a = .sCore n) ∨ (s.dev.grp a).isSome = true) (hq : (s.dev.dbg a).haltReq = true)
    (hh : (s.dev.dbg a).halted = false) (hy : (s.dev.waitOf a).yields = true) :
    exec (.haltTakesEffect a) s = s.gives fun d => d.haltNow a := by
  refine (run_gives (g := fun d => d.haltNow a) ha ?_ : execHaltTakesEffect a s = _)
  cases a with
  | sCore n => simp [hr, hq, hh, hy]
  | group n v k => simp [hr, hq, hh, hy, hthere.resolve_left nofun]

/-! ## Target accesses (R103, R140) -/

/-- The low bits of a value written. -/
theorem fld_low (v : BitVec 32) (hi : Nat) : fld (zext v) hi 0 = v.toNat % 2 ^ (hi + 1) := by
  rw [fld_zext, pow_zero, Nat.div_one, Nat.sub_zero]
/-- A write of DBG_ACC keeps INDEX, SPACE and LANE. -/
def Dev.dbgAccAt (d : Dev) (v : BitVec 32) : Dev := d.dbgNoted.setReg 0x90000C (BitVec.ofNat 64 (v.toNat % 2 ^ 17))
/-- INDEX, SPACE and LANE do not choose the target. -/
theorem Dev.dbgTarget_setReg_acc (d : Dev) (v : Word) : (d.setReg 0x90000C v).dbgTarget = d.dbgTarget := by
  have hclu (n : Nat) : oClu n ≠ 0x90000C := by
    simp only [oClu]
    omega
  simp only [Dev.dbgTarget, Dev.rf, Dev.present, Dev.rb, Dev.reg_setReg_ne d v (hclu _),
    Dev.reg_setReg_ne d v (show 0x900000 ≠ 0x90000C by decide)]
  rfl

section
variable {d : Dev} {a : Agent} (ht : d.dbgTarget = some a) (v : BitVec 32)
include ht

theorem Dev.dbgAcc_target (write : Bool) :
    d.dbgNoted.dbgAcc (zext v) write =
      if !((d.dbgAccAt v).dbg a).halted then
        let e := (d.dbgAccAt v).onDbg a fun x => { x with accErr := true }
        if write then e else e.setReg 0x900010 0
      else if write then (d.dbgAccAt v).accWrite a (v.toNat % 1024) (v.toNat / 2 ^ 10 % 4) (v.toNat / 2 ^ 12 % 32) (d.reg 0x900010)
      else
        let y := (d.dbgAccAt v).accRead a (v.toNat % 1024) (v.toNat / 2 ^ 10 % 4) (v.toNat / 2 ^ 12 % 32)
        y.2.setReg 0x900010 y.1 := by
  have hdata : (d.dbgAccAt v).reg 0x900010 = d.reg 0x900010 := Dev.reg_setReg_ne d.dbgNoted _ (by decide)
  have htgt : (d.dbgNoted.setReg 0x90000C (BitVec.ofNat 64 (v.toNat % 2 ^ 17))).dbgTarget = some a :=
    (Dev.dbgTarget_setReg_acc _ _).trans ht
  rw [Dev.dbgAcc, fld_low v 16, Dev.onTarget_some htgt, fld_low v 9, fld_zext v 11 10, fld_zext v 16 12, ← hdata]
  rfl

end

section
variable {s : State} {a : Agent} (h : s.dev.full = true) (ht : s.dev.dbgTarget = some a) (v : BitVec 32)
include h ht

theorem exec_dbgAcc_halted (hh : (s.dev.dbg a).halted = true) :
    (exec (.dbgAccWrite v) s = s.gives fun d =>
      (d.dbgAccAt v).accWrite a (v.toNat % 1024) (v.toNat / 2 ^ 10 % 4) (v.toNat / 2 ^ 12 % 32) (d.reg 0x900010)) ∧
    exec (.dbgAccRead v) s = s.gives fun d =>
      let y := (d.dbgAccAt v).accRead a (v.toNat % 1024) (v.toNat / 2 ^ 10 % 4) (v.toNat / 2 ^ 12 % 32)
      y.2.setReg 0x900010 y.1 := by
  have hno : ¬(!((s.dev.dbgAccAt v).dbg a).halted) = true := by
    rw [show (s.dev.dbgAccAt v).dbg a = s.dev.dbg a from rfl, hh]
    decide
  exact ⟨run_dbgWrite h ((Dev.dbgAcc_target ht v true).trans (if_neg hno)),
    run_dbgWrite h ((Dev.dbgAcc_target ht v false).trans (if_neg hno))⟩
theorem exec_dbgAcc_running (hh : (s.dev.dbg a).halted = false) :
    (exec (.dbgAccWrite v) s = s.gives fun d => (d.dbgAccAt v).onDbg a fun x => { x with accErr := true }) ∧
    exec (.dbgAccRead v) s = s.gives fun d =>
      ((d.dbgAccAt v).onDbg a fun x => { x with accErr := true }).setReg 0x900010 0 := by
  have hyes : (!((s.dev.dbgAccAt v).dbg a).halted) = true := by
    rw [show (s.dev.dbgAccAt v).dbg a = s.dev.dbg a from rfl, hh]
    rfl
  exact ⟨run_dbgWrite h ((Dev.dbgAcc_target ht v true).trans (if_pos hyes)),
    run_dbgWrite h ((Dev.dbgAcc_target ht v false).trans (if_pos hyes))⟩

end

/-! ## Link and cluster settings (R225, R307, R314, R327 to R329) -/

section
variable {d : Dev} {l : Nat} {v : BitVec 32} (h4 : v.getLsbD 4 = false)
include h4

theorem Dev.writeLnkCfg_zext : d.writeLnkCfg l (zext v) =
    if d.rb (oLink l) 0 && !(v.getLsbD 0) then ((d.setReg (oLink l) (BitVec.ofNat 64 (v.toNat % 16))).linkDown l false).gRunAll
    else if !(d.rb (oLink l) 0) && v.getLsbD 0 then (d.setReg (oLink l) (BitVec.ofNat 64 (v.toNat % 16))).startRetrain l
    else d.setReg (oLink l) (BitVec.ofNat 64 (v.toNat % 16)) := by
  rw [Dev.writeLnkCfg, bitAt_zext v (by decide), bitAt_zext v (by decide), fld_low, h4]
  rfl
/-- EN stays as it is. -/
theorem Dev.writeLnkCfg_same (h : v.getLsbD 0 = d.rb (oLink l) 0) :
    d.writeLnkCfg l (zext v) = d.setReg (oLink l) (BitVec.ofNat 64 (v.toNat % 16)) := by
  rw [Dev.writeLnkCfg_zext h4, h]
  cases d.rb (oLink l) 0 <;> rfl
theorem Dev.writeLnkCfg_enable (hv : v.getLsbD 0 = true) (h : d.rb (oLink l) 0 = false) :
    d.writeLnkCfg l (zext v) = (d.setReg (oLink l) (BitVec.ofNat 64 (v.toNat % 16))).startRetrain l := by
  rw [Dev.writeLnkCfg_zext h4, h, hv]
  rfl
theorem Dev.writeLnkCfg_disable (hv : v.getLsbD 0 = false) (h : d.rb (oLink l) 0 = true) :
    d.writeLnkCfg l (zext v) = ((d.setReg (oLink l) (BitVec.ofNat 64 (v.toNat % 16))).linkDown l false).gRunAll := by
  rw [Dev.writeLnkCfg_zext h4, h, hv]
  rfl

end

/-- LNK_DEV_ID takes a write while no link has EN = 1, and no other (R328). -/
theorem Dev.writeDevId_free {d : Dev} (v : BitVec 32) (h : ∀ l, l < d.part.links → d.rb (oLink l) 0 = false) :
    d.writeDevId (zext v) = d.setReg oDevId (BitVec.ofNat 64 (v.toNat % 2 ^ 26)) := by
  rw [Dev.writeDevId, fld_low]
  exact if_neg (by simpa using h)
theorem Dev.writeDevId_enabled {d : Dev} (v : BitVec 32) (h : ∃ l, l < d.part.links ∧ d.rb (oLink l) 0 = true) :
    d.writeDevId (zext v) = d :=
  if_pos (by simpa using h)

/-- What LNK_GRP_CFG keeps of a write. -/
def grpCfgWord (v : BitVec 32) : Word :=
  setFld (setFld (setFld (0 : Word) 1 0 (v.toNat % 4)) 15 8 (v.toNat / 256 % 256)) 28 16 (v.toNat / 65536 % 8192)
/-- The lines of a group's member list, if a host may hold one of them. -/
def Dev.grpListHeld (d : Dev) (g : Nat) (v : BitVec 32) : Option Dev :=
  d.hostLines fun l => decide (lineOf (d.rf (oGrp g + 8) 47 0) ≤ l) &&
    decide (l < lineOf (d.rf (oGrp g + 8) 47 0) + ceilDiv (v.toNat / 65536 % 8192) 32)
/-- The member list that a write of LNK_GRP_CFG reads. -/
def Dev.grpMembers (d : Dev) (g : Nat) (v : BitVec 32) : Option (List Nat) × Dev :=
  d.memberList (d.rf (oGrp g + 8) 47 0) (v.toNat / 65536 % 8192)
/-- The group with a member list that R329 does not refuse. -/
def Dev.grpMade (d : Dev) (g : Nat) (v : BitVec 32) (es : List Nat) : Dev :=
  let x := (d.setReg (oGrp g) (grpCfgWord v)).onGrpRt g fun x => { x with ready := [], nextSeq := 1, lost := [], members := es }
  x.setRf (oGrp g + 4) 25 13 (x.grpRt g).headOf

section
variable {d : Dev} {g : Nat} {v : BitVec 32}

theorem fld_members (v : BitVec 32) : fld (zext v) 28 16 = v.toNat / 65536 % 8192 := fld_zext v 28 16
theorem grpCfgWord_eq (v : BitVec 32) :
    setFld (setFld (setFld (0 : Word) 1 0 (fld (zext v) 1 0)) 15 8 (fld (zext v) 15 8)) 28 16 (fld (zext v) 28 16) = grpCfgWord v := by
  rw [fld_low, fld_members, fld_zext v 15 8]
  rfl
theorem Dev.writeGrpCfg_off (h : v.toNat % 4 = 0) : d.writeGrpCfg g (zext v) = d.setReg (oGrp g) (grpCfgWord v) := by
  rw [← grpCfgWord_eq]
  exact if_pos ((fld_low v 1).trans h)

section
variable (h : v.toNat % 4 ≠ 0)
include h

theorem Dev.writeGrpCfg_held {e : Dev} (hh : d.grpListHeld g v = some e) : d.writeGrpCfg g (zext v) = e := by
  have hk : fld (zext v) 1 0 ≠ 0 := fun h0 => h ((fld_low v 1).symm.trans h0)
  simp only [Dev.writeGrpCfg, if_neg hk, fld_members]
  rw [show (d.hostLines _) = some e from hh]
theorem Dev.writeGrpCfg_list (hh : d.grpListHeld g v = none) : d.writeGrpCfg g (zext v) =
    match d.grpMembers g v with
    | (none, e) => e.setRb (oGrp g + 0x10) 15 true
    | (some es, e) => if e.listBad g (v.toNat % 4) es then e.setRb (oGrp g + 0x10) 15 true else e.grpMade g v es := by
  have hk : fld (zext v) 1 0 ≠ 0 := fun h0 => h ((fld_low v 1).symm.trans h0)
  rw [Dev.writeGrpCfg, grpCfgWord_eq]
  simp only [if_neg hk, fld_members]
  rw [show (d.hostLines _) = none from hh, fld_low]
  rw [Dev.grpMembers]
  rcases d.memberList (d.rf (oGrp g + 8) 47 0) (v.toNat / 65536 % 8192) with ⟨_ | es, e⟩ <;> rfl

variable (hh : d.grpListHeld g v = none)
include hh

theorem Dev.writeGrpCfg_noList (hm : (d.grpMembers g v).1 = none) :
    d.writeGrpCfg g (zext v) = (d.grpMembers g v).2.setRb (oGrp g + 0x10) 15 true := by
  rw [Dev.writeGrpCfg_list h hh]
  rcases hx : d.grpMembers g v with ⟨o, e⟩
  rw [hx] at hm
  subst hm
  rfl
theorem Dev.writeGrpCfg_someList {es : List Nat} (hm : (d.grpMembers g v).1 = some es) :
    d.writeGrpCfg g (zext v) = if (d.grpMembers g v).2.listBad g (v.toNat % 4) es then (d.grpMembers g v).2.setRb (oGrp g + 0x10) 15 true
      else (d.grpMembers g v).2.grpMade g v es := by
  rw [Dev.writeGrpCfg_list h hh]
  rcases hx : d.grpMembers g v with ⟨o, e⟩
  rw [hx] at hm
  subst hm
  rfl
theorem Dev.writeGrpCfg_badList {es : List Nat} (hm : (d.grpMembers g v).1 = some es)
    (hb : (d.grpMembers g v).2.listBad g (v.toNat % 4) es = true) :
    d.writeGrpCfg g (zext v) = (d.grpMembers g v).2.setRb (oGrp g + 0x10) 15 true :=
  (Dev.writeGrpCfg_someList h hh hm).trans (if_pos hb)
theorem Dev.writeGrpCfg_goodList {es : List Nat} (hm : (d.grpMembers g v).1 = some es)
    (hb : (d.grpMembers g v).2.listBad g (v.toNat % 4) es = false) :
    d.writeGrpCfg g (zext v) = (d.grpMembers g v).2.grpMade g v es :=
  (Dev.writeGrpCfg_someList h hh hm).trans (if_neg (Bool.eq_false_iff.1 hb))

end
end

section
variable {s : State} (h : s.dev.full = true)
include h

/-- A write of the manager in full function. -/
theorem run_mgrFull {ok : Bool} {f g : Dev → Dev} (hok : ok = true) (hf : f s.dev = g s.dev) :
    run ok s (fun d => d.mgrFull f) = s.gives g :=
  run_gives hok ((if_pos h : s.dev.mgrFull f = f s.dev).trans hf)
theorem exec_lnkCfgEnWrite {l : Nat} {v : BitVec 32} {g : Dev → Dev} (hl : linkOk l = true) (hp : l < s.dev.part.links)
    (hg : s.dev.writeLnkCfg l (zext v) = g s.dev) : exec (.lnkCfgEnWrite l v) s = s.gives g :=
  run_mgrFull h hl ((if_pos hp).trans hg)
theorem exec_retrain {l : Nat} (hl : linkOk l = true) (hp : l < s.dev.part.links) (he : s.dev.rb (oLink l) 0 = true) :
    exec (.retrain l) s = s.gives fun d => (d.onLink l fun x => { x with badLanes := 0 }).startRetrain l :=
  run_mgrFull h hl ((if_pos hp).trans (if_pos he))
theorem exec_lnkDevIdWrite {v : BitVec 32} {g : Dev → Dev} (hg : s.dev.writeDevId (zext v) = g s.dev) :
    exec (.lnkDevIdWrite v) s = s.gives g :=
  run_mgrFull h rfl hg
theorem exec_lnkGrpCfgWrite {k : Nat} {v : BitVec 32} {g : Dev → Dev} (hk : grpOk k = true)
    (hg : s.dev.writeGrpCfg k (zext v) = g s.dev) :
    exec (.lnkGrpCfgWrite k v) s = s.gives g :=
  run_mgrFull h hk hg
theorem exec_cluMissCtlWrite {n : Nat} (v : BitVec 32) (hn : n < 384) (hc : n < s.dev.part.clusters) :
    exec (.cluMissCtlWrite n v) s = s.gives fun d =>
      (d.onCl n fun c => { c with preBlock := v.getLsbD 0 && (if d.blocking n then c.preBlock else !c.misses.isEmpty) }).setReg
        (oClu n + 0x40) (setFld (setFld (0 : Word) 1 0 (v.toNat % 4)) 28 16 (v.toNat / 65536 % 8192)) := by
  have hyes : (s.dev.full && decide (n < s.dev.part.clusters)) = true := by simp [h, hc]
  refine (run_gives (decide_eq_true hn) ((if_pos hyes).trans ?_) : execCluMissCtlWrite n v s = _)
  rw [Dev.writeMissCtl, bitAt_zext v (by decide), fld_low, fld_members]
  rfl

end

/-! ## Register writes (R485, R487) -/

theorem exec_registerWrite_bar2 {s : State} {off size : Nat} (v : BitVec 64) (ho : off < 0x2000000) (hz : size = 4 ∨ size = 8)
    (ha : off % size = 0) (h : s.dev.hostAlive = true) :
    exec (.registerWrite .bar2 off size v) s = s.gives fun d => d.devWrite 0 off size v := by
  have hno : ¬(size < 4 ∨ off % size ≠ 0) := by omega
  have hok : accessOk .bar2 off size = true := by obtain rfl | rfl := hz <;> simp [accessOk, ho]
  exact (run_gives (g := fun d => d.devWrite 0 off size v) hok ((if_neg hno).trans (if_pos h)) : execRegisterWrite .bar2 off size v s = _)
theorem exec_registerWrite_bar2_none (s : State) {off size : Nat} (v : BitVec 64) (ho : off < 0x2000000)
    (hz : size = 1 ∨ size = 2 ∨ ((size = 4 ∨ size = 8) ∧ off % size ≠ 0)) :
    exec (.registerWrite .bar2 off size v) s = s.gives id := by
  have hyes : size < 4 ∨ off % size ≠ 0 := by omega
  have hok : accessOk .bar2 off size = true := by obtain rfl | rfl | ⟨rfl | rfl, -⟩ := hz <;> simp [accessOk, ho]
  exact (run_gives (g := id) hok (if_pos hyes) : execRegisterWrite .bar2 off size v s = _)
theorem exec_registerWrite_keeper {s : State} {n off size : Nat} (v : BitVec 64) (hn : n < 384) (ho : off < 0x2000000)
    (hz : size = 4 ∨ size = 8) (ha : off % size = 0) (h : s.dev.running n = true) :
    exec (.registerWrite (.keeper n) off size v) s = s.gives fun d => d.devWrite (d.keeperFunc n) off size v := by
  have hno : ¬(size < 4 ∨ off % size ≠ 0) := by omega
  have hok : accessOk (.keeper n) off size = true := by obtain rfl | rfl := hz <;> simp [accessOk, ho, hn]
  exact (run_gives (g := fun d => d.devWrite (d.keeperFunc n) off size v) hok ((if_neg hno).trans (if_pos h)) :
    execRegisterWrite (.keeper n) off size v s = _)
theorem exec_registerWrite_vf {s : State} {f port off size : Nat} (v : BitVec 64) (hf : f < 256) (hp : port < 2) (ho : off < 0x10000)
    (hz : size = 1 ∨ size = 2 ∨ size = 4 ∨ size = 8) (h : s.dev.hostAlive = true) (he : s.dev.funcExists f = true) :
    exec (.registerWrite (.vf f port) off size v) s = s.gives fun d => d.bar0Write f port off size v := by
  have hok : accessOk (.vf f port) off size = true := by obtain rfl | rfl | rfl | rfl := hz <;> simp [accessOk, hf, hp, ho]
  exact (run_gives (g := fun d => d.bar0Write f port off size v) hok ((if_pos h).trans (if_pos he)) :
    execRegisterWrite (.vf f port) off size v s = _)

/-- Settles O59: each command acts in full function, and a register write by a path that takes it. -/
theorem debugAndRegistersComplete : Obligations.DebugAndRegistersComplete := by
  refine ⟨fun s h => ?_, fun s => ⟨fun h => ⟨fun l v hl hp h4 => ?_, fun l => exec_retrain h, fun v => ?_, fun g v hg => ?_,
    fun g v es hg hk => ?_, fun n v => exec_cluMissCtlWrite h v⟩, fun off size => exec_registerWrite_bar2,
    fun off size => exec_registerWrite_bar2_none s, fun n off size => exec_registerWrite_keeper,
    fun f port off size => exec_registerWrite_vf⟩⟩
  · refine ⟨exec_dbg_noTarget h, fun a ht => ⟨exec_dbg_running h ht, exec_dbg_halted h ht⟩, fun a ha hr hthere hq hh hy => ?_,
      fun a v ht => ⟨exec_dbgAcc_halted h ht v, exec_dbgAcc_running h ht v⟩⟩
    have hdbg : (s.dev.haltNow a).dbg a = _ := Dev.dbg_onDbg ..
    exact ⟨_, exec_haltTakesEffect ha hr hthere hq hh hy, congrArg Dbg.halted hdbg, congrArg Dbg.reason hdbg,
      congrArg Dbg.haltReq hdbg, Dev.waitOf_haltNow _ a hthere⟩
  · exact ⟨fun hv => exec_lnkCfgEnWrite h hl hp (Dev.writeLnkCfg_same h4 hv),
      fun hv he => exec_lnkCfgEnWrite h hl hp (Dev.writeLnkCfg_enable h4 hv he),
      fun hv he => exec_lnkCfgEnWrite h hl hp (Dev.writeLnkCfg_disable h4 hv he)⟩
  · exact ⟨fun hv => exec_lnkDevIdWrite h (Dev.writeDevId_free v hv), fun hv => exec_lnkDevIdWrite h (Dev.writeDevId_enabled v hv)⟩
  · intro new got at_ home
    refine ⟨fun hk => exec_lnkGrpCfgWrite h hg (Dev.writeGrpCfg_off hk),
      fun y hk hh => exec_lnkGrpCfgWrite h hg (Dev.writeGrpCfg_held hk hh), fun hk hh hgot => ?_, fun es hk hh hgot hbad => ?_⟩
    · exact exec_lnkGrpCfgWrite h hg (Dev.writeGrpCfg_noList hk hh hgot)
    · exact exec_lnkGrpCfgWrite h hg (Dev.writeGrpCfg_badList hk hh hgot hbad)
  · intro new got at_ hh hgot hbad
    exact exec_lnkGrpCfgWrite h hg (Dev.writeGrpCfg_goodList hk hh hgot hbad)

end Sys2Proof.Machine
end

section
namespace Sys2Proof.Machine

/-! ## The lanes of a mask (R120) -/

theorem mem_lanesOf {m : BitVec 32} {l : Nat} : l ∈ lanesOf m ↔ l < 32 ∧ m.getLsbD l = true := by simp [lanesOf]
theorem Group.lt_of_mem_part {g : Group} {f : FmtGL} {l : Nat} (h : l ∈ g.part f) : l < 32 := (mem_lanesOf.1 h).1

/-! ## Writing one lane register (R114, R119) -/

/-- Registers of different numbers, and different lanes, do not share a place. -/
theorem Group.v_setV (g : Group) (r rd : Nat) (x : Half) {l k : Nat} (hl : l < 32) (hk : k < 32) :
    (g.setV rd k x).v r l = if r = rd ∧ l = k then x else g.v r l :=
  (NMap.get_set ..).trans (if_congr (by omega) rfl rfl)
theorem Group.v_mapLanes (g : Group) {ls : List Nat} (hls : ∀ l ∈ ls, l < 32) (rd : Nat) (x : Nat → Half) (r : Nat) {l : Nat}
    (hl : l < 32) : (g.mapLanes ls rd x).v r l = if r = rd ∧ l ∈ ls then x l else g.v r l := by
  induction ls generalizing g with
  | nil => simp [Group.mapLanes]
  | cons k ks ih =>
    have hrest : (g.mapLanes (k :: ks) rd x).v r l = _ := ih (g.setV rd k (x k)) fun i hi => hls i (List.mem_cons_of_mem _ hi)
    rw [hrest, Group.v_setV _ _ _ _ hl (hls k List.mem_cons_self)]
    by_cases hlk : l = k
    · subst hlk
      by_cases hr : r = rd <;> simp [hr]
    · simp [hlk]
theorem Group.mapLanes_only_regs (g : Group) (ls : List Nat) (rd : Nat) (x : Nat → Half) :
    ∃ regs, g.mapLanes ls rd x = { g with regs := regs } := by
  induction ls generalizing g with
  | nil => exact ⟨g.regs, rfl⟩
  | cons k ks ih =>
    obtain ⟨regs, h⟩ := ih (g.setV rd k (x k))
    exact ⟨regs, h⟩

/-- Settles O22: a write reaches the named lanes of VD, and no field but the lane registers. -/
theorem laneFrame : Obligations.LaneFrame := by
  intro g f x
  have hv (r : Nat) {l : Nat} (hl : l < 32) := g.v_mapLanes (ls := g.part f) (fun _ => Group.lt_of_mem_part) f.vd.toNat x r hl
  have hmem {l : Nat} (hl : l < 32) : l ∈ g.part f ↔ (g.participating f.gd f.neg f.pred).getLsbD l = true := by
    simp [Group.part, mem_lanesOf, hl]
  obtain ⟨regs, hregs⟩ := g.mapLanes_only_regs (g.part f) f.vd.toNat x
  refine ⟨fun l hl hp => ?_, fun l hl hp => ?_, fun r l hl hr => ?_, ?_⟩
  · rw [hv _ hl, if_pos ⟨rfl, (hmem hl).2 hp⟩]
  · rw [hv _ hl, if_neg fun e => by rw [(hmem hl).1 e.2] at hp; cases hp]
  · rw [hv _ hl, if_neg fun e => hr e.1]
  · rw [hregs]
    exact ⟨rfl, rfl, rfl, rfl, rfl, rfl, rfl⟩

end Sys2Proof.Machine
end

section
namespace Sys2Proof.Machine

/-! ## The operations of the integer instructions (R183, R490) -/

theorem fld_low6 (y : Half) : fld y 5 0 = y.toNat % 64 := by simp [fld]
theorem shl32_eq (x : Half) (n : Nat) : shl32 x n = if 32 ≤ n then 0 else x <<< n := rfl
theorem shr32_eq (x : Half) (n : Nat) : shr32 x n = if 32 ≤ n then 0 else x >>> n := rfl
theorem lt32_signed (x y : Half) : lt32 true x y = decide (x.toInt < y.toInt) := rfl
theorem lt32_unsigned (x y : Half) : lt32 false x y = decide (x.toNat < y.toNat) := rfl

/-! ## Legal floating-point forms (R181, R182) -/

/-- The test of a legal form of TYPE FP32, FP16, BF16 or FP64. -/
theorem opLaneFp_legal {g : Group} {f : FmtGL} {useC rndOk : Bool} (hrnd : f.rnd.toNat ≤ if rndOk then 4 else 0)
    (hvc : useC = true ∨ f.vc = 0) (hty : f.ty.toNat = 0 ∨ f.ty.toNat = 1 ∨ f.ty.toNat = 2 ∨ f.ty.toNat = 5)
    (hregs : fpRegsOk g f (decide (f.ty.toNat = 5)) useC = true) :
    ((decide (f.ty.toNat = 0) || decide (f.ty.toNat = 1) || decide (f.ty.toNat = 2) || decide (f.ty.toNat = 5)) &&
      (if rndOk then decide (f.rnd.toNat ≤ 4) else decide (f.rnd.toNat = 0)) && (useC || decide (f.vc = 0)) &&
      fpRegsOk g f (decide (f.ty.toNat = 5)) useC) = true := by
  have hround : (if rndOk then decide (f.rnd.toNat ≤ 4) else decide (f.rnd.toNat = 0)) = true := by
    cases rndOk <;> simpa using hrnd
  have hthird : (useC || decide (f.vc = 0)) = true := by simpa using hvc
  rw [hround, hthird, hregs]
  simpa [or_assoc] using hty
/-- The five instructions that apply one operation to each element, when `R` is what such an instruction answers. -/
theorem laneFp_gives {s : State} {a : Agent} {g : Group} {f : FmtGL} {wide : Bool} {R : FpOp → Host.Outcome State Fault Refusal}
    (hR : ∀ {useC rndOk : Bool}, (f.rnd.toNat ≤ if rndOk then 4 else 0) → useC = true ∨ f.vc = 0 → ∀ op : FpOp,
      fpRegsOk g f wide useC = true → opLaneFp a f useC rndOk op s = R op) :
    (fpRegsOk g f wide false = true →
      (f.rnd.toNat ≤ 4 → f.vc = 0 → exec (.vFadd a f) s = R fpAdd ∧ exec (.vFmul a f) s = R fpMul) ∧
      (f.rnd.toNat = 0 → f.vc = 0 → exec (.vFmin a f) s = R (fpMinMax false) ∧ exec (.vFmax a f) s = R (fpMinMax true))) ∧
    (f.rnd.toNat ≤ 4 → fpRegsOk g f wide true = true → exec (.vFma a f) s = R fpFma) := by
  refine ⟨fun hregs => ⟨fun hrnd hvc => ?_, fun hrnd hvc => ?_⟩, fun hrnd hregs => ?_⟩
  · exact ⟨hR (rndOk := true) hrnd (.inr hvc) fpAdd hregs, hR (rndOk := true) hrnd (.inr hvc) fpMul hregs⟩
  · exact ⟨hR (rndOk := false) hrnd.le (.inr hvc) _ hregs, hR (rndOk := false) hrnd.le (.inr hvc) _ hregs⟩
  · exact hR (rndOk := true) hrnd (.inl rfl) fpFma hregs

/-! ## What an instruction of format GL does (R119) -/

section
variable {s : State} {a : Agent} {g : Group} {f : FmtGL} (h : s.canIssueG a g)
include h

/-- A field that is not used and not zero makes the form illegal. -/
theorem glInstr_illegal (hbad : f.rsv ≠ 0 ∨ guardOk f.gd f.neg f.pred = false) (op : Nat) (body : Dev → Group → Out) :
    glInstr a f op s body = s.gives fun d => d.trapped a cILLEGAL (encGL op f) :=
  instr8_out h (if_pos hbad) _ rfl

variable (hr : f.rsv = 0) (hgd : guardOk f.gd f.neg f.pred = true)
include hr hgd

/-- A legal form whose body completes. -/
theorem glInstr_done {op : Nat} {body : Dev → Group → Out} {F : Dev → Dev} (hb : body s.dev g = .done (F s.dev)) :
    glInstr a f op s body = s.gives fun d => (F d).past a 8 :=
  instr8_out h ((if_neg (by simp [hr, hgd])).trans hb) _ rfl

/-! ## Integer lane arithmetic (R183) -/

section
variable (hty : intTypeOk f = true)
include hty

/-- An operation of two sources whose result in lane l is `x l`. -/
theorem opLaneInt_gives (hvc : f.vc = 0) (hvd : g.has f.vd.toNat 1 = true) (hva : g.has f.va.toNat 1 = true)
    (hub : ubOk g f 1 = true) (op : Bool → Half → Half → Half) {x : Nat → Half}
    (hx : ∀ l, op (decide (f.ty.toNat = 7)) (g.v f.va.toNat l) (s.dev.vb a g f l) = x l) :
    opLaneInt a f op s = s.gives fun d => (d.setGrp a (g.mapLanes (g.part f) f.vd.toNat x)).past a 8 :=
  (funext hx : (fun l => op _ _ _) = x) ▸ glInstr_done h hr hgd (if_pos (by simp [hty, hvc, hvd, hva, hub]))
theorem exec_vMov (hvc : f.vc = 0) (hvb : f.vb = 0) (hub : f.ub = 0) (hvd : g.has f.vd.toNat 1 = true)
    (hva : g.has f.va.toNat 1 = true) : exec (.vMov a f) s = s.gives fun d =>
      (d.setGrp a (g.mapLanes (g.part f) f.vd.toNat fun l => g.v f.va.toNat l)).past a 8 :=
  glInstr_done h hr hgd (if_pos (by simp [hty, hvc, hvb, hub, hvd, hva]))
theorem exec_vSel (hvc : f.vc.toNat < 8) (hvd : g.has f.vd.toNat 1 = true) (hva : g.has f.va.toNat 1 = true)
    (hub : ubOk g f 1 = true) : exec (.vSel a f) s = s.gives fun d =>
      (d.setGrp a (g.mapLanes (g.part f) f.vd.toNat fun l =>
        if (g.pred f.vc.toNat).getLsbD l then g.v f.va.toNat l else s.dev.vb a g f l)).past a 8 :=
  glInstr_done h hr hgd (if_pos (by simp [hty, hvc, hvd, hva, hub]))
theorem exec_vSetp (hvd : f.vd.toNat < 8) (hvc : f.vc.toNat < 6) (hva : g.has f.va.toNat 1 = true)
    (hub : ubOk g f 1 = true) : exec (.vSetp a f) s = s.gives fun d =>
      (d.setGrp a (g.mapPred (g.part f) f.vd.toNat fun l =>
        condHolds f.vc.toNat (g.v f.va.toNat l) (s.dev.vb a g f l))).past a 8 :=
  glInstr_done h hr hgd (if_pos (by simp [hty, hvd, hvc, hva, hub]))

end

/-! ## Floating-point lane arithmetic (R181, R182, R187) -/

section
variable {useC rndOk : Bool} (hrnd : f.rnd.toNat ≤ if rndOk then 4 else 0) (hvc : useC = true ∨ f.vc = 0) (op : FpOp)
include hrnd hvc

theorem opLaneFp_single (hty : f.ty.toNat = 0) (hregs : fpRegsOk g f false useC = true) :
    let r := fun l => op fp32 f.rnd.toNat (s.dev.laneRnd a f l) (g.v f.va.toNat l).toNat (s.dev.vb a g f l).toNat
      (g.v f.vc.toNat l).toNat
    opLaneFp a f useC rndOk op s = s.gives fun d =>
      ((d.setGrp a (g.mapLanes (g.part f) f.vd.toNat fun l => BitVec.ofNat 32 (r l).1)).setFlags a.cluster a.core
        (orFlags (g.part f) fun l => (r l).2)).past a 8 :=
  glInstr_done h hr hgd ((if_pos (opLaneFp_legal hrnd hvc (by simp [hty]) (by simpa [hty] using hregs))).trans (by simp [hty]))
theorem opLaneFp_packed {fmt : Fmt} (hty : f.ty.toNat = 1 ∧ fmt = fp16 ∨ f.ty.toNat = 2 ∧ fmt = bf16)
    (hregs : fpRegsOk g f false useC = true) :
    let e := fun (k l : Nat) => op fmt f.rnd.toNat (s.dev.laneRnd a f (l + 32 * k)) (fld (g.v f.va.toNat l) (16 * k + 15) (16 * k))
      (fld (s.dev.vb a g f l) (16 * k + 15) (16 * k)) (fld (g.v f.vc.toNat l) (16 * k + 15) (16 * k))
    opLaneFp a f useC rndOk op s = s.gives fun d =>
      ((d.setGrp a (g.mapLanes (g.part f) f.vd.toNat fun l => BitVec.ofNat 32 ((e 0 l).1 + (e 1 l).1 * 65536))).setFlags
        a.cluster a.core (orFlags (g.part f) fun l => (e 0 l).2 ||| (e 1 l).2)).past a 8 := by
  rcases hty with ⟨hty, rfl⟩ | ⟨hty, rfl⟩ <;>
    exact glInstr_done h hr hgd
      ((if_pos (opLaneFp_legal hrnd hvc (by simp [hty]) (by simpa [hty] using hregs))).trans (by simp [hty]))
theorem opLaneFp_double (hty : f.ty.toNat = 5) (hregs : fpRegsOk g f true useC = true) :
    let r := fun l => op fp64 f.rnd.toNat (s.dev.laneRnd a f l) (g.v64 f.va.toNat l).toNat (s.dev.vb64 a g f l).toNat
      (g.v64 f.vc.toNat l).toNat
    opLaneFp a f useC rndOk op s = s.gives fun d =>
      ((d.setGrp a (g.mapLanes64 (g.part f) f.vd.toNat fun l => BitVec.ofNat 64 (r l).1)).setFlags a.cluster a.core
        (orFlags (g.part f) fun l => (r l).2)).past a 8 :=
  glInstr_done h hr hgd ((if_pos (opLaneFp_legal hrnd hvc (by simp [hty]) (by simpa [hty] using hregs))).trans (by simp [hty]))

end

end

/-- Settles O21: an integer instruction is one operation of its lanes, a floating-point one applies its operation to each
element under the rounding of RND. -/
theorem laneArithmeticComplete : Obligations.LaneArithmeticComplete := by
  refine ⟨fun s a g f h hty => ⟨fun hbad c hc => ?_, fun hr hgd => ?_⟩, fun s a g f h hr hgd => ?_⟩
  · have ill (body : Dev → Group → Out) := glInstr_illegal h hbad 0x01 body
    simp only [List.mem_cons, List.not_mem_nil, or_false] at hc
    rcases hc with rfl | rfl | rfl | rfl | rfl | rfl | rfl | rfl | rfl | rfl | rfl | rfl | rfl | rfl <;> exact ill _
  · refine ⟨fun hvc hvd hva hub => ?_, exec_vMov h hr hgd hty, exec_vSel h hr hgd hty, exec_vSetp h hr hgd hty⟩
    have lane (op : Bool → Half → Half → Half) {x : Nat → Half} := opLaneInt_gives h hr hgd hty hvc hvd hva hub op (x := x)
    refine ⟨lane (fun _ x y => x + y) fun _ => rfl, lane (fun _ x y => x - y) fun _ => rfl, lane (fun _ x y => x * y) fun _ => rfl,
      lane (fun _ x y => x &&& y) fun _ => rfl, lane (fun _ x y => x ||| y) fun _ => rfl, lane (fun _ x y => x ^^^ y) fun _ => rfl,
      lane (fun _ x y => shl32 x (fld y 5 0)) fun l => ?_, lane (fun _ x y => shr32 x (fld y 5 0)) fun l => ?_,
      lane (fun _ x y => x.sshiftRight (min (fld y 5 0) 32)) fun l => ?_, fun hsg => ?_, fun hsg => ?_⟩
    · rw [fld_low6, shl32_eq]
    · rw [fld_low6, shr32_eq]
    · rw [fld_low6]
    · exact ⟨lane (fun sg x y => if lt32 sg y x then y else x) fun l => by simp [lt32_signed, hsg],
        lane (fun sg x y => if lt32 sg x y then y else x) fun l => by simp [lt32_signed, hsg]⟩
    · exact ⟨lane (fun sg x y => if lt32 sg y x then y else x) fun l => by simp [lt32_unsigned, hsg],
        lane (fun sg x y => if lt32 sg x y then y else x) fun l => by simp [lt32_unsigned, hsg]⟩
  · refine ⟨fun hty => ?_, fun hty => ?_, fun hty => ?_, fun hty => ?_⟩
    · exact laneFp_gives fun hrnd hvc op => opLaneFp_single h hr hgd hrnd hvc op hty
    · exact laneFp_gives fun hrnd hvc op => opLaneFp_packed h hr hgd hrnd hvc op (.inl ⟨hty, rfl⟩)
    · exact laneFp_gives fun hrnd hvc op => opLaneFp_packed h hr hgd hrnd hvc op (.inr ⟨hty, rfl⟩)
    · exact laneFp_gives fun hrnd hvc op => opLaneFp_double h hr hgd hrnd hvc op hty

end Sys2Proof.Machine
end

section
namespace Sys2Proof.Machine

/-! ## The mask of the lanes that satisfy a test (R125, R126) -/

/-- The sum that `maskOf` forms has the bits that the test selects. -/
theorem sum_two_pow_bits (p : Nat → Bool) (n : Nat) :
    let m := (List.range n).foldl (fun acc l => if p l then acc + 2 ^ l else acc) 0
    m < 2 ^ n ∧ ∀ i, m.testBit i = (decide (i < n) && p i) := by
  induction n with
  | zero => simp
  | succ n ih =>
    obtain ⟨hlt, hbit⟩ := ih
    rw [List.range_succ, List.foldl_append]
    generalize (List.range n).foldl _ 0 = m at hlt hbit
    have hsucc (i : Nat) : i < n + 1 ↔ i < n ∨ i = n := by omega
    cases hp : p n with
    | false =>
      refine ⟨by simp [hp]; omega, fun i => ?_⟩
      by_cases hi : i = n
      · subst hi; simp [hbit, hp]
      · simp [hbit, hp, hsucc, hi]
    | true =>
      have hor : m + 2 ^ n = 2 ^ n ||| m := by simpa [add_comm] using Nat.two_pow_add_eq_or_of_lt hlt 1
      refine ⟨by simp [hp]; omega, fun i => ?_⟩
      by_cases hi : i = n
      · subst hi; simp [hor, hp]
      · simp [hor, hp, hbit, hsucc, hi, Ne.symm hi]
theorem getLsbD_maskOf (p : Nat → Bool) (l : Nat) : (maskOf p).getLsbD l = (decide (l < 32) && p l) := by
  rw [maskOf, BitVec.getLsbD_ofNat, (sum_two_pow_bits p 32).2, ← Bool.and_assoc, Bool.and_self]

/-- Some lane of a mask satisfies a test. -/
theorem maskOf_ne_zero_iff (m : BitVec 32) (p : Nat → Bool) :
    maskOf (fun l => m.getLsbD l && p l) ≠ 0 ↔ (lanesOf m).any p = true := by
  rw [List.any_eq_true]
  constructor
  · intro h
    by_contra hnone
    refine h (BitVec.eq_of_getLsbD_eq fun l hl => ?_)
    rw [getLsbD_maskOf]
    cases hm : m.getLsbD l with
    | false => simp
    | true => simpa [hl] using fun hp => hnone ⟨l, mem_lanesOf.2 ⟨hl, hm⟩, hp⟩
  · rintro ⟨l, hl, hp⟩ h
    obtain ⟨hl32, hm⟩ := mem_lanesOf.1 hl
    have hbit := getLsbD_maskOf (fun l => m.getLsbD l && p l) l
    simp [h, hl32, hm, hp, -BitVec.getLsbD_eq_getElem] at hbit
/-- Every lane of a mask satisfies a test. -/
theorem maskOf_eq_self_iff (m : BitVec 32) (p : Nat → Bool) :
    maskOf (fun l => m.getLsbD l && p l) = m ↔ (lanesOf m).all p = true := by
  rw [List.all_eq_true]
  refine ⟨fun h l hl => ?_, fun h => BitVec.eq_of_getLsbD_eq fun l hl => ?_⟩
  · obtain ⟨hl32, hm⟩ := mem_lanesOf.1 hl
    have hbit := getLsbD_maskOf (fun l => m.getLsbD l && p l) l
    rw [h, hm] at hbit
    simpa [hl32] using hbit.symm
  · rw [getLsbD_maskOf]
    cases hm : m.getLsbD l with
    | false => simp
    | true => simp [hl, h l (mem_lanesOf.2 ⟨hl, hm⟩)]

end Sys2Proof.Machine
end

section
namespace Sys2Proof.Machine

section
variable {s : State} {a : Agent} {g : Group} {f : FmtGL} (h : s.canIssueG a g) (hr : f.rsv = 0)
  (hgd : guardOk f.gd f.neg f.pred = true)
include h hr hgd

/-! ## Functions, compares and conversions (R182, R184, R192) -/

theorem opSfu_gives (hty : f.ty = 0) (hrnd : f.rnd = 0) (hvb : f.vb = 0) (hub : f.ub = 0) (hvc : f.vc = 0)
    (hvd : g.has f.vd.toNat 1 = true) (hva : g.has f.va.toNat 1 = true) (op : Half → Half × FFlags) :
    opSfu a f op s = s.gives fun d =>
      ((d.setGrp a (g.mapLanes (g.part f) f.vd.toNat fun l => (op (g.v f.va.toNat l)).1)).setFlags a.cluster a.core
        (orFlags (g.part f) fun l => (op (g.v f.va.toNat l)).2)).past a 8 :=
  glInstr_done h hr hgd (if_pos (by simp [hty, hrnd, hvb, hub, hvc, hvd, hva]))

section
variable (hrnd : f.rnd = 0) (hvd : f.vd.toNat < 8) (hvc : f.vc.toNat < 8)
include hrnd hvd hvc

theorem exec_vFsetp_single (hty : f.ty = 0) (hva : g.has f.va.toNat 1 = true) (hub : ubOk g f 1 = true) :
    exec (.vFsetp a f) s = s.gives fun d => (d.setGrp a (g.mapPred (g.part f) f.vd.toNat fun l =>
      fcond f.vc.toNat (fp32.decode (g.v f.va.toNat l).toNat) (fp32.decode (s.dev.vb a g f l).toNat))).past a 8 :=
  glInstr_done h hr hgd ((if_pos (by simp [hty, hrnd, hvd, hvc, hva, hub])).trans (by simp [hty]))
theorem exec_vFsetp_double (hty : f.ty = 5) (hva : g.has64 f.va.toNat = true) (hub : ubOk g f 2 = true)
    (hvb : f.ub = 1 ∨ f.vb.toNat % 2 = 0) :
    exec (.vFsetp a f) s = s.gives fun d => (d.setGrp a (g.mapPred (g.part f) f.vd.toNat fun l =>
      fcond f.vc.toNat (fp64.decode (g.v64 f.va.toNat l).toNat) (fp64.decode (s.dev.vb64 a g f l).toNat))).past a 8 :=
  glInstr_done h hr hgd ((if_pos (by simpa [hty, hrnd, hvd, hvc, hva, hub] using hvb)).trans (by simp [hty]))

end

theorem exec_vCvt {dst src : CvtTy} (hdst : cvtTy f.ty.toNat = some dst) (hsrc : cvtTy f.vb.toNat = some src)
    (hrnd : f.rnd.toNat ≤ 4) (hvc : f.vc = 0) (hub : f.ub = 0) (hne : f.ty.toNat ≠ f.vb.toNat)
    (hscale : f.ty.toNat = 0xE → f.rnd = 0)
    (hvd : (if f.ty.toNat = 5 then g.has64 f.vd.toNat else g.has f.vd.toNat 1) = true)
    (hva : (if f.vb.toNat = 5 then g.has64 f.va.toNat else g.has f.va.toNat 1) = true) :
    let r := fun l => cvt f.vb.toNat src dst f.rnd.toNat (s.dev.laneRnd a f l)
      (if f.vb.toNat = 5 then g.v64 f.va.toNat l else (g.v f.va.toNat l).setWidth 64)
    exec (.vCvt a f) s = s.gives fun d =>
      ((d.setGrp a (if f.ty.toNat = 5 then g.mapLanes64 (g.part f) f.vd.toNat fun l => (r l).1
        else g.mapLanes (g.part f) f.vd.toNat fun l => (r l).1.setWidth 32)).setFlags a.cluster a.core
          (orFlags (g.part f) fun l => (r l).2)).past a 8 := by
  intro r
  have hexact : ¬f.ty.toNat = 0xE ∨ f.rnd.toNat = 0 := imp_iff_not_or.1 fun e => by simp [hscale e]
  refine glInstr_done h hr hgd ?_
  simp only [hdst, hsrc]
  refine (if_pos ?_).trans ?_
  · simpa [hrnd, hvc, hub, hne, hvd, hva] using hexact
  · simp [r, zext]

/-! ## Shuffles and polls (R125, R126) -/

section
variable (hrnd : f.rnd = 0) (hty : f.ty = 0) (hvd : g.has f.vd.toNat 1 = true) (hva : g.has f.va.toNat 1 = true)
include hrnd hty hvd hva

/-- A shuffle whose source lane is `k l`, 32 where there is none. -/
theorem opXch_gives {needU : Bool} (hneed : needU = false ∨ f.ub = 1) (hvc : g.has f.vc.toNat 1 = true) (hub : ubOk g f 1 = true)
    (src : Nat → Nat → Option Nat) {k : Nat → Nat} (hk : ∀ l, (src l (s.dev.vb a g f l).toNat).getD 32 = k l) :
    let m := g.participating f.gd f.neg f.pred
    opXch a f needU src s = s.gives fun d => (d.setGrp a (g.mapLanes (lanesOf m) f.vd.toNat fun l =>
      if k l < 32 ∧ m.getLsbD (k l) = true then g.v f.va.toNat (k l) else g.v f.vc.toNat l)).past a 8 := by
  intro m
  refine glInstr_done h hr hgd ((if_pos (by simpa [hrnd, hty, hvd, hva, hvc, hub] using hneed)).trans ?_)
  refine congrArg (fun x => Out.done (s.dev.setGrp a (g.mapLanes (lanesOf m) f.vd.toNat x))) (funext fun l => ?_)
  rw [← hk l]
  cases src l (s.dev.vb a g f l).toNat with
  | none => rfl
  | some i => rfl

/-- A poll that writes `v`. -/
theorem opPoll_gives (hub : f.ub = 0) (hvb : f.vb = 0) (hvc : f.vc = 0) (w : BitVec 32 → BitVec 32 → Half) {v : Half}
    (hv : w (g.participating f.gd f.neg f.pred)
      (maskOf fun l => (g.participating f.gd f.neg f.pred).getLsbD l && decide (g.v f.va.toNat l ≠ 0)) = v) :
    opPoll a f w s = s.gives fun d =>
      (d.setGrp a (g.mapLanes (lanesOf (g.participating f.gd f.neg f.pred)) f.vd.toNat fun _ => v)).past a 8 :=
  hv ▸ glInstr_done h hr hgd (if_pos (by simp [hrnd, hty, hub, hvb, hvc, hvd, hva]))

end

end

/-- Settles O25: every instruction applies one function to the lanes of its sources; a poll's mask holds the non-zero
lanes. -/
theorem laneFunctionsAndShufflesComplete : Obligations.LaneFunctionsAndShufflesComplete := by
  refine ⟨fun s a g f h hr hgd => ⟨fun hty hrnd hvb hub hvc hvd hva => ?_, fun hty hrnd hvd hvc => ?_, fun hty hrnd hvd hvc => ?_,
    fun dst src => exec_vCvt h hr hgd⟩, fun s a g f h hr hgd hrnd hty hvd hva => ⟨fun hvc hub => ?_, fun hub hvb hvc => ?_⟩⟩
  · have sfu (op : Half → Half × FFlags) := opSfu_gives h hr hgd hty hrnd hvb hub hvc hvd hva op
    exact ⟨sfu sfuRcp, sfu sfuRsqrt, sfu sfuExp2, sfu sfuLog2⟩
  · exact exec_vFsetp_single h hr hgd hrnd hvd hvc hty
  · exact exec_vFsetp_double h hr hgd hrnd hvd hvc hty
  · refine ⟨?_, fun hu => ⟨?_, ?_, ?_⟩⟩
    · exact opXch_gives h hr hgd hrnd hty hvd hva (needU := false) (.inl rfl) hvc hub (fun _ b => some (b % 32)) fun _ => rfl
    · exact opXch_gives h hr hgd hrnd hty hvd hva (needU := true) (.inr hu) hvc hub
        (fun l b => if b ≤ l then some (l - b) else none) fun l => by split <;> simp [*]
    · exact opXch_gives h hr hgd hrnd hty hvd hva (needU := true) (.inr hu) hvc hub (fun l b => some (l + b)) fun _ => rfl
    · exact opXch_gives h hr hgd hrnd hty hvd hva (needU := true) (.inr hu) hvc hub (fun l b => some (l ^^^ (b % 32))) fun _ => rfl
  · have poll (w : BitVec 32 → BitVec 32 → Half) {v : Half} := opPoll_gives h hr hgd hrnd hty hvd hva hub hvb hvc w (v := v)
    refine ⟨poll (fun _ nz => if nz = 0 then 0 else 1) ?_, poll (fun m nz => if nz = m then 1 else 0) ?_, poll (fun _ nz => nz) rfl⟩
    · rw [← ite_not]
      exact if_congr (maskOf_ne_zero_iff _ _) rfl rfl
    · exact if_congr (maskOf_eq_self_iff _ _) rfl rfl

end Sys2Proof.Machine
end

section
namespace Sys2Proof.Machine

/-! ## Group control (R121 to R124) -/

section
variable {s : State} {a : Agent} {g : Group} {f : FmtGC} (h : s.canIssueG a g) (hr : f.rsv = 0)
  (hgd : guardOk f.gd f.neg f.pred = true)
include h hr hgd

/-- A legal form of group control whose body moves the group's threads itself. -/
theorem gcInstr_moved {fn : Nat} (hoff : fn = 0 ∨ f.off = 0) {body : Dev → Group → Out} {F : Dev → Dev}
    (hb : body s.dev g = .moved (F s.dev)) : gcInstr a f fn s body = s.gives fun d => (F d).complete a := by
  have hlegal : ¬(f.rsv ≠ 0 ∨ guardOk f.gd f.neg f.pred = false ∨ (fn ≠ 0 ∧ f.off ≠ 0)) := by
    rcases hoff with hoff | hoff <;> simp [hr, hgd, hoff]
  exact instr8_out h ((if_neg hlegal).trans hb) _ rfl

theorem exec_vBra_none (hm : g.participating f.gd f.neg f.pred = 0) :
    exec (.vBra a f) s = s.gives fun d => (d.setGrp a (g.setPcs g.active (s.dev.pc a + 8))).complete a :=
  gcInstr_moved h hr hgd (.inl rfl) (if_pos hm)
theorem exec_vBra_some (hm : g.participating f.gd f.neg f.pred ≠ 0) (ht : targetTrap (s.dev.targetGC a f) = none) :
    let m := g.participating f.gd f.neg f.pred
    exec (.vBra a f) s = s.gives fun d => (d.setGrp a
      ((g.setPcs (g.active &&& ~~~m) (s.dev.pc a + 8)).setPcs m (s.dev.targetGC a f).toNat)).complete a :=
  gcInstr_moved h hr hgd (.inl rfl) ((if_neg hm).trans (by rw [ht]))

variable (hoff : f.off = 0)
include hoff

theorem exec_vJoin : let m := g.participating f.gd f.neg f.pred
    let stay := g.setPcs (g.active &&& ~~~m) (s.dev.pc a + 8)
    exec (.vJoin a f) s = s.gives fun d =>
      (d.setGrp a { stay with live := stay.live &&& ~~~m, waiting := stay.waiting ||| m }.release).complete a :=
  gcInstr_moved h hr hgd (.inr hoff) rfl
theorem exec_vExit : let m := g.participating f.gd f.neg f.pred
    let stay := g.setPcs (g.active &&& ~~~m) (s.dev.pc a + 8)
    let left := { stay with live := stay.live &&& ~~~m }.release
    (left.live ≠ 0 → exec (.vExit a f) s = s.gives fun d => (d.setGrp a left).complete a) ∧
    (left.live = 0 → exec (.vExit a f) s = s.gives fun d =>
      ((d.endResv a).onCl a.cluster fun c => c.groupEnd a.groupIdx false).complete a) :=
  ⟨fun hlive => gcInstr_moved h hr hgd (.inr hoff) (if_neg hlive), fun hlive => gcInstr_moved h hr hgd (.inr hoff) (if_pos hlive)⟩

end

/-! ## The start of a group (R110, R111) -/

theorem updFirst_cons_of_pos {α : Type} {p : α → Bool} {x : α} (h : p x = true) (xs : List α) (f : α → α) :
    updFirst (x :: xs) p f = f x :: xs := if_pos h

section
variable {d : Dev} {n k : Nat} {v1 : Bool} {l : Launch} {rest : List Launch} (hl : (d.cl n).launches = l :: rest)
  (hs : l.stopped = false) (hnext : l.next < l.count) (hok : l.checked = true ∨ d.launchOk n l.record = true)
  (hcore : (d.cl n).pickCore l.record = some v1) (hslot : (d.cl n).freeSlot v1 = some k)
include hl hs hnext hok hcore hslot

/-- A good launch for whose next group a V-core has room starts it there. -/
theorem Dev.startGroup_starts : ∃ e : Cluster → NMap Dbg, d.startGroup n = (d.freshen (.group n v1 k) none).onCl n fun c =>
    { c with
      groups := NMap.put c.groups (16 * bit v1 + k) l.group
      dbg := e c
      launches := updFirst c.launches (fun x => decide (x.id = l.id)) fun x =>
        { x with checked := true, next := x.next + 1, resident := x.resident + 1 } } := by
  have hgood : ¬(!l.checked ∧ !(d.launchOk n l.record)) := by rcases hok with hok | hok <;> simp [hok]
  have hfind : (d.cl n).launches.find? (fun l => !l.stopped && decide (l.next < l.count ∨ !l.checked)) = some l := by
    rw [hl]; exact List.find?_cons_of_pos (by simp [hs, hnext])
  unfold Dev.startGroup
  simp only [hfind, if_neg hgood, hcore, hslot]
  exact ⟨_, rfl⟩

/-- The cluster of a group that has started. -/
theorem Dev.cl_startGroup : ∃ ms db, (d.startGroup n).cl n = { d.cl n with
    misses := ms
    dbg := db
    groups := NMap.put (d.cl n).groups (16 * bit v1 + k) l.group
    launches := { l with checked := true, next := l.next + 1, resident := l.resident + 1 } :: rest } := by
  obtain ⟨e, hstart⟩ := Dev.startGroup_starts hl hs hnext hok hcore hslot
  obtain ⟨ms, hfresh⟩ := d.cl_freshen (.group n v1 k) none n
  exact ⟨ms, _, by rw [hstart, Dev.cl_onCl_same, hfresh, hl, updFirst_cons_of_pos (by simp)]⟩
/-- No other cluster changes. -/
theorem Dev.cl_startGroup_ne {m : Nat} (hm : m ≠ n) : (d.startGroup n).cl m = d.cl m := by
  obtain ⟨e, hstart⟩ := Dev.startGroup_starts hl hs hnext hok hcore hslot
  rw [hstart, Dev.cl_onCl_ne _ _ hm]
  exact Dev.cl_onCl_ne _ _ hm

end

theorem exec_groupLaunch {s : State} {n : Nat} (hn : n < 384) (hrun : s.dev.running n = true) :
    exec (.groupLaunch n) s = s.gives fun d => d.startGroup n :=
  (congrArg (run · s _) (decide_eq_true hn)).trans (State.gives_congr (if_pos hrun))
/-- What the part is lies in no cluster. -/
theorem State.cl_onDev (s : State) (f : Dev → Dev) (n : Nat) : (s.onDev f).dev.cl n = (f s.dev).cl n := rfl

/-- Settles O26: each instruction of group control moves its threads in one way, and a group's start puts it into the slot
and counts it. -/
theorem groupsComplete : Obligations.GroupsComplete := by
  refine ⟨fun s a g f h hr hgd => ?_, fun s n k v1 l rest hn hrun hl hs hnext hok hcore hslot => ?_⟩
  · exact ⟨exec_vBra_none h hr hgd, exec_vBra_some h hr hgd, exec_vJoin h hr hgd, fun hoff => (exec_vExit h hr hgd hoff).1,
      fun hoff => (exec_vExit h hr hgd hoff).2⟩
  · obtain ⟨ms, db, hcl⟩ := Dev.cl_startGroup hl hs hnext hok hcore hslot
    refine ⟨_, exec_groupLaunch hn hrun, ?_, ?_, fun i hi => ?_, fun m hm => Dev.cl_startGroup_ne hl hs hnext hok hcore hslot hm⟩
    · rw [State.cl_onDev, hcl, NMap.find_put, if_pos rfl]
    · rw [State.cl_onDev, hcl]
    · rw [State.cl_onDev, hcl, NMap.find_put, if_neg hi]

end Sys2Proof.Machine
end

section
namespace Sys2Proof.Machine

/-- A store whose queue has room completes. -/
theorem done_of_commit {o : Option Dev} {x : Dev} (h : o = some x) :
    (match o with
      | some d => Out.done d
      | none => .stall) = .done x := by
  rw [h]

section
variable {s : State} {a : Agent} {g : Group} (h : s.canIssueG a g)
include h

/-! ## Lane memory and atomics (R127 to R133) -/

section
variable {f : FmtGM} (hgd : guardOk f.gd f.neg f.pred = true)
include hgd

theorem gmInstr_done {op : Nat} {body : Dev → Group → Out} {x : Dev} (hb : body s.dev g = .done x) :
    gmInstr a f op s body = s.gives fun _ => x.past a 8 :=
  instr8_out h ((if_pos hgd).trans hb) _ rfl

variable (hreg : gmRegOk g f = true)
include hreg

/-- No lane of a legal load traps: it does what the reading of its pieces does. -/
theorem opLaneLoad_done (op : Nat) {ro : Bool} {x : Dev} (haop : f.aop = 0) (hsize : f.size ≠ 7)
    (hmarks : marksOk (!ro) false f.mark f.scope = true)
    (htrap : s.dev.gmTrap a g f (if ro then .loadRo else .load) (sizeBytes f.size.toNat) = none)
    (hload : s.dev.load a (LoadKind.mk ro (decide (f.mark = 0)) (decide (f.mark = 1 ∧ f.scope = 2)) 8) (s.dev.gmPieces a g f) =
      .done x) : opLaneLoad a f op ro s = s.gives fun _ => x.past a 8 := by
  have hsize' : f.size.toNat ≠ 7 := fun e => hsize (BitVec.eq_of_toNat_eq e)
  refine gmInstr_done h hgd ((if_pos (by simp [haop, hsize', hmarks, hreg])).trans ?_)
  rw [htrap]
  exact hload

/-- No lane of a legal store traps, and the queue of its core has room. -/
theorem exec_vSt_done {x : Dev} (haop : f.aop = 0) (hsize : f.size.toNat < 4) (hmarks : marksOk false true f.mark f.scope = true)
    (htrap : s.dev.gmTrap a g f .store (sizeBytes f.size.toNat) = none)
    (hcommit : s.dev.commit a ((g.partM f).map fun l => ByteRun.mk (s.dev.addrGM a g f l) (sizeBytes f.size.toNat)
        (if sizeBytes f.size.toNat = 8 then g.v64 f.vd.toNat l else (g.v f.vd.toNat l).setWidth 64))
      (decide (f.mark = 2 ∧ f.scope = 2)) = some x) : exec (.vSt a f) s = s.gives fun _ => x.past a 8 := by
  refine gmInstr_done h hgd ((if_pos (by simp [haop, hsize, hmarks, hreg])).trans ?_)
  simp only [htrap]
  exact done_of_commit hcommit

/-- No lane of a legal atomic traps: it does what its requests do. -/
theorem opLaneAtom_done (fn : AmoFn) {x : Dev} (hsize : f.size.toNat = 2 ∨ f.size.toNat = 3)
    (hmarks : marksOk true true f.mark f.scope = true) (htrap : s.dev.gmTrap a g f .atomic (sizeBytes f.size.toNat) = none)
    (hcas : fn = .cas → g.has f.vd.toNat (if sizeBytes f.size.toNat = 8 then 4 else 2) = true)
    (hatom : s.dev.atom a f.vd.toNat (sizeBytes f.size.toNat) 8 f.mark.toNat f.scope.toNat
      (s.dev.gmAtms a g f fn (sizeBytes f.size.toNat)) = .done x) :
    opLaneAtom a f fn s = s.gives fun _ => x.past a 8 := by
  refine gmInstr_done h hgd ((if_pos ?_).trans ?_)
  · simpa [hmarks, hreg, hsize] using imp_iff_not_or.1 hcas
  · simp only [htrap]
    exact hatom

end

/-! ## Fragments (R173, R174) -/

section
variable {f : FmtGL} (hr : f.rsv = 0) (hgd : guardOk f.gd f.neg f.pred = true)
include hr hgd

theorem exec_fragLd_done {x : Dev} (hfrag : s.dev.fragTrap g f (fragMemOk g f) = none) (hmem : s.dev.fragMemTrap a f .load = none)
    (hload : s.dev.load a (LoadKind.mk false true false 8) ((fragElems f.ty.toNat f.vc.toNat).map fun e =>
      let p := fragAddr f.ty.toNat f.vc.toNat (s.dev.rd a f.vb.toNat).toNat (s.dev.rd a f.va.toNat).toNat e
      Piece.mk p e.n (f.vd.toNat + e.r) e.lane e.sh (8 * e.n) false p) = .done x) :
    exec (.fragLd a f) s = s.gives fun _ => x.past a 8 := by
  refine glInstr_done h hr hgd (F := fun _ => x) ?_
  simp only [hfrag, hmem]
  exact hload
theorem exec_fragSt_done {x : Dev} (hfrag : s.dev.fragTrap g f (fragMemOk g f) = none) (hmem : s.dev.fragMemTrap a f .store = none)
    (hcommit : s.dev.commit a ((fragElems f.ty.toNat f.vc.toNat).map fun e =>
      ByteRun.mk (fragAddr f.ty.toNat f.vc.toNat (s.dev.rd a f.vb.toNat).toNat (s.dev.rd a f.va.toNat).toNat e) e.n
        (((g.v (f.vd.toNat + e.r) e.lane) >>> e.sh).setWidth 64)) false = some x) :
    exec (.fragSt a f) s = s.gives fun _ => x.past a 8 := by
  refine glInstr_done h hr hgd (F := fun _ => x) ?_
  simp only [hfrag, hmem]
  exact done_of_commit hcommit

/-- The elements of the destination take their sums one after another. -/
theorem exec_fragMma (hfrag : s.dev.fragTrap g f (fragMmaOk g f) = none) :
    let ty := f.ty.toNat
    let dim := if ty = 5 then 8 else 16
    let cells := ((List.range dim).map fun i => (List.range dim).map fun j =>
      ((i, j), fragMac g ty f.va.toNat f.vb.toNat f.vc.toNat i j)).flatten
    exec (.fragMma a f) s = s.gives fun d =>
      ((d.setGrp a (cells.foldl (fun h c => ((fragElems ty 2).filter fun e =>
        decide (e.row = c.1.1) && decide (e.col = c.1.2)).foldl (fun h e =>
          h.setV (f.vd.toNat + e.r) e.lane (BitVec.ofNat 32 (c.2.1 >>> (8 * e.byte)))) h) g)).setFlags a.cluster 0
        (cells.foldl (fun acc c => acc ||| c.2.2) 0)).past a 8 := by
  refine glInstr_done h hr hgd ?_
  simp only [hfrag]
theorem exec_fragFill (hva : f.va = 0) (hvc : f.vc = 0) (hub : f.ub = 1) (hvb : f.vb.toNat < 64)
    (hvd : g.has f.vd.toNat (fragRegs f.ty.toNat 2) = true) (hfrag : s.dev.fragTrap g f true = none) :
    exec (.fragFill a f) s = s.gives fun d => (d.setGrp a ((fragElems f.ty.toNat 2).foldl (fun h e =>
      h.setV (f.vd.toNat + e.r) e.lane (BitVec.ofNat 32 ((s.dev.rd a f.vb.toNat).toNat >>> (8 * e.byte)))) g)).past a 8 := by
  have hok : (decide (f.va = 0) && decide (f.vc = 0) && decide (f.ub = 1) && decide (f.vb.toNat < 64) &&
      g.has f.vd.toNat (fragRegs f.ty.toNat 2)) = true := by
    simp [hva, hvc, hub, hvb, hvd]
  refine glInstr_done h hr hgd ?_
  simp only [hok, hfrag]

end

end

/-- Settles O27: once no lane traps, a form's outcome is that of its access; a fragment instruction reads the group as it
was. -/
theorem laneMemoryAndFragmentsComplete : Obligations.LaneMemoryAndFragmentsComplete := by
  refine ⟨fun s a g f x h hreg hgd => ⟨?_, ?_, ?_, fun hsize hmarks htrap => ?_⟩, fun s a g f x h hr hgd => ?_⟩
  · exact opLaneLoad_done h hgd hreg 0x09 (ro := false)
  · exact opLaneLoad_done h hgd hreg 0x0D (ro := true)
  · exact exec_vSt_done h hgd hreg
  · have atom (fn : AmoFn) (hfn : fn ≠ .cas) := opLaneAtom_done h hgd hreg fn (x := x) hsize hmarks htrap fun e => absurd e hfn
    exact ⟨atom .add nofun, atom .and nofun, atom .or nofun, atom .xor nofun, atom .min nofun, atom .max nofun, atom .minu nofun,
      atom .maxu nofun, atom .swap nofun, atom .fadd nofun,
      fun hcas => opLaneAtom_done h hgd hreg .cas hsize hmarks htrap fun _ => hcas⟩
  · exact ⟨exec_fragLd_done h hr hgd, exec_fragSt_done h hr hgd, exec_fragMma h hr hgd, exec_fragFill h hr hgd⟩

end Sys2Proof.Machine
end

section
namespace Sys2Proof.Machine

/-! ## Completions and the ends of waybills (R157, R159, R171) -/

theorem Cluster.complete_pending {c : Cluster} {k cid : Nat} (hs : (c.tok k).st = .pending) (hc : (c.tok k).cid = cid) (status : Nat) :
    c.complete k cid status = c.setTok k { c.tok k with st := .done, status := BitVec.ofNat 8 status } :=
  if_pos ⟨hs, hc⟩
theorem Cluster.complete_dropped {c : Cluster} {k cid : Nat} (h : (c.tok k).st ≠ .pending ∨ (c.tok k).cid ≠ cid) (status : Nat) :
    c.complete k cid status = c :=
  if_neg fun hp => h.elim (· hp.1) (· hp.2)
theorem Cluster.tok_complete_ne (c : Cluster) {k i : Nat} (cid status : Nat) (h : i ≠ k) : (c.complete k cid status).tok i = c.tok i := by
  unfold Cluster.complete
  dsimp only
  split
  case isTrue => rw [Cluster.tok_setTok, if_neg h]
  case isFalse => rfl

/-- A failed waybill is counted in the running command that issued it; the first one leaves its token word (R171). -/
def RunCmd.waybillFailed (r : RunCmd) (cid : Nat) (word : Word) (status : Nat) : RunCmd :=
  if r.cid ≠ cid then r
  else { r with
    wbToken := if r.wbFailed = 0 then word else r.wbToken
    wbFailed := r.wbFailed + 1
    internal := r.internal || decide (status = 0x0D) }
theorem RunCmd.waybillFailed_own {r : RunCmd} {cid : Nat} (h : r.cid = cid) (word : Word) (status : Nat) :
    r.waybillFailed cid word status = { r with
      wbToken := if r.wbFailed = 0 then word else r.wbToken
      wbFailed := r.wbFailed + 1
      internal := r.internal || decide (status = 0x0D) } :=
  if_neg (not_not.2 h)
/-- A cluster after the end of one of its waybills. -/
def Cluster.waybillEnded (c : Cluster) (x : Waybill) (status : Nat) : Cluster :=
  let e := c.complete x.tok x.cid status
  if status = 0 then e else { e with run := e.run.map fun r => r.waybillFailed x.cid (e.tok x.tok).word status }

theorem Cluster.waybillEnded_tok (c : Cluster) (x : Waybill) (status k : Nat) :
    (c.waybillEnded x status).tok k = (c.complete x.tok x.cid status).tok k := by
  unfold Cluster.waybillEnded
  dsimp only
  split <;> rfl
theorem Cluster.waybillEnded_launches (c : Cluster) (x : Waybill) (status : Nat) :
    (c.waybillEnded x status).launches = c.launches := by
  obtain ⟨ts, h⟩ := c.complete_tokens x.tok x.cid status
  unfold Cluster.waybillEnded
  rw [h]
  dsimp only
  split <;> rfl
theorem Cluster.waybillEnded_run (c : Cluster) (x : Waybill) (status : Nat) :
    (c.waybillEnded x status).run = if status = 0 then c.run
      else c.run.map fun r => r.waybillFailed x.cid ((c.waybillEnded x status).tok x.tok).word status := by
  rw [Cluster.waybillEnded_tok]
  obtain ⟨ts, h⟩ := c.complete_tokens x.tok x.cid status
  unfold Cluster.waybillEnded
  rw [h]
  dsimp only
  split <;> rfl
/-- The end of a waybill is not that of the command that runs. -/
theorem RunCmd.waybillFailed_ending (r : RunCmd) (cid : Nat) (word : Word) (status : Nat) :
    (r.waybillFailed cid word status).ending = r.ending := by
  unfold RunCmd.waybillFailed
  split <;> rfl

/-- In a calm cluster a waybill ends, and nothing else happens. -/
theorem Dev.cl_endWaybill_calm {d : Dev} {n : Nat} (h : d.calm n = true) (x : Waybill) (status m : Nat) :
    (d.endWaybill n x status).cl m = if m = n then (d.cl n).waybillEnded x status else d.cl m := by
  obtain ⟨e, hsettle, hcl⟩ : ∃ e : Dev, d.endWaybill n x status = e.settle n ∧
      ∀ m, e.cl m = if m = n then (d.cl n).waybillEnded x status else d.cl m := by
    refine ⟨_, rfl, fun m => ?_⟩
    unfold Cluster.waybillEnded
    by_cases hs : status = 0
    · simp only [if_pos hs]
      exact Dev.cl_onCl _ _ _ _
    · simp only [if_neg hs, Dev.onRun, Dev.cl_onCl]
      split <;> rfl
  have hn := (hcl n).trans (if_pos rfl)
  have hcalm : e.calm n = true := by
    simp only [Dev.calm, hn, Cluster.waybillEnded_launches, Cluster.waybillEnded_run] at h ⊢
    cases hr : (d.cl n).run with
    | none => simpa [hr] using h
    | some r =>
      by_cases hs : status = 0
      · simpa [hr, hs] using h
      · simpa [hr, hs, RunCmd.waybillFailed_ending] using h
  rw [hsettle, Dev.settle_calm e n hcalm, Dev.cl_setCl]
  by_cases hm : m = n
  · rw [if_pos hm, if_pos hm, hn]
  · rw [if_neg hm, hcl]

/-- Settles O30: in a calm cluster the end of a waybill is a completion, counted in its command when it failed. -/
theorem completionReachesToken : Obligations.CompletionReachesToken := by
  intro d n x status hcalm t c
  have hc : c = (d.cl n).waybillEnded x status := (Dev.cl_endWaybill_calm hcalm x status n).trans (if_pos rfl)
  refine ⟨fun hp hcid => ?_, fun hdrop => ?_, fun k hk => ?_, fun m hm => ?_, fun r hr hcid => ?_⟩
  · rw [hc, Cluster.waybillEnded_tok, Cluster.complete_pending hp hcid, Cluster.tok_setTok, if_pos rfl]
  · rw [hc, Cluster.waybillEnded_tok, Cluster.complete_dropped hdrop]
  · rw [hc, Cluster.waybillEnded_tok, Cluster.tok_complete_ne _ _ _ hk]
  · exact (Dev.cl_endWaybill_calm hcalm x status m).trans (if_neg hm)
  · have hrun := (d.cl n).waybillEnded_run x status
    rw [← hc, hr] at hrun
    by_cases hs : status = 0
    · exact ⟨r, by rw [hrun, if_pos hs], by rw [if_pos hs, Nat.add_zero], fun h => absurd hs h⟩
    · exact ⟨_, hrun.trans ((if_neg hs).trans (congrArg some (RunCmd.waybillFailed_own hcid _ _))), by rw [if_neg hs], fun _ => rfl⟩

end Sys2Proof.Machine
end

section
namespace Sys2Proof.Machine

/-! ## One arbitration cycle (R160) -/

/-- The claims of one core of a cluster. -/
def claimsOf (n : Nat) (claims : List Claim) (k : Nat) : List Claim :=
  claims.filter fun c => decide (c.a.cluster = n ∧ c.a.core = k)
theorem claimOrder_filter (n : Nat) (claims : List Claim) :
    claimOrder (claims.filter fun c => decide (c.a.cluster = n)) = claimsOf n claims 0 ++ claimsOf n claims 1 ++ claimsOf n claims 2 := by
  have hcore (k : Nat) : (claims.filter fun c => decide (c.a.cluster = n)).filter (fun c => decide (c.a.core = k)) =
      claimsOf n claims k := by
    rw [List.filter_filter]
    exact List.filter_congr fun c _ => by rw [Bool.and_comm, Bool.decide_and]
  rw [claimOrder, hcore, hcore, hcore]

/-- The effect of the claims that were presented, in the order of their cores. -/
theorem execTokenArbitration_eq (n : Nat) (claims : List Claim) (s : State) :
    execTokenArbitration n claims s = run (decide (n < 384) && claims.all fun c => Agent.ok c.a) s fun d =>
      ((claimsOf n claims 0 ++ claimsOf n claims 1 ++ claimsOf n claims 2).foldl (fun (x : Dev × List Nat) c =>
        (x.1.issue c.a 4 (claimOut x.2 c), if x.1.winsToken x.2 c then x.2 ++ [c.f.tok.toNat] else x.2)) (d, [])).1 := by
  rw [← claimOrder_filter]
  rfl

/-- With one claim of each core at most, the claims of a core are the same in every order of presentation. -/
theorem claimsOf_perm {claims other : List Claim} (h : claims.Perm other) (hcores : (claims.map fun c => c.a.core).Nodup)
    (n k : Nat) : claimsOf n claims k = claimsOf n other k := by
  have hp : (claimsOf n claims k).Perm (claimsOf n other k) := h.filter _
  have hsame (c : Claim) (hc : c ∈ claimsOf n claims k) (e : Claim) (he : e ∈ claimsOf n claims k) : c = e := by
    simp only [claimsOf, List.mem_filter, decide_eq_true_eq] at hc he
    exact List.inj_on_of_nodup_map hcores hc.1 he.1 (hc.2.2.trans he.2.2.symm)
  have hnodup : (claimsOf n claims k).Nodup := hcores.of_map.filter _
  match hl : claimsOf n claims k, hp with
  | [], hp => exact hp.nil_eq
  | [c], hp => exact List.singleton_perm.1 hp
  | c :: e :: l, _ =>
    rw [hl] at hsame hnodup
    have hce := hsame c (by simp) e (by simp)
    simp [hce] at hnodup

theorem claimOut_won {d : Dev} {won : List Nat} {c : Claim} (ht : d.issueTrap c.a c.kind c.f = none) (hw : c.f.tok.toNat ∈ won) :
    claimOut won c d = .trap cBUSY (BitVec.ofNat 64 c.f.tok.toNat) := by
  simp only [claimOut, ht, List.contains_iff_mem.2 hw, if_true]
theorem claimOut_free {d : Dev} {won : List Nat} {c : Claim} (ht : d.issueTrap c.a c.kind c.f = none) (hw : c.f.tok.toNat ∉ won) :
    claimOut won c d = issueOut c.a c.kind c.f d := by
  simp only [claimOut, ht, List.contains_iff_mem, if_neg hw]

/-- An agent that waits for room in the waybill queue issues again once there is room (R95). -/
theorem Dev.queueRoom_proceeds {d : Dev} {a : Agent} {f : FmtTK} (hw : d.waitOf a = .queueRoom f) (hh : (d.dbg a).halted = false)
    (hl : (d.cl a.cluster).wbq.length < 16) :
    d.queueRoom a = (d.setWait a .none).conclude a 4 (issueOut a .mx f (d.setWait a .none)) := by
  unfold Dev.queueRoom
  rw [hw]
  exact if_neg (by simp [hh, hl])

/-! ## WAIT (R164) -/

section
variable {c : Cluster} {x : Waybill} {rest : List Waybill}

theorem Cluster.waitSays_go (h : wWaitEn x.w = false ∨ (c.tok (wWaitTok x.w)).st = .free ∨
    ((c.tok (wWaitTok x.w)).st = .done ∧ (c.tok (wWaitTok x.w)).status = 0)) : c.waitSays x rest = .go := by
  unfold Cluster.waitSays
  split
  case isTrue => rfl
  case isFalse hen =>
    obtain hw | hw | ⟨hw, hs⟩ := h
    · simp [hw] at hen
    · simp only [hw]
    · simp only [hw, hs, if_true]
theorem Cluster.waitSays_failed (hen : wWaitEn x.w = true) (hd : (c.tok (wWaitTok x.w)).st = .done)
    (hs : (c.tok (wWaitTok x.w)).status ≠ 0) : c.waitSays x rest = .fail 0x0B := by
  unfold Cluster.waitSays
  rw [if_neg (by simp [hen])]
  simp only [hd, if_neg hs]
/-- A token that only the waybill itself, or one behind it, could complete. -/
theorem Cluster.waitSays_behind (hen : wWaitEn x.w = true) (hp : (c.tok (wWaitTok x.w)).st = .pending)
    (hk : wWaitTok x.w = x.tok ∨ ∃ y ∈ rest, y.tok = wWaitTok x.w) : c.waitSays x rest = .fail 0x0A := by
  unfold Cluster.waitSays
  rw [if_neg (by simp [hen])]
  simp only [hp]
  exact if_pos (by simpa using hk)

end

/-! ## The head of the waybill queue (R153, R155) -/

section
variable {d : Dev} {n : Nat} {x : Waybill} {rest : List Waybill} {which : Waybill → Bool}
  (hidle : (d.cl n).wbRun = none) (hq : (d.cl n).wbq = x :: rest) (hwhich : which x = true) (hfail : x.fail = none)
include hidle hq hwhich hfail

/-- A head that fails a check ends with that status. -/
theorem Dev.startHead_bad {st : Nat} (hchk : waybillCheck d.part.fp64 (d.inShare x.ctx) x.w = some st) :
    d.startHead n which = (d.setCl n { d.cl n with wbq := rest }).endWaybill n x st := by
  simp only [Dev.startHead, hidle, hq, hwhich, hfail, hchk, Bool.not_true, Bool.false_eq_true, if_false]

variable (hchk : waybillCheck d.part.fp64 (d.inShare x.ctx) x.w = none)
include hchk

/-- One that its wait lets go runs. -/
theorem Dev.startHead_goes (hw : (d.cl n).waitSays x rest = .go) :
    d.startHead n which = d.setCl n { d.cl n with wbq := rest, wbRun := some x } := by
  simp only [Dev.startHead, hidle, hq, hwhich, hfail, hchk, hw, Bool.not_true, Bool.false_eq_true, if_false]
/-- One whose wait has failed ends. -/
theorem Dev.startHead_fails {st : Nat} (hw : (d.cl n).waitSays x rest = .fail st) :
    d.startHead n which = (d.setCl n { d.cl n with wbq := rest }).endWaybill n x st := by
  simp only [Dev.startHead, hidle, hq, hwhich, hfail, hchk, hw, Bool.not_true, Bool.false_eq_true, if_false]

end

/-- The rows under which a waybill at the head starts: that of its operation, and the end of its wait. -/
theorem exec_startsHead {s : State} {n : Nat} {x : Waybill} {c : Instr} (hn : n < 384) (hr : s.dev.running n = true)
    (hp : s.dev.pwr.stopped = false)
    (hc : c = .mma n ∧ wOP x.w = 1 ∨ c = .mmaZ n ∧ wOP x.w = 2 ∨ c = .xpFin n ∧ wOP x.w = 3 ∨ c = .xpSum n ∧ wOP x.w = 4 ∨
      c = .waybillWaitResolved n ∧ wWaitEn x.w = true) :
    ∃ which : Waybill → Bool, which x = true ∧ exec c s = s.gives fun d => d.startHead n which := by
  have byOp (op : Nat) : opWaybill n op s = s.gives fun d => d.startHead n fun x => decide (wOP x.w = op) :=
    runDie_gives (decide_eq_true hn) hp (if_pos hr)
  obtain ⟨rfl, h⟩ | ⟨rfl, h⟩ | ⟨rfl, h⟩ | ⟨rfl, h⟩ | ⟨rfl, h⟩ := hc
  · exact ⟨_, decide_eq_true h, byOp 1⟩
  · exact ⟨_, decide_eq_true h, byOp 2⟩
  · exact ⟨_, decide_eq_true h, byOp 3⟩
  · exact ⟨_, decide_eq_true h, byOp 4⟩
  · exact ⟨fun x => wWaitEn x.w, h, (runDie_gives (decide_eq_true hn) hp (if_pos hr) : execWaybillWaitResolved n s = _)⟩

/-- The running waybill ends with what it computes, or under INTERNAL with every one queued. -/
theorem exec_waybillComplete {s : State} {n : Nat} {x : Waybill} (hn : n < 384) (hr : s.dev.running n = true)
    (hp : s.dev.pwr.stopped = false) (hrun : (s.dev.cl n).wbRun = some x) (parity : Bool) :
    exec (.waybillComplete n parity) s = s.gives fun d =>
      if parity then d.mcoreInternal n
      else ((d.computeWaybill n x).2.onCl n fun c => { c with wbRun := none }).endWaybill n x (d.computeWaybill n x).1 := by
  refine (runDie_gives (decide_eq_true hn) hp ?_ : execWaybillComplete n parity s = _)
  simp only [hr, hrun]
  rfl

/-- Settles O31: an arbitration cycle sorts its claims by core, and a waybill at the head goes where its checks and its wait
send it. -/
theorem waybillsAndGrantsComplete : Obligations.WaybillsAndGrantsComplete := by
  refine ⟨fun s n => ⟨fun claims hn hok => ?order, fun d won c ht => ⟨claimOut_won ht, claimOut_free ht⟩,
      fun claims other hperm hcores => ?perm, fun hn => ?room, fun d a f hw hh hl => Dev.queueRoom_proceeds hw hh hl⟩,
    fun s n x hn hr hp => ⟨fun rest c hidle hq hfail hc => ?head, fun hrun => ?complete⟩⟩
  case order => exact (execTokenArbitration_eq n claims s).trans (run_gives (by rw [decide_eq_true hn, hok]; rfl) rfl)
  case perm =>
    change execTokenArbitration n claims s = execTokenArbitration n other s
    rw [execTokenArbitration_eq, execTokenArbitration_eq, claimsOf_perm hperm hcores, claimsOf_perm hperm hcores,
      claimsOf_perm hperm hcores, hperm.all_eq]
  case room =>
    change execWaybillQueueRoom n s = _
    exact run_gives (decide_eq_true hn) rfl
  case head =>
    intro chk w
    obtain ⟨which, hwhich, hexec⟩ := exec_startsHead hn hr hp hc
    have gives {g : Dev → Dev} (h : s.dev.startHead n which = g s.dev) : exec c s = s.gives g :=
      hexec.trans (State.gives_congr h)
    exact ⟨fun hchk hgo => gives (Dev.startHead_goes hidle hq hwhich hfail hchk (Cluster.waitSays_go hgo)),
      fun hchk hen hd hs => gives (Dev.startHead_fails hidle hq hwhich hfail hchk (Cluster.waitSays_failed hen hd hs)),
      fun hchk hen hpend hk => gives (Dev.startHead_fails hidle hq hwhich hfail hchk (Cluster.waitSays_behind hen hpend hk)),
      fun st hchk => gives (Dev.startHead_bad hidle hq hwhich hfail hchk)⟩
  case complete =>
    exact ⟨(exec_waybillComplete hn hr hp hrun false).trans (State.gives_congr (if_neg (by decide))),
      (exec_waybillComplete hn hr hp hrun true).trans (State.gives_congr (if_pos rfl))⟩

end Sys2Proof.Machine
end

section
namespace Sys2Proof.Machine

/-! ## A list of bytes put into Local (R259, R275) -/

/-- The mask of the places below `n` that satisfy a test. -/
def maskFold (p : Nat → Bool) (n : Nat) : Nat := (List.range n).foldl (fun acc i => if p i then acc + 2 ^ i else acc) 0
theorem maskFold_succ (p : Nat → Bool) (n : Nat) :
    maskFold p (n + 1) = if p n then maskFold p n + 2 ^ n else maskFold p n := by
  rw [maskFold, List.range_succ, List.foldl_append]
  rfl
theorem maskFold_lt (p : Nat → Bool) (n : Nat) : maskFold p n < 2 ^ n := by
  induction n with
  | zero => exact Nat.one_pos
  | succ n ih =>
    rw [maskFold_succ, pow_succ]
    split <;> omega
theorem testBit_maskFold (p : Nat → Bool) (n i : Nat) : (maskFold p n).testBit i = (decide (i < n) && p i) := by
  induction n with
  | zero => simp [maskFold]
  | succ n ih =>
    have hor : maskFold p n + 2 ^ n = 2 ^ n ||| maskFold p n := by
      rw [Nat.add_comm]
      simpa using Nat.two_pow_add_eq_or_of_lt (maskFold_lt p n) 1
    have hlt : decide (i < n + 1) = (decide (n = i) || decide (i < n)) := by
      rw [← Bool.decide_or]
      exact decide_eq_decide.2 (by omega)
    rw [maskFold_succ, hlt]
    split
    case isTrue hp =>
      rw [hor, Nat.testBit_or, ih, Nat.testBit_two_pow]
      by_cases hi : n = i
      · simp [← hi, hp]
      · simp [hi]
    case isFalse hp =>
      rw [ih]
      by_cases hi : n = i
      · simp [← hi, hp]
      · simp [hi]

/-- What a waybill's computation leaves of a cluster. -/
def Cluster.work (c : Cluster) : NMap Word × NMap Token × List Waybill × Option RunCmd := (c.s.regs, c.tokens, c.wbq, c.run)

theorem Dev.work_setResv (d : Dev) (a : Agent) (r : Option Resv) (m : Nat) : ((d.setResv a r).cl m).work = (d.cl m).work := by
  cases a with
  | sCore n =>
    rw [Dev.setResv, Dev.onS, Dev.cl_onCl]
    split
    case isTrue h => rw [h]; rfl
    case isFalse => rfl
  | group n v k =>
    cases h : d.grp (.group n v k) with
    | none => simp only [Dev.setResv, Dev.onGrp, h]
    | some g =>
      simp only [Dev.setResv, Dev.onGrp, h, Dev.setGrp, Dev.cl_onCl]
      split
      case isTrue h => rw [h]; rfl
      case isFalse => rfl
theorem Dev.work_killLocal (d : Dev) (n : Nat) (by_ : Option Agent) (addr len m : Nat) :
    ((d.killLocal n by_ addr len).cl m).work = (d.cl m).work := by
  refine foldl_keeps (fun e : Dev => (e.cl m).work) (fun e b => ?_) _ d
  cases h : e.resvOf b with
  | none => rfl
  | some r =>
    simp only
    split
    · exact e.work_setResv b none m
    · rfl

theorem Dev.onlyReports.mem {d e : Dev} (h : d.onlyReports e) (sp : MSpace) : e.mem sp = d.mem sp := by
  obtain ⟨⟨_, _, _, rfl⟩, -⟩ := h
  cases sp <;> rfl
theorem Dev.onlyReports.clusters {d e : Dev} (h : d.onlyReports e) : e.clusters = d.clusters := by
  obtain ⟨⟨_, _, _, rfl⟩, -⟩ := h
  rfl
theorem Dev.onlyReports_memFault (d : Dev) (sp : MSpace) (w sub : Nat) : d.onlyReports (d.memFault sp w sub) :=
  d.onlyReports_refl.fault _ _ _ _ _ _ _
theorem Dev.clusters_setMem (d : Dev) (sp : MSpace) (m : Mem) : (d.setMem sp m).clusters = d.clusters := by cases sp <;> rfl

/-- The poison pattern changes the bytes of its word alone. -/
theorem Mem.byte_poison_ne (m : Mem) {w x : Nat} (h : x / 8 ≠ w) : (m.poison w).byte x = m.byte x :=
  (m.byte_setBytes8 w 0 x).trans (if_neg h)

/-! ## The frame of a computation on Local -/

/-- Of what `d` holds as written in the Local of cluster `n`, `e` differs at the addresses of `D` alone; other memories, and
the clusters' registers, tokens and work, are as they were. -/
structure Dev.FrameOutside (D : Nat → Prop) (n : Nat) (d e : Dev) : Prop where
  written : ∀ w, (d.mem (.loc n)).mark w = .written → (e.mem (.loc n)).mark w = .written
  byte : ∀ y, (d.mem (.loc n)).mark (y / 8) = .written → ¬D y → (e.mem (.loc n)).byte y = (d.mem (.loc n)).byte y
  other : ∀ sp, sp ≠ .loc n → e.mem sp = d.mem sp
  work : ∀ m, (e.cl m).work = (d.cl m).work

theorem Dev.FrameOutside.refl (D : Nat → Prop) (n : Nat) (d : Dev) : d.FrameOutside D n d :=
  ⟨fun _ h => h, fun _ _ _ => rfl, fun _ _ => rfl, fun _ => rfl⟩

section
variable {D : Nat → Prop} {n : Nat} {d e : Dev} (h : d.FrameOutside D n e)
include h

/-- A step that keeps every memory and the work of every cluster. -/
theorem Dev.FrameOutside.same {f : Dev} (hmem : ∀ sp, f.mem sp = e.mem sp) (hwork : ∀ m, (f.cl m).work = (e.cl m).work) :
    d.FrameOutside D n f :=
  ⟨fun w hw => by rw [hmem]; exact h.written w hw, fun y hy hD => by rw [hmem]; exact h.byte y hy hD,
    fun sp hsp => (hmem sp).trans (h.other sp hsp), fun m => (hwork m).trans (h.work m)⟩
/-- A step that puts another memory in the place of Local. -/
theorem Dev.FrameOutside.setLocal {m : Mem} (hmark : ∀ w, (e.mem (.loc n)).mark w = .written → m.mark w = .written)
    (hbyte : ∀ y, (e.mem (.loc n)).mark (y / 8) = .written → ¬D y → m.byte y = (e.mem (.loc n)).byte y) :
    d.FrameOutside D n (e.setMem (.loc n) m) := by
  refine ⟨fun w hw => ?_, fun y hy hD => ?_, fun sp hsp => (e.mem_setMem_ne _ _ m hsp).trans (h.other sp hsp), fun k => ?_⟩
  · rw [Dev.mem_setMem_same]
    exact hmark w (h.written w hw)
  · rw [Dev.mem_setMem_same]
    exact (hbyte y (h.written _ hy) hD).trans (h.byte y hy hD)
  · rw [Dev.cl_congr (e.clusters_setMem _ m)]
    exact h.work k
theorem Dev.FrameOutside.fresh : d.FrameOutside D n e.fresh.2 :=
  h.same (fun sp => by cases sp <;> rfl) fun _ => rfl
theorem Dev.FrameOutside.freshBits (bits : Nat) : d.FrameOutside D n (e.freshBits bits).2 :=
  List.foldlRecOn (motive := fun x : Nat × Dev => d.FrameOutside D n x.2) _ _ h fun _ hx _ _ => hx.fresh
theorem Dev.FrameOutside.setFlags (k source : Nat) (f : FFlags) : d.FrameOutside D n (e.setFlags k source f) := by
  unfold Dev.setFlags
  split
  · exact h
  · exact h.same (fun sp => by cases sp <;> rfl) fun _ => rfl
theorem Dev.FrameOutside.killLocal (k : Nat) (by_ : Option Agent) (addr len : Nat) :
    d.FrameOutside D n (e.killLocal k by_ addr len) :=
  h.same (e.mem_killLocal k by_ addr len) (e.work_killLocal k by_ addr len)
theorem Dev.FrameOutside.memFault (sp : MSpace) (w sub : Nat) : d.FrameOutside D n (e.memFault sp w sub) :=
  h.same (e.onlyReports_memFault sp w sub).mem fun m => by rw [Dev.cl_congr (e.onlyReports_memFault sp w sub).clusters]

/-- A read changes a word that is not correctable alone: it is poisoned (R387). -/
theorem Dev.FrameOutside.readW (w sub : Nat) : d.FrameOutside D n (e.readW (.loc n) w sub).2 := by
  by_cases hw : (e.mem (.loc n)).mark w = .written
  · rw [Dev.readW_written hw]
    exact h
  have hpoison : d.FrameOutside D n (e.setMem (.loc n) ((e.mem (.loc n)).poison w)) := by
    refine h.setLocal (fun v hv => ?_) fun y hy _ => Mem.byte_poison_ne _ fun hyw => hw (hyw ▸ hy)
    rw [Mem.mark_poison, if_neg fun hvw : v = w => hw (hvw ▸ hv), hv]
  unfold Dev.readW
  split
  · exact h
  · dsimp only
    split
    · exact hpoison.memFault _ _ _
    · exact h
theorem Dev.FrameOutside.readable (rs : List WRegion) : d.FrameOutside D n (e.readable n rs).2 := by
  refine List.foldlRecOn (motive := fun x : Bool × Dev => d.FrameOutside D n x.2) _ _ h fun x hx w _ => ?_
  have hr := hx.readW w 0
  split
  case h_1 heq => rwa [heq] at hr
  case h_2 heq => rwa [heq] at hr

variable (hD : ∀ y, D y → (d.mem (.loc n)).mark (y / 8) = .written)
include hD

/-- A merge that selects bytes of `D` alone. -/
theorem Dev.FrameOutside.mergeW {w : Nat} {mask : BitVec 8} (v : Word) (hmask : ∀ i < 8, mask.getLsbD i = true → D (8 * w + i)) :
    d.FrameOutside D n (e.mergeW (.loc n) w mask v) := by
  by_cases h0 : mask = 0
  · rw [h0, Dev.mergeW, Mem.mergeW_nothing]
    exact h.setLocal (fun _ hw => hw) fun _ _ _ => rfl
  have hw : (d.mem (.loc n)).mark w = .written := by
    obtain ⟨i, hi, hbit⟩ : ∃ i, i < 8 ∧ mask.getLsbD i = true := by
      by_contra hno
      exact h0 (BitVec.eq_of_getLsbD_eq fun i hi => by simpa using fun hb => hno ⟨i, hi, hb⟩)
    have := hD _ (hmask i hi hbit)
    rwa [show (8 * w + i) / 8 = w by omega] at this
  obtain ⟨hnone, hmark, hbyte⟩ := Mem.mergeW_merges (id := (MSpace.loc n).id) (mask := mask) (v := v) (h.written w hw)
  have hset : e.mergeW (.loc n) w mask v = e.setMem (.loc n) ((e.mem (.loc n)).mergeW (MSpace.loc n).id w mask v).1 := by
    unfold Dev.mergeW
    split
    case h_1 heq => rw [heq]
    case h_2 heq => rw [heq] at hnone; cases hnone
  rw [hset]
  refine h.setLocal (fun y hy => (hmark y).trans hy) fun y _ hnD => ?_
  rw [hbyte, if_neg]
  rintro ⟨rfl, hbit⟩
  have := hmask _ (Nat.mod_lt y (by decide)) hbit
  rw [Nat.div_add_mod] at this
  exact hnD this
/-- Bytes put at addresses of `D`. -/
theorem Dev.FrameOutside.localPut {addr : Nat} {bs : List (BitVec 8)} (hin : ∀ y, addr ≤ y → y < addr + bs.length → D y) :
    d.FrameOutside D n (e.localPut n addr bs) := by
  refine List.foldlRecOn (motive := d.FrameOutside D n) _ _ (h.killLocal n none addr bs.length) fun x hx k _ => ?_
  refine hx.mergeW hD _ fun i hi hbit => ?_
  rw [BitVec.getLsbD_ofNat] at hbit
  have hplace := (testBit_maskFold _ 8 i).symm.trans (Bool.and_eq_true_iff.1 hbit).2
  simp only [Bool.and_eq_true, decide_eq_true_eq] at hplace
  obtain ⟨-, hlo, hhi⟩ := hplace
  exact hin _ hlo hhi

end

end Sys2Proof.Machine
end

section
namespace Sys2Proof.Machine

/-! ## What a waybill writes (R151, R165) -/

/-- The bytes of the stored rows of a region. -/
def WRegion.inRows (r : WRegion) (y : Nat) : Prop := ∃ i, i < r.rows ∧ r.base + i * r.ld ≤ y ∧ y < r.base + i * r.ld + r.rowBytes

/-- The elements of one row of D: open where stores have affected them (R165). -/
def Dev.rowElems (d : Dev) (bits : Nat) (row : List (Bool × Nat × FFlags)) : List (Nat × FFlags) × Dev :=
  row.foldl (fun a e =>
    if e.1 then
      let b := a.2.freshBits bits
      let f := b.2.fresh
      (a.1 ++ [(b.1, f.1.setWidth _)], f.2)
    else (a.1 ++ [e.2], a.2)) ([], d)
/-- The elements of D, row by row. -/
def Dev.regionElems (d : Dev) (bits : Nat) (rows : List (List (Bool × Nat × FFlags))) : List (List (Nat × FFlags)) × Dev :=
  rows.foldl (fun acc row => (acc.1 ++ [(acc.2.rowElems bits row).1], (acc.2.rowElems bits row).2)) ([], d)
/-- The elements of D before stores are taken into account, each with whether stores have affected it. -/
def Waybill.elems (x : Waybill) (m : Mem) (n : Nat) : List (List (Bool × Nat × FFlags)) :=
  (List.range (wM x.w)).map fun i => (List.range (wN x.w)).map fun j =>
    (affected x.w x.touched i j, MView.elem { m := m, id := n, w := x.w } x.seed i j)
/-- The rows of a region are written. -/
def Dev.putRows (d : Dev) (n : Nat) (r : WRegion) (rows : List (List (Nat × FFlags))) : Dev :=
  rows.zipIdx.foldl (fun d row => d.localPut n (r.base + row.2 * r.ld) (rowOfElems r.bits (row.1.map Prod.fst))) d

/-- A waybill with an uncorrectable source leaves D open. -/
theorem Dev.computeWaybill_unreadable {d e : Dev} {n : Nat} {x : Waybill}
    (h : d.readable n (wRegions x.w).dropLast = (false, e)) : d.computeWaybill n x = (0x0C, e.undefineD n x.w) := by
  unfold Dev.computeWaybill
  simp only [h, Bool.not_false, if_true]
/-- One whose sources are readable writes the elements of D and raises their flags. -/
theorem Dev.computeWaybill_readable {d e : Dev} {n : Nat} {x : Waybill} (h : d.readable n (wRegions x.w).dropLast = (true, e)) :
    ∃ flags, (d.computeWaybill n x).2 =
      let rows := e.regionElems (wRegD x.w).bits (x.elems (e.mem (.loc n)) n)
      (rows.2.putRows n (wRegD x.w) rows.1).setFlags n 0 flags := by
  unfold Dev.computeWaybill
  simp only [h, Bool.not_true, Bool.false_eq_true, if_false]
  exact ⟨_, rfl⟩

section
variable {D : Nat → Prop} {n : Nat} {d e : Dev} (h : d.FrameOutside D n e)
include h

theorem Dev.FrameOutside.rowElems (bits : Nat) (row : List (Bool × Nat × FFlags)) :
    d.FrameOutside D n (e.rowElems bits row).2 := by
  refine List.foldlRecOn (motive := fun a : List (Nat × FFlags) × Dev => d.FrameOutside D n a.2) _ _ h fun a ha x _ => ?_
  split
  · exact (ha.freshBits bits).fresh
  · exact ha
theorem Dev.FrameOutside.regionElems (bits : Nat) (rows : List (List (Bool × Nat × FFlags))) :
    d.FrameOutside D n (e.regionElems bits rows).2 :=
  List.foldlRecOn (motive := fun a : List (List (Nat × FFlags)) × Dev => d.FrameOutside D n a.2) _ _ h fun _ ha row _ =>
    ha.rowElems bits row

end

/-- A fold whose steps each append one result has as many as steps. -/
theorem length_foldl_append_one {α β γ : Type} {f : List γ × α → β → List γ × α} (hf : ∀ a b, (f a b).1.length = a.1.length + 1)
    (l : List β) (a : List γ × α) : (l.foldl f a).1.length = a.1.length + l.length := by
  induction l generalizing a with
  | nil => rfl
  | cons b l ih => rw [List.foldl_cons, ih, hf, List.length_cons]; omega
theorem Dev.length_rowElems (d : Dev) (bits : Nat) (row : List (Bool × Nat × FFlags)) :
    (d.rowElems bits row).1.length = row.length := by
  refine (length_foldl_append_one (fun a e => ?_) row _).trans (Nat.zero_add _)
  split <;> simp
theorem Dev.length_regionElems (d : Dev) (bits : Nat) (rows : List (List (Bool × Nat × FFlags))) :
    (d.regionElems bits rows).1.length = rows.length :=
  (length_foldl_append_one (fun _ _ => List.length_append) rows _).trans (Nat.zero_add _)
/-- The elements of a row are as many as were computed. -/
theorem Dev.length_of_mem_regionElems {d : Dev} {bits k : Nat} {rows : List (List (Bool × Nat × FFlags))}
    (hk : ∀ row ∈ rows, row.length = k) : ∀ row ∈ (d.regionElems bits rows).1, row.length = k := by
  refine List.foldlRecOn (motive := fun a : List (List (Nat × FFlags)) × Dev => ∀ row ∈ a.1, row.length = k) _ _ nofun
    fun a ha row hrow => ?_
  simp only [List.forall_mem_append, List.forall_mem_singleton]
  exact ⟨ha, (Dev.length_rowElems _ _ _).trans (hk row hrow)⟩
theorem Waybill.length_elems (x : Waybill) (m : Mem) (n : Nat) : (x.elems m n).length = (wRegD x.w).rows := by
  simp [Waybill.elems, wRegD]
theorem Waybill.length_of_mem_elems {x : Waybill} {m : Mem} {n : Nat} : ∀ row ∈ x.elems m n, row.length = (wRegD x.w).cols := by
  simp [Waybill.elems, wRegD]

theorem length_rowOfElems (bits : Nat) (xs : List Nat) : (rowOfElems bits xs).length = ceilDiv (xs.length * bits) 8 := by
  simp [rowOfElems]

section
variable {n : Nat} {d e : Dev} {r : WRegion} (h : d.FrameOutside r.inRows n e)
  (hD : ∀ y, r.inRows y → (d.mem (.loc n)).mark (y / 8) = .written)
include h hD

theorem Dev.FrameOutside.putRows {rows : List (List (Nat × FFlags))} (hrows : rows.length = r.rows)
    (hcols : ∀ row ∈ rows, row.length = r.cols) : d.FrameOutside r.inRows n (e.putRows n r rows) := by
  refine List.foldlRecOn (motive := d.FrameOutside r.inRows n) _ _ h fun x hx row hrow => ?_
  have hi : row.2 < r.rows := hrows ▸ List.snd_lt_of_mem_zipIdx hrow
  have hlen : row.1.length = r.cols := hcols _ (List.fst_mem_of_mem_zipIdx hrow)
  refine hx.localPut hD fun y hlo hhi => ⟨row.2, hi, hlo, ?_⟩
  rwa [length_rowOfElems, List.length_map, hlen] at hhi

end

theorem Dev.FrameOutside.undefineD {n : Nat} {d e : Dev} {w : BitVec 512} (h : d.FrameOutside (wRegD w).inRows n e)
    (hD : ∀ y, (wRegD w).inRows y → (d.mem (.loc n)).mark (y / 8) = .written) :
    d.FrameOutside (wRegD w).inRows n (e.undefineD n w) := by
  refine List.foldlRecOn (motive := d.FrameOutside (wRegD w).inRows n) _ _ h fun x hx i hi => ?_
  refine List.foldlRecOn (motive := d.FrameOutside (wRegD w).inRows n) _ _ hx fun x hx k _ => ?_
  refine hx.fresh.localPut hD fun y hlo hhi => ⟨i, List.mem_range.1 hi, by omega, ?_⟩
  rw [List.length_take] at hhi
  omega

/-- A waybill's computation changes Local in the rows of D alone. -/
theorem Dev.frameOutside_computeWaybill {d : Dev} {n : Nat} {x : Waybill}
    (hD : ∀ y, (wRegD x.w).inRows y → (d.mem (.loc n)).mark (y / 8) = .written) :
    d.FrameOutside (wRegD x.w).inRows n (d.computeWaybill n x).2 := by
  obtain ⟨ok, e, hread⟩ : ∃ ok e, d.readable n (wRegions x.w).dropLast = (ok, e) := ⟨_, _, rfl⟩
  have he : d.FrameOutside (wRegD x.w).inRows n e := by
    have := (Dev.FrameOutside.refl (wRegD x.w).inRows n d).readable (wRegions x.w).dropLast
    rwa [hread] at this
  cases ok with
  | false =>
    rw [Dev.computeWaybill_unreadable hread]
    exact he.undefineD hD
  | true =>
    obtain ⟨flags, hcompute⟩ := Dev.computeWaybill_readable hread
    rw [hcompute]
    exact ((he.regionElems _ _).putRows hD ((Dev.length_regionElems _ _ _).trans (x.length_elems _ _))
      (Dev.length_of_mem_regionElems Waybill.length_of_mem_elems)).setFlags _ _ _

/-- Settles O32: reads, open values and flags keep every written byte of Local, and what is put there lies in the rows of D. -/
theorem waybillFrame : Obligations.WaybillFrame := by
  intro d n x _ r inRow e hwritten
  have hD (y : Nat) (hy : r.inRows y) : (d.mem (.loc n)).mark (y / 8) = .written :=
    let ⟨i, hi⟩ := hy
    hwritten y i hi
  obtain ⟨-, hbyte, hother, hwork⟩ := Dev.frameOutside_computeWaybill hD
  have hkept (m : Nat) : (e.cl m).s.regs = (d.cl m).s.regs ∧ (e.cl m).tokens = (d.cl m).tokens ∧ (e.cl m).wbq = (d.cl m).wbq ∧
      (e.cl m).run = (d.cl m).run := by
    simpa only [Cluster.work, Prod.mk.injEq] using hwork m
  obtain ⟨hregs, htok, hwbq, hrun⟩ := hkept n
  exact ⟨fun y hy hrow => hbyte y hy fun ⟨i, hi⟩ => hrow i hi, fun sp y hsp => by rw [hother sp hsp], hregs, htok, hwbq, hrun,
    fun m _ => let ⟨hregs, htok, _⟩ := hkept m; ⟨hregs, htok⟩⟩

end Sys2Proof.Machine
end

section
namespace Sys2Proof.Machine

/-! ## The values of the encodings of an IEEE format (R176)

A magnitude is what an encoding has below its sign. Its unit is the exponent of the subnormals up to the least normal exponent
and grows with the exponent field from there on, so that one description serves subnormal and normal numbers. -/

/-- The formats of the lane instructions are IEEE formats with an exponent field. -/
theorem ieee_of_laneFmt {fmt : Fmt} (h : fmt ∈ [fp32, fp64, fp16, bf16]) : fmt.kind = .ieee ∧ 0 < fmt.infEnc := by
  simp only [List.mem_cons, List.not_mem_nil, or_false] at h
  rcases h with rfl | rfl | rfl | rfl <;> decide

/-- The magnitude of an encoding. -/
def Fmt.mag (f : Fmt) (x : Nat) : Nat := x % 2 ^ (f.eb + f.mb)
/-- How far the unit of a magnitude lies above the unit of the subnormals. -/
def Fmt.shift (f : Fmt) (a : Nat) : Nat := a / 2 ^ f.mb - 1
/-- The significand of a magnitude, the hidden bit included. -/
def Fmt.sig (f : Fmt) (a : Nat) : Nat := a - f.shift a * 2 ^ f.mb
/-- The value of a magnitude in units of the subnormals. -/
def Fmt.units (f : Fmt) (a : Nat) : Nat := f.sig a * 2 ^ f.shift a
/-- The value of a sign and a magnitude of an IEEE format. -/
def Fmt.ofMag (f : Fmt) (neg : Bool) (a : Nat) : Num :=
  if a < f.infEnc then .fin neg (f.sig a) (f.qmin + f.shift a) else if a = f.infEnc then .inf neg else .nan

section
variable {f : Fmt}

theorem Fmt.shift_mul_le (a : Nat) : f.shift a * 2 ^ f.mb ≤ a :=
  (Nat.mul_le_mul_right _ (Nat.sub_le _ _)).trans (Nat.div_mul_le_self _ _)
theorem Fmt.shift_mul_add_sig (a : Nat) : f.shift a * 2 ^ f.mb + f.sig a = a := Nat.add_sub_cancel' (f.shift_mul_le a)

/-- A subnormal magnitude. -/
theorem Fmt.subnormal {a : Nat} (h : a / 2 ^ f.mb = 0) : f.shift a = 0 ∧ f.sig a = a % 2 ^ f.mb := by
  have hs : f.shift a = 0 := by rw [Fmt.shift, h]
  have := Nat.div_add_mod a (2 ^ f.mb)
  rw [h] at this
  exact ⟨hs, by rw [Fmt.sig, hs]; omega⟩
/-- A normal magnitude. -/
theorem Fmt.normal {a : Nat} (h : a / 2 ^ f.mb ≠ 0) :
    f.shift a + 1 = a / 2 ^ f.mb ∧ f.sig a = 2 ^ f.mb + a % 2 ^ f.mb := by
  have hs : f.shift a + 1 = a / 2 ^ f.mb := Nat.sub_add_cancel (Nat.pos_of_ne_zero h)
  have hmod := Nat.mod_add_div' a (2 ^ f.mb)
  rw [← hs, Nat.add_mul] at hmod
  exact ⟨hs, by rw [Fmt.sig]; omega⟩

theorem Fmt.sig_lt (a : Nat) : f.sig a < 2 ^ (f.mb + 1) := by
  have hmod := Nat.mod_lt a (Nat.two_pow_pos f.mb)
  rw [pow_succ]
  by_cases h : a / 2 ^ f.mb = 0
  · rw [(f.subnormal h).2]; omega
  · rw [(f.normal h).2]; omega
/-- A magnitude whose unit is above that of the subnormals has the hidden bit. -/
theorem Fmt.le_sig_of_shift_pos {a : Nat} (h : 0 < f.shift a) : 2 ^ f.mb ≤ f.sig a := by
  rw [(f.normal fun h0 => by rw [(f.subnormal h0).1] at h; omega).2]
  exact Nat.le_add_right _ _

theorem Fmt.shift_mono : Monotone f.shift := fun _ _ h => Nat.sub_le_sub_right (Nat.div_le_div_right h) 1

/-- A greater magnitude is a greater value: in one unit its significand is greater, and past it the hidden bit outweighs
every significand of a smaller unit. -/
theorem Fmt.units_strictMono : StrictMono f.units := by
  intro a b hab
  rcases (f.shift_mono hab.le).eq_or_lt with hs | hs
  · have ha := f.shift_mul_add_sig a
    have hb := f.shift_mul_add_sig b
    rw [← hs] at hb
    rw [Fmt.units, Fmt.units, ← hs]
    exact Nat.mul_lt_mul_of_pos_right (by omega) (Nat.two_pow_pos _)
  · calc f.units a < 2 ^ (f.mb + 1) * 2 ^ f.shift a := Nat.mul_lt_mul_of_pos_right (f.sig_lt a) (Nat.two_pow_pos _)
      _ = 2 ^ f.mb * 2 ^ (f.shift a + 1) := by ring
      _ ≤ f.units b := Nat.mul_le_mul (f.le_sig_of_shift_pos (by omega)) (Nat.pow_le_pow_right (by decide) hs)
theorem Fmt.units_zero : f.units 0 = 0 := by simp [Fmt.units, Fmt.sig]

/-- An encoding is its sign and its magnitude. -/
theorem Fmt.withSign_mag {x : Nat} (hx : x < 2 ^ (f.eb + f.mb + 1)) :
    f.withSign (x.testBit (f.eb + f.mb)) (f.mag x) = x := by
  rw [Fmt.withSign, Fmt.mag]
  rcases Nat.lt_or_ge x (2 ^ (f.eb + f.mb)) with h | h
  · rw [Nat.testBit_lt_two_pow h, Nat.mod_eq_of_lt h]
    exact if_neg Bool.false_ne_true
  · obtain ⟨y, rfl⟩ := Nat.exists_eq_add_of_le h
    have hy : y < 2 ^ (f.eb + f.mb) := by rw [pow_succ] at hx; omega
    rw [Nat.testBit_two_pow_add_eq, Nat.testBit_lt_two_pow hy, Nat.add_mod_left, Nat.mod_eq_of_lt hy]
    rfl

theorem Fmt.ofMag_finite {a : Nat} (neg : Bool) (h : a < f.infEnc) : f.ofMag neg a = .fin neg (f.sig a) (f.qmin + f.shift a) := if_pos h
theorem Fmt.ofMag_infEnc (neg : Bool) : f.ofMag neg f.infEnc = .inf neg := by simp [Fmt.ofMag]
theorem Fmt.ofMag_nan {a : Nat} (neg : Bool) (h : f.infEnc < a) : f.ofMag neg a = .nan := by
  rw [Fmt.ofMag, if_neg (by omega), if_neg (by omega)]
theorem Fmt.isNaN_ofMag (neg : Bool) (a : Nat) : (f.ofMag neg a).isNaN = decide (f.infEnc < a) := by
  rcases lt_trichotomy a f.infEnc with h | rfl | h
  · rw [Fmt.ofMag_finite neg h, decide_eq_false (by omega)]; rfl
  · rw [Fmt.ofMag_infEnc, decide_eq_false (by omega)]; rfl
  · rw [Fmt.ofMag_nan neg h, decide_eq_true h]; rfl
theorem Fmt.neg_ofMag (neg : Bool) {a : Nat} (h : a ≤ f.infEnc) : (f.ofMag neg a).neg = neg := by
  rcases h.lt_or_eq with h | rfl
  · rw [Fmt.ofMag_finite neg h]; rfl
  · rw [Fmt.ofMag_infEnc]; rfl

/-- R176 for an IEEE format, by the magnitude alone. -/
theorem Fmt.decode_ieee (hk : f.kind = .ieee) (x : Nat) : f.decode x = f.ofMag (x.testBit (f.eb + f.mb)) (f.mag x) := by
  have hlt : f.mag x / 2 ^ f.mb < 2 ^ f.eb :=
    Nat.div_lt_of_lt_mul (by rw [← pow_add, add_comm f.mb]; exact Nat.mod_lt _ (Nat.two_pow_pos _))
  have hmod := Nat.mod_add_div' (f.mag x) (2 ^ f.mb)
  have hinf : f.mag x < f.infEnc ↔ f.mag x / 2 ^ f.mb < 2 ^ f.eb - 1 := (Nat.div_lt_iff_lt_mul (Nat.two_pow_pos _)).symm
  have hfold : x % 2 ^ (f.eb + f.mb) = f.mag x := rfl
  simp only [Fmt.decode, hk, hfold]
  by_cases hs : f.mag x / 2 ^ f.mb = 2 ^ f.eb - 1
  · rw [hs] at hmod
    have hman : f.mag x = f.infEnc ↔ f.mag x % 2 ^ f.mb = 0 := by rw [Fmt.infEnc]; omega
    simp [Fmt.ofMag, hs, hinf, hman]
  · rw [Fmt.ofMag_finite _ (hinf.2 (by omega)), decide_eq_false hs, if_neg Bool.false_ne_true]
    by_cases h0 : f.mag x / 2 ^ f.mb = 0
    · obtain ⟨hshift, hsig⟩ := f.subnormal h0
      simp [h0, hshift, hsig]
    · obtain ⟨hshift, hsig⟩ := f.normal h0
      rw [if_neg h0, hsig, ← hshift]
      simp

end

end Sys2Proof.Machine
end

section
namespace Sys2Proof.Machine

/-! ## Rounding gives back the number that an encoding stands for -/

theorem nbits_le {n k : Nat} (h : n < 2 ^ k) : nbits n ≤ k := by
  rw [nbits]
  split
  · exact Nat.zero_le _
  · rename_i h0
    exact (Nat.log2_lt h0).2 h
theorem lt_nbits {n k : Nat} (h : 2 ^ k ≤ n) : k < nbits n := by
  have h0 : n ≠ 0 := ((Nat.two_pow_pos k).trans_le h).ne'
  rw [nbits, if_neg h0]
  exact Nat.lt_succ_of_le ((Nat.le_log2 h0).2 h)

section
variable {f : Fmt}

/-- The unit that a magnitude has is the one it is rounded to. -/
theorem Fmt.max_top_qmin (a : Nat) :
    max (f.qmin + f.shift a + (nbits (f.sig a) : Int) - 1 - f.mb) f.qmin = f.qmin + f.shift a := by
  have hle := nbits_le (f.sig_lt a)
  rcases Nat.eq_zero_or_pos (f.shift a) with h | h
  · omega
  · have := lt_nbits (f.le_sig_of_shift_pos h)
    omega

theorem roundInt_self (rnd : Rnd) (r : Nat) (neg : Bool) (m : Nat) (e : Int) : roundInt rnd r neg m e e = (m, false) := by
  simp [roundInt]

/-- A number of an IEEE format is rounded to itself, without a flag. -/
theorem Fmt.round_ofMag (hk : f.kind = .ieee) {a : Nat} (h : a ≤ f.infEnc) (rnd : Rnd) (sat : Bool) (r : Nat) (neg : Bool) :
    f.round rnd sat r (f.ofMag neg a) = (f.withSign neg a, 0) := by
  rcases h.lt_or_eq with h | rfl
  · have henc := f.shift_mul_add_sig a
    have hmax : ¬ a > f.maxEnc := by simp only [Fmt.maxEnc, hk]; rw [Fmt.infEnc] at h; omega
    rw [Fmt.ofMag_finite neg h]
    by_cases h0 : f.sig a = 0
    · have hshift : f.shift a = 0 := by
        by_contra hs
        exact (Nat.two_pow_pos f.mb).not_ge (h0 ▸ f.le_sig_of_shift_pos (Nat.pos_of_ne_zero hs))
      have ha : a = 0 := by simpa [h0, hshift] using henc.symm
      rw [Fmt.round, if_pos h0, ha]
    · simp [Fmt.round, h0, Fmt.max_top_qmin, roundInt_self, henc, hmax, fIf]
  · rw [Fmt.ofMag_infEnc]
    simp [Fmt.round, hk]

variable (hk : f.kind = .ieee)
include hk

theorem Fmt.mag_le_infEnc {x : Nat} (hx : (f.decode x).isNaN = false) : f.mag x ≤ f.infEnc := by
  rw [f.decode_ieee hk, Fmt.isNaN_ofMag, decide_eq_false_iff_not] at hx
  exact not_lt.1 hx
/-- The value of an encoding is rounded to that encoding, without a flag. -/
theorem Fmt.round_decode {x : Nat} (hlt : x < 2 ^ (f.eb + f.mb + 1)) (hx : (f.decode x).isNaN = false) (rnd : Rnd)
    (sat : Bool) (r : Nat) : f.round rnd sat r (f.decode x) = (x, 0) := by
  rw [f.decode_ieee hk, f.round_ofMag hk (f.mag_le_infEnc hk hx), f.withSign_mag hlt]
theorem Fmt.round_nan (rnd : Rnd) (sat : Bool) (r : Nat) : f.round rnd sat r .nan = (f.nanEnc, 0) := by
  simp [Fmt.round, hk, fIf]

end

end Sys2Proof.Machine
end

section
namespace Sys2Proof.Machine

/-! ## The order of the encodings (R184, R185) -/

/-- A magnitude with its sign as an integer. -/
def signed (neg : Bool) (a : Nat) : Int := if neg then -a else a

/-- The sign reflects a strictly increasing function that starts at zero. -/
theorem signed_lt_signed_iff {v : Nat → Nat} (hv : StrictMono v) (h0 : v 0 = 0) (s t : Bool) (a b : Nat) :
    signed s (v a) < signed t (v b) ↔ signed s a < signed t b := by
  have hzero (c : Nat) : v c = 0 ↔ c = 0 := by rw [← h0, hv.injective.eq_iff, h0]
  have hlt := hv.lt_iff_lt (a := a) (b := b)
  have hgt := hv.lt_iff_lt (a := b) (b := a)
  have ha := hzero a
  have hb := hzero b
  cases s <;> cases t <;> simp only [signed, if_true, Bool.false_eq_true, if_false] <;> omega

section
variable {f : Fmt}

/-- The unit in which `Num.lt` compares does not matter: in units of the subnormals the count is `units`. -/
theorem scaled_ofMag {k : Nat} {a : Nat} (h : k ≤ f.shift a) (s : Bool) :
    scaled (f.qmin + k) [.fin s (f.sig a) (f.qmin + f.shift a)] * 2 ^ k = signed s (f.units a) := by
  have hk : (f.qmin + f.shift a - (f.qmin + k)).toNat = f.shift a - k := by omega
  have hpow : f.sig a * 2 ^ (f.shift a - k) * 2 ^ k = f.units a := by
    rw [Fmt.units, mul_assoc, ← pow_add, Nat.sub_add_cancel h]
  rw [scaled, scaled, hk, add_zero, ← hpow]
  cases s <;> simp [signed]

/-- Values compare as their signs and magnitudes do, infinity being the greatest magnitude. -/
theorem Fmt.ofMag_lt (hpos : 0 < f.infEnc) {a b : Nat} (ha : a ≤ f.infEnc) (hb : b ≤ f.infEnc) (s t : Bool) :
    (f.ofMag s a).lt (f.ofMag t b) = true ↔ signed s a < signed t b := by
  rcases ha.lt_or_eq with ha | rfl <;> rcases hb.lt_or_eq with hb | rfl
  · rw [Fmt.ofMag_finite s ha, Fmt.ofMag_finite t hb, ← signed_lt_signed_iff f.units_strictMono f.units_zero,
      ← scaled_ofMag (Nat.min_le_left (f.shift a) (f.shift b)), ← scaled_ofMag (Nat.min_le_right (f.shift a) (f.shift b)),
      mul_lt_mul_iff_left₀ (by positivity)]
    simp only [Num.lt, min_add_add_left, Nat.cast_min, decide_eq_true_eq]
  · rw [Fmt.ofMag_finite s ha, Fmt.ofMag_infEnc]
    cases s <;> cases t <;> simp [Num.lt, signed] <;> omega
  · rw [Fmt.ofMag_finite t hb, Fmt.ofMag_infEnc]
    cases s <;> cases t <;> simp [Num.lt, signed] <;> omega
  · rw [Fmt.ofMag_infEnc, Fmt.ofMag_infEnc]
    cases s <;> cases t <;> simp [Num.lt, signed]
    omega

end

/-- The order of R185, in which −0 is less than +0. -/
def Num.below (a b : Num) : Bool := a.lt b || (a.eqv b && a.neg && !b.neg)

theorem Num.isNaN_iff {a : Num} : a.isNaN = true ↔ a = .nan := by cases a <;> simp [Num.isNaN]
theorem Num.minMax_nan_left (wantMax : Bool) (b : Num) : Num.minMax wantMax .nan b = b := by
  cases b <;> rfl
theorem Num.minMax_nan_right (wantMax : Bool) (a : Num) : Num.minMax wantMax a .nan = a := by
  cases a <;> rfl
theorem Num.minMax_numbers {a b : Num} (ha : a.isNaN = false) (hb : b.isNaN = false) (wantMax : Bool) :
    Num.minMax wantMax a b = if a.below b = wantMax then b else a := by
  have hbelow : (a.lt b || (a.eqv b && a.neg && !b.neg)) = a.below b := rfl
  simp only [Num.minMax, ha, hb, hbelow]
  cases wantMax <;> cases a.below b <;> rfl

/-- The place of a sign and a magnitude in the order of R185: the negative ones lie below zero, −0 at −1. -/
def placeOf (neg : Bool) (a : Nat) : Int := if neg then -(a : Int) - 1 else a

theorem placeOf_inj {s t : Bool} {a b : Nat} (h : placeOf s a = placeOf t b) : s = t ∧ a = b := by
  cases s <;> cases t <;> simp [placeOf] at h ⊢ <;> omega

section
variable {f : Fmt} (hpos : 0 < f.infEnc)
include hpos

theorem Fmt.ofMag_below {a b : Nat} (ha : a ≤ f.infEnc) (hb : b ≤ f.infEnc) (s t : Bool) :
    (f.ofMag s a).below (f.ofMag t b) = decide (placeOf s a < placeOf t b) := by
  have hlt := f.ofMag_lt hpos ha hb s t
  have hgt := f.ofMag_lt hpos hb ha t s
  rw [Bool.eq_iff_iff, Num.below, Num.eqv, f.isNaN_ofMag, f.isNaN_ofMag, f.neg_ofMag s ha, f.neg_ofMag t hb,
    decide_eq_false ha.not_gt, decide_eq_false hb.not_gt]
  simp only [Bool.or_eq_true, Bool.and_eq_true, Bool.not_eq_true', ← Bool.not_eq_true, hlt, hgt, decide_eq_true_eq]
  cases s <;> cases t <;> simp [signed, placeOf] <;> omega

end

/-- The place of an encoding in the order of R185. -/
def Fmt.place (f : Fmt) (x : Nat) : Int := placeOf (x.testBit (f.eb + f.mb)) (f.mag x)

theorem Fmt.place_eq {f : Fmt} {x : Nat} (hx : x < 2 ^ (f.eb + f.mb + 1)) :
    f.place x = if x.testBit (f.eb + f.mb) then -((x % 2 ^ (f.eb + f.mb) : Nat) : Int) - 1 else (x : Int) := by
  have hmag := f.withSign_mag hx
  rw [Fmt.place, placeOf]
  split
  · rfl
  · rename_i hsign
    rw [Fmt.withSign, if_neg hsign] at hmag
    rw [hmag]
theorem Fmt.place_inj {f : Fmt} {x y : Nat} (hx : x < 2 ^ (f.eb + f.mb + 1)) (hy : y < 2 ^ (f.eb + f.mb + 1))
    (h : f.place x = f.place y) : x = y := by
  obtain ⟨hsign, hmag⟩ := placeOf_inj h
  rw [← f.withSign_mag hx, ← f.withSign_mag hy, hsign, hmag]

end Sys2Proof.Machine
end

section
namespace Sys2Proof.Machine

/-! ## NaN operands (R177) and the lesser and the greater operand (R185) -/

theorem Num.mul_nan {a b : Num} (h : a.isNaN = true ∨ b.isNaN = true) : a.mul b = (.nan, 0) := by
  rcases h with h | h <;> rw [Num.isNaN_iff] at h <;> subst h
  · rfl
  · cases a <;> rfl
theorem Num.sum_nan {down : Bool} {ts : List Num} (h : ts.any Num.isNaN = true) : Num.sum down ts = (.nan, 0) := if_pos h

section
variable {f : Fmt} (hk : f.kind = .ieee) {x y : Nat} (rnd r z : Nat)
include hk

theorem fpAdd_nan (h : (f.decode x).isNaN = true ∨ (f.decode y).isNaN = true) : fpAdd f rnd r x y z = (f.nanEnc, 0) := by
  have hsum (down : Bool) : Num.sum down [f.decode x, f.decode y] = (.nan, 0) := Num.sum_nan (by simpa using h)
  simp [fpAdd, hsum, f.round_nan hk]
theorem fpMul_nan (h : (f.decode x).isNaN = true ∨ (f.decode y).isNaN = true) : fpMul f rnd r x y z = (f.nanEnc, 0) := by
  simp [fpMul, Num.mul_nan h, f.round_nan hk]
theorem fpFma_nan (h : (f.decode x).isNaN = true ∨ (f.decode y).isNaN = true ∨ (f.decode z).isNaN = true) :
    fpFma f rnd r x y z = (f.nanEnc, 0) := by
  by_cases hz : (f.decode z).isNaN = true
  · exact if_pos hz
  · have hmul := Num.mul_nan (a := f.decode x) (b := f.decode y) (by tauto)
    have hsum (down : Bool) : Num.sum down [.nan, f.decode z] = (.nan, 0) := Num.sum_nan rfl
    simp [fpFma, hz, hmul, hsum, f.round_nan hk]

theorem fpMinMax_nan_left (hx : (f.decode x).isNaN = true) (hy : (f.decode y).isNaN = false)
    (hlt : y < 2 ^ (f.eb + f.mb + 1)) (wantMax : Bool) : fpMinMax wantMax f rnd r x y z = (y, 0) := by
  rw [fpMinMax, Num.isNaN_iff.1 hx, Num.minMax_nan_left, f.round_decode hk hlt hy]
theorem fpMinMax_nan_right (hx : (f.decode x).isNaN = false) (hy : (f.decode y).isNaN = true)
    (hlt : x < 2 ^ (f.eb + f.mb + 1)) (wantMax : Bool) : fpMinMax wantMax f rnd r x y z = (x, 0) := by
  rw [fpMinMax, Num.isNaN_iff.1 hy, Num.minMax_nan_right, f.round_decode hk hlt hx]
theorem fpMinMax_nan_both (hx : (f.decode x).isNaN = true) (hy : (f.decode y).isNaN = true) (wantMax : Bool) :
    fpMinMax wantMax f rnd r x y z = (f.nanEnc, 0) := by
  rw [fpMinMax, Num.isNaN_iff.1 hx, Num.isNaN_iff.1 hy, Num.minMax_nan_left, f.round_nan hk]

variable (hpos : 0 < f.infEnc) (hltx : x < 2 ^ (f.eb + f.mb + 1)) (hlty : y < 2 ^ (f.eb + f.mb + 1))
  (hx : (f.decode x).isNaN = false) (hy : (f.decode y).isNaN = false)
include hpos hltx hlty hx hy

theorem fpMinMax_numbers (wantMax : Bool) :
    fpMinMax wantMax f rnd r x y z = (if decide (f.place x < f.place y) = wantMax then y else x, 0) := by
  have hbelow : (f.decode x).below (f.decode y) = decide (f.place x < f.place y) := by
    rw [f.decode_ieee hk, f.decode_ieee hk, f.ofMag_below hpos (f.mag_le_infEnc hk hx) (f.mag_le_infEnc hk hy)]
    rfl
  rw [fpMinMax, Num.minMax_numbers hx hy, hbelow]
  split
  · rw [f.round_decode hk hlty hy]
  · rw [f.round_decode hk hltx hx]
theorem fpMin_fpMax_numbers :
    fpMinMax false f rnd r x y z = (if f.place x ≤ f.place y then x else y, 0) ∧
      fpMinMax true f rnd r x y z = (if f.place x ≤ f.place y then y else x, 0) := by
  have h := fpMinMax_numbers hk rnd r z hpos hltx hlty hx hy
  rw [h, h]
  rcases lt_trichotomy (f.place x) (f.place y) with hlt | heq | hgt
  · simp [hlt, hlt.le]
  · simp [f.place_inj hltx hlty heq]
  · simp [hgt.not_gt, hgt.not_ge]

end

/-- Settles O23: a NaN among the operands makes the exact result a NaN, which every rounding gives as the canonical one. -/
theorem nanOperands : Obligations.NanOperands := by
  intro fmt rnd r x y z hfmt
  obtain ⟨hk, -⟩ := ieee_of_laneFmt hfmt
  exact ⟨fun h => ⟨fpAdd_nan hk rnd r z h, fpMul_nan hk rnd r z h⟩, fpFma_nan hk rnd r z⟩

/-- Settles O24: values are ordered as their encodings are by sign and magnitude, and the chosen operand is rounded to its own
encoding. -/
theorem lesserAndGreater : Obligations.LesserAndGreater := by
  refine ⟨fun a f s => ⟨rfl, rfl⟩, fun fmt rnd r x y z hfmt hltx hlty => ?_⟩
  obtain ⟨hk, hpos⟩ := ieee_of_laneFmt hfmt
  refine ⟨fun hx hy => ?_, fun hx hy => ?_, fun hx hy => ?_, fun hx hy => ?_⟩
  · simp only [← fmt.place_eq hltx, ← fmt.place_eq hlty]
    exact fpMin_fpMax_numbers hk rnd r z hpos hltx hlty hx hy
  · have h := fpMinMax_nan_left hk rnd r z hx hy hlty
    exact ⟨h false, h true⟩
  · have h := fpMinMax_nan_right hk rnd r z hx hy hltx
    exact ⟨h false, h true⟩
  · have h := fpMinMax_nan_both hk rnd r z hx hy
    exact ⟨h false, h true⟩

end Sys2Proof.Machine
end

section
namespace Sys2Proof.Machine

/-! ## A message is delivered (R37, log entry 89) -/

/-- The orders that a die can hold back until it has taken the Data that made it a holder of the line. -/
def MsgBody.isOrder : MsgBody → Bool
  | .fwd _ _ _ _ => true
  | .recallMsg => true
  | .inv => true
  | _ => false
/-- Only an order is held back. -/
theorem Dev.mustWait_eq_false (d : Dev) {x : Msg} (h : x.body.isOrder = false) : d.mustWait x = false := by
  unfold Dev.mustWait
  revert h
  cases x.body
  case fwd | recallMsg | inv => exact nofun
  all_goals exact fun _ => rfl

section
variable {s : State} {m : MsgSel} {vc : Nat} {x : Msg} {b : MsgBody} {f : Dev → MsgBody → Took} (hsel : selOk m = true)
  (hrun : s.dev.pwr.stopped = false) (hx : s.dev.msgAt m vc = some x) (hb : x.body = b)
include hsel hrun hx hb

/-- The first message of its channel is received, and has its effect. -/
theorem runDie_deliver_got (ho : b.isOrder = false) {g : Dev → Dev} (hf : f (s.dev.receive x) b = .got (g s.dev)) :
    runDie (selOk m) s (fun d => d.deliver m vc f) = s.gives g := by
  refine runDie_gives hsel hrun ?_
  have hw : s.dev.mustWait x = false := s.dev.mustWait_eq_false (by rw [hb, ho])
  simp only [Dev.deliver, hx, hb, hf, hw, Bool.false_eq_true, if_false]
/-- The first message of its channel is taken in and held. -/
theorem runDie_deliver_hold (hf : f (s.dev.receive x) b = .hold) :
    runDie (selOk m) s (fun d => d.deliver m vc f) = s.gives fun d => d.holdMsg x := by
  refine runDie_gives hsel hrun ?_
  simp only [Dev.deliver, hx, hb, hf]

end

/-! ## Answers at the home (R243, R245, R253, R395) -/

section
variable {s : State} {m : MsgSel} {x : Msg} (hsel : selOk m = true) (hrun : s.dev.pwr.stopped = false)
include hsel hrun

section
variable (hx : s.dev.msgAt m 0 = some x)
include hx

theorem exec_invack (hb : x.body = .invAck) : exec (.invack m) s = s.gives fun _ =>
    (s.dev.receive x).onTxn m.line fun t => { t with acks := eraseFirst t.acks fun z => decide (z = m.src) } :=
  runDie_deliver_got hsel hrun hx hb rfl rfl
theorem exec_fwdack {st : RepSt} (hb : x.body = .fwdAck st) :
    exec (.fwdack m) s = s.gives fun _ => (s.dev.receive x).fwdAcked m.line st :=
  runDie_deliver_got hsel hrun hx hb rfl rfl

section
variable {a : Agent} {r : Resv} (hb : x.body = .kill a) (hr : (s.dev.receive x).resvOf a = some r)
include hb hr

/-- A reservation on the line's granule that the home no longer records ends. -/
theorem exec_killNotice_ends (hc : r.commons = true)
    (hg : (s.dev.receive x).granule (lineOf r.addr) = (s.dev.receive x).granule m.line)
    (hlater : ((s.dev.receive x).coh.resv.any fun h => decide (h.a = a) && decide (h.line = m.line)) = false) :
    exec (.killNotice m) s = s.gives fun _ => (s.dev.receive x).endResv a := by
  refine runDie_deliver_got hsel hrun hx hb rfl ?_
  simp only [hr]
  exact if_pos ⟨hc, hg, hlater⟩
/-- Any other reservation stands. -/
theorem exec_killNotice_stands (h : r.commons = false ∨
      (s.dev.receive x).granule (lineOf r.addr) ≠ (s.dev.receive x).granule m.line ∨
      ((s.dev.receive x).coh.resv.any fun h => decide (h.a = a) && decide (h.line = m.line)) = true) :
    exec (.killNotice m) s = s.gives fun _ => s.dev.receive x := by
  refine runDie_deliver_got hsel hrun hx hb rfl ?_
  simp only [hr]
  refine if_neg fun ⟨hc, hg, hlater⟩ => ?_
  rcases h with h | h | h
  · exact Bool.false_ne_true (h.symm.trans hc)
  · exact h hg
  · exact Bool.false_ne_true (hlater.symm.trans h)

end
end

variable (hx : s.dev.msgAt m 3 = some x)
include hx

theorem exec_recalldata {w : LineData} {dirty : Bool} (hb : x.body = .recallData w dirty) :
    exec (.recalldata m) s = s.gives fun _ =>
      let z := if dirty then (s.dev.receive x).killResv m.line else s.dev.receive x
      (if dirty || !(z.badWords m.line).isEmpty then z.putLine .com (lineAddr m.line) w else z).onTxn m.line fun t =>
        { t with recl := false } :=
  runDie_deliver_got hsel hrun hx hb rfl rfl
theorem exec_wbpending (hb : x.body = .wbPending) : exec (.wbpending m) s = s.gives fun _ =>
    (s.dev.receive x).onTxn m.line fun t => { t with fwd := false, recl := false, wb := !t.putSeen } :=
  runDie_deliver_got hsel hrun hx hb rfl rfl

/-! ## Data at the requester (R224, R242, log entry 87) -/

section
variable {wd pf : Bool} {w : LineData}

/-- A line granted in S or E enters the die where its set has room. -/
theorem exec_data_shared {g : Grant} {st : RepSt} (hb : x.body = .data g wd w pf) (hg : g = .s ∧ st = .s ∨ g = .e ∧ st = .e)
    (hroom : (s.dev.receive x).hasRoom m.dst m.line = true) :
    exec (.data m) s = s.gives fun _ => (s.dev.receive x).readData m.dst m.line st w := by
  rcases hg with ⟨rfl, rfl⟩ | ⟨rfl, rfl⟩ <;> exact runDie_deliver_got hsel hrun hx hb rfl (if_pos hroom)
theorem exec_data_shared_waits {g : Grant} (hb : x.body = .data g wd w pf) (hg : g = .s ∨ g = .e)
    (hroom : ¬(s.dev.receive x).hasRoom m.dst m.line = true) : exec (.data m) s = s.gives fun d => d.holdMsg x := by
  rcases hg with rfl | rfl <;> exact runDie_deliver_hold hsel hrun hx hb (if_neg hroom)
/-- Data without a grant reach the cluster, unless it has moved since, and its die's L1R caches. -/
theorem exec_data_noGrant (hb : x.body = .data .none wd w pf) : exec (.data m) s = s.gives fun _ =>
    let y := s.dev.receive x
    let late := (y.cl m.cl).lost.any fun z => decide (z.kind = 1) && decide (z.val = BitVec.ofNat 64 (lineAddr m.line))
    (if pf then y else if late then y.lateArrive m.cl 1 (lineAddr m.line) else y.giveCl m.cl m.line w).giveL1R m.dst m.line w :=
  runDie_deliver_got hsel hrun hx hb rfl rfl
theorem exec_data_owned (hb : x.body = .data .m wd w pf)
    (h : (s.dev.receive x).hasRoom m.dst m.line = true ∨ ((s.dev.receive x).repLine m.dst m.line).isSome = true) :
    exec (.data m) s = s.gives fun _ => (s.dev.receive x).ownData m.dst m.cl m.line wd w :=
  runDie_deliver_got hsel hrun hx hb rfl (if_pos (by rw [Bool.or_eq_true]; exact h.symm))
theorem exec_data_owned_waits (hb : x.body = .data .m wd w pf) (hroom : ¬(s.dev.receive x).hasRoom m.dst m.line = true)
    (hnone : (s.dev.receive x).repLine m.dst m.line = none) : exec (.data m) s = s.gives fun d => d.holdMsg x :=
  runDie_deliver_hold hsel hrun hx hb (if_neg (by rw [hnone]; simpa using hroom))

end

/-! ## The other answers at the requester (R244, R247, R249) -/

theorem exec_comp_write {r : Req} {res : List (Nat × Word)} {bad : Bool} (hb : x.body = .comp r res bad) {mask : Mask} {data : Line}
    (hp : r.pay = .write mask data) : exec (.comp m) s = s.gives fun _ =>
      (((((s.dev.receive x).lateArrive m.cl 3 (lineAddr m.line)).bufDone m.cl m.line).freeMiss m.cl fun z =>
        decide (z.line = m.line) && decide (z.kind = .through)).pumpAll m.cl).settle m.cl := by
  refine runDie_deliver_got hsel hrun hx hb rfl ?_
  simp only [hp]

section
variable {r : Req} {res : List (Nat × Word)} {bad : Bool} (hb : x.body = .comp r res bad) {t : Atm} (hp : r.pay = .atm t)
include hb hp

theorem exec_comp_atm_moved
    (hq : (((s.dev.receive x).lateArrive m.cl 2 t.addr).cl m.cl).misses.find? (fun q => decide (q.kind = .atom t)) = none) :
    exec (.comp m) s = s.gives fun _ => ((s.dev.receive x).lateArrive m.cl 2 t.addr).pumpAll m.cl := by
  refine runDie_deliver_got hsel hrun hx hb rfl ?_
  simp only [hp, hq]
theorem exec_comp_atm {q : Miss}
    (hq : (((s.dev.receive x).lateArrive m.cl 2 t.addr).cl m.cl).misses.find? (fun q => decide (q.kind = .atom t)) = some q) :
    exec (.comp m) s = s.gives fun _ =>
      let y := ((s.dev.receive x).lateArrive m.cl 2 t.addr).freeMiss m.cl fun q => decide (q.kind = .atom t)
      (if q.agents.isEmpty then y.atomFlags t.by_ t res else y.giveAtom t.by_ t res bad).pumpAll m.cl := by
  refine runDie_deliver_got hsel hrun hx hb rfl ?_
  simp only [hp, hq]

end

theorem exec_wback (hb : x.body = .wbAck) : exec (.wback m) s = s.gives fun _ =>
    let y := s.dev.receive x
    (y.setRep m.dst { y.rep m.dst with
      wb := eraseFirst (y.rep m.dst).wb fun z => decide (z.line = m.line)
      sent := eraseFirst (y.rep m.dst).sent fun l => decide (l = m.line) }).sendPuts m.dst :=
  runDie_deliver_got hsel hrun hx hb rfl rfl

section
variable {ticket : Bool} {r : Req} (hb : x.body = .retry ticket r)
include hb

theorem exec_retry_demand (hp : r.prefetch = false) : exec (.retry m) s = s.gives fun _ =>
    if ticket then s.dev.receive x else (s.dev.receive x).onCoh fun c => { c with retryq := c.retryq ++ [r] } := by
  refine runDie_deliver_got hsel hrun hx hb rfl ?_
  simp only [hp]
  cases ticket <;> rfl
theorem exec_retry_prefetch (hp : r.prefetch = true) : exec (.retry m) s = s.gives fun _ =>
    if r.kind = .rdS then (s.dev.receive x).dropPrefetch r.src r.cl r.line
    else (s.dev.receive x).onCl r.cl fun c => { c with l1rPf := c.l1rPf.filter fun q => decide (q.1 ≠ r.line) } :=
  runDie_deliver_got hsel hrun hx hb rfl (if_pos hp)

end

section
variable {r : Req} (hb : x.body = .wake r)
include hb

theorem exec_cohWake_waits (hw : (s.dev.receive x).inWb r.src r.line = true) :
    exec (.cohWake m) s = s.gives fun d => d.holdMsg x :=
  runDie_deliver_hold hsel hrun hx hb (if_pos hw)
theorem exec_cohWake (hw : (s.dev.receive x).inWb r.src r.line = false) : exec (.cohWake m) s = s.gives fun _ =>
    (s.dev.receive x).send r.src ((s.dev.receive x).homeDie r.line) r.line r.cl (.req { r with ticket := true }) :=
  runDie_deliver_got hsel hrun hx hb rfl (if_neg (Bool.eq_false_iff.1 hw))

end
end

/-- The oldest request of its die's queue for the slice is sent again, where a reserved buffer is free. -/
theorem exec_retryResend {s : State} {m : MsgSel} {r : Req} (hsel : selOk m = true) (hrun : s.dev.pwr.stopped = false)
    (hr : s.dev.coh.retryq.find? (fun q => decide (q.src = m.src) &&
      decide (s.dev.home (lineAddr q.line) = s.dev.home (lineAddr m.line))) = some r) (hline : r.line = m.line) (hcl : r.cl = m.cl)
    (hwb : s.dev.inWb r.src r.line = false) (hroom : s.dev.reservedUsed m.src m.line + s.dev.resent m.src m.line < 8) :
    exec (.retryResend m) s = s.gives fun d =>
      (d.onCoh fun c => { c with retryq := eraseFirst c.retryq fun q => decide (q = r) }).send r.src
        (d.home (lineAddr m.line)).1 r.line r.cl (.req r) := by
  refine (runDie_gives hsel hrun ?_ : execRetryResend m s = _)
  simp only [hr]
  exact if_pos ⟨hline, hcl, hwb, hroom⟩

/-! ## What leaves the coherence fabric alone -/

theorem Dev.onlyReports.coh {d e : Dev} (h : d.onlyReports e) : e.coh = d.coh := by
  obtain ⟨⟨_, _, _, rfl⟩, -⟩ := h
  rfl
@[simp] theorem Dev.ctxError_coh (d : Dev) (ctx cause win : Nat) (seq : BitVec 32) : (d.ctxError ctx cause win seq).coh = d.coh :=
  ((Dev.onlyReports_refl _).raise _ _ _).coh
@[simp] theorem nextTurn_coh (fuel k n : Nat) (d : Dev) : (nextTurn fuel k n d).coh = d.coh := by
  induction fuel generalizing k d with
  | zero => rfl
  | succ fuel ih =>
    unfold nextTurn
    dsimp only
    split
    · split
      · rw [ih, Dev.onCl_coh]
      · rfl
    · exact ih _ _
@[simp] theorem Dev.passTurn_coh (d : Dev) (n : Nat) : (d.passTurn n).coh = d.coh := by
  unfold Dev.passTurn
  split
  · rfl
  · dsimp only
    split
    · rfl
    · rw [Dev.giveTurn, nextTurn_coh]
      split <;> rfl
@[simp] theorem Dev.recordEnd_coh (d : Dev) (n : Nat) (r : RunCmd) (e : Ending) : (d.recordEnd n r e).coh = d.coh := by
  unfold Dev.recordEnd
  dsimp only
  repeat' split
  all_goals simp only [Dev.ctxError_coh]

theorem Dev.lateArrive_coh (d : Dev) (n kind addr : Nat) : (d.lateArrive n kind addr).coh = d.coh := by
  unfold Dev.lateArrive
  dsimp only
  split <;> rfl
theorem Dev.lateLine_coh (d : Dev) (die line : Nat) : (d.lateLine die line).coh = d.coh :=
  foldl_keeps Dev.coh (fun e n => e.lateArrive_coh n 1 (lineAddr line)) _ d
theorem Dev.ledgerWrite_coh (d : Dev) (entry : Word) : (d.ledgerWrite entry).coh = d.coh := by
  unfold Dev.ledgerWrite
  dsimp only
  split
  · rfl
  · split
    · exact ((Dev.onlyReports_refl _).raise _ _ _).coh
    · split <;> rfl
theorem Dev.ledgerPush_coh (d : Dev) (entry : Word) : (d.ledgerPush entry).coh = d.coh := by
  unfold Dev.ledgerPush Dev.ledgerFlush
  split
  · rfl
  · split
    · exact foldl_keeps Dev.coh (fun e x => e.ledgerWrite_coh x) _ _
    · rfl
theorem Dev.notePage_coh (d : Dev) (line : Nat) : (d.notePage line).coh = d.coh := by
  unfold Dev.notePage
  dsimp only
  repeat' split
  all_goals simp only [Dev.ledgerPush_coh]

/-! The end of a command can end reservations, and keeps the replica caches. -/

theorem Dev.reps_leaveCmd (d : Dev) (n : Nat) (r : RunCmd) : (d.leaveCmd n r).coh.reps = d.coh.reps := by
  unfold Dev.leaveCmd
  rw [Dev.passTurn_coh]
  dsimp only
  split <;> rfl
theorem Dev.reps_stepEnd (d : Dev) (a : Agent) : (d.stepEnd a).coh.reps = d.coh.reps := by
  unfold Dev.stepEnd
  split <;> rfl
theorem Dev.reps_tryEnd (d : Dev) (n : Nat) : (d.tryEnd n).coh.reps = d.coh.reps := by
  unfold Dev.tryEnd
  have hend (r : RunCmd) (e : Ending) : ((d.recordEnd n r e).leaveCmd n r).coh.reps = d.coh.reps := by
    rw [Dev.reps_leaveCmd, Dev.recordEnd_coh]
  split
  · rfl
  · split
    · rfl
    · split
      · dsimp only
        split
        · rw [Dev.reps_stepEnd]
          exact hend _ _
        · exact hend _ _
      · rfl
theorem Dev.reps_settle (d : Dev) (n : Nat) : (d.settle n).coh.reps = d.coh.reps := Dev.reps_tryEnd _ n

/-! ## Lines of a replica cache (R217, R242) -/

theorem Dev.repLine_congr {d e : Dev} (h : e.coh.reps = d.coh.reps) (die line : Nat) : e.repLine die line = d.repLine die line := by
  simp only [Dev.repLine, Dev.rep, h]
theorem State.repLine_onDev (s : State) (f : Dev → Dev) (die line : Nat) :
    (s.onDev f).dev.repLine die line = (f s.dev).repLine die line := rfl
@[simp] theorem Dev.rep_setRep_same (d : Dev) (die : Nat) (r : Replica) : (d.setRep die r).rep die = r := NMap.get_put_same _ _ _ _
theorem find?_updFirst {α : Type} {p : α → Bool} {f : α → α} (hp : ∀ y, p y = true → p (f y) = true) (l : List α) :
    (updFirst l p f).find? p = (l.find? p).map f := by
  induction l with
  | nil => rfl
  | cons y l ih =>
    by_cases hy : p y = true
    · rw [updFirst_cons_of_pos hy, List.find?_cons_of_pos (hp y hy), List.find?_cons_of_pos hy]
      rfl
    · rw [updFirst, if_neg hy, List.find?_cons_of_neg hy, List.find?_cons_of_neg hy, ih]

section
variable {d : Dev} {die line : Nat} {z : RepLine} (hz : d.repLine die line = some z)
include hz

/-- A line that is changed in place. -/
theorem Dev.repLine_onRepLine {f : RepLine → RepLine} (hf : ∀ y, (f y).line = y.line) :
    (d.onRepLine die line f).repLine die line = some (f z) := by
  rw [Dev.repLine, Dev.onRepLine, Dev.rep_setRep_same, find?_updFirst fun y hy => by rw [hf]; exact hy]
  exact congrArg (Option.map f) hz
/-- A use of a line leaves what it holds. -/
theorem Dev.repLine_touchLine : (d.touchLine die line).repLine die line = some { z with hit := true } := by
  simp only [Dev.touchLine, hz]
  rw [Dev.repLine, Dev.rep_setRep_same]
  exact List.find?_cons_of_pos (List.find?_some hz :)

end

/-- Which replica cache a die has is read from the registers. -/
theorem Dev.replicaOf_onRepLine (d : Dev) (die line : Nat) (f : RepLine → RepLine) (k : Nat) :
    (d.onRepLine die line f).replicaOf k = d.replicaOf k := rfl
theorem Dev.replicaOf_touchLine (d : Dev) (die line k : Nat) : (d.touchLine die line).replicaOf k = d.replicaOf k := by
  unfold Dev.touchLine
  split <;> rfl

/-- The data of a line granted in M: those of the grant or of the copy that the die kept, with the cluster's buffered store over
them. -/
def Dev.ownedData (d : Dev) (n line : Nat) (base : LineData) : LineData :=
  match (d.cl n).buf.find? fun b => decide (b.line = line) with
  | some b => storeInto base b.mask b.data
  | none => base
/-- The copy that a die kept becomes the line in M. -/
def Dev.ownInPlace (d : Dev) (die line : Nat) (x : LineData) : Dev :=
  (d.onRepLine die line fun y => { y with st := .m, d := x }).touchLine die line
/-- What follows once the line is in M: those that wait for it have it, and the store leaves its buffer and its register. -/
def Dev.ownDone (d : Dev) (die n line : Nat) (x : LineData) : Dev :=
  ((((((((d.giveDie die line x).giveL1R die line x).lateLine die line).lateArrive n 3 (lineAddr line)).notePage line).bufDone n
    line).freeMiss n fun y => decide (y.line = line) && decide (y.kind = .own)).settle n)

theorem Dev.reps_ownDone (d : Dev) (die n line : Nat) (x : LineData) : (d.ownDone die n line x).coh.reps = d.coh.reps := by
  rw [Dev.ownDone, Dev.reps_settle, Dev.freeMiss, Dev.onCl_coh, Dev.bufDone, Dev.onCl_coh, Dev.notePage_coh, Dev.lateArrive_coh,
    Dev.lateLine_coh]
  rfl

section
variable {d : Dev} {die line p : Nat} {z : RepLine} (hz : d.repLine die line = some z)
include hz

theorem Dev.repLine_ownInPlace (x : LineData) : (d.ownInPlace die line x).repLine die line = some { z with st := .m, d := x, hit := true } :=
  Dev.repLine_touchLine (Dev.repLine_onRepLine hz (f := fun y => { y with st := .m, d := x }) fun _ => rfl)
/-- A die with an active replica cache that kept a copy makes that copy the line in M. -/
theorem Dev.ownData_kept (hp : d.replicaOf die = some p) (n : Nat) (wd : Bool) (w : LineData) :
    d.ownData die n line wd w = (d.ownInPlace die line (d.ownedData n line (if wd then w else z.d))).ownDone die n line
      (d.ownedData n line (if wd then w else z.d)) := by
  simp only [Dev.ownData, hz, Dev.replicaOf_touchLine, Dev.replicaOf_onRepLine, hp]
  rfl
/-- A die with an active replica cache that kept a copy then holds the line in M. -/
theorem Dev.repLine_ownData (hp : d.replicaOf die = some p) (n : Nat) (wd : Bool) (w : LineData) :
    (d.ownData die n line wd w).repLine die line =
      some { z with st := .m, d := d.ownedData n line (if wd then w else z.d), hit := true } := by
  rw [Dev.ownData_kept hz hp, Dev.repLine_congr (Dev.reps_ownDone _ _ _ _ _), Dev.repLine_ownInPlace hz]

end

/-! ## The answers complete (R224, R242, R243, R245, R247, R249) -/

/-- Settles O37: each answer is the first message of its channel, and does what its row says once it is received. -/
theorem coherenceAnswersComplete : Obligations.CoherenceAnswersComplete := by
  refine ⟨fun s m x hsel hrun => ⟨fun hx => ⟨?_, ?_, ?_⟩, fun hx => ⟨?_, ?_⟩⟩,
    fun s m x hsel hrun => ⟨fun hx => ⟨?_, ?_, ?_, ?_, ?_⟩, ?_⟩⟩
  · exact exec_invack hsel hrun hx
  · exact fun st => exec_fwdack hsel hrun hx
  · refine fun a r hb hr => ⟨fun hc hg hlater => ?_, exec_killNotice_stands hsel hrun hx hb hr⟩
    exact exec_killNotice_ends hsel hrun hx hb hr hc hg (Bool.eq_false_iff.2 hlater)
  · exact fun w dirty => exec_recalldata hsel hrun hx
  · exact exec_wbpending hsel hrun hx
  · refine fun g wd w pf hb => ⟨?_, ?_, ?_, ?_, ?_⟩
    · exact fun hg => ⟨exec_data_shared hsel hrun hx hb (.inl ⟨hg, rfl⟩), exec_data_shared_waits hsel hrun hx hb (.inl hg)⟩
    · exact fun hg => ⟨exec_data_shared hsel hrun hx hb (.inr ⟨hg, rfl⟩), exec_data_shared_waits hsel hrun hx hb (.inr hg)⟩
    · rintro rfl
      exact exec_data_noGrant hsel hrun hx hb
    · rintro rfl
      refine ⟨fun h => ?_, fun h hn => ?_⟩
      · exact exec_data_owned hsel hrun hx hb h
      · exact exec_data_owned_waits hsel hrun hx hb h hn
    · rintro z p t rfl hz hp ht
      rw [exec_data_owned hsel hrun hx hb (.inr (by rw [hz]; rfl))] at ht
      obtain rfl := Host.Outcome.next.inj ht
      exact ⟨_, (s.repLine_onDev _ _ _).trans (Dev.repLine_ownData hz hp m.cl wd w), rfl, rfl⟩
  · refine fun r res bad hb => ⟨fun mask data => exec_comp_write hsel hrun hx hb, fun t hp => ⟨?_, fun q => ?_⟩⟩
    · exact exec_comp_atm_moved hsel hrun hx hb hp
    · exact exec_comp_atm hsel hrun hx hb hp
  · exact exec_wback hsel hrun hx
  · refine fun ticket r hb => ⟨exec_retry_demand hsel hrun hx hb, fun hp hk => ?_, fun hp hk => ?_⟩
    · rw [exec_retry_prefetch hsel hrun hx hb hp, if_pos hk]
    · rw [exec_retry_prefetch hsel hrun hx hb hp, if_neg hk]
  · exact fun r hb => ⟨exec_cohWake_waits hsel hrun hx hb, exec_cohWake hsel hrun hx hb⟩
  · exact fun r hr hline hcl => exec_retryResend hsel hrun hr hline hcl

end Sys2Proof.Machine
end

section
namespace Sys2Proof.Machine

/-! ## Partitions (R213, R215, R216) -/

/-- What CMN_PART_CFG keeps of a write. -/
def partWord (v : BitVec 32) : Word := BitVec.ofNat 64 (v.toNat % 2 ^ 30)
/-- The fields besides EN that a write of CMN_PART_CFG would change. -/
def Dev.partDiff (d : Dev) (p : Nat) (v : BitVec 32) : Word := setBit (d.reg (oPart p) ^^^ partWord v) 6 false

theorem bitAt_partWord (v : BitVec 32) : bitAt (partWord v) 6 = v.getLsbD 6 := by
  rw [bitAt, partWord, BitVec.getLsbD_ofNat, Nat.testBit_mod_two_pow, BitVec.testBit_toNat]
  rfl
/-- A write of CMN_PART_CFG, on an active partition and on one that is off. -/
theorem Dev.writePartCfg_zext (d : Dev) (p : Nat) (v : BitVec 32) : d.writePartCfg p (zext v) =
    if d.partActive p then
      if v.getLsbD 6 && d.rb (oPart p) 6 && decide (d.partType p = 3) && decide (d.partDiff p v ≠ 0) &&
          decide (setFld (d.partDiff p v) 28 25 0 = 0) then
        d.writeLockWays p (fld (partWord v) 28 25)
      else if v.getLsbD 6 then if d.partDiff p v = 0 then d else d.partErr p 5
      else (if d.partDiff p v = 0 then d else d.partErr p 5).disablePart p
    else if v.getLsbD 6 then
      match d.partCode p (partWord v) with
      | some k => d.partErr p k
      | none =>
        if fld (partWord v) 2 0 = 4 ∧ d.rb (oPart (fld (partWord v) 13 8) + 8) 1 = true then
          (d.choose 5).2.partErr p ((d.choose 5).1 + 1)
        else
          let x := ((d.setReg (oPart p) (partWord v)).setRb (oPart p + 8) 0 true).clearCounters p
          if fld (partWord v) 2 0 = 4 then { x with commons := x.commons.lose (x.partWords p).1 (x.partWords p).2 } else x
    else d.setReg (oPart p) (partWord v) := by
  rw [← bitAt_partWord v, partDiff, partWord, ← fld_low v 29]
  rfl

section
variable {d : Dev} {p : Nat} {v : BitVec 32}

section
variable (ha : d.partActive p = false)
include ha

theorem Dev.writePartCfg_staysOff (hv : v.getLsbD 6 = false) : d.writePartCfg p (zext v) = d.setReg (oPart p) (partWord v) := by
  rw [Dev.writePartCfg_zext, ha, hv]
  rfl
theorem Dev.writePartCfg_refused (hv : v.getLsbD 6 = true) {k : Nat} (hk : d.partCode p (partWord v) = some k) :
    d.writePartCfg p (zext v) = d.partErr p k := by
  rw [Dev.writePartCfg_zext, ha, hv, hk]
  rfl
theorem Dev.writePartCfg_enables (hv : v.getLsbD 6 = true) (hk : d.partCode p (partWord v) = none) (ht : fld (partWord v) 2 0 ≠ 4) :
    d.writePartCfg p (zext v) = ((d.setReg (oPart p) (partWord v)).setRb (oPart p + 8) 0 true).clearCounters p := by
  rw [Dev.writePartCfg_zext, ha, hv, hk, if_neg (by decide), if_pos rfl]
  exact (if_neg fun h => ht h.1).trans (if_neg ht)

end

section
variable (ha : d.partActive p = true)
include ha

theorem Dev.writePartCfg_disables (hv : v.getLsbD 6 = false) (hd : d.partDiff p v = 0) : d.writePartCfg p (zext v) = d.disablePart p := by
  rw [Dev.writePartCfg_zext, ha, hv, hd]
  rfl
theorem Dev.writePartCfg_same (hv : v.getLsbD 6 = true) (hd : d.partDiff p v = 0) : d.writePartCfg p (zext v) = d := by
  rw [Dev.writePartCfg_zext, ha, hv, hd]
  simp
theorem Dev.writePartCfg_lockWays (hv : v.getLsbD 6 = true) (hen : d.rb (oPart p) 6 = true) (ht : d.partType p = 3)
    (hd : d.partDiff p v ≠ 0) (hw : setFld (d.partDiff p v) 28 25 0 = 0) :
    d.writePartCfg p (zext v) = d.writeLockWays p (fld (partWord v) 28 25) := by
  rw [Dev.writePartCfg_zext, if_pos ha, if_pos (by simpa [hv, hen, ht, hw] using hd)]
theorem Dev.writePartCfg_fixed (hv : v.getLsbD 6 = true) (ht : d.partType p ≠ 3) (hd : d.partDiff p v ≠ 0) :
    d.writePartCfg p (zext v) = d.partErr p 5 := by
  rw [Dev.writePartCfg_zext, if_pos ha, if_neg (by simp [ht]), if_pos hv, if_neg hd]

end
end

section
variable {s : State} (hf : s.dev.full = true)
include hf

theorem exec_partCfgWrite {p : Nat} {v : BitVec 32} {c : Instr} (hp : p < 64) (hc : c = .cmnPartCfgWrite p v ∨ c = .lockWaysWrite p v)
    {g : Dev → Dev} (hg : s.dev.writePartCfg p (zext v) = g s.dev) : exec c s = s.gives g := by
  rcases hc with rfl | rfl <;> exact run_mgrFull hf (decide_eq_true hp) hg

section
variable {p : Nat} (hp : p < 64) (hbusy : s.dev.rb (oPart p + 8) 1 = true) (ht : s.dev.partType p = 3) (hwb : s.dev.wbEmpty p = true)
include hp hbusy ht hwb

theorem exec_replicaDisableComplete (hen : s.dev.rb (oPart p) 6 = false) (hl : (s.dev.rep (s.dev.rf (oPart p) 5 3)).lines = []) :
    exec (.replicaDisableComplete p) s = s.gives fun d => (d.setRb (oPart p + 8) 1 false).setRb (oPart p + 8) 0 false := by
  refine (run_gives (decide_eq_true hp) ?_ : execReplicaDisableComplete p s = _)
  exact if_pos (by simp [hf, hbusy, ht, hwb, hen, hl])
theorem exec_lockWaysWritebackDone (hen : s.dev.rb (oPart p) 6 = true) (hfit : s.dev.setsFit p = true) :
    exec (.lockWaysWritebackDone p) s = s.gives fun d =>
      { (d.setRb (oPart p + 8) 1 false) with oldWays := NMap.del d.oldWays p } := by
  refine (run_gives (decide_eq_true hp) ?_ : execLockWaysWritebackDone p s = _)
  exact (if_pos (by simp [hf, hbusy, ht, hwb, hen])).trans (if_pos hfit)

end

/-! ## Windows and regulator entries (R219, R231) -/

theorem exec_cmnWinCfgWrite {n : Nat} (hn : n < 256) (v : BitVec 32) : exec (.cmnWinCfgWrite n v) s = s.gives fun d =>
    (d.setReg (oWin n + 8) (BitVec.ofNat 64 (v.toNat % 1024))).trimWindow n := by
  refine (run_mgrFull hf (decide_eq_true hn) ?_ : execCmnWinCfgWrite n v s = _)
  rw [Dev.writeWinCfg, fld_low]
  rfl

end

/-- What CMN_REG_ENT keeps of a write. -/
def regEntWord (v : BitVec 32) : Word := BitVec.ofNat 64 (v.toNat % 2 ^ 21)
theorem Dev.writeRegEnt_zext (d : Dev) (p e : Nat) (v : BitVec 32) : d.writeRegEnt p e (zext v) =
    if (List.range d.part.dies).any fun die => decide ((d.setReg (oPart p + 0x40 + 4 * e) (regEntWord v)).guaranteed die > 14336) then
      d.setRb (oPart p + 0x14) 13 true
    else d.setReg (oPart p + 0x40 + 4 * e) (regEntWord v) := by
  rw [Dev.writeRegEnt, fld_low]
  rfl

section
variable {s : State} (hf : s.dev.full = true)
include hf

/-- An entry with which no die guarantees more than it can give is taken. -/
theorem exec_cmnRegEntWrite {p e : Nat} (hp : p < 64) (he : e < 16) {v : BitVec 32}
    (hg : ∀ die, die < s.dev.part.dies → (s.dev.setReg (oPart p + 0x40 + 4 * e) (regEntWord v)).guaranteed die ≤ 14336) :
    exec (.cmnRegEntWrite p e v) s = s.gives fun d => d.setReg (oPart p + 0x40 + 4 * e) (regEntWord v) := by
  refine (run_mgrFull hf (by simp [hp, he]) ?_ : execCmnRegEntWrite p e v s = _)
  exact (s.dev.writeRegEnt_zext p e v).trans (if_neg (by simpa using hg))
theorem exec_cmnRegEntWrite_refused {p e : Nat} (hp : p < 64) (he : e < 16) {v : BitVec 32}
    (hg : ∃ die, die < s.dev.part.dies ∧ (s.dev.setReg (oPart p + 0x40 + 4 * e) (regEntWord v)).guaranteed die > 14336) :
    exec (.cmnRegEntWrite p e v) s = s.gives fun d => d.setRb (oPart p + 0x14) 13 true := by
  refine (run_mgrFull hf (by simp [hp, he]) ?_ : execCmnRegEntWrite p e v s = _)
  exact (s.dev.writeRegEnt_zext p e v).trans (if_pos (by simpa using hg))
theorem exec_regulatorWindowEnd {p die : Nat} (hp : p < 64) (hd : die < 8) (ha : s.dev.partActive p = true)
    (hon : s.dev.partOn p die = true) (tally : List RegTally) : exec (.regulatorWindowEnd p die tally) s = s.gives fun d =>
      tally.foldl (fun d t => d.regOther p die t) ((d.mastersAt p die).foldl (fun d m => d.regWindow p die m) d) := by
  refine (run_gives (by simp [hp, hd]) ?_ : execRegulatorWindowEnd p die tally s = _)
  exact if_pos (by simp [hf, ha, hon])

end

/-! ## A master's window is judged (R233) -/

theorem Dev.rb_setRf_disjoint (d : Dev) (o x : Nat) {k hi lo : Nat} (hk : k < 64) (h : k < lo ∨ hi < k) :
    (d.setRf o hi lo x).rb o k = d.rb o k := by
  rw [Dev.rb, Dev.setRf, Dev.reg_setReg_same, bitAt, getLsbD_setFld _ _ _ _ _ hk, if_neg (by omega)]
  rfl
/-- What a master holds at a partition is read from the partition's entries. -/
theorem Dev.creditOf_setReg (d : Dev) {p o : Nat} (v : Word) (ho : o < oPart p + 0x40) (m : Nat) :
    (d.setReg o v).creditOf p m = d.creditOf p m := by
  have hreg (e : Nat) : (d.setReg o v).reg (oPart p + 0x40 + 4 * e) = d.reg (oPart p + 0x40 + 4 * e) := d.reg_setReg_ne v (by omega)
  have hnames (e : Nat) : (d.setReg o v).names p e m = d.names p e m := by
    unfold Dev.names
    rw [hreg]
  have hbytes (e : Nat) : (d.setReg o v).rf (oPart p + 0x40 + 4 * e) 19 10 = d.rf (oPart p + 0x40 + 4 * e) 19 10 := by
    rw [Dev.rf, hreg, Dev.rf]
  simp only [Dev.creditOf, hnames, hbytes]

section
variable {d : Dev} {p m c : Nat} (hen : d.rb (oPart p + 0x10) 0 = true) (hc : d.creditOf p m = some c)
include hen hc

/-- A master that was served its credit, or all that it delivered, has its guarantee. -/
theorem Dev.judge_meets (die : Nat) {served delivered : Nat} (h : min c delivered ≤ served) : d.judge p die m served delivered = d := by
  simp only [Dev.judge, hen, if_true, hc]
  exact if_neg (Nat.not_lt.2 h)
/-- A master that was not misses it, which CMN_REG_STS shows. -/
theorem Dev.judge_misses (hp : p < 64) (die : Nat) {served delivered : Nat} (h : served < min c delivered) :
    (d.judge p die m served delivered).rb (oPart p + 0x14) 0 = true ∧
      (d.judge p die m served delivered).rf (oPart p + 0x14) 12 4 = m % 512 := by
  let x := (d.setRb (oPart p + 0x14) 0 true).setRf (oPart p + 0x14) 12 4 m
  have hj : x.onlyReports (d.judge p die m served delivered) := by
    simp only [Dev.judge, hen, if_true, hc, if_pos h]
    exact x.onlyReports_refl.fault _ _ _ _ _ _ _
  have hreg := hj.2 (oPart p + 0x14) (by unfold oPart; omega) (by unfold oPart; omega)
  refine ⟨?_, ?_⟩
  · rw [Dev.rb, hreg]
    exact (Dev.rb_setRf_disjoint _ _ _ (by decide) (by decide)).trans (Dev.rb_setRb_same _ _ _ (by decide))
  · rw [Dev.rf, hreg]
    exact Dev.rf_setRf_same _ _ _ _ (by decide)

end

section
variable {d : Dev} {p c : Nat} (hen : d.rb (oPart p + 0x10) 0 = true)
include hen

/-! One cluster's window: what it delivered is what was served and what waits, less what waited at its start. -/

section
variable {m : Nat} (hc : d.creditOf p m = some c) (die : Nat)
include hc

theorem Dev.regWindow_misses (hp : p < 64) (h : (d.regTally p die m).1 < min c ((d.regTally p die m).1 +
      (d.waitingAt p die).foldl (fun (k : Nat) x => if x.1 = m then k + x.2 else k) 0 - (d.regTally p die m).2)) :
    (d.regWindow p die m).rb (oPart p + 0x14) 0 = true ∧ (d.regWindow p die m).rf (oPart p + 0x14) 12 4 = m % 512 :=
  Dev.judge_misses hen hc hp die h
theorem Dev.regWindow_meets (h : min c ((d.regTally p die m).1 +
      (d.waitingAt p die).foldl (fun (k : Nat) x => if x.1 = m then k + x.2 else k) 0 - (d.regTally p die m).2) ≤ (d.regTally p die m).1) :
    (d.regWindow p die m).reg (oPart p + 0x14) = d.reg (oPart p + 0x14) ∧ (d.regWindow p die m).errs = d.errs := by
  rw [Dev.regWindow, Dev.judge_meets hen hc die h]
  exact ⟨rfl, rfl⟩

end

/-! The window of a master that is no cluster, which is judged once its late requests have counted. -/

section
variable {t : RegTally} (hc : d.creditOf p t.master.toNat = some c) (hlo : 0x180 ≤ t.master.toNat) (hhi : t.master.toNat ≤ 0x192) (die : Nat)
include hc hlo hhi

/-- Counting late requests leaves the regulator's switch and the master's credit. -/
theorem Dev.regOther_eq : d.regOther p die t = (d.bump (oPart p + 0x18) 0xFFFFFFFF t.late).judge p die t.master.toNat t.served t.delivered ∧
    (d.bump (oPart p + 0x18) 0xFFFFFFFF t.late).rb (oPart p + 0x10) 0 = true ∧
    (d.bump (oPart p + 0x18) 0xFFFFFFFF t.late).creditOf p t.master.toNat = some c := by
  refine ⟨if_pos ⟨hlo, hhi⟩, ?_, (d.creditOf_setReg _ (by omega) _).trans hc⟩
  rw [Dev.rb, Dev.bump, Dev.reg_setReg_ne _ _ (by omega)]
  exact hen
theorem Dev.regOther_misses (hp : p < 64) (h : t.served < min c t.delivered) :
    (d.regOther p die t).rb (oPart p + 0x14) 0 = true ∧ (d.regOther p die t).rf (oPart p + 0x14) 12 4 = t.master.toNat := by
  obtain ⟨he, hen', hc'⟩ := Dev.regOther_eq hen hc hlo hhi die
  rw [he]
  obtain ⟨hbit, hmaster⟩ := Dev.judge_misses hen' hc' hp die h
  exact ⟨hbit, hmaster.trans (Nat.mod_eq_of_lt t.master.isLt)⟩
theorem Dev.regOther_meets (h : min c t.delivered ≤ t.served) :
    (d.regOther p die t).reg (oPart p + 0x14) = d.reg (oPart p + 0x14) ∧ (d.regOther p die t).errs = d.errs := by
  obtain ⟨he, hen', hc'⟩ := Dev.regOther_eq hen hc hlo hhi die
  rw [he, Dev.judge_meets hen' hc' die h]
  exact ⟨Dev.reg_setReg_ne _ _ (by omega), rfl⟩

end
end

/-- No other number stands for a master that is no cluster (Table 7.8). -/
theorem Dev.regOther_ignored (d : Dev) (p die : Nat) {t : RegTally} (h : t.master.toNat < 0x180 ∨ 0x192 < t.master.toNat) :
    d.regOther p die t = d := if_neg (by omega)

/-! ## Directory lookups (R255) -/

theorem Dev.peek_done (d : Dev) (line : Nat) : bitAt (d.peek line) 63 = true := by
  simp only [Dev.peek, bitAt]
  rw [getLsbD_setBit _ _ _ _ (by decide), if_pos rfl]
/-- A line without an entry shows no state, no sharer and no owner. -/
theorem Dev.peek_uncached {d : Dev} {line : Nat} (h : d.entry line = none) : fld (d.peek line) 10 0 = 0 := by
  simp only [Dev.peek, h, setBit]
  rw [fld_setFld_disjoint _ _ (by decide) (by decide), fld_setFld_disjoint _ _ (by decide) (by decide),
    fld_setFld_disjoint _ _ (by decide) (by decide)]
  rfl

theorem fld_word_low (v : Word) (hi : Nat) : fld v hi 0 = v.toNat % 2 ^ (hi + 1) := by
  rw [fld, Nat.shiftRight_zero, Nat.sub_zero]
/-- A lookup writes COH_PEEK_ADDR and COH_PEEK_DATA. -/
theorem Dev.writePeek_eq (d : Dev) (v : Word) : d.writePeek v =
    let x := d.setReg 0x208000 (BitVec.ofNat 64 (v.toNat % 2 ^ 48))
    x.setReg 0x208008 (if commonsBase ≤ v.toNat % 2 ^ 48 then x.peek (lineOf (v.toNat % 2 ^ 48)) else setBit 0 63 true) := by
  rw [Dev.writePeek, fld_word_low]
theorem exec_cohPeekAddrWrite {s : State} (hf : s.dev.full = true) (v : BitVec 64) :
    exec (.cohPeekAddrWrite v) s = s.gives fun d => d.writePeek v := run_mgrFull hf rfl rfl
theorem Dev.writePeek_shows (d : Dev) (v : Word) : ((d.writePeek v).reg 0x208000).toNat = v.toNat % 2 ^ 48 ∧
    (d.writePeek v).rb 0x208008 63 = true ∧ (∀ o, o ≠ 0x208000 → o ≠ 0x208008 → (d.writePeek v).reg o = d.reg o) ∧
    (d.writePeek v).coh = d.coh ∧ (commonsBase ≤ v.toNat % 2 ^ 48 → d.entry (lineOf (v.toNat % 2 ^ 48)) = none →
      (d.writePeek v).rf 0x208008 10 0 = 0) := by
  rw [Dev.writePeek_eq]
  refine ⟨?_, ?_, fun o ha hd => ?_, rfl, fun hb hn => ?_⟩
  · rw [Dev.reg_setReg_ne _ _ (by decide), Dev.reg_setReg_same, BitVec.toNat_ofNat]
    omega
  · rw [Dev.rb, Dev.reg_setReg_same]
    split
    · exact Dev.peek_done _ _
    · rfl
  · rw [Dev.reg_setReg_ne _ _ hd, Dev.reg_setReg_ne _ _ ha]
  · rw [Dev.rf, Dev.reg_setReg_same, if_pos hb]
    exact Dev.peek_uncached hn

/-! ## Refetch entries (R298) -/

/-- The table with what one of its registers keeps of a write. -/
def Dev.withRfs (d : Dev) (k : Nat) (w : RfsReg) (v : Word) : Dev :=
  match w with
  | .base => d.setReg (0x380000 + 16 * k) (BitVec.ofNat 64 (v.toNat % 2 ^ 19))
  | .size => d.setRf (0x380000 + 16 * k + 4) 21 0 (v.toNat % 2 ^ 22)
  | .src => d.setReg (0x380000 + 16 * k + 8) (BitVec.ofNat 64 (v.toNat % 2 ^ 48))
theorem Dev.writeRfs_eq (d : Dev) (k : Nat) (w : RfsReg) (v : Word) : d.writeRfs k w v =
    if (d.withRfs k w v).rfsBad k then d.setRb (0x380000 + 16 * k + 4) 22 true
    else (d.withRfs k w v).setRb (0x380000 + 16 * k + 4) 22 false := by
  unfold Dev.writeRfs
  rw [fld_word_low, fld_word_low, fld_word_low]
  cases w <;> rfl

section
variable {s : State} (hf : s.dev.full = true) {k : Nat} (hk : k < 64) {w : RfsReg} {v : BitVec 64}
include hf hk

theorem exec_ptrRfsWrite (h : (s.dev.withRfs k w v).rfsBad k = false) : exec (.ptrRfsWrite k w v) s = s.gives fun d =>
    (d.withRfs k w v).setRb (0x380000 + 16 * k + 4) 22 false := by
  refine (run_mgrFull hf (decide_eq_true hk) ?_ : execPtrRfsWrite k w v s = _)
  exact (s.dev.writeRfs_eq k w v).trans (if_neg (Bool.eq_false_iff.1 h))
/-- An entry that would break the rules stays as it was. -/
theorem exec_ptrRfsWrite_refused (h : (s.dev.withRfs k w v).rfsBad k = true) : exec (.ptrRfsWrite k w v) s = s.gives fun d =>
    d.setRb (0x380000 + 16 * k + 4) 22 true := by
  refine (run_mgrFull hf (decide_eq_true hk) ?_ : execPtrRfsWrite k w v s = _)
  exact (s.dev.writeRfs_eq k w v).trans (if_pos h)

end

/-! ## The settings complete (R213, R215, R216, R219, R231, R255, R298) -/

/-- Settles O52: each write in full function has the one effect that the state and the value written select. -/
theorem commonsSettingsComplete : Obligations.CommonsSettingsComplete := by
  intro s hf
  refine ⟨fun p v c hp hc => ⟨fun ha => ⟨fun hv => ?_, fun k hv hk => ?_, fun hv hk ht => ?_⟩,
      fun ha => ⟨fun hv hd => ?_, fun hv hd => ?_, fun hv hen ht hd hw => ?_, fun hv ht hd => ?_⟩⟩,
    fun p hp hbusy ht hwb => ⟨exec_replicaDisableComplete hf hp hbusy ht hwb, exec_lockWaysWritebackDone hf hp hbusy ht hwb⟩,
    fun n v hn => exec_cmnWinCfgWrite hf hn v,
    fun p e v hp he => ⟨exec_cmnRegEntWrite hf hp he, exec_cmnRegEntWrite_refused hf hp he⟩,
    fun p die hp hd ha hon => exec_regulatorWindowEnd hf hp hd ha hon,
    fun p die t c hp hen hc => ⟨Dev.regOther_ignored _ p die, fun hlo hhi => ⟨?_, ?_⟩⟩,
    fun p die m c hp hen hc => ⟨Dev.regWindow_misses hen hc die hp, Dev.regWindow_meets hen hc die⟩,
    fun v => ⟨_, exec_cohPeekAddrWrite hf v, s.dev.writePeek_shows v⟩,
    fun k w v hk => ⟨exec_ptrRfsWrite hf hk, exec_ptrRfsWrite_refused hf hk⟩⟩
  · exact exec_partCfgWrite hf hp hc (Dev.writePartCfg_staysOff ha hv)
  · exact exec_partCfgWrite hf hp hc (Dev.writePartCfg_refused ha hv hk)
  · exact exec_partCfgWrite hf hp hc (Dev.writePartCfg_enables ha hv hk ht)
  · exact exec_partCfgWrite hf hp hc (Dev.writePartCfg_disables ha hv hd)
  · exact exec_partCfgWrite hf hp hc (Dev.writePartCfg_same ha hv hd)
  · exact exec_partCfgWrite hf hp hc (Dev.writePartCfg_lockWays ha hv hen ht hd hw)
  · exact exec_partCfgWrite hf hp hc (Dev.writePartCfg_fixed ha hv ht hd)
  · exact Dev.regOther_misses hen hc hlo hhi die hp
  · exact Dev.regOther_meets hen hc hlo hhi die

end Sys2Proof.Machine
end

section
namespace Sys2Proof.Machine

/-! ## What a read or a write of a memory leaves alone (R86, R387) -/

section
variable {γ : Type} {g : Dev → γ} {sp : MSpace} (hmem : ∀ d m, g (Dev.setMem d sp m) = g d)
  (hrep : ∀ d e, Dev.onlyReports d e → g e = g d)
include hmem hrep

/-- A read changes the memory that it reads and what a report can change. -/
theorem Dev.readW_keeps (d : Dev) (w sub : Nat) : g (d.readW sp w sub).2 = g d := by
  unfold Dev.readW
  split
  · rfl
  · dsimp only
    split
    · exact (hrep _ _ (Dev.onlyReports_memFault _ _ _ _)).trans (hmem _ _)
    · rfl
theorem Dev.readLine_keeps (d : Dev) (addr : Nat) : g (d.readLine sp addr).2 = g d := by
  refine foldl_keeps (fun acc : LineData × Dev => g acc.2) (fun acc k => ?_) _ _
  have h := Dev.readW_keeps hmem hrep acc.2 (addr / 8 + k) 0
  split
  case h_1 heq => rwa [heq] at h
  case h_2 heq => rwa [heq] at h
/-- So does a merge. -/
theorem Dev.mergeW_keeps (d : Dev) (w : Nat) (mask : BitVec 8) (v : Word) : g (d.mergeW sp w mask v) = g d := by
  unfold Dev.mergeW
  split
  · exact hmem _ _
  · dsimp only
    split
    · exact (hrep _ _ (Dev.onlyReports_memFault _ _ _ _)).trans (hmem _ _)
    · exact hmem _ _
theorem Dev.writeLine_keeps (d : Dev) (addr : Nat) (mask : Mask) (data : Line) : g (d.writeLine sp addr mask data) = g d :=
  foldl_keeps g (fun e _ => Dev.mergeW_keeps hmem hrep e _ _ _) _ d
theorem Dev.homeAtm_keeps (d : Dev) (t : Atm) : g (d.homeAtm sp t).1 = g d := by
  have h := Dev.readW_keeps hmem hrep d (t.addr / 8) 0
  unfold Dev.homeAtm
  dsimp only
  split
  case h_1 heq => rwa [heq] at h
  case h_2 heq =>
    rw [heq] at h
    exact (Dev.mergeW_keeps hmem hrep _ _ _ _).trans h

end

theorem Dev.coh_setMem (d : Dev) (sp : MSpace) (m : Mem) : (d.setMem sp m).coh = d.coh := by cases sp <;> rfl
theorem Dev.coh_homeLine (d : Dev) (line : Nat) : (d.homeLine line).2.coh = d.coh := by
  unfold Dev.homeLine
  exact Dev.readLine_keeps (fun d => d.coh_setMem .com) (fun _ _ => Dev.onlyReports.coh) d (lineAddr line)
theorem Dev.coh_putLine (d : Dev) (sp : MSpace) (addr : Nat) (x : LineData) : (d.putLine sp addr x).coh = d.coh := by
  refine foldl_keeps Dev.coh (fun e k => ?_) _ d
  split <;> exact e.coh_setMem sp _
/-- A report changes no register of coherence. -/
theorem Dev.rb_oCoh_homeLine (d : Dev) (line die k : Nat) : (d.homeLine line).2.rb (oCoh die) k = d.rb (oCoh die) k :=
  Dev.readLine_keeps (g := fun e => e.rb (oCoh die) k) (fun _ _ => rfl)
    (fun _ _ h => congrArg (bitAt · k) (h.2 _ (by unfold oCoh; omega) (by unfold oCoh; omega))) d _

/-! ## What a read or a write of a memory takes from it -/

section
variable {d e : Dev} {sp : MSpace} (h : e.mem sp = d.mem sp)
include h

/-- What a read gives, and what it leaves of the memory, follow from the memory. -/
theorem Dev.readW_congr (w sub : Nat) :
    (e.readW sp w sub).1 = (d.readW sp w sub).1 ∧ (e.readW sp w sub).2.mem sp = (d.readW sp w sub).2.mem sp := by
  unfold Dev.readW
  rw [h]
  split
  · exact ⟨rfl, h⟩
  · refine ⟨rfl, ?_⟩
    dsimp only
    split
    · rw [(Dev.onlyReports_memFault _ _ _ _).mem, (Dev.onlyReports_memFault _ _ _ _).mem, Dev.mem_setMem_same, Dev.mem_setMem_same]
    · exact h
theorem Dev.readLine_congr (addr : Nat) : (e.readLine sp addr).1 = (d.readLine sp addr).1 := by
  suffices hboth : (e.readLine sp addr).1 = (d.readLine sp addr).1 ∧ (e.readLine sp addr).2.mem sp = (d.readLine sp addr).2.mem sp from
    hboth.1
  refine List.foldl_rel (r := fun x y : LineData × Dev => x.1 = y.1 ∧ x.2.mem sp = y.2.mem sp) ⟨rfl, h⟩ ?_
  rintro k - ⟨x, a⟩ ⟨y, b⟩ ⟨rfl, hm⟩
  obtain ⟨hv, hm⟩ := Dev.readW_congr hm (addr / 8 + k) 0
  rcases ha : a.readW sp (addr / 8 + k) 0 with ⟨v, a'⟩
  rcases hb : b.readW sp (addr / 8 + k) 0 with ⟨w, b'⟩
  rw [ha, hb] at hv hm
  obtain rfl : v = w := hv
  cases v <;> exact ⟨rfl, hm⟩
theorem Dev.putLine_congr (addr : Nat) (x : LineData) : (e.putLine sp addr x).mem sp = (d.putLine sp addr x).mem sp := by
  refine List.foldl_rel (r := fun a b : Dev => a.mem sp = b.mem sp) h fun k _ a b hm => ?_
  split <;> rw [Dev.mem_setMem_same, Dev.mem_setMem_same, hm]

end

/-! ## A message that is sent (Table 8.3) -/

/-- The messages that a home slice serves. -/
def MsgBody.isRequest : MsgBody → Bool
  | .req _ => true
  | _ => false

/-- A message as it is sent, from its port to its port. -/
def Dev.newMsg (d : Dev) (src dst line cl : Nat) (b : MsgBody) : Msg :=
  { src := src, dst := dst, line := line, cl := cl, sp := (d.ports src line cl b).1, dp := (d.ports src line cl b).2, hop := 0, due := none,
    fails := 0, body := b }

/-- Only a request carries a deadline that its destination reads. -/
theorem Dev.send_answer (d : Dev) (src dst line cl : Nat) {b : MsgBody} (hb : b.isRequest = false) :
    d.send src dst line cl b = d.onCoh fun c => { c with net := c.net ++ [d.newMsg src dst line cl b] } := by
  have hstamp : d.stamp (d.newMsg src dst line cl b) = (d.newMsg src dst line cl b, d) := by
    unfold Dev.stamp
    split
    case h_1 r heq =>
      change b = .req r at heq
      rw [heq] at hb
      cases hb
    case h_2 => rfl
  change (fun p : Msg × Dev => p.2.onCoh fun c => { c with net := c.net ++ [p.1] })
    (if src = dst then d.stamp (d.newMsg src dst line cl b) else (d.newMsg src dst line cl b, d)) = _
  rw [hstamp, ite_self]
/-- The end of a line's reservations at its home changes these and sends messages. -/
theorem Dev.killResv_eq (d : Dev) (line : Nat) :
    ∃ net resv, d.killResv line = d.onCoh fun c => { c with net := c.net ++ net, resv := resv } := by
  obtain ⟨net, hnet⟩ : ∃ net, (d.coh.resv.filter fun r => decide (r.line = line)).foldl
      (fun e r => e.send (d.homeDie line) (dieOf r.a.cluster) line r.a.cluster (.kill r.a)) d =
        d.onCoh fun c => { c with net := c.net ++ net } := by
    refine List.foldlRecOn (motive := fun e : Dev => ∃ net, e = d.onCoh fun c => { c with net := c.net ++ net }) _ _
      ⟨[], by rw [Dev.onCoh, List.append_nil]⟩ ?_
    rintro e ⟨net, rfl⟩ r -
    rw [Dev.send_answer (b := .kill _) (hb := rfl)]
    exact ⟨_, congrArg (fun l => d.onCoh fun c => { c with net := l }) (List.append_assoc _ _ _)⟩
  refine ⟨net, _, (congrArg (fun e : Dev => e.onCoh fun c => { c with resv := c.resv.filter fun r => decide (r.line ≠ line) }) hnet).trans
    rfl⟩

/-! ## Directory entries (R237, R238) -/

theorem NMap.find_del {α : Type} (m : NMap α) (k j : Nat) : NMap.find (NMap.del m k) j = if j = k then none else NMap.find m j := by
  induction m with
  | nil => exact (ite_self none).symm
  | cons x rest ih =>
    obtain ⟨i, w⟩ := x
    by_cases hk : k = i
    · subst hk
      rw [NMap.del, if_pos rfl, ih, NMap.find]
      grind
    · rw [NMap.del, if_neg hk, NMap.find, NMap.find, ih]
      grind

theorem Dev.entry_congr {d e : Dev} (h : e.coh.dir = d.coh.dir) (l : Nat) : e.entry l = d.entry l := congrArg (NMap.find · l) h
theorem Dev.entry_setEntry (d : Dev) (line : Nat) (x : DirEntry) (l : Nat) :
    (d.setEntry line x).entry l = if l = line then some x else d.entry l := NMap.find_put _ _ _ _
theorem Dev.entry_dropEntry (d : Dev) (line l : Nat) : (d.dropEntry line).entry l = if l = line then none else d.entry l :=
  NMap.find_del _ _ _
theorem Dev.entry_send (d : Dev) (src dst line cl : Nat) {b : MsgBody} (hb : b.isRequest = false) (l : Nat) :
    (d.send src dst line cl b).entry l = d.entry l := by
  rw [Dev.send_answer _ _ _ _ _ hb]
  rfl
theorem Dev.entry_homeLine (d : Dev) (line l : Nat) : (d.homeLine line).2.entry l = d.entry l :=
  Dev.entry_congr (congrArg Coh.dir (d.coh_homeLine line)) l

/-! ## A request that the home answers itself (R243, R249) -/

theorem Dev.coh_applyAtm (d : Dev) (t : Atm) : (d.applyAtm t).1.coh = d.coh := by
  have h := Dev.homeAtm_keeps (sp := .com) (fun d m => d.coh_setMem .com m) (fun _ _ h => h.coh) d t
  unfold Dev.applyAtm
  split
  case h_1 heq => rwa [heq] at h
  case h_2 heq => rwa [heq] at h
/-- A store or an atomic performed at the home changes of the coherence fabric its messages alone. -/
theorem Dev.applyReq_coh (d : Dev) (r : Req) : ∃ net, (d.applyReq r).coh = { d.coh with net := d.coh.net ++ net } := by
  have hsend (e : Dev) (he : e.coh = d.coh) (b : MsgBody) (hb : b.isRequest = false) :
      ∃ net, (e.send (d.homeDie r.line) r.src r.line r.cl b).coh = { d.coh with net := d.coh.net ++ net } := by
    rw [Dev.send_answer _ _ _ _ _ hb, ← he]
    exact ⟨_, rfl⟩
  have hpage := d.notePage_coh r.line
  unfold Dev.applyReq
  dsimp only
  split
  · split
    · exact hsend _ hpage _ rfl
    · refine hsend _ ?_ _ rfl
      exact (Dev.writeLine_keeps (sp := .com) (fun d m => d.coh_setMem .com m) (fun _ _ h => h.coh) _ _ _ _).trans hpage
  · rename_i t _
    have hatm := ((d.notePage r.line).coh_applyAtm t).trans hpage
    split
    case h_1 heq =>
      rw [heq] at hatm
      exact hsend _ hatm _ rfl
    case h_2 heq =>
      rw [heq] at hatm
      exact hsend _ hatm _ rfl
  · exact ⟨[], by rw [hpage, List.append_nil]⟩

section
variable {d : Dev} {r : Req} (noData : Bool)

theorem Dev.serveHome_rdS (hk : r.kind = .rdS) : d.serveHome r [] false noData =
    ((d.homeLine r.line).2.setEntry r.line
      (if d.rb (oCoh (d.homeDie r.line)) 8 then .mk' .exc r.src [] false none else .mk' .shr 0 [r.src] false none)).send
      (d.homeDie r.line) r.src r.line r.cl
      (.data (if d.rb (oCoh (d.homeDie r.line)) 8 then .e else .s) true (d.homeLine r.line).1 r.prefetch) := by
  cases he : d.rb (oCoh (d.homeDie r.line)) 8 <;>
    simp only [Dev.serveHome, hk, Dev.rb_oCoh_homeLine, he, List.isEmpty_nil, Bool.not_false, and_self, if_true, Bool.false_eq_true, if_false]
theorem Dev.serveHome_rdU (hk : r.kind = .rdU) : d.serveHome r [] false noData =
    ((d.homeLine r.line).2.dropEntry r.line).send (d.homeDie r.line) r.src r.line r.cl (.data .none true (d.homeLine r.line).1 false) := by
  simp only [Dev.serveHome, hk, List.isEmpty_nil, Bool.not_false, and_self, if_true]
theorem Dev.serveHome_owned (hk : r.kind = .rdX ∨ r.kind = .upg) (ptrs : List Nat) (bcast : Bool) : d.serveHome r ptrs bcast false =
    ((d.homeLine r.line).2.setEntry r.line (.mk' .exc r.src [] false none)).send (d.homeDie r.line) r.src r.line r.cl
      (.data .m true (d.homeLine r.line).1 false) := by
  rcases hk with hk | hk <;> simp only [Dev.serveHome, hk, Bool.false_eq_true, if_false]

end

/-- The home that answers a request changes the entry of its line alone. -/
theorem Dev.entry_serveHome_ne (d : Dev) (r : Req) (ptrs : List Nat) (bcast noData : Bool) {l : Nat} (hl : l ≠ r.line) :
    (d.serveHome r ptrs bcast noData).entry l = d.entry l := by
  have hset (e : Dev) (x : DirEntry) : (e.setEntry r.line x).entry l = e.entry l := (e.entry_setEntry _ _ _).trans (if_neg hl)
  have hdata (e : Dev) (h : Nat) (g : Grant) (wd pf : Bool) (x : LineData) :
      (e.send h r.src r.line r.cl (.data g wd x pf)).entry l = e.entry l := e.entry_send _ _ _ _ rfl l
  have hdrop (e : Dev) : (e.dropEntry r.line).entry l = e.entry l := (e.entry_dropEntry _ _).trans (if_neg hl)
  unfold Dev.serveHome
  dsimp only
  split
  case h_1 =>
    split
    · split <;> rw [hdata, hset, Dev.entry_homeLine]
    · rw [hdata, hset, Dev.entry_homeLine]
  case h_2 =>
    rw [hdata]
    split
    · rw [hdrop, Dev.entry_homeLine]
    · rw [hset, Dev.entry_homeLine]
  case h_3 | h_4 =>
    split
    · rw [hdata, hset]
    · rw [hdata, hset, Dev.entry_homeLine]
  case h_5 =>
    obtain ⟨net, h⟩ := (d.dropEntry r.line).applyReq_coh r
    exact (Dev.entry_congr (by rw [h]) l).trans (hdrop d)

end Sys2Proof.Machine
end

section
namespace Sys2Proof.Machine

/-! ## A line that no entry names (R243, Table 8.5) -/

/-- The home answers a request for such a line itself, once the line's reservations have ended. -/
theorem Dev.accept_uncached {d : Dev} {r : Req} (h : d.entry r.line = none) :
    ∃ net resv, d.accept r = (d.onCoh fun c => { c with net := c.net ++ net, resv := resv }).serveHome r [] false false := by
  obtain ⟨net, resv, heq⟩ : ∃ net resv,
      (if r.kind = .rdX ∨ r.kind = .upg ∨ r.kind = .wrT ∨ r.kind = .atm then d.killResv r.line else d) =
        d.onCoh fun c => { c with net := c.net ++ net, resv := resv } := by
    split
    · exact d.killResv_eq r.line
    · exact ⟨[], d.coh.resv, by rw [Dev.onCoh, List.append_nil]⟩
  refine ⟨net, resv, ?_⟩
  have hnone : (d.onCoh fun c => { c with net := c.net ++ net, resv := resv }).entry r.line = none := h
  unfold Dev.accept
  dsimp only
  rw [heq, hnone]

/-- What the home answers is the line as its memory holds it. -/
theorem Dev.homeLine_onCoh (d : Dev) (f : Coh → Coh) (line : Nat) : ((d.onCoh f).homeLine line).1 = (d.homeLine line).1 := by
  have hmem : (d.onCoh f).mem .com = d.mem .com := rfl
  unfold Dev.homeLine
  exact Dev.readLine_congr hmem _

/-- The last message in flight after a send. -/
theorem Dev.getLast?_send (d : Dev) (src dst line cl : Nat) {b : MsgBody} (hb : b.isRequest = false) :
    (d.send src dst line cl b).coh.net.getLast? = some (d.newMsg src dst line cl b) := by
  rw [Dev.send_answer _ _ _ _ _ hb]
  exact List.getLast?_concat

/-- The home has answered a request for its line with data in a state, and these are the last message in flight. -/
def Dev.answered (d e : Dev) (r : Req) (g : Grant) (pf : Bool) : Prop :=
  ∃ sp dp, e.coh.net.getLast? = some
    { src := d.homeDie r.line, dst := r.src, line := r.line, cl := r.cl, sp := sp, dp := dp, hop := 0, due := none, fails := 0
      body := .data g true (d.homeLine r.line).1 pf }

section
variable {d : Dev} {r : Req} (h : d.entry r.line = none)
include h

theorem Dev.accept_rdS_uncached (hk : r.kind = .rdS) : (d.accept r).entry r.line =
      some (if d.rb (oCoh (d.homeDie r.line)) 8 then .mk' .exc r.src [] false none else .mk' .shr 0 [r.src] false none) ∧
    d.answered (d.accept r) r (if d.rb (oCoh (d.homeDie r.line)) 8 then .e else .s) r.prefetch := by
  obtain ⟨net, resv, heq⟩ := Dev.accept_uncached h
  rw [heq, Dev.serveHome_rdS _ hk, Dev.homeLine_onCoh]
  refine ⟨?_, _, _, Dev.getLast?_send _ _ _ _ _ rfl⟩
  rw [Dev.entry_send _ _ _ _ _ (by rfl), Dev.entry_setEntry, if_pos rfl]
  rfl
theorem Dev.accept_owned_uncached (hk : r.kind = .rdX ∨ r.kind = .upg) :
    (d.accept r).entry r.line = some (.mk' .exc r.src [] false none) ∧ d.answered (d.accept r) r .m false := by
  obtain ⟨net, resv, heq⟩ := Dev.accept_uncached h
  rw [heq, Dev.serveHome_owned hk, Dev.homeLine_onCoh]
  refine ⟨?_, _, _, Dev.getLast?_send _ _ _ _ _ rfl⟩
  rw [Dev.entry_send _ _ _ _ _ (by rfl), Dev.entry_setEntry, if_pos rfl]
theorem Dev.accept_rdU_uncached (hk : r.kind = .rdU) :
    (d.accept r).entry r.line = none ∧ d.answered (d.accept r) r .none false := by
  obtain ⟨net, resv, heq⟩ := Dev.accept_uncached h
  rw [heq, Dev.serveHome_rdU _ hk, Dev.homeLine_onCoh]
  refine ⟨?_, _, _, Dev.getLast?_send _ _ _ _ _ rfl⟩
  rw [Dev.entry_send _ _ _ _ _ (by rfl), Dev.entry_dropEntry, if_pos rfl]
theorem Dev.entry_accept_uncached_ne {l : Nat} (hl : l ≠ r.line) : (d.accept r).entry l = d.entry l := by
  obtain ⟨net, resv, heq⟩ := Dev.accept_uncached h
  rw [heq, Dev.entry_serveHome_ne _ _ _ _ _ hl]
  rfl

end

/-- Settles O35: the home answers such a request itself, so that the entry and the grant follow from the request's kind (Upg as
RdX: log entry 9). -/
theorem uncachedRequests : Obligations.UncachedRequests := by
  intro d r h
  refine ⟨fun hk hg => ?_, fun hk hg => ?_, Dev.accept_owned_uncached h, Dev.accept_rdU_uncached h,
    fun l => Dev.entry_accept_uncached_ne h⟩
  · have hs := Dev.accept_rdS_uncached h hk
    rwa [if_pos hg, if_pos hg] at hs
  · have hs := Dev.accept_rdS_uncached h hk
    rwa [if_neg (Bool.eq_false_iff.1 hg), if_neg (Bool.eq_false_iff.1 hg)] at hs

end Sys2Proof.Machine
end

section
namespace Sys2Proof.Machine

/-! ## A message in flight stays so while its home works on its line -/

/-- A message is in the fabric. -/
def Dev.inFlight (d : Dev) (x : Msg) : Prop := x ∈ d.coh.net

theorem Dev.inFlight_newMsg (d : Dev) (src dst line cl : Nat) {b : MsgBody} (hb : b.isRequest = false) :
    (d.send src dst line cl b).inFlight (d.newMsg src dst line cl b) := by
  rw [Dev.send_answer _ _ _ _ _ hb]
  exact List.mem_append_right _ (List.mem_singleton_self _)

theorem Dev.inFlight_ite {c : Prop} [Decidable c] {d e : Dev} {x : Msg} (hd : d.inFlight x) (he : e.inFlight x) :
    (if c then d else e).inFlight x := by
  split
  · exact hd
  · exact he

section
variable {d : Dev} {x : Msg} (h : d.inFlight x)
include h

theorem Dev.inFlight.congr {e : Dev} (he : e.coh = d.coh) : e.inFlight x := by rwa [Dev.inFlight, he]
theorem Dev.inFlight.setEntry (line : Nat) (e : DirEntry) : (d.setEntry line e).inFlight x := h
theorem Dev.inFlight.dropEntry (line : Nat) : (d.dropEntry line).inFlight x := h
theorem Dev.inFlight.setReg (o : Nat) (v : Word) : (d.setReg o v).inFlight x := h
theorem Dev.inFlight.send (src dst line cl : Nat) {b : MsgBody} (hb : b.isRequest = false) : (d.send src dst line cl b).inFlight x := by
  rw [Dev.send_answer _ _ _ _ _ hb]
  exact List.mem_append_left _ h
theorem Dev.inFlight.sendInvs (line : Nat) (bcast : Bool) (dies : List Nat) : (d.sendInvs line bcast dies).inFlight x := by
  have hinvs : (dies.foldl (fun e y => e.send (d.homeDie line) y line 0 .inv) d).inFlight x :=
    List.foldlRecOn (motive := fun e : Dev => e.inFlight x) _ _ h fun e he y _ => he.send _ _ _ _ rfl
  exact Dev.inFlight_ite ((hinvs.setReg _ _).setReg _ _) (hinvs.setReg _ _)
theorem Dev.inFlight.sendFwd (line owner : Nat) (k : ReqKind) (r : Req) : (d.sendFwd line owner k r).inFlight x :=
  (h.send _ _ _ _ rfl).setReg _ _
theorem Dev.inFlight.killResv (line : Nat) : (d.killResv line).inFlight x := by
  obtain ⟨net, resv, heq⟩ := d.killResv_eq line
  rw [heq]
  exact List.mem_append_left _ h
theorem Dev.inFlight.homeLine (line : Nat) : (d.homeLine line).2.inFlight x := by
  rw [Dev.inFlight, Dev.coh_homeLine]
  exact h
theorem Dev.inFlight.countRecall (r : Req) : (d.countRecall r).inFlight x :=
  Dev.inFlight_ite (h.setReg _ _) h
theorem Dev.inFlight.applyReq (r : Req) : (d.applyReq r).inFlight x := by
  obtain ⟨net, heq⟩ := d.applyReq_coh r
  rw [Dev.inFlight, heq]
  exact List.mem_append_left _ h
theorem Dev.inFlight.serveHome (r : Req) (ptrs : List Nat) (bcast noData : Bool) : (d.serveHome r ptrs bcast noData).inFlight x := by
  have hline := h.homeLine r.line
  unfold Dev.serveHome
  generalize d.homeLine r.line = p at hline ⊢
  obtain ⟨y, e⟩ := p
  have hdata (f : DirEntry) (g : Grant) (pf : Bool) :
      ((e.setEntry r.line f).send (d.homeDie r.line) r.src r.line r.cl (.data g true y pf)).inFlight x :=
    (Dev.inFlight.setEntry hline r.line f).send _ _ _ _ rfl
  dsimp only
  split
  case h_1 => exact Dev.inFlight_ite (Dev.inFlight_ite (hdata _ _ _) (hdata _ _ _)) (hdata _ _ _)
  case h_2 => exact Dev.inFlight.send (Dev.inFlight_ite (Dev.inFlight.dropEntry hline _) (Dev.inFlight.setEntry hline _ _)) _ _ _ _ rfl
  case h_3 | h_4 => exact Dev.inFlight_ite ((h.setEntry _ _).send _ _ _ _ rfl) (hdata _ _ _)
  case h_5 => exact (h.dropEntry _).applyReq r
theorem Dev.inFlight.wakeTickets (line : Nat) : (d.wakeTickets line).inFlight x := by
  refine List.foldlRecOn (motive := fun e : Dev => e.inFlight x) _ _ h fun e he t _ => ?_
  refine Dev.inFlight_ite (Dev.inFlight.send ?_ _ _ _ _ rfl) he
  exact he
theorem Dev.inFlight.accept (r : Req) : (d.accept r).inFlight x := by
  have hkill : (if r.kind = .rdX ∨ r.kind = .upg ∨ r.kind = .wrT ∨ r.kind = .atm then d.killResv r.line else d).inFlight x :=
    Dev.inFlight_ite (h.killResv r.line) h
  unfold Dev.accept
  dsimp only
  generalize (if r.kind = .rdX ∨ r.kind = .upg ∨ r.kind = .wrT ∨ r.kind = .atm then d.killResv r.line else d) = e at hkill ⊢
  have hinvs (y : DirEntry) (bcast : Bool) (dies : List Nat) : ((e.setEntry r.line y).sendInvs r.line bcast dies).inFlight x :=
    (hkill.setEntry _ _).sendInvs _ _ _
  have hfwd (y : DirEntry) (owner : Nat) (k : ReqKind) : ((e.setEntry r.line y).sendFwd r.line owner k r).inFlight x :=
    (hkill.setEntry _ _).sendFwd _ _ _ _
  have hserve (ptrs : List Nat) (bcast noData : Bool) : (e.serveHome r ptrs bcast noData).inFlight x := hkill.serveHome _ _ _ _
  split
  case h_1 => exact hserve _ _ _
  case h_2 =>
    split
    case h_1 => exact hserve _ _ _
    case h_2 => exact Dev.inFlight_ite (hserve _ _ _) (Dev.inFlight_ite (hserve _ _ _) (hinvs _ _ _))
    case h_3 => exact Dev.inFlight_ite (((hkill.setEntry _ _).countRecall r).send _ _ _ _ rfl) (hfwd _ _ _)
    case h_4 =>
      refine Dev.inFlight_ite (((hinvs _ _ _).countRecall r).send _ _ _ _ rfl) (Dev.inFlight_ite (hfwd _ _ _) ?_)
      refine Dev.inFlight_ite (Dev.inFlight_ite (hserve _ _ _) (hinvs _ _ _)) (Dev.inFlight_ite (hinvs _ _ _) ?_)
      exact Dev.inFlight_ite (hfwd _ _ _) (hinvs _ _ _)
theorem Dev.inFlight.finishTxn (line : Nat) : (d.finishTxn line).inFlight x := by
  unfold Dev.finishTxn
  split
  · exact h
  · split
    · exact h
    · split
      · split
        · split
          · exact (h.serveHome _ _ _ _).wakeTickets line
          · exact (h.setEntry _ _).sendFwd _ _ _ _
        · exact h
      · split
        · split
          · have hdrop := h.dropEntry line
            dsimp only
            split
            · refine Dev.inFlight.wakeTickets ?_ line
              split
              · exact ((hdrop.dropEntry _).accept _).wakeTickets _
              · exact hdrop
            · exact hdrop.wakeTickets line
          · exact (h.serveHome _ _ _ _).wakeTickets line
        · exact h

end

/-! ## A Put at its home (R243, R244) -/

/-- The data of a Put are written at the home, and the line's reservations end. -/
def Dev.putData (d : Dev) (r : Req) : Dev :=
  match r.kind, r.pay with
  | .putE, _ => d
  | _, .put x => (d.killResv r.line).putLine .com (lineAddr r.line) x
  | _, _ => d
/-- A Put is answered. -/
def Dev.putAcked (d : Dev) (r : Req) : Dev := d.send (d.homeDie r.line) r.src r.line 0 .wbAck
/-- The die that the directory names as the owner of a Put's line sent it. -/
def Dev.fromOwner (d : Dev) (r : Req) : Prop := ∃ e, d.entry r.line = some e ∧ (e.st = .exc ∨ e.st = .own) ∧ e.owner = r.src

theorem Dev.commons_killResv (d : Dev) (line : Nat) : (d.killResv line).commons = d.commons := by
  obtain ⟨net, resv, h⟩ := d.killResv_eq line
  rw [h]
  rfl
theorem Dev.putData_putE (d : Dev) {r : Req} (hk : r.kind = .putE) : d.putData r = d := by simp only [Dev.putData, hk]
theorem Dev.putData_dirty (d : Dev) {r : Req} {w : LineData} (hk : r.kind = .putM ∨ r.kind = .putO) (hp : r.pay = .put w) :
    d.putData r = (d.killResv r.line).putLine .com (lineAddr r.line) w := by
  rcases hk with hk | hk <;> simp only [Dev.putData, hk, hp]
theorem Dev.inFlight.putData {d : Dev} {x : Msg} (h : d.inFlight x) (r : Req) : (d.putData r).inFlight x := by
  unfold Dev.putData
  split
  · exact h
  · exact (h.killResv r.line).congr (Dev.coh_putLine _ _ _ _)
  · exact h

theorem Dev.putAcked_eq (d : Dev) (r : Req) : d.putAcked r = d.onCoh fun c =>
    { c with net := c.net ++ [d.newMsg (d.homeDie r.line) r.src r.line 0 .wbAck] } := d.send_answer _ _ _ _ rfl
theorem Dev.entry_putAcked (d : Dev) (r : Req) (l : Nat) : (d.putAcked r).entry l = d.entry l := d.entry_send _ _ _ _ rfl l
theorem Dev.commons_putAcked (d : Dev) (r : Req) : (d.putAcked r).commons = d.commons := by
  rw [Dev.putAcked_eq]
  rfl

section
variable {d : Dev} {r : Req}

/-- A Put of any other die is answered, and that is all. -/
theorem Dev.putArrives_stranger (h : ¬d.fromOwner r) : d.putArrives r = d.putAcked r := by
  change (match (d.putAcked r).entry r.line with
    | none => d.putAcked r
    | some e => _) = _
  rw [Dev.entry_putAcked]
  cases he : d.entry r.line with
  | none => rfl
  | some e => exact if_neg fun ho => h ⟨e, he, ho⟩

variable {e : DirEntry} (he : d.entry r.line = some e) (ho : e.st = .exc ∨ e.st = .own) (hown : e.owner = r.src)
include he ho hown

/-- The owner's Put brings its data home, and the entry names the owner no longer. -/
theorem Dev.putArrives_owner_idle (ht : e.txn = none) : d.putArrives r =
    if e.withoutOwner.st = .unc then ((d.putAcked r).putData r).dropEntry r.line
    else ((d.putAcked r).putData r).setEntry r.line e.withoutOwner := by
  have hacked := (d.entry_putAcked r r.line).trans he
  unfold Dev.putArrives
  rw [Dev.putAcked] at hacked ⊢
  simp only [hacked, ht, if_pos (And.intro ho hown)]
  rfl
theorem Dev.putArrives_owner_busy {t : Txn} (ht : e.txn = some t) : d.putArrives r =
    (((d.putAcked r).putData r).setEntry r.line { e.withoutOwner with txn := some { t with putSeen := true, wb := false } }).finishTxn
      r.line := by
  have hacked := (d.entry_putAcked r r.line).trans he
  unfold Dev.putArrives
  rw [Dev.putAcked] at hacked ⊢
  simp only [hacked, ht, if_pos (And.intro ho hown)]
  rfl
theorem Dev.commons_putArrives_owner (ht : e.txn = none) : (d.putArrives r).commons = ((d.putAcked r).putData r).commons := by
  rw [Dev.putArrives_owner_idle he ho hown ht]
  split <;> rfl

end

/-- Whoever sent it, a Put is answered. -/
theorem Dev.putArrives_wbAck (d : Dev) (r : Req) : (d.putArrives r).inFlight (d.newMsg (d.homeDie r.line) r.src r.line 0 .wbAck) := by
  have hack : (d.putAcked r).inFlight (d.newMsg (d.homeDie r.line) r.src r.line 0 .wbAck) := d.inFlight_newMsg _ _ _ _ rfl
  by_cases h : d.fromOwner r
  · obtain ⟨e, he, ho, hown⟩ := h
    cases ht : e.txn with
    | none =>
      rw [Dev.putArrives_owner_idle he ho hown ht]
      split <;> exact hack.putData r
    | some t =>
      rw [Dev.putArrives_owner_busy he ho hown ht]
      exact ((hack.putData r).setEntry _ _).finishTxn r.line
  · rwa [Dev.putArrives_stranger h]

/-- An owner without sharers leaves no entry. -/
theorem DirEntry.withoutOwner_exc {e : DirEntry} (h : e.st = .exc) : e.withoutOwner.st = .unc := by
  simp [DirEntry.withoutOwner, h]

/-- Settles O36: an owner's Put is its data and then the entry without its owner, any other die's is nothing but its answer. -/
theorem putsWriteOnce : Obligations.PutsWriteOnce := by
  intro d r hput
  refine ⟨⟨_, d.putArrives_wbAck r, rfl, rfl, rfl⟩, fun h => ?_, fun hk e he ht => ?_, fun e w he ht hown ho hk hp => ?_,
    fun e he ht hown ho => ?_⟩
  · rw [Dev.putArrives_stranger h]
    exact ⟨d.commons_putAcked r, d.entry_putAcked r⟩
  · by_cases h : d.fromOwner r
    · obtain ⟨f, hf, ho, hown⟩ := h
      obtain rfl := Option.some.inj (he.symm.trans hf)
      rw [Dev.commons_putArrives_owner hf ho hown ht, Dev.putData_putE _ hk, Dev.commons_putAcked]
    · rw [Dev.putArrives_stranger h, Dev.commons_putAcked]
  · rw [Dev.commons_putArrives_owner he ho hown ht, Dev.putData_dirty _ (hput.resolve_left hk) hp]
    exact Dev.putLine_congr (sp := .com) ((Dev.commons_killResv _ _).trans (d.commons_putAcked r)) _ w
  · rw [Dev.putArrives_owner_idle he (.inl ho) hown ht, if_pos (DirEntry.withoutOwner_exc ho), Dev.entry_dropEntry, if_pos rfl]

end Sys2Proof.Machine
end

section
namespace Sys2Proof.Machine

/-! ## A request at its home slice (R222, R232, R247) -/

section
variable {d : Dev} {m : MsgSel} {x : Msg} {r : Req} (hx : d.msgAt m 1 = some x) (hb : x.body = .req r)
include hx hb

/-- A request that finds no buffer of its slice free is refused. -/
theorem Dev.takeReq_full (hroom : ¬(r.ticket = true ∨ d.taken x = true ∨ d.buffersUsed m.line < 64)) :
    d.takeReq m r.kind = (d.receive x).refuse r := by
  have hfull : (!r.ticket && !(d.taken x) && decide (d.buffersUsed m.line ≥ 64)) = true := by simpa [and_assoc] using hroom
  simp only [Dev.takeReq, hx, hb, ne_eq, not_true_eq_false, if_false, hfull, if_true]
/-- One that its slice serves next is accepted or refused there. -/
theorem Dev.takeReq_served {e : Dev} (hroom : r.ticket = true ∨ d.taken x = true ∨ d.buffersUsed m.line < 64)
    (hheld : d.held m.line = false) (hnext : d.servesNext x r = true) (he : (d.receive x).arrive r = some e) :
    d.takeReq m r.kind = (if e.refusedNow d r then e else e.served x r).healOver m.line := by
  have hfree : (!r.ticket && !(d.taken x) && decide (d.buffersUsed m.line ≥ 64)) = false := by
    simpa only [Bool.and_eq_false_iff, Bool.not_eq_false', decide_eq_false_iff_not, ge_iff_le, not_le, or_assoc] using hroom
  obtain ⟨⟨hneeds, hheals⟩, hhost⟩ : (d.needsHeal m.line = false ∧ d.healing m.line = false) ∧ d.hostHolds m.line = false := by
    simpa only [Dev.held, Bool.or_eq_false_iff] using hheld
  simp only [Dev.takeReq, hx, hb, ne_eq, not_true_eq_false, if_false, hfree, hneeds, hheals, hhost, hnext, he, Bool.not_true,
    Bool.false_eq_true]

end

/-- The command of a kind of request lets its home slice take it. -/
theorem exec_request {c : Instr} {m : MsgSel} {k : ReqKind} (s : State)
    (hc : c = .rds m ∧ k = .rdS ∨ c = .rdx m ∧ k = .rdX ∨ c = .upg m ∧ k = .upg ∨ c = .rdu m ∧ k = .rdU ∨ c = .wrt m ∧ k = .wrT ∨
      c = .atm m ∧ k = .atm) :
    exec c s = runDie (selOk m) s fun d => d.takeReq m k := by
  rcases hc with ⟨rfl, rfl⟩ | ⟨rfl, rfl⟩ | ⟨rfl, rfl⟩ | ⟨rfl, rfl⟩ | ⟨rfl, rfl⟩ | ⟨rfl, rfl⟩ <;> rfl
/-- A Put is taken in by its home whoever waits there. -/
theorem exec_put {s : State} {m : MsgSel} {x : Msg} {r : Req} {c : Instr} (hsel : selOk m = true) (hrun : s.dev.pwr.stopped = false)
    (hx : s.dev.msgAt m 1 = some x) (hb : x.body = .req r)
    (hc : c = .pute m ∧ r.kind = .putE ∨ c = .putm m ∧ r.kind = .putM ∨ c = .puto m ∧ r.kind = .putO) :
    exec c s = s.gives fun d => (d.receive x).putArrives r := by
  rcases hc with ⟨rfl, hk⟩ | ⟨rfl, hk⟩ | ⟨rfl, hk⟩ <;>
    exact runDie_deliver_got (g := fun d => (d.receive x).putArrives r) hsel hrun hx hb rfl (if_pos hk)

/-! ## Forwards, Recall and Inv at a die (Table 8.4, R245, log entry 89) -/

/-- A command delivers an order to the die that it names, where the order has an effect. -/
def OrdersDie (c : Instr) (m : MsgSel) (vc : Nat) (b : MsgBody) (g : Dev → Dev) : Prop :=
  ∃ f, (∀ s, exec c s = runDie (selOk m) s fun d => d.deliver m vc f) ∧ ∀ y, f y b = .got (g y)

section
variable {c : Instr} {m : MsgSel} {vc : Nat} {b : MsgBody} {g : Dev → Dev} (h : OrdersDie c m vc b g)
  {s : State} {x : Msg} (hsel : selOk m = true) (hrun : s.dev.pwr.stopped = false) (hx : s.dev.msgAt m vc = some x) (hb : x.body = b)
include h hsel hrun hx hb

/-- An order that comes before the Data that made its die a holder is held. -/
theorem OrdersDie.early (hw : s.dev.mustWait x = true) : exec c s = s.gives fun d => d.holdMsg x := by
  obtain ⟨f, hexec, hf⟩ := h
  rw [hexec]
  refine runDie_gives hsel hrun ?_
  simp only [Dev.deliver, hx, hb, hf, hw, if_true]
/-- Any other has its effect once it is received. -/
theorem OrdersDie.done (hw : ¬s.dev.mustWait x = true) : exec c s = s.gives fun _ => g (s.dev.receive x) := by
  obtain ⟨f, hexec, hf⟩ := h
  rw [hexec]
  refine runDie_gives hsel hrun ?_
  simp only [Dev.deliver, hx, hb, hf, hw, if_false, Bool.false_eq_true]

end

/-- What a die keeps of a line that it supplied to another: E becomes S, and M becomes O. -/
def RepLine.supplied (y : RepLine) : RepLine := { y with st := if y.st = .e ∨ y.st = .s then .s else .o }
/-- The grant of the data that a forward asks for. -/
def ReqKind.forwardGrant : ReqKind → Grant
  | .rdS => .s
  | .rdX => .m
  | _ => .none
/-- A line's data go to the requester that a forward names, and the home hears what the die held. -/
def Dev.supply (d : Dev) (m : MsgSel) (to_ cl : Nat) (g : Grant) (pf : Bool) (z : RepLine) : Dev :=
  (d.send m.dst to_ m.line cl (.data g true z.d pf)).send m.dst m.src m.line m.cl (.fwdAck z.st)
/-- A line leaves the die that a message names. -/
def Dev.loseLine (d : Dev) (m : MsgSel) (z : RepLine) : Dev := (d.dropRepLine m.dst m.line).countLeave m.dst z
/-- A die answers its home. -/
def Dev.answerHome (d : Dev) (m : MsgSel) (b : MsgBody) : Dev := d.send m.dst m.src m.line m.cl b
/-- The effect of a forward. -/
def Dev.forwarded (d : Dev) (m : MsgSel) (k : ReqKind) (to_ cl : Nat) (pf : Bool) : Dev :=
  match d.repLine m.dst m.line with
  | none => d.answerHome m .wbPending
  | some z =>
    if k = .rdX then (d.supply m to_ cl k.forwardGrant pf z).loseLine m z
    else (d.supply m to_ cl k.forwardGrant pf z).onRepLine m.dst m.line RepLine.supplied
/-- The effect of a Recall. -/
def Dev.recalled (d : Dev) (m : MsgSel) : Dev :=
  match d.repLine m.dst m.line with
  | none => d.answerHome m .wbPending
  | some z => (d.loseLine m z).answerHome m (.recallData z.d (decide (z.st = .m ∨ z.st = .o)))
/-- The effect of an Inv. -/
def Dev.invalidated (d : Dev) (m : MsgSel) : Dev :=
  match d.repLine m.dst m.line with
  | none => d.answerHome m .invAck
  | some z => (d.loseLine m z).answerHome m .invAck

theorem ordersDie_forward {c : Instr} {m : MsgSel} {k : ReqKind}
    (hc : c = .fwds m ∧ k = .rdS ∨ c = .fwdx m ∧ k = .rdX ∨ c = .fwdu m ∧ k = .rdU) (to_ cl : Nat) (pf : Bool) :
    OrdersDie c m 2 (.fwd k to_ cl pf) fun d => d.forwarded m k to_ cl pf := by
  rcases hc with ⟨rfl, rfl⟩ | ⟨rfl, rfl⟩ | ⟨rfl, rfl⟩
  all_goals
    refine ⟨_, fun s => rfl, fun y => ?_⟩
    unfold Dev.forwarded
    dsimp only
    cases y.repLine m.dst m.line <;> rfl
theorem ordersDie_recall (m : MsgSel) : OrdersDie (.recall m) m 2 .recallMsg fun d => d.recalled m := by
  refine ⟨_, fun s => rfl, fun y => ?_⟩
  unfold Dev.recalled
  dsimp only
  cases y.repLine m.dst m.line <;> rfl
theorem ordersDie_inv (m : MsgSel) : OrdersDie (.inv m) m 0 .inv fun d => d.invalidated m := by
  refine ⟨_, fun s => rfl, fun y => ?_⟩
  unfold Dev.invalidated
  dsimp only
  cases y.repLine m.dst m.line <;> rfl

section
variable {d : Dev} {m : MsgSel}

section
variable (hz : d.repLine m.dst m.line = none)
include hz

theorem Dev.forwarded_gone (k : ReqKind) (to_ cl : Nat) (pf : Bool) : d.forwarded m k to_ cl pf = d.answerHome m .wbPending := by
  simp only [Dev.forwarded, hz]
theorem Dev.recalled_gone : d.recalled m = d.answerHome m .wbPending := by simp only [Dev.recalled, hz]
theorem Dev.invalidated_gone : d.invalidated m = d.answerHome m .invAck := by simp only [Dev.invalidated, hz]

end

variable {z : RepLine} (hz : d.repLine m.dst m.line = some z)
include hz

theorem Dev.forwarded_stays {k : ReqKind} (hk : k ≠ .rdX) (to_ cl : Nat) (pf : Bool) : d.forwarded m k to_ cl pf =
    (d.supply m to_ cl k.forwardGrant pf z).onRepLine m.dst m.line RepLine.supplied := by
  simp only [Dev.forwarded, hz, hk, if_false]
theorem Dev.forwarded_leaves (to_ cl : Nat) (pf : Bool) :
    d.forwarded m .rdX to_ cl pf = (d.supply m to_ cl .m pf z).loseLine m z := by
  simp only [Dev.forwarded, hz, if_true, ReqKind.forwardGrant]
theorem Dev.recalled_leaves : d.recalled m =
    (d.loseLine m z).answerHome m (.recallData z.d (decide (z.st = .m ∨ z.st = .o))) := by
  simp only [Dev.recalled, hz]
theorem Dev.invalidated_leaves : d.invalidated m = (d.loseLine m z).answerHome m .invAck := by
  simp only [Dev.invalidated, hz]

end

/-! ## A line of the cluster store buffer is performed (R215, R217, R236, R242) -/

section
variable {d : Dev} {n line : Nat} {b : BufLine} (hb : (d.cl n).buf.find? (fun z => decide (z.line = line)) = some b)
  (hi : b.issued = false) (hr : (d.cl n).readOut line = false) (hl : d.loadWaits n line = false) (hw : d.inWb (dieOf n) line = false)
include hb hi hr hl hw

theorem Dev.performLine_lost (hp : d.partAt (lineAddr line) = none) : d.performLine n line = d.bufDone n line := by
  simp only [Dev.performLine, hb, hi, hr, hl, hw, hp, Bool.or_self, Bool.false_eq_true, if_false]

variable {p : Nat} (hp : d.partAt (lineAddr line) = some p)
include hp

/-- A line that the cluster's die cannot hold is sent through to its home. -/
theorem Dev.performLine_through (h : d.homeDie line = dieOf n ∨ d.replicaOf (dieOf n) = none) :
    d.performLine n line = d.bufReq n b .wrT := by
  simp only [Dev.performLine, hb, hi, hr, hl, hw, hp, Bool.or_self, Bool.false_eq_true, if_false]
  rcases h with h | h
  · rw [if_pos h]
  · rw [h, Option.isNone_none, if_pos rfl, ite_self]
/-- A line that the die's replica cache holds alone is performed there. -/
theorem Dev.performLine_inReplica {x : RepLine} (hhome : d.homeDie line ≠ dieOf n) (hrep : (d.replicaOf (dieOf n)).isSome = true)
    (hout : d.fillOut (dieOf n) line = false) (hx : d.repLine (dieOf n) line = some x) (hst : x.st = .m ∨ x.st = .e) :
    d.performLine n line = ((d.onCl n fun c => (c.track p line (decide (b.mask = BitVec.allOnes 128))).2).countClass (dieOf n)
      x.cls 0).bufIntoReplica n b := by
  have hnone : (d.replicaOf (dieOf n)).isNone = false := by rw [← Option.not_isSome, hrep]; rfl
  simp only [Dev.performLine, hb, hi, hr, hl, hw, hp, Bool.or_self, Bool.false_eq_true, if_false, hhome, hnone, hout, hx, hst, if_true]

end

section
variable {s : State} {n line : Nat} (hn : n < 384) (hline : line < 2 ^ 28) (hrun : s.dev.pwr.stopped = false)
include hn hrun

theorem exec_streamTrackerTimeout {k : Nat} (hk : k < 8) : exec (.streamTrackerTimeout n k) s = s.gives fun d =>
    d.onCl n fun c => { c with trackers := c.trackers.eraseIdx k } :=
  (runDie_gives (Bool.and_eq_true_iff.2 ⟨decide_eq_true hn, decide_eq_true hk⟩) hrun rfl : execStreamTrackerTimeout n k s = _)

variable (hpres : s.dev.present n = true)
include hline hpres

theorem exec_storeBufferPerform {g : Dev → Dev} (h : s.dev.performLine n line = g s.dev) :
    exec (.storeBufferPerform n line) s = s.gives fun d => (g d).settle n := by
  refine (runDie_gives (Bool.and_eq_true_iff.2 ⟨decide_eq_true hn, decide_eq_true hline⟩) hrun ?_ : execStoreBufferPerform n line s = _)
  rw [if_pos hpres, h]
/-- Data that have come for a miss free its register and reach its agents (R223, R224). -/
theorem exec_missReturn {q : Miss} {w : LineData}
    (hq : (s.dev.cl n).misses.find? (fun y => decide (y.line = line) && y.data.isSome) = some q) (hw : q.data = some w) :
    exec (.missReturn n line) s = s.gives fun d =>
      let d := d.freeMiss n fun y => decide (y = q)
      (q.agents.foldl (fun d a => d.giveLine a line w)
        (if q.kind = .read true then d.onCl n fun c => c.l1rFill line w else d)).pumpAll n := by
  refine (runDie_gives (Bool.and_eq_true_iff.2 ⟨decide_eq_true hn, decide_eq_true hline⟩) hrun ?_ : execMissReturn n line s = _)
  simp only [hpres, if_true, Dev.missReturn, hq, hw]

end

/-! ## A prefetch that waits at its home (R222) -/

/-- The prefetches of a die for a line that have reached the line's home. -/
def Dev.waitingPrefetch (d : Dev) (die line : Nat) (z : Msg) : Bool :=
  decide (z.src = die) && decide (z.line = line) && (d.taken z || d.arrived z) && (match z.body with
    | .req r => r.prefetch
    | _ => false)

theorem exec_prefetchDrop {s : State} {die line : Nat} {x : Msg} {r : Req} (hdie : die < 8) (hline : line < 2 ^ 28)
    (hrun : s.dev.pwr.stopped = false) (hx : s.dev.coh.net.find? (s.dev.waitingPrefetch die line) = some x) (hb : x.body = .req r) :
    exec (.prefetchDrop die line) s = s.gives fun d =>
      let d := d.onCoh fun c => { c with net := eraseFirst c.net (s.dev.waitingPrefetch die line) }
      if r.kind = .rdS then d.dropPrefetch die x.cl line
      else d.onCl x.cl fun c => { c with l1rPf := c.l1rPf.filter fun q => decide (q.1 ≠ line) } := by
  refine (runDie_gives (Bool.and_eq_true_iff.2 ⟨decide_eq_true hdie, decide_eq_true hline⟩) hrun ?_ : execPrefetchDrop die line s = _)
  change (match s.dev.coh.net.find? (s.dev.waitingPrefetch die line) with
    | none => s.dev
    | some x => _) = _
  simp only [hx, hb]
  rfl

/-! ## The requests complete (R221, R223, R238, R243, R244, R259) -/

/-- Settles O34: each command is its effect on the first message of its channel, or on the line of its cluster (a line that no
partition holds: log entry 15; an order that comes early: log entry 89). -/
theorem coherenceRequestsComplete : Obligations.CoherenceRequestsComplete := by
  refine ⟨fun s m x r c hsel hx hb hrun => ⟨fun hc => ⟨fun hroom => ?_, fun e hroom hheld hnext he => ?_⟩, exec_put hsel hrun hx hb⟩,
    fun s m x hsel hrun => ⟨fun hx => ⟨fun k to_ cl pf c hb hc => ⟨?_, fun hw hz => ?_, fun z hw hz => ⟨?_, ?_, ?_⟩⟩,
      fun hb => ⟨?_, fun hw hz => ?_, fun z hw hz => ?_⟩⟩, fun hx hb => ⟨?_, fun hw hz => ?_, fun z hw hz => ?_⟩⟩,
    fun s n line hn hline hrun => ⟨fun b hpres hb hi hr hl hw => ⟨fun hp => ?_, fun p hp => ⟨fun h => ?_, fun x hhome hrep hout hx hst => ?_⟩⟩,
      fun q w hpres => exec_missReturn hn hline hrun hpres, fun k => exec_streamTrackerTimeout hn hrun,
      fun k x r hk => exec_prefetchDrop hk hline hrun⟩⟩
  · rw [exec_request s hc]
    exact runDie_gives hsel hrun (Dev.takeReq_full hx hb hroom)
  · rw [exec_request s hc]
    exact runDie_gives hsel hrun (Dev.takeReq_served hx hb hroom hheld hnext he)
  · exact (ordersDie_forward hc to_ cl pf).early hsel hrun hx hb
  · rw [(ordersDie_forward hc to_ cl pf).done hsel hrun hx hb hw, Dev.forwarded_gone hz]
    rfl
  · rintro rfl
    rw [(ordersDie_forward hc to_ cl pf).done hsel hrun hx hb hw, Dev.forwarded_stays hz (by decide)]
    rfl
  · rintro rfl
    rw [(ordersDie_forward hc to_ cl pf).done hsel hrun hx hb hw, Dev.forwarded_stays hz (by decide)]
    rfl
  · rintro rfl
    rw [(ordersDie_forward hc to_ cl pf).done hsel hrun hx hb hw, Dev.forwarded_leaves hz]
    rfl
  · exact (ordersDie_recall m).early hsel hrun hx hb
  · rw [(ordersDie_recall m).done hsel hrun hx hb hw, Dev.recalled_gone hz]
    rfl
  · rw [(ordersDie_recall m).done hsel hrun hx hb hw, Dev.recalled_leaves hz]
    rfl
  · exact (ordersDie_inv m).early hsel hrun hx hb
  · rw [(ordersDie_inv m).done hsel hrun hx hb hw, Dev.invalidated_gone hz]
    rfl
  · rw [(ordersDie_inv m).done hsel hrun hx hb hw, Dev.invalidated_leaves hz]
    rfl
  · exact exec_storeBufferPerform (g := fun d => d.bufDone n line) hn hline hrun hpres (Dev.performLine_lost hb hi hr hl hw hp)
  · exact exec_storeBufferPerform (g := fun d => d.bufReq n b .wrT) hn hline hrun hpres (Dev.performLine_through hb hi hr hl hw hp h)
  · exact exec_storeBufferPerform (g := fun d =>
        ((d.onCl n fun c => (c.track p line (decide (b.mask = BitVec.allOnes 128))).2).countClass (dieOf n) x.cls 0).bufIntoReplica n b)
      hn hline hrun hpres (Dev.performLine_inReplica hb hi hr hl hw hp hhome hrep hout hx hst)

end Sys2Proof.Machine
end

section
namespace Sys2Proof.Machine

/-! ## Bytes written into written words of a memory (R86) -/

/-- Memory `sp` of `e` holds the bytes `val` at the addresses of `D`; everything else of the memories is as it is in `d`. -/
structure Dev.BytesWritten (sp : MSpace) (D : Nat → Prop) (val : Nat → Byte) (d e : Dev) : Prop where
  mark : ∀ w, (e.mem sp).mark w = (d.mem sp).mark w
  inside : ∀ x, D x → (e.mem sp).byte x = val x
  outside : ∀ x, ¬D x → (e.mem sp).byte x = (d.mem sp).byte x
  other : ∀ sq, sq ≠ sp → e.mem sq = d.mem sq

section
variable {sp : MSpace} {D : Nat → Prop} {val : Nat → Byte} {d e : Dev} (h : Dev.BytesWritten sp D val d e)
include h

/-- Only the memories count. -/
theorem Dev.BytesWritten.congr {d' e' : Dev} (hd : ∀ sq, d'.mem sq = d.mem sq) (he : ∀ sq, e'.mem sq = e.mem sq) :
    Dev.BytesWritten sp D val d' e' :=
  ⟨fun w => by rw [hd, he, h.mark], fun x hx => by rw [he, h.inside x hx], fun x hx => by rw [hd, he, h.outside x hx],
    fun sq hsq => by rw [hd, he, h.other sq hsq]⟩
/-- The same addresses and bytes, named otherwise. -/
theorem Dev.BytesWritten.rename {D' : Nat → Prop} {val' : Nat → Byte} (hD : ∀ x, D' x ↔ D x)
    (hval : ∀ x, D x → val' x = val x) : Dev.BytesWritten sp D' val' d e :=
  ⟨h.mark, fun x hx => by rw [hval x ((hD x).1 hx), h.inside x ((hD x).1 hx)], fun x hx => h.outside x (mt (hD x).2 hx), h.other⟩
/-- One write after another. -/
theorem Dev.BytesWritten.trans {D' : Nat → Prop} {f : Dev} (h' : Dev.BytesWritten sp D' val e f) :
    Dev.BytesWritten sp (fun x => D x ∨ D' x) val d f := by
  refine ⟨fun w => (h'.mark w).trans (h.mark w), fun x hx => ?_, fun x hx => ?_, fun sq hsq => (h'.other sq hsq).trans (h.other sq hsq)⟩
  · by_cases hx' : D' x
    · exact h'.inside x hx'
    · rw [h'.outside x hx', h.inside x (hx.resolve_right hx')]
  · obtain ⟨h1, h2⟩ := not_or.1 hx
    rw [h'.outside x h2, h.outside x h1]

end

theorem Dev.bytesWritten_refl (sp : MSpace) (val : Nat → Byte) (d : Dev) : Dev.BytesWritten sp (fun _ => False) val d d :=
  ⟨fun _ => rfl, fun _ hx => hx.elim, fun _ _ => rfl, fun _ _ => rfl⟩

/-- A merge writes the bytes that its mask selects, when it selects any of a written word only. -/
theorem Dev.bytesWritten_mergeW {d : Dev} {sp : MSpace} {w : Nat} {mask : BitVec 8} (v : Word)
    (hw : ∀ i < 8, mask.getLsbD i = true → (d.mem sp).mark w = .written) :
    Dev.BytesWritten sp (fun x => x / 8 = w ∧ mask.getLsbD (x % 8) = true) (fun x => BitVec.ofNat 8 (v.toNat >>> (8 * (x % 8)))) d
      (d.mergeW sp w mask v) := by
  have hmerge : ((d.mem sp).mergeW sp.id w mask v).2 = none ∧ (∀ y, ((d.mem sp).mergeW sp.id w mask v).1.mark y = (d.mem sp).mark y) ∧
      ∀ x, ((d.mem sp).mergeW sp.id w mask v).1.byte x =
        if x / 8 = w ∧ mask.getLsbD (x % 8) then BitVec.ofNat 8 (v.toNat >>> (8 * (x % 8))) else (d.mem sp).byte x := by
    by_cases h0 : mask = 0
    · subst h0
      rw [Mem.mergeW_nothing]
      exact ⟨rfl, fun _ => rfl, fun x => by simp⟩
    · obtain ⟨i, hi, hbit⟩ : ∃ i, i < 8 ∧ mask.getLsbD i = true := by
        by_contra hno
        exact h0 (BitVec.eq_of_getLsbD_eq fun i hi => by simpa using fun hb => hno ⟨i, hi, hb⟩)
      exact Mem.mergeW_merges (hw i hi hbit)
  obtain ⟨hnone, hmark, hbyte⟩ := hmerge
  have hset : d.mergeW sp w mask v = d.setMem sp ((d.mem sp).mergeW sp.id w mask v).1 := by
    unfold Dev.mergeW
    split
    case h_1 heq => rw [heq]
    case h_2 heq => rw [heq] at hnone; cases hnone
  rw [hset]
  refine ⟨fun y => ?_, fun x hx => ?_, fun x hx => ?_, fun sq hsq => d.mem_setMem_ne sp sq _ hsq⟩
  · rw [Dev.mem_setMem_same, hmark]
  · rw [Dev.mem_setMem_same, hbyte, if_pos hx]
  · rw [Dev.mem_setMem_same, hbyte, if_neg hx]

/-- Ones in the `n` places from `o`. -/
theorem testBit_onesAt (n o i : Nat) : ((2 ^ n - 1) * 2 ^ o).testBit i = (decide (o ≤ i) && decide (i < o + n)) := by
  rw [Nat.testBit_mul_two_pow, Nat.testBit_two_pow_sub_one]
  by_cases h : o ≤ i
  · simp only [h, decide_true, Bool.true_and]
    exact decide_eq_decide.2 (by omega)
  · simp [h]

/-- A run of bytes of one written word is stored. -/
theorem Dev.bytesWritten_storeRun {d : Dev} {sp : MSpace} {r : ByteRun} (hr : r.addr % 8 + r.n ≤ 8)
    (hw : (d.mem sp).mark (r.addr / 8) = .written) :
    Dev.BytesWritten sp (fun x => r.addr ≤ x ∧ x < r.addr + r.n) (fun x => BitVec.ofNat 8 (r.val.toNat >>> (8 * (x - r.addr)))) d
      (d.storeRun sp r) := by
  refine (Dev.bytesWritten_mergeW (r.val <<< (8 * (r.addr % 8))) fun _ _ _ => hw).rename (fun x => ?_) fun x hx => ?_
  · rw [BitVec.getLsbD_ofNat, Nat.shiftLeft_eq, testBit_onesAt]
    simp only [Bool.and_eq_true, decide_eq_true_eq]
    omega
  · obtain ⟨hdiv, hbit⟩ := hx
    rw [BitVec.getLsbD_ofNat, Nat.shiftLeft_eq, testBit_onesAt] at hbit
    simp only [Bool.and_eq_true, decide_eq_true_eq] at hbit
    refine BitVec.eq_of_getLsbD_eq fun i hi => ?_
    rw [getLsbD_byteOf _ _ hi, getLsbD_byteOf _ _ hi, BitVec.getLsbD_shiftLeft]
    have hlt : 8 * (x % 8) + i < 64 := by omega
    have hge : ¬8 * (x % 8) + i < 8 * (r.addr % 8) := by omega
    have hsub : 8 * (x % 8) + i - 8 * (r.addr % 8) = 8 * (x - r.addr) + i := by omega
    simp [hlt, hge, hsub]

end Sys2Proof.Machine
end

section
namespace Sys2Proof.Machine

/-! ## A Local store leaves its queue (R259) -/

section
variable {γ : Type} {g : Cluster → γ} (hs : ∀ c s, g { c with s := s } = g c) (hg : ∀ c gs, g { c with groups := gs } = g c)
include hs hg

/-- A reservation is held in the state of an S-core or of a group. -/
theorem Dev.setResv_keeps (d : Dev) (a : Agent) (r : Option Resv) (m : Nat) : g ((d.setResv a r).cl m) = g (d.cl m) := by
  cases a with
  | sCore n =>
    rw [Dev.setResv, Dev.onS, Dev.cl_onCl]
    split
    case isTrue h => rw [h]; exact hs _ _
    case isFalse => rfl
  | group n v k =>
    cases h : d.grp (.group n v k) with
    | none => simp only [Dev.setResv, Dev.onGrp, h]
    | some x =>
      simp only [Dev.setResv, Dev.onGrp, h, Dev.setGrp, Dev.cl_onCl]
      split
      case isTrue h => rw [h]; exact hg _ _
      case isFalse => rfl
theorem Dev.killLocal_keeps (d : Dev) (n : Nat) (by_ : Option Agent) (addr len m : Nat) :
    g ((d.killLocal n by_ addr len).cl m) = g (d.cl m) := by
  refine foldl_keeps (fun e : Dev => g (e.cl m)) (fun e b => ?_) _ d
  cases h : e.resvOf b with
  | none => rfl
  | some r =>
    simp only
    split
    · exact e.setResv_keeps hs hg b none m
    · rfl
/-- A store into Local changes reservations and the waybills of its cluster alone. -/
theorem Dev.localStore_keeps (hw : ∀ c q x, g { c with wbq := q, wbRun := x } = g c) (d : Dev) (n : Nat) (by_ : Option Agent)
    (r : ByteRun) : g ((d.localStore n by_ r).cl n) = g (d.cl n) := by
  refine (congrArg g (Dev.cl_congr (Dev.clusters_mergeW _ _ _ _ _) n)).trans ?_
  rw [Dev.cl_onCl_same]
  exact (hw _ _ _).trans (d.killLocal_keeps hs hg n by_ r.addr r.n n)

end

theorem Dev.bytesWritten_localStore {d : Dev} {n : Nat} {r : ByteRun} (by_ : Option Agent) (hr : r.addr % 8 + r.n ≤ 8)
    (hw : (d.mem (.loc n)).mark (r.addr / 8) = .written) :
    Dev.BytesWritten (.loc n) (fun x => r.addr ≤ x ∧ x < r.addr + r.n) (fun x => BitVec.ofNat 8 (r.val.toNat >>> (8 * (x - r.addr)))) d
      (d.localStore n by_ r) := by
  have hmem (sp : MSpace) : ((d.killLocal n by_ r.addr r.n).onCl n fun c => c.touch none r.addr r.n).mem sp = d.mem sp := by
    rw [Dev.mem_onCl, Dev.mem_killLocal]
  exact (Dev.bytesWritten_storeRun hr (by rw [hmem, hw])).congr (fun sp => (hmem sp).symm) fun _ => rfl

section
variable {d : Dev} {n : Nat} {e : StoreEntry} {r : ByteRun} {rest : List StoreEntry} (hq : (d.cl n).qS = e :: rest)
  (hruns : e.runs = [r]) (hl : r.addr < localSize) (hrel : e.relSy = false) (hbuf : (d.cl n).buf.length ≤ 64)
include hq hruns hl hrel hbuf

/-- A store of one run of Local leaves the queue of its core: nothing of the store buffer keeps it back. -/
theorem Dev.drainOne_local :
    d.drainOne n 0 = ((d.onCl n fun c => { c with qS := rest }).localStore n (some e.by_) r).onCl n fun c => c := by
  have hq' : (d.cl n).q 0 = e :: rest := hq
  have hroom : ¬(d.cl n).buf.length > 64 := Nat.not_lt.2 hbuf
  simp [Dev.drainOne, hq', hruns, hl, hrel, hroom, Cluster.setQ]
/-- It takes its entry from the queue, and ends nothing in its cluster. -/
theorem Dev.cl_drainOne_local : ((d.drainOne n 0).cl n).qS = rest ∧ ((d.drainOne n 0).cl n).launches = (d.cl n).launches ∧
    ((d.drainOne n 0).cl n).run = (d.cl n).run := by
  have h := Dev.localStore_keeps (g := fun c => (c.qS, c.launches, c.run)) (fun _ _ => rfl) (fun _ _ => rfl) (fun _ _ _ => rfl)
    (d.onCl n fun c => { c with qS := rest }) n (some e.by_) r
  rw [Dev.cl_onCl_same] at h
  rw [Dev.drainOne_local hq hruns hl hrel hbuf, Dev.cl_onCl_same]
  simpa only [Prod.mk.injEq] using h
theorem Dev.bytesWritten_drainOne (hr : r.addr % 8 + r.n ≤ 8) (hw : (d.mem (.loc n)).mark (r.addr / 8) = .written) :
    Dev.BytesWritten (.loc n) (fun x => r.addr ≤ x ∧ x < r.addr + r.n) (fun x => BitVec.ofNat 8 (r.val.toNat >>> (8 * (x - r.addr)))) d
      (d.drainOne n 0) := by
  rw [Dev.drainOne_local hq hruns hl hrel hbuf]
  exact (Dev.bytesWritten_localStore (some e.by_) hr (by rw [Dev.mem_onCl, hw])).congr (fun sp => (Dev.mem_onCl _ _ _ sp).symm)
    fun sp => Dev.mem_onCl _ _ _ sp

end

theorem State.mem_onDev (s : State) (f : Dev → Dev) (sp : MSpace) : (s.onDev f).dev.mem sp = (f s.dev).mem sp := by cases sp <;> rfl

/-- Settles O14: the head leaves the queue, the bytes of its run are stored, and nothing ends in the calm cluster. -/
theorem drainWritesItsBytes : Obligations.DrainWritesItsBytes := by
  intro s n e r rest hn hpres hcalm hq hruns hend hpos hr hrel hrun hbuf hw
  have hl : r.addr < localSize := by omega
  obtain ⟨hqS, hlaunches, hcmd⟩ := Dev.cl_drainOne_local hq hruns hl hrel hbuf
  have hset := Dev.settle_calm _ n ((Dev.calm_congr hlaunches hcmd).trans hcalm)
  have hexec : exec (.storeQueueDrain n .s) s = s.gives fun d => (d.drainOne n 0).settle n :=
    (runDie_gives (decide_eq_true hn) hrun (if_pos hpres) : execStoreQueueDrain n .s s = _)
  have hbytes := (Dev.bytesWritten_drainOne hq hruns hl hrel hbuf hr hw).congr (fun _ => rfl) fun sp =>
    (s.mem_onDev (fun d => (d.drainOne n 0).settle n) sp).trans (by rw [hset, Dev.mem_setCl])
  refine ⟨_, hexec, ?_, fun x hlo hhi => hbytes.inside x ⟨hlo, hhi⟩, fun x hx => hbytes.outside x (by omega),
    fun sp x hsp => by rw [hbytes.other sp hsp]⟩
  change (((s.dev.drainOne n 0).settle n).cl n).qS = rest
  rw [hset, Dev.cl_setCl_same, hqS]

end Sys2Proof.Machine
end

section
namespace Sys2Proof.Machine

/-! ## A line's bytes are written (R86) -/

/-- A byte of a word of a line. -/
theorem byteOf_lineWord (data : Line) (k : Nat) {i : Nat} (hi : i < 8) :
    BitVec.ofNat 8 ((BitVec.ofNat 64 (fld data (64 * k + 63) (64 * k))).toNat >>> (8 * i)) =
      BitVec.ofNat 8 (data.toNat >>> (8 * (8 * k + i))) := by
  refine BitVec.eq_of_getLsbD_eq fun j hj => ?_
  have hlt : 8 * i + j < 64 := by omega
  have hlt' : 8 * i + j < 64 * k + 63 + 1 - 64 * k := by omega
  rw [getLsbD_byteOf _ _ hj, BitVec.getLsbD_ofNat, testBit_fld, BitVec.getLsbD_ofNat, Nat.testBit_shiftRight, BitVec.testBit_toNat,
    show 8 * (8 * k + i) + j = 64 * k + (8 * i + j) by omega]
  simp [hlt, hlt', hj]
/-- A bit of a word's part of a line's mask. -/
theorem getLsbD_wordMask (mask : Mask) (k : Nat) {i : Nat} (hi : i < 8) :
    (BitVec.ofNat 8 (fld mask (8 * k + 7) (8 * k))).getLsbD i = mask.getLsbD (8 * k + i) := by
  have hlt : i < 8 * k + 7 + 1 - 8 * k := by omega
  rw [BitVec.getLsbD_ofNat, testBit_fld]
  simp [hi, hlt]

/-- The first `n` words of a line's masked bytes are written. -/
def Dev.writeWords (d : Dev) (sp : MSpace) (addr : Nat) (mask : Mask) (data : Line) (n : Nat) : Dev :=
  (List.range n).foldl (fun d k => d.mergeW sp (addr / 8 + k) (BitVec.ofNat 8 (fld mask (8 * k + 7) (8 * k)))
    (BitVec.ofNat 64 (fld data (64 * k + 63) (64 * k)))) d
theorem Dev.writeLine_eq_writeWords (d : Dev) (sp : MSpace) (addr : Nat) (mask : Mask) (data : Line) :
    d.writeLine sp addr mask data = d.writeWords sp addr mask data 16 := rfl
theorem Dev.writeWords_succ (d : Dev) (sp : MSpace) (addr : Nat) (mask : Mask) (data : Line) (n : Nat) :
    d.writeWords sp addr mask data (n + 1) = (d.writeWords sp addr mask data n).mergeW sp (addr / 8 + n)
      (BitVec.ofNat 8 (fld mask (8 * n + 7) (8 * n))) (BitVec.ofNat 64 (fld data (64 * n + 63) (64 * n))) := by
  rw [Dev.writeWords, List.range_succ, List.foldl_append, List.foldl_cons, List.foldl_nil, Dev.writeWords]

section
variable {d : Dev} {sp : MSpace} {addr : Nat} {mask : Mask} (data : Line) (h8 : addr % 8 = 0)
  (hw : ∀ i < 128, mask.getLsbD i = true → (d.mem sp).mark ((addr + i) / 8) = .written)
include h8 hw

/-- The masked bytes of words are written, when those selected lie in written words. -/
theorem Dev.bytesWritten_writeWords {n : Nat} (hn : n ≤ 16) :
    Dev.BytesWritten sp (fun x => addr ≤ x ∧ x < addr + 8 * n ∧ mask.getLsbD (x - addr) = true)
      (fun x => BitVec.ofNat 8 (data.toNat >>> (8 * (x - addr)))) d (d.writeWords sp addr mask data n) := by
  induction n with
  | zero => exact (d.bytesWritten_refl sp _).rename (fun x => iff_of_false (fun hx => by omega) id) fun _ _ => rfl
  | succ n ih =>
    have hprev := ih (Nat.le_of_succ_le hn)
    have hmark (i : Nat) (hi : i < 8) (hbit : (BitVec.ofNat 8 (fld mask (8 * n + 7) (8 * n))).getLsbD i = true) :
        ((d.writeWords sp addr mask data n).mem sp).mark (addr / 8 + n) = .written := by
      rw [getLsbD_wordMask _ _ hi] at hbit
      rw [hprev.mark, ← hw (8 * n + i) (by omega) hbit, show (addr + (8 * n + i)) / 8 = addr / 8 + n by omega]
    have hword := Dev.bytesWritten_mergeW (BitVec.ofNat 64 (fld data (64 * n + 63) (64 * n))) hmark
    have hplace (x : Nat) (hx : x / 8 = addr / 8 + n) : 8 * n + x % 8 = x - addr := by omega
    rw [Dev.writeWords_succ]
    refine (hprev.trans (hword.rename (D' := fun x => x / 8 = addr / 8 + n ∧ mask.getLsbD (x - addr) = true) (fun x => ?_)
      fun x hx => ?_)).rename (fun x => ?_) fun _ _ => rfl
    · refine and_congr_right fun hx => ?_
      rw [getLsbD_wordMask _ _ (Nat.mod_lt x (by decide)), hplace x hx]
    · rw [byteOf_lineWord _ _ (Nat.mod_lt x (by decide)), hplace x hx.1]
    · have hdiv : x / 8 = addr / 8 + n ↔ addr + 8 * n ≤ x ∧ x < addr + 8 * (n + 1) := by omega
      rw [hdiv]
      grind
theorem Dev.bytesWritten_writeLine :
    Dev.BytesWritten sp (fun x => addr ≤ x ∧ x < addr + 128 ∧ mask.getLsbD (x - addr) = true)
      (fun x => BitVec.ofNat 8 (data.toNat >>> (8 * (x - addr)))) d (d.writeLine sp addr mask data) := by
  rw [Dev.writeLine_eq_writeWords]
  exact Dev.bytesWritten_writeWords data h8 hw le_rfl

end

end Sys2Proof.Machine
end

section
namespace Sys2Proof.Machine

/-! ## What a host's access leaves alone -/

/-- The memories, the host writes that wait and what the ports track. -/
def Dev.hostWork (d : Dev) : Mem × NMap Mem × List HostPend × List HostTrk := (d.commons, d.loc, d.hostQ, d.hostTrk)
theorem Dev.mem_of_hostWork {d e : Dev} (h : e.hostWork = d.hostWork) (sp : MSpace) : e.mem sp = d.mem sp := by
  obtain ⟨hc, hl, -, -⟩ : e.commons = d.commons ∧ e.loc = d.loc ∧ e.hostQ = d.hostQ ∧ e.hostTrk = d.hostTrk := by
    simpa only [Dev.hostWork, Prod.mk.injEq] using h
  cases sp with
  | loc n => rw [Dev.mem, Dev.mem, hl]
  | com => exact hc
theorem Dev.onlyReports.hostWork {d e : Dev} (h : d.onlyReports e) : e.hostWork = d.hostWork := by
  obtain ⟨⟨_, _, _, rfl⟩, -⟩ := h
  rfl
theorem Dev.hostWork_ledgerWrite (d : Dev) (entry : Word) : (d.ledgerWrite entry).hostWork = d.hostWork := by
  unfold Dev.ledgerWrite
  dsimp only
  split
  · rfl
  · split
    · exact ((Dev.onlyReports_refl _).raise _ _ _).hostWork
    · split <;> rfl
theorem Dev.hostWork_ledgerPush (d : Dev) (entry : Word) : (d.ledgerPush entry).hostWork = d.hostWork := by
  unfold Dev.ledgerPush Dev.ledgerFlush
  split
  · rfl
  · split
    · exact foldl_keeps Dev.hostWork (fun e x => e.hostWork_ledgerWrite x) _ _
    · rfl
theorem Dev.hostWork_notePage (d : Dev) (line : Nat) : (d.notePage line).hostWork = d.hostWork := by
  unfold Dev.notePage
  extract_lets page twin e
  have he : e.hostWork = d.hostWork := by
    unfold e
    split <;> rfl
  split
  · exact he
  · split
    · exact he
    · split
      · exact (Dev.hostWork_ledgerPush _ _).trans he
      · exact he
theorem Dev.hostWork_checkEbr (d : Dev) (p cls : Nat) : (d.checkEbr p cls).hostWork = d.hostWork := by
  unfold Dev.checkEbr
  dsimp only
  split
  · exact ((Dev.onlyReports_refl _).fault _ _ _ _ _ _ _).hostWork
  · rfl
theorem Dev.hostWork_countLeave (d : Dev) (die : Nat) (x : RepLine) : (d.countLeave die x).hostWork = d.hostWork := by
  unfold Dev.countLeave
  split
  · rfl
  · unfold Dev.countClass
    split
    · rfl
    · exact Dev.hostWork_checkEbr _ _ _

/-- Counting the messages of a recall changes registers alone. -/
theorem Dev.countAway_eq (d : Dev) (line : Nat) (atm : Bool) : ∃ regs, d.countAway line atm = { d with regs := regs } := by
  unfold Dev.countAway
  dsimp only
  repeat' split
  all_goals exact ⟨_, rfl⟩
/-- With no owner's data to bring home, a recall leaves the memories as they are. -/
theorem Dev.hostWork_recallAll {d : Dev} {line : Nat} (h : d.ownerData line = none) (atm : Bool) :
    (d.recallAll line atm).hostWork = d.hostWork := by
  obtain ⟨regs, hcount⟩ := d.countAway_eq line atm
  have hnone : Dev.ownerData { d with regs := regs } line = none := h
  unfold Dev.recallAll
  simp only [hcount, hnone]
  refine (foldl_keeps Dev.hostWork (fun e die => ?_) _ _ : _ = Dev.hostWork { d with regs := regs })
  split
  · exact Dev.hostWork_countLeave _ _ _
  · rfl
theorem Dev.healServed_eq (d : Dev) (w : Holder) (line : Nat) :
    ∃ heals heldBy, d.healServed w line = { d with heals := heals, heldBy := heldBy } := by
  unfold Dev.healServed Dev.healOver
  dsimp only
  split
  · exact ⟨_, _, rfl⟩
  · exact ⟨_, _, rfl⟩

/-- What comes before the bytes of a host's write leaves the memories and the ports' writes, with no owner's data to bring home. -/
theorem Dev.hostWork_beforeWrite {d : Dev} {line : Nat} (h : d.ownerData line = none) (w : Holder) :
    ((((d.healServed w line).killResv line).recallAll line false).notePage line).hostWork = d.hostWork := by
  obtain ⟨heals, heldBy, hheal⟩ := d.healServed_eq w line
  rw [hheal]
  obtain ⟨net, resv, hkill⟩ := Dev.killResv_eq { d with heals := heals, heldBy := heldBy } line
  rw [Dev.hostWork_notePage, hkill]
  exact Dev.hostWork_recallAll
    (d := Dev.onCoh { d with heals := heals, heldBy := heldBy } fun c => { c with net := c.net ++ net, resv := resv }) h false

/-! ## The bytes of a host's write (R342) -/

theorem lineAddr_lineOf (a : Nat) (h : commonsBase ≤ a) : lineAddr (lineOf a) = a - a % 128 := by
  unfold lineAddr lineOf commonsBase at *
  omega
/-- The mask of a host's write selects its bytes. -/
theorem HostPend.getLsbD_mask (q : HostPend) {i : Nat} (hi : i < 128) :
    q.mask.getLsbD i = (decide (q.addr % 128 ≤ i) && decide (i < q.addr % 128 + q.size)) := by
  rw [HostPend.mask, BitVec.getLsbD_ofNat, testBit_onesAt, decide_eq_true hi, Bool.true_and]
/-- The line of a host's write holds its data from its address on. -/
theorem HostPend.byteOf_line (q : HostPend) {i : Nat} (hi : i < q.size) (hq : q.addr % 128 + q.size ≤ 128) :
    BitVec.ofNat 8 (q.line.toNat >>> (8 * (q.addr % 128 + i))) = BitVec.ofNat 8 (q.data.toNat / 256 ^ i) := by
  have h256 (k : Nat) : 256 ^ k = 2 ^ (8 * k) := pow_mul 2 8 k ▸ rfl
  refine BitVec.eq_of_getLsbD_eq fun j hj => ?_
  have hlt : 8 * (q.addr % 128 + i) + j < 1024 := by omega
  have hge : 8 * (q.addr % 128) ≤ 8 * (q.addr % 128 + i) + j := by omega
  have hsub : 8 * (q.addr % 128 + i) + j - 8 * (q.addr % 128) = 8 * i + j := by omega
  have hsize : 8 * i + j < 8 * q.size := by omega
  rw [BitVec.getLsbD_ofNat, BitVec.getLsbD_ofNat, Nat.testBit_shiftRight, BitVec.testBit_toNat, HostPend.line, BitVec.getLsbD_ofNat, h256,
    h256, h256, Nat.testBit_mul_two_pow, Nat.testBit_mod_two_pow, Nat.testBit_div_two_pow, hsub]
  simp only [hlt, hge, hsize, hj, decide_true, Bool.true_and, Nat.add_comm j]

/-- A host's write that finds no owner's data writes its bytes. -/
theorem Dev.bytesWritten_hostWrite {d : Dev} {q : HostPend} (hbase : commonsBase ≤ q.addr) (hq : q.addr % 128 + q.size ≤ 128)
    (hnone : d.ownerData (lineOf q.addr) = none)
    (hw : ∀ x, q.addr ≤ x → x < q.addr + q.size → (d.mem .com).mark (x / 8) = .written) (w : Holder) :
    Dev.BytesWritten .com (fun x => q.addr ≤ x ∧ x < q.addr + q.size) (fun x => BitVec.ofNat 8 (q.data.toNat / 256 ^ (x - q.addr))) d
      ((d.healServed w (lineOf q.addr)).syncWrite (lineOf q.addr) q.mask q.line) := by
  have hmem := Dev.mem_of_hostWork (Dev.hostWork_beforeWrite hnone w)
  have haddr := lineAddr_lineOf q.addr hbase
  have hsel (i : Nat) (hi : i < 128) : q.mask.getLsbD i = true ↔ q.addr % 128 ≤ i ∧ i < q.addr % 128 + q.size := by
    rw [q.getLsbD_mask hi, Bool.and_eq_true, decide_eq_true_eq, decide_eq_true_eq]
  unfold Dev.syncWrite
  refine ((Dev.bytesWritten_writeLine q.line (by omega) fun i hi hbit => ?_).congr (fun sp => (hmem sp).symm) fun _ => rfl).rename
    (fun x => ?_) fun x hx => ?_
  · rw [hmem]
    have := (hsel i hi).1 hbit
    exact hw _ (by omega) (by omega)
  · constructor
    · exact fun hx => ⟨by omega, by omega, (hsel _ (by omega)).2 (by omega)⟩
    · rintro ⟨hlo, hhi, hbit⟩
      have := (hsel _ (by omega)).1 hbit
      omega
  · obtain ⟨hlo, hhi, hbit⟩ := hx
    have := (hsel _ (by omega)).1 hbit
    rw [show x - lineAddr (lineOf q.addr) = q.addr % 128 + (x - q.addr) by omega]
    exact (q.byteOf_line (by omega) hq).symm

end Sys2Proof.Machine
end

section
namespace Sys2Proof.Machine

/-! ## The writes of a port, in the order of their arrival (R273) -/

/-- A port with no write that waits performs none. -/
theorem hostPump_idle {d : Dev} {p : Nat} (h : ∀ q ∈ d.hostQ, q.port ≠ p) (fuel : Nat) : hostPump fuel p d = d := by
  have hnone : d.hostQ.find? (fun q => decide (q.port = p)) = none := List.find?_eq_none.2 fun q hq => by simpa using h q hq
  cases fuel with
  | zero => rfl
  | succ fuel => simp only [hostPump, hnone]
theorem Dev.pumpHost_idle {d : Dev} {p : Nat} (h : ∀ q ∈ d.hostQ, q.port ≠ p) : d.pumpHost p = d := hostPump_idle h _

section
variable {d e : Dev} {p : Nat} {q : HostPend} (hq : d.hostQ.find? (fun q => decide (q.port = p)) = some q)
include hq

theorem Dev.hostQ_length_pos : ∃ k, d.hostQ.length = k + 1 :=
  Nat.exists_eq_add_one.2 (List.length_pos_of_mem (List.mem_of_find?_eq_some hq))
/-- While the oldest write of a port cannot be performed, the port's writes wait. -/
theorem Dev.pumpHost_waits (h : d.hostTry q = (false, e)) : d.pumpHost p = e := by
  obtain ⟨k, hk⟩ := Dev.hostQ_length_pos hq
  simp only [Dev.pumpHost, hk, hostPump, hq, h]
/-- A port that performs its only write performs no other. -/
theorem Dev.pumpHost_performs (h : d.hostTry q = (true, e)) {l : List HostPend} (he : eraseFirst e.hostQ (fun x => decide (x = q)) = l)
    (hl : ∀ y ∈ l, y.port ≠ p) : d.pumpHost p = { e with hostQ := l } := by
  obtain ⟨k, hk⟩ := Dev.hostQ_length_pos hq
  simp only [Dev.pumpHost, hk, hostPump, hq, h, he]
  exact hostPump_idle hl k

end

/-- A write that comes to a port where none waits is the port's oldest. -/
theorem find?_append_newest {l : List HostPend} {w : HostPend} (h : ∀ q ∈ l, q.port ≠ w.port) :
    (l ++ [w]).find? (fun q => decide (q.port = w.port)) = some w := by
  rw [List.find?_append, List.find?_eq_none.2 fun q hq => by simpa using h q hq]
  simp
theorem eraseFirst_append_newest {l : List HostPend} {w : HostPend} (h : ∀ q ∈ l, q.port ≠ w.port) :
    eraseFirst (l ++ [w]) (fun x => decide (x = w)) = l := by
  induction l with
  | nil => simp [eraseFirst]
  | cons y l ih =>
    have hy : y ≠ w := fun e => h y (List.mem_cons_self ..) (congrArg HostPend.port e)
    rw [List.cons_append, eraseFirst, decide_eq_false hy, if_neg Bool.false_ne_true, ih fun q hq => h q (List.mem_cons_of_mem _ hq)]

/-! ## A line that is free for a host's access (R342) -/

theorem Dev.healHold_eq_none {d : Dev} {w : Holder} {line : Nat} :
    d.healHold w line = none ↔ d.healing line = false ∧ d.needsHeal line = false := by
  unfold Dev.healHold
  dsimp only
  cases d.healing line <;> cases d.needsHeal line <;> simp

/-- The line of an address in an active HOST_MEM partition is free for an access of a port. -/
structure Dev.FreeForHost (d : Dev) (p a : Nat) : Prop where
  full : d.full = true
  mapped : (d.hostMem a).isNone = false
  other : (d.hostTrk.any fun t => decide (t.port ≠ p) && decide (t.line / 2 = lineOf a)) = false
  whole : d.healHold (.host p) (lineOf a) = none
  quiet : d.hostQuiet (lineOf a) = true

/-- The writes that wait do not matter for it. -/
theorem Dev.FreeForHost.withQueue {d : Dev} {p a : Nat} (h : d.FreeForHost p a) (l : List HostPend) :
    Dev.FreeForHost { d with hostQ := l } p a := by
  obtain ⟨hfull, hmap, hother, hwhole, hquiet⟩ := h
  obtain ⟨hheal, hneed⟩ := Dev.healHold_eq_none.1 hwhole
  exact ⟨hfull, hmap, hother, Dev.healHold_eq_none.2 ⟨hheal, hneed⟩, hquiet⟩
theorem Dev.hostTry_free {d : Dev} {q : HostPend} (h : d.FreeForHost q.port q.addr) (hr : q.resp = false) :
    d.hostTry q = (true, (d.healServed (.host q.port) (lineOf q.addr)).syncWrite (lineOf q.addr) q.mask q.line) := by
  obtain ⟨hfull, hmap, hother, hwhole, hquiet⟩ := h
  rw [Dev.hostTry]
  simp only [hr, hfull, hmap, hother, hwhole, hquiet, Bool.not_true, Bool.false_eq_true, or_self, if_false]

end Sys2Proof.Machine
end

section
namespace Sys2Proof.Machine

/-! ## A host's read (R342) -/

theorem Dev.onlyReports.hostTrk {d e : Dev} (h : d.onlyReports e) : e.hostTrk = d.hostTrk := by
  obtain ⟨⟨_, _, _, rfl⟩, -⟩ := h
  rfl
theorem Dev.onlyReports.hostQ {d e : Dev} (h : d.onlyReports e) : e.hostQ = d.hostQ := by
  obtain ⟨⟨_, _, _, rfl⟩, -⟩ := h
  rfl
theorem Dev.hostTrk_homeLine (d : Dev) (line : Nat) : (d.homeLine line).2.hostTrk = d.hostTrk := by
  unfold Dev.homeLine
  exact Dev.readLine_keeps (fun _ _ => rfl) (fun _ _ => Dev.onlyReports.hostTrk) d (lineAddr line)
/-- A read at the home leaves what the ports track. -/
theorem Dev.hostTrk_syncRead (d : Dev) (line : Nat) : (d.syncRead line).2.hostTrk = d.hostTrk := by
  unfold Dev.syncRead
  split
  · split
    · split
      · rfl
      · exact d.hostTrk_homeLine line
    · exact d.hostTrk_homeLine line
  · exact d.hostTrk_homeLine line

/-- Whether a port tracks the 64-byte line of an HDM address. -/
def Dev.tracks (d : Dev) (p addr : Nat) : Bool := d.hostTrk.any fun t => decide (t.port = p) && decide (t.line = addr / 64)
/-- How many lines a port tracks. -/
def Dev.tracked (d : Dev) (p : Nat) : Nat := (d.hostTrk.filter fun t => decide (t.port = p)).length
/-- A host's read that is answered: the line is read at its home and tracked. -/
def Dev.hostRead (d : Dev) (p addr size : Nat) : Dev :=
  let line := lineOf (commonsBase + addr)
  let r := (d.healServed (.host p) line).syncRead line
  { r.2 with
    hostAns := some (.memRead p (lineBytes r.1 ((commonsBase + addr) % 128) size))
    hostTrk := if d.tracks p addr then r.2.hostTrk else r.2.hostTrk ++ [{ port := p, line := addr / 64, snoop := false }] }
theorem Dev.tracks_hostRead (d : Dev) (p addr size : Nat) : (d.hostRead p addr size).tracks p addr = true := by
  obtain ⟨heals, heldBy, h⟩ := d.healServed_eq (.host p) (lineOf (commonsBase + addr))
  unfold Dev.hostRead Dev.tracks
  simp only [Dev.hostTrk_syncRead, h]
  split
  case isTrue hmine => exact hmine
  case isFalse => simp

theorem any_port_idle {l : List HostPend} {p : Nat} (h : ∀ q ∈ l, q.port ≠ p) (f : HostPend → Bool) :
    (l.any fun q => decide (q.port = p) && f q) = false :=
  List.any_eq_false.2 fun q hq => by simp [h q hq]

section
variable {s : State} {p addr size : Nat} (hok : hdmOk p addr size = true) (hup : s.dev.portUp p = true)
  (hidle : ∀ q ∈ s.dev.hostQ, q.port ≠ p)
include hok hup hidle

theorem exec_hostMemRead_outside (hm : s.dev.hostMem (commonsBase + addr) = none) :
    exec (.hostMemRead p addr size) s = s.gives fun d => { d with hostAns := some (.memRead p (List.replicate size none)) } := by
  refine (run_gives hok ?_ : execHostMemRead p addr size s = _)
  simp only [Dev.pumpHost_idle hidle, hup, any_port_idle hidle, hm, Bool.not_true, Bool.or_self, Bool.false_eq_true, if_false,
    Option.isNone_none, true_or, if_true]

variable (hf : s.dev.FreeForHost p (commonsBase + addr))
include hf

/-- A port whose tracker is full frees its oldest entry first. -/
theorem exec_hostMemRead_trackerFull (hmine : s.dev.tracks p addr = false) (hfull : 1048576 ≤ s.dev.tracked p) :
    exec (.hostMemRead p addr size) s = s.gives fun d =>
      { d with hostTrk := updFirst d.hostTrk (fun t => decide (t.port = p)) fun t => { t with snoop := true } } := by
  obtain ⟨hdie, hmap, hother, hwhole, hquiet⟩ := hf
  unfold Dev.tracks at hmine
  unfold Dev.tracked at hfull
  refine (run_gives hok ?_ : execHostMemRead p addr size s = _)
  simp only [Dev.pumpHost_idle hidle, hup, any_port_idle hidle, hdie, hmap, hother, hwhole, hquiet, hmine, hfull, Bool.not_true, Bool.or_self,
    Bool.false_eq_true, or_self, if_false, Bool.not_false, decide_true, Bool.and_self, if_true]
theorem exec_hostMemRead_answers (h : s.dev.tracks p addr = true ∨ ¬1048576 ≤ s.dev.tracked p) :
    exec (.hostMemRead p addr size) s = s.gives fun d => d.hostRead p addr size := by
  obtain ⟨hdie, hmap, hother, hwhole, hquiet⟩ := hf
  have hroom : (!(s.dev.hostTrk.any fun t => decide (t.port = p) && decide (t.line = addr / 64)) &&
      decide ((s.dev.hostTrk.filter fun t => decide (t.port = p)).length ≥ 1048576)) = false := by
    rw [Bool.and_eq_false_iff]
    exact h.imp (congrArg not) decide_eq_false
  refine (run_gives hok ?_ : execHostMemRead p addr size s = _)
  simp only [Dev.pumpHost_idle hidle, hup, any_port_idle hidle, hdie, hmap, hother, hwhole, hquiet, hroom, Bool.not_true, Bool.or_self,
    Bool.false_eq_true, or_self, if_false]
  rfl

end

/-! ## A host's write (R273, R342) -/

section
variable {s : State} {p addr size : Nat} {data : BitVec 512} (hok : hdmOk p addr size = true)
include hok

theorem exec_hostMemWrite_outside (hm : s.dev.hostMem (commonsBase + addr) = none) :
    exec (.hostMemWrite p addr size data) s = s.gives id := by
  refine (run_gives hok ?_ : execHostMemWrite p addr size data s = _)
  simp only [hm, Option.isNone_none, true_or, or_true, if_true, id]

variable (hup : s.dev.portUp p = true) (hdie : s.dev.full = true) (hmap : (s.dev.hostMem (commonsBase + addr)).isNone = false)
include hup hdie hmap

/-- A write joins those of its port, which then performs what it can. -/
theorem exec_hostMemWrite_joins : exec (.hostMemWrite p addr size data) s = s.gives fun d =>
    Dev.pumpHost { d with hostQ := d.hostQ ++ [{ resp := false, port := p, addr := commonsBase + addr, size := size, data := data }] } p := by
  refine (run_gives hok ?_ : execHostMemWrite p addr size data s = _)
  simp only [hup, hdie, hmap, Bool.not_true, Bool.false_eq_true, or_self, if_false]

end

section
variable {d : Dev} {w : HostPend} (hnone : d.ownerData (lineOf w.addr) = none)
include hnone

theorem Dev.hostQ_hostWrite (h : Holder) :
    ((d.healServed h (lineOf w.addr)).syncWrite (lineOf w.addr) w.mask w.line).hostQ = d.hostQ := by
  have hbefore := Dev.hostWork_beforeWrite hnone h
  simp only [Dev.hostWork, Prod.mk.injEq] at hbefore
  obtain ⟨-, -, hq, -⟩ := hbefore
  exact (Dev.writeLine_keeps (g := Dev.hostQ) (fun _ _ => rfl) (fun _ _ => Dev.onlyReports.hostQ) _ _ _ _).trans hq

variable (hf : d.FreeForHost w.port w.addr) (hresp : w.resp = false) (hidle : ∀ q ∈ d.hostQ, q.port ≠ w.port)
include hf hresp hidle

/-- A port where no write waits performs one to a free line. -/
theorem Dev.pumpHost_free : Dev.pumpHost { d with hostQ := d.hostQ ++ [w] } w.port =
    { (Dev.healServed { d with hostQ := d.hostQ ++ [w] } (.host w.port) (lineOf w.addr)).syncWrite (lineOf w.addr) w.mask w.line with
      hostQ := d.hostQ } := by
  refine Dev.pumpHost_performs (find?_append_newest hidle) (Dev.hostTry_free (hf.withQueue _) hresp) ?_ hidle
  rw [Dev.hostQ_hostWrite (d := { d with hostQ := d.hostQ ++ [w] }) hnone]
  exact eraseFirst_append_newest hidle
theorem Dev.bytesWritten_pumpHost (hbase : commonsBase ≤ w.addr) (hsize : w.addr % 128 + w.size ≤ 128)
    (hw : ∀ x, w.addr ≤ x → x < w.addr + w.size → (d.mem .com).mark (x / 8) = .written) :
    Dev.BytesWritten .com (fun x => w.addr ≤ x ∧ x < w.addr + w.size) (fun x => BitVec.ofNat 8 (w.data.toNat / 256 ^ (x - w.addr))) d
      (Dev.pumpHost { d with hostQ := d.hostQ ++ [w] } w.port) := by
  rw [Dev.pumpHost_free hnone hf hresp hidle]
  exact (Dev.bytesWritten_hostWrite (d := { d with hostQ := d.hostQ ++ [w] }) hbase hsize hnone hw _).congr
    (fun sq => by cases sq <;> rfl) fun sq => by cases sq <;> rfl

end

/-- A host's access stays within a line. -/
theorem hdmOk_line {p addr size : Nat} (h : hdmOk p addr size = true) : (commonsBase + addr) % 128 + size ≤ 128 := by
  simp only [hdmOk, Bool.and_eq_true, decide_eq_true_eq] at h
  unfold commonsBase
  omega

/-- Settles O50: a port takes its writes in the order of their arrival, and an access to a free line is performed at its home
(a full tracker gives up its oldest entry: log entry 22). -/
theorem hostMemoryComplete : Obligations.HostMemoryComplete := by
  intro s p addr size data hok hup a line free mine full
  have hfree (h : free) : (∀ q ∈ s.dev.hostQ, q.port ≠ p) ∧ s.dev.FreeForHost p a := by
    obtain ⟨hdie, hmap, hidle, hother, hwhole, hquiet⟩ := h
    exact ⟨hidle, hdie, Option.isNone_eq_false_iff.2 hmap, hother, hwhole, hquiet⟩
  refine ⟨fun hm => ⟨fun hidle => exec_hostMemRead_outside hok hup hidle hm, exec_hostMemWrite_outside hok hm⟩,
    fun hdie hmap => ?order, fun h hmine hfull => ?full, fun h hroom => ?read, fun h _ _ _ hnone hw => ?write⟩
  case order =>
    intro w e q hq htry
    exact (exec_hostMemWrite_joins hok hup hdie (Option.isNone_eq_false_iff.2 hmap)).trans
      (State.gives_congr (Dev.pumpHost_waits hq (Prod.ext htry rfl)))
  case full =>
    obtain ⟨hidle, hf⟩ := hfree h
    exact exec_hostMemRead_trackerFull hok hup hidle hf (Bool.eq_false_iff.2 hmine) hfull
  case read =>
    obtain ⟨hidle, hf⟩ := hfree h
    exact ⟨_, exec_hostMemRead_answers hok hup hidle hf hroom, rfl, s.dev.tracks_hostRead p addr size⟩
  case write =>
    obtain ⟨hidle, hf⟩ := hfree h
    have hbytes := (Dev.bytesWritten_pumpHost (w := { resp := false, port := p, addr := a, size := size, data := data }) hnone hf rfl hidle
      (Nat.le_add_right _ _) (hdmOk_line hok) hw).congr (fun _ => rfl) (s.mem_onDev fun d =>
        Dev.pumpHost { d with hostQ := d.hostQ ++ [{ resp := false, port := p, addr := a, size := size, data := data }] } p)
    refine ⟨_, exec_hostMemWrite_joins hok hup hf.full hf.mapped, fun i hi => ?_,
      fun x hx => hbytes.outside x fun hin => hx.elim (Nat.not_lt.2 hin.1) (Nat.not_le.2 hin.2),
      fun k x => by rw [hbytes.other (.loc k) nofun]⟩
    rw [hbytes.inside (a + i) ⟨Nat.le_add_right _ _, Nat.add_lt_add_left hi a⟩, Nat.add_sub_cancel_left]

end Sys2Proof.Machine
end

section
namespace Sys2Proof.Machine

/-! ## The words of a run of bytes (R86) -/

/-- A sum of distinct powers of two has just these bits. -/
theorem testBit_foldl_two_pow (p : Nat → Bool) (n : Nat) :
    (List.range n).foldl (fun acc i => if p i then acc + 2 ^ i else acc) 0 < 2 ^ n ∧
    ∀ i, ((List.range n).foldl (fun acc i => if p i then acc + 2 ^ i else acc) 0).testBit i = (decide (i < n) && p i) := by
  induction n with
  | zero => simp
  | succ n ih =>
    obtain ⟨hlt, hbit⟩ := ih
    rw [List.range_succ, List.foldl_append, List.foldl_cons, List.foldl_nil]
    generalize (List.range n).foldl (fun acc i => if p i then acc + 2 ^ i else acc) 0 = a at hlt hbit ⊢
    cases hp : p n
    case false =>
      refine ⟨hlt.trans (Nat.pow_lt_pow_right (by decide) n.lt_succ_self), fun i => ?_⟩
      by_cases hi : i = n <;> grind
    case true =>
      refine ⟨by simp only [if_true, pow_succ]; omega, fun i => ?_⟩
      rw [if_pos rfl, Nat.add_comm]
      obtain hi | rfl | hi := Nat.lt_trichotomy i n
      · rw [Nat.testBit_two_pow_add_gt hi, hbit]; grind
      · rw [Nat.testBit_two_pow_add_eq, hbit]; simp [hp]
      · rw [Nat.testBit_lt_two_pow]
        · grind
        · calc 2 ^ n + a < 2 ^ (n + 1) := by rw [pow_succ]; omega
            _ ≤ 2 ^ i := Nat.pow_le_pow_right (by decide) hi

/-- A byte of a number cut to 64 bits. -/
theorem byteOf_ofNat (x : Nat) {k : Nat} (hk : k < 8) :
    BitVec.ofNat 8 ((BitVec.ofNat 64 x).toNat >>> (8 * k)) = BitVec.ofNat 8 (x / 256 ^ k) := by
  refine BitVec.eq_of_getLsbD_eq fun i hi => ?_
  have h256 : 256 ^ k = 2 ^ (8 * k) := (pow_mul 2 8 k).symm
  have hlt : 8 * k + i < 64 := by omega
  rw [getLsbD_byteOf _ _ hi, BitVec.getLsbD_ofNat, BitVec.getLsbD_ofNat, h256, Nat.testBit_div_two_pow, Nat.add_comm i]
  simp [hlt, hi]
/-- A byte of the word that bytes form. -/
theorem byteOf_natOfBytes (l : List Byte) {k : Nat} (hk : k < 8) :
    BitVec.ofNat 8 ((BitVec.ofNat 64 (natOfBytes l)).toNat >>> (8 * k)) = l.getD k 0 := by
  refine (byteOf_ofNat _ hk).trans (BitVec.eq_of_toNat_eq ?_)
  rw [BitVec.toNat_ofNat, natOfBytes_byte]

/-- Byte `i` of word `w` lies in a run. -/
def inRun (addr n w i : Nat) : Bool := decide (addr ≤ 8 * w + i) && decide (8 * w + i < addr + n)
/-- The part of a run in word `w`: which bytes it has there, and the word that they form. -/
def runWord (addr : Nat) (bs : List (Option Byte)) (w : Nat) : Nat × BitVec 8 × Word :=
  (w, BitVec.ofNat 8 ((List.range 8).foldl (fun acc i => if inRun addr bs.length w i then acc + 2 ^ i else acc) 0),
    BitVec.ofNat 64 (natOfBytes ((List.range 8).map fun i =>
      if inRun addr bs.length w i then (bs.getD (8 * w + i - addr) none).getD 0 else 0)))

theorem getLsbD_runWord_mask (addr : Nat) (bs : List (Option Byte)) (w : Nat) {i : Nat} (hi : i < 8) :
    (runWord addr bs w).2.1.getLsbD i = inRun addr bs.length w i := by
  rw [runWord, BitVec.getLsbD_ofNat, (testBit_foldl_two_pow _ 8).2]
  simp [hi]
theorem byteOf_runWord {addr : Nat} {bs : List (Option Byte)} {w i : Nat} (hi : i < 8) (h : inRun addr bs.length w i = true) :
    BitVec.ofNat 8 ((runWord addr bs w).2.2.toNat >>> (8 * i)) = (bs.getD (8 * w + i - addr) none).getD 0 := by
  rw [runWord, byteOf_natOfBytes _ hi, List.getD_eq_getElem _ _ (by simpa using hi), List.getElem_map, List.getElem_range, if_pos h]

/-- A run whose bytes are all known leaves out no word. -/
theorem byteWords_known {addr : Nat} {bs : List (Option Byte)} (h : ∀ b ∈ bs, b.isSome = true) :
    byteWords addr bs = (List.range (ceilDiv (addr % 8 + bs.length) 8)).map fun k => runWord addr bs (addr / 8 + k) := by
  have hknown (w i : Nat) (hin : inRun addr bs.length w i = true) : (bs.getD (8 * w + i - addr) none).isNone = false := by
    simp only [inRun, Bool.and_eq_true, decide_eq_true_eq] at hin
    have hlt : 8 * w + i - addr < bs.length := by omega
    rw [List.getD_eq_getElem _ _ hlt, Option.isNone_eq_false_iff]
    exact h _ (List.getElem_mem hlt)
  have hall (w : Nat) : ((List.range 8).any fun i => inRun addr bs.length w i && (bs.getD (8 * w + i - addr) none).isNone) = false :=
    List.any_eq_false.2 fun i _ => by
      rw [Bool.and_eq_true, not_and, Bool.not_eq_true]
      exact hknown w i
  rw [← List.filterMap_eq_map]
  refine List.filterMap_congr fun k _ => ?_
  exact if_neg (Bool.eq_false_iff.1 (hall (addr / 8 + k)))

/-! ## A run of bytes is written into written words (R86, R287) -/

/-- Words are merged one after another, whatever is reported. -/
theorem Dev.putWords8_merges (d : Dev) (sp : MSpace) (ws : List (Nat × BitVec 8 × Word)) :
    (d.putWords8 sp ws).2 = ws.foldl (fun e w => e.mergeW sp w.1 w.2.1 w.2.2) d :=
  (List.foldl_hom Prod.snd fun _ _ => rfl).symm

section
variable {d : Dev} {sp : MSpace} {addr : Nat} {bs : List (Option Byte)}
  (hw : ∀ x, addr ≤ x → x < addr + bs.length → (d.mem sp).mark (x / 8) = .written)
include hw

/-- The first `n` words of a run are merged. -/
theorem Dev.bytesWritten_runWords (n : Nat) :
    Dev.BytesWritten sp (fun x => addr ≤ x ∧ x < addr + bs.length ∧ x < 8 * (addr / 8 + n)) (fun x => (bs.getD (x - addr) none).getD 0) d
      ((List.range n).foldl (fun e k => e.mergeW sp (addr / 8 + k) (runWord addr bs (addr / 8 + k)).2.1
        (runWord addr bs (addr / 8 + k)).2.2) d) := by
  induction n with
  | zero => exact (d.bytesWritten_refl sp _).rename (fun x => iff_of_false (fun hx => by omega) id) fun _ _ => rfl
  | succ n ih =>
    rw [List.range_succ, List.foldl_append, List.foldl_cons, List.foldl_nil]
    have hin (x : Nat) (hx : x / 8 = addr / 8 + n) :
        inRun addr bs.length (addr / 8 + n) (x % 8) = true ↔ addr ≤ x ∧ x < addr + bs.length := by
      simp only [inRun, Bool.and_eq_true, decide_eq_true_eq]
      omega
    have hmark (i : Nat) (hi : i < 8) (hbit : (runWord addr bs (addr / 8 + n)).2.1.getLsbD i = true) :
        (((List.range n).foldl (fun e k => e.mergeW sp (addr / 8 + k) (runWord addr bs (addr / 8 + k)).2.1
          (runWord addr bs (addr / 8 + k)).2.2) d).mem sp).mark (addr / 8 + n) = .written := by
      rw [getLsbD_runWord_mask _ _ _ hi] at hbit
      have hx : (8 * (addr / 8 + n) + i) / 8 = addr / 8 + n := by omega
      have hbyte := (hin _ hx).1 (by rwa [Nat.mul_add_mod, Nat.mod_eq_of_lt hi])
      rw [ih.mark, ← hw _ hbyte.1 hbyte.2, hx]
    have hword := (Dev.bytesWritten_mergeW (runWord addr bs (addr / 8 + n)).2.2 hmark).rename
      (D' := fun x => x / 8 = addr / 8 + n ∧ addr ≤ x ∧ x < addr + bs.length) (val' := fun x => (bs.getD (x - addr) none).getD 0)
      (fun x => and_congr_right fun hx => by rw [getLsbD_runWord_mask _ _ _ (Nat.mod_lt x (by decide)), hin x hx])
      fun x hx => by
        have hlt := Nat.mod_lt x (show 8 > 0 by decide)
        rw [byteOf_runWord hlt (by rw [← getLsbD_runWord_mask _ _ _ hlt]; exact hx.2), show 8 * (addr / 8 + n) + x % 8 = x by omega]
    exact (ih.trans hword).rename (fun x => by omega) fun _ _ => rfl

end

/-- What precedes an engine's write to Local changes no memory. -/
theorem Dev.mem_engReady_local (d : Dev) (e : Option EngCmd) (n addr len : Nat) (sp : MSpace) :
    (d.engReady e (.loc n) addr len).mem sp = d.mem sp := by
  simp only [Dev.engReady, Dev.mem_onCl, Dev.mem_killLocal]

/-- An engine writes known bytes to written words of a Local. -/
theorem Dev.bytesWritten_engPut_local {d : Dev} {n addr : Nat} {bs : List (Option Byte)} (e : Option EngCmd)
    (hknown : ∀ b ∈ bs, b.isSome = true) (hw : ∀ x, addr ≤ x → x < addr + bs.length → (d.mem (.loc n)).mark (x / 8) = .written) :
    Dev.BytesWritten (.loc n) (fun x => addr ≤ x ∧ x < addr + bs.length) (fun x => (bs.getD (x - addr) none).getD 0) d
      (d.engPut e (.loc n) addr bs).2 := by
  have hready := d.mem_engReady_local e n addr bs.length
  have hwords := Dev.bytesWritten_runWords (d := d.engReady e (.loc n) addr bs.length) (by simpa only [hready] using hw)
    (ceilDiv (addr % 8 + bs.length) 8)
  rw [Dev.engPut, Dev.putWords8_merges, byteWords_known hknown, List.foldl_map]
  refine (hwords.congr (fun sq => (hready sq).symm) fun _ => rfl).rename (fun x => ?_) fun _ _ => rfl
  unfold ceilDiv
  omega

end Sys2Proof.Machine
end

section
namespace Sys2Proof.Machine

/-! ## FILL (R287) -/

/-- A failure changes a channel, and no memory. -/
theorem Dev.mem_failAt (d : Dev) (ch : Nat) (c : EngCmd) (w : BitVec 512) (f : Fail) (sp : MSpace) : (d.failAt ch c w f).mem sp = d.mem sp := by
  cases sp <;> rfl

/-- Address `y` lies in row `k` of a region. -/
def Region.has (r : Region) (y k : Nat) : Prop := k < r.rows ∧ r.row k ≤ y ∧ y < r.row k + r.len
/-- The bytes that FILL writes into each row. -/
def fillRow (imm len : Nat) : List (Option Byte) := (List.range len).map fun i => some ((toBytes 8 (BitVec.ofNat 64 imm)).getD (i % 8) 0)

theorem fillRow_known (imm len : Nat) : ∀ b ∈ fillRow imm len, b.isSome = true := by
  intro b hb
  obtain ⟨i, -, rfl⟩ := List.mem_map.1 hb
  rfl
theorem length_fillRow (imm len : Nat) : (fillRow imm len).length = len := by rw [fillRow, List.length_map, List.length_range]
/-- Byte `i` of a row is byte `i` mod 8 of IMM. -/
theorem fillRow_byte {imm len i : Nat} (hi : i < len) : ((fillRow imm len).getD i none).getD 0 = BitVec.ofNat 8 (imm / 256 ^ (i % 8)) := by
  have h8 : i % 8 < 8 := Nat.mod_lt i (by decide)
  rw [List.getD_eq_getElem _ _ (by rwa [length_fillRow])]
  simp only [fillRow, List.getElem_map, List.getElem_range, Option.getD_some]
  rw [List.getD_eq_getElem _ _ (by simpa [toBytes] using h8), ← byteOf_ofNat imm h8]
  simp only [toBytes, List.getElem_map, List.getElem_range]

/-- The first `n` rows of a region are filled. -/
def Dev.fillRows (d : Dev) (ch : Nat) (c : EngCmd) (pos : Nat) (w : BitVec 512) (m : MSpace) (n : Nat) : Dev :=
  (List.range n).foldl (fun d k => match d.engPut (some c) m ((pDest w).row k) (fillRow (pIMM w) (pDest w).len) with
    | (none, d) => d
    | (some a, d) => d.failAt ch c w (mkFail pos w 0x35 ⟨a, (pDest w).id, (pDest w).space⟩)) d
theorem Dev.doFill_local {d : Dev} {c : EngCmd} {w : BitVec 512} {n : Nat} (hsp : d.spaceOf c (pDest w).space (pDest w).id = .loc n)
    (ch pos : Nat) : d.doFill ch c pos w = d.fillRows ch c pos w (.loc n) (pDest w).rows := by
  unfold Dev.doFill Dev.writeRows
  simp only [hsp, Space.mem?, List.foldl_map]
  rfl

/-- Rows that do not overlap and lie in written words hold their bytes, one after another. -/
theorem Dev.bytesWritten_fillRows {d : Dev} {w : BitVec 512} {m : Nat} {val : Nat → Byte} (ch : Nat) (c : EngCmd) (pos : Nat)
    (hw : ∀ y k, (pDest w).has y k → (d.mem (.loc m)).mark (y / 8) = .written)
    (hval : ∀ y k, (pDest w).has y k → val y = BitVec.ofNat 8 (pIMM w / 256 ^ ((y - (pDest w).row k) % 8)))
    {n : Nat} (hn : n ≤ (pDest w).rows) :
    Dev.BytesWritten (.loc m) (fun y => ∃ k < n, (pDest w).has y k) val d (d.fillRows ch c pos w (.loc m) n) := by
  induction n with
  | zero => exact (d.bytesWritten_refl _ _).rename (fun x => by simp) fun _ _ => rfl
  | succ n ih =>
    have hprev := ih (Nat.le_of_succ_le hn)
    have hrow (x : Nat) : (pDest w).has x n ↔ (pDest w).row n ≤ x ∧ x < (pDest w).row n + (fillRow (pIMM w) (pDest w).len).length := by
      rw [length_fillRow]
      exact and_iff_right hn
    have hput := (Dev.bytesWritten_engPut_local (d := d.fillRows ch c pos w (.loc m) n) (n := m) (some c) (fillRow_known _ _) fun x hlo hhi => by
      rw [hprev.mark, hw x n ((hrow x).2 ⟨hlo, hhi⟩)]).rename (val' := val) hrow fun x hx => by
        rw [hval x n ((hrow x).2 hx), fillRow_byte (by rw [length_fillRow] at hx; omega)]
    have hstep (sq : MSpace) : (d.fillRows ch c pos w (.loc m) (n + 1)).mem sq =
        ((d.fillRows ch c pos w (.loc m) n).engPut (some c) (.loc m) ((pDest w).row n) (fillRow (pIMM w) (pDest w).len)).2.mem sq := by
      rw [Dev.fillRows, List.range_succ, List.foldl_append, List.foldl_cons, List.foldl_nil, ← Dev.fillRows]
      split
      case h_1 heq => rw [heq]
      case h_2 heq => rw [heq, Dev.mem_failAt]
    refine ((hprev.trans hput).congr (fun _ => rfl) hstep).rename (fun x => ?_) fun _ _ => rfl
    constructor
    · rintro ⟨k, hk, hx⟩
      obtain hk | rfl := Nat.lt_succ_iff_lt_or_eq.1 hk
      · exact .inl ⟨k, hk, hx⟩
      · exact .inr hx
    · rintro (⟨k, hk, hx⟩ | hx)
      · exact ⟨k, hk.trans n.lt_succ_self, hx⟩
      · exact ⟨n, n.lt_succ_self, hx⟩

/-- The row of a region that an address lies in. -/
def Region.rowOf (r : Region) (y : Nat) : Option Nat :=
  (List.range r.rows).find? fun k => decide (r.row k ≤ y) && decide (y < r.row k + r.len)
theorem Region.rowOf_of_has {r : Region} {y k : Nat} (h : r.has y k) (honly : ∀ j, r.has y j → j = k) : r.rowOf y = some k := by
  obtain ⟨hk, hlo, hhi⟩ := h
  obtain ⟨j, hj⟩ : ∃ j, r.rowOf y = some j :=
    Option.isSome_iff_exists.1 (List.find?_isSome.2 ⟨k, List.mem_range.2 hk, by simp [hlo, hhi]⟩)
  have hin := List.find?_some hj
  rw [Bool.and_eq_true, decide_eq_true_eq, decide_eq_true_eq] at hin
  rw [hj, honly j ⟨List.mem_range.1 (List.mem_of_find?_eq_some hj), hin⟩]
/-- The byte that FILL leaves at an address of its rows. -/
def fillByte (w : BitVec 512) (y : Nat) : Byte :=
  BitVec.ofNat 8 (pIMM w / 256 ^ ((y - (pDest w).row (((pDest w).rowOf y).getD 0)) % 8))

/-- Settles O39: each row's bytes are IMM's in turn, rows that do not overlap keep theirs, and nothing else is written. -/
theorem fillWrites : Obligations.FillWrites := by
  intro d ch c pos n w _ r e inRow hsp _ hdisj hw
  have hval (y k : Nat) (hy : r.has y k) : fillByte w y = BitVec.ofNat 8 (pIMM w / 256 ^ ((y - r.row k) % 8)) := by
    rw [fillByte, Region.rowOf_of_has hy fun j hj => hdisj y j k hj hy, Option.getD_some]
  have hbytes : Dev.BytesWritten (.loc n) (fun y => ∃ k < r.rows, r.has y k) (fillByte w) d e := by
    rw [show e = _ from Dev.doFill_local hsp ch pos]
    exact Dev.bytesWritten_fillRows ch c pos hw hval le_rfl
  refine ⟨fun y k hy => ?_, fun y hno => hbytes.outside y fun ⟨k, _, hy⟩ => hno k hy, fun sq y hsq => by rw [hbytes.other sq hsq]⟩
  rw [hbytes.inside y ⟨k, hy.1, hy⟩, hval y k hy]

end Sys2Proof.Machine
end

section
namespace Sys2Proof.Machine

/-! ## Channels of the engines (R282) -/

theorem Dev.chan_onChan_same (d : Dev) (eng ch : Nat) (f : Channel → Channel) : (d.onChan eng ch f).chan eng ch = f (d.chan eng ch) :=
  NMap.get_put_same _ _ _ _

/-- In a calm cluster that has not moved, the end of an engine command is a completion of its token. -/
theorem Dev.tokenDone_calm {d : Dev} {c : EngCmd} (htok : c.tok < 64) (halias : d.aliasOf c.ctx c.cluster c.cid = none)
    (hcalm : d.calm c.cluster = true) (status : Nat) :
    d.tokenDone c status = (d.onCl c.cluster fun x => x.complete c.tok c.cid status).setCl c.cluster
      ((d.cl c.cluster).complete c.tok c.cid status) := by
  have hsame : (d.onCl c.cluster fun x => x.complete c.tok c.cid status).calm c.cluster = true := by
    obtain ⟨ts, hts⟩ := (d.cl c.cluster).complete_tokens c.tok c.cid status
    rw [← hcalm]
    exact Dev.calm_congr (by rw [Dev.cl_onCl_same, hts]) (by rw [Dev.cl_onCl_same, hts])
  unfold Dev.tokenDone
  rw [if_neg (Nat.not_le.2 htok), halias, Option.filter_none]
  dsimp only
  rw [Dev.settle_calm _ _ hsame, Dev.cl_onCl_same]

/-! ## A command leaves its cluster's queue (R283, R294) -/

/-- The command that a queued one becomes in its channel. -/
def OutCmd.arrives (o : OutCmd) (n k : Nat) : EngCmd :=
  { k := k, cluster := n, tok := o.tok, record := o.record, addr := o.addr, ctx := o.ctx, func := o.func, epoch := o.epoch, pos := o.pos,
    seed := o.seed, cid := o.cid, started := false, next := some o.addr, count := 0, lastTag := 0, fails := [], flights := [],
    abandoned := false, fencing := false, healing := none, todo := [], fetch := [], rows := [], idx := [], ofs := [], wgt := [] }
/-- The engine of a queued command. -/
def OutCmd.eng (o : OutCmd) : Nat := if o.gather then 1 else 0
/-- The channel of a queued command. -/
def OutCmd.ch (o : OutCmd) : Nat := outChannel o.gather o.record
/-- A cluster's queue without its `k`-th command. -/
def Dev.leaveQueue (d : Dev) (n k : Nat) : Dev := d.onCl n fun x => { x with outq := (d.cl n).outq.eraseIdx k }

/-- The command joins its channel, not started. -/
def Dev.joinChan (d : Dev) (n k : Nat) (o : OutCmd) : Dev := (d.leaveQueue n k).onChan o.eng o.ch fun x =>
  { x with cmds := x.cmds ++ [o.arrives n (d.chan o.eng o.ch).nextK], nextK := x.nextK + 1 }

theorem Dev.outq_leaveQueue (d : Dev) (n k : Nat) : ((d.leaveQueue n k).cl n).outq = (d.cl n).outq.eraseIdx k := by
  rw [Dev.leaveQueue, Dev.cl_onCl_same]
theorem Dev.tokens_leaveQueue (d : Dev) (n k : Nat) : ((d.leaveQueue n k).cl n).tokens = (d.cl n).tokens := by
  rw [Dev.leaveQueue, Dev.cl_onCl_same]
theorem Dev.cmds_joinChan (d : Dev) (n k : Nat) (o : OutCmd) :
    ((d.joinChan n k o).chan o.eng o.ch).cmds = (d.chan o.eng o.ch).cmds ++ [o.arrives n (d.chan o.eng o.ch).nextK] :=
  congrArg Channel.cmds ((d.leaveQueue n k).chan_onChan_same o.eng o.ch _)
theorem Dev.calm_leaveQueue (d : Dev) (n k : Nat) : (d.leaveQueue n k).calm n = d.calm n :=
  Dev.calm_congr (by rw [Dev.leaveQueue, Dev.cl_onCl_same]) (by rw [Dev.leaveQueue, Dev.cl_onCl_same])

section
variable {s : State} {n k : Nat} {o : OutCmd} (hrun : s.dev.pwr.stopped = false) (hn : n < 384) (ho : (s.dev.cl n).outq[k]? = some o)
  (hahead : (((s.dev.cl n).outq.take k).any fun x => decide (x.gather = o.gather) && decide (outChannel x.gather x.record = o.ch)) = false)
  (hroom : ((s.dev.chan o.eng o.ch).cmds.filter fun x => !x.started).length < 64)
include hrun hn ho hahead hroom

/-- The command goes: a halted channel completes it, any other takes it in. -/
theorem exec_engineCommandDequeue : exec (.engineCommandDequeue n k) s = s.gives fun d =>
    if d.rb (oChan o.eng o.ch + 4) 0 then (d.leaveQueue n k).tokenDone (o.arrives n (d.chan o.eng o.ch).nextK) (engStatus o.eng 0x3A)
    else d.joinChan n k o := by
  refine (runDie_gives (decide_eq_true hn) hrun ?_ : execEngineCommandDequeue n k s = _)
  dsimp only
  rw [ho]
  refine if_neg ?_
  rintro (h | h)
  · exact Bool.eq_false_iff.1 hahead h
  · exact Nat.not_le.2 hroom h

theorem exec_engineCommandDequeue_joins (hopen : s.dev.rb (oChan o.eng o.ch + 4) 0 = false) :
    exec (.engineCommandDequeue n k) s = s.gives fun d => d.joinChan n k o :=
  (exec_engineCommandDequeue hrun hn ho hahead hroom).trans (State.gives_congr (if_neg (Bool.eq_false_iff.1 hopen)))
theorem exec_engineCommandDequeue_halted (hhalt : s.dev.rb (oChan o.eng o.ch + 4) 0 = true) :
    exec (.engineCommandDequeue n k) s = s.gives fun d =>
      (d.leaveQueue n k).tokenDone (o.arrives n (d.chan o.eng o.ch).nextK) (engStatus o.eng 0x3A) :=
  (exec_engineCommandDequeue hrun hn ho hahead hroom).trans (State.gives_congr (if_pos hhalt))

end

/-- HALTED is a status of both kinds of engine. -/
theorem OutCmd.toNat_halted (o : OutCmd) : (BitVec.ofNat 8 (engStatus o.eng 0x3A)).toNat = engStatus o.eng 0x3A := by
  unfold OutCmd.eng
  cases o.gather <;> rfl

/-- On a halted channel the command's token is DONE with HALTED (R294). -/
theorem Dev.leaveQueue_halted {d : Dev} {n : Nat} {o : OutCmd} (k i : Nat) (htok : o.tok < 64) (halias : d.aliasOf o.ctx n o.cid = none)
    (hcalm : d.calm n = true) :
    let e := (d.leaveQueue n k).tokenDone (o.arrives n i) (engStatus o.eng 0x3A)
    e.chans = d.chans ∧ (((d.cl n).tok o.tok).st = .pending → ((d.cl n).tok o.tok).cid = o.cid →
      ((e.cl n).tok o.tok).st = .done ∧ ((e.cl n).tok o.tok).status.toNat = engStatus o.eng 0x3A) := by
  have hdone := Dev.tokenDone_calm (d := d.leaveQueue n k) (c := o.arrives n i) htok halias ((d.calm_leaveQueue n k).trans hcalm)
    (engStatus o.eng 0x3A)
  refine ⟨by rw [hdone]; rfl, fun hp hc => ?_⟩
  have htokens : ((d.leaveQueue n k).cl n).tok o.tok = (d.cl n).tok o.tok := congrArg (NMap.get · _ _) (d.tokens_leaveQueue n k)
  have hcomplete := Cluster.complete_pending (c := (d.leaveQueue n k).cl n) (k := o.tok) (by rw [htokens, hp]) (by rw [htokens, hc])
    (engStatus o.eng 0x3A)
  have htok : (((d.leaveQueue n k).tokenDone (o.arrives n i) (engStatus o.eng 0x3A)).cl n).tok o.tok =
      { (d.cl n).tok o.tok with st := .done, status := BitVec.ofNat 8 (engStatus o.eng 0x3A) } := by
    rw [hdone]
    change ((Dev.setCl _ n (((d.leaveQueue n k).cl n).complete o.tok o.cid (engStatus o.eng 0x3A))).cl n).tok o.tok = _
    rw [Dev.cl_setCl_same, hcomplete, Cluster.tok_setTok, if_pos rfl, htokens]
  rw [htok]
  exact ⟨rfl, o.toNat_halted⟩

theorem exec_clear {s : State} {e : Engine} {ch : Nat} (hrun : s.dev.pwr.stopped = false) (hlt : ch < s.dev.chanCount (engNo e))
    (hch : ch < if engNo e = 1 then 128 else 256) : exec (.clear e ch) s = s.gives fun d => d.clearChan (engNo e) ch :=
  (runDie_gives (decide_eq_true hch) hrun (if_pos hlt) : execClear e ch s = _)

end Sys2Proof.Machine
end

section
namespace Sys2Proof.Machine

/-! ## The Porter reaches a descriptor (R284 to R290) -/

/-- The operation of a row of the Porter. -/
def porterOp : Instr → Option (Nat × Nat)
  | .copy ch => some (ch, 1)
  | .fill ch => some (ch, 2)
  | .writeImm ch => some (ch, 3)
  | .reduce ch => some (ch, 4)
  | .fence ch => some (ch, 5)
  | _ => none
theorem exec_porterOp {i : Instr} {ch op : Nat} (hi : porterOp i = some (ch, op)) (s : State) : exec i s = porterRow ch op s := by
  unfold porterOp at hi
  split at hi <;> cases hi <;> rfl

section
variable {s : State} {ch op : Nat} {i : Instr} (hi : porterOp i = some (ch, op)) (hch : chOk 0 ch = true) (hfull : s.dev.full = true)
  (hrun : s.dev.pwr.stopped = false) (hlt : ch < s.dev.chanCount 0)
include hi hch hfull hrun hlt

theorem exec_porter_gives {g : Dev → Dev} (h : s.dev.porterReach ch op = g s.dev) : exec i s = s.gives g :=
  (exec_porterOp hi s).trans (runDie_gives hch hrun ((if_pos (by rw [hfull, decide_eq_true hlt]; rfl)).trans h))

/-- Where nothing that has started can be performed, a row reaches the next descriptor of its operation. -/
theorem exec_porter_reaches (hnone : s.dev.landable ch op = []) {x : Dev} (h : s.dev.porterNext ch op = some x) :
    exec i s = s.gives fun _ => x := by
  refine exec_porter_gives hi hch hfull hrun hlt ?_
  unfold Dev.porterReach
  rw [hnone]
  dsimp only
  rw [h, Option.getD_some]
/-- Otherwise it performs one of those, or reaches the next descriptor. -/
theorem exec_porter_performs (hsome : s.dev.landable ch op ≠ []) : exec i s = s.gives fun d =>
    match (if (d.choose 2).1 = 1 then (d.choose 2).2.porterNext ch op else none) with
    | some x => x
    | none => ((d.choose 2).2.landFlight ch op).getD (d.choose 2).2 := by
  refine exec_porter_gives hi hch hfull hrun hlt ?_
  unfold Dev.porterReach
  split
  case h_1 h => exact absurd h hsome
  case h_2 => rfl

end

/-- A descriptor as it starts. -/
def startFlight (c : EngCmd) (w : BitVec 512) (need : List Nat) : Flight := { pos := c.count, desc := w, need := need, got := [], heal := none }
/-- A descriptor starts: it waits for the lines that it asks a peer for. -/
def Dev.startDesc (d : Dev) (ch : Nat) (c : EngCmd) (w : BitVec 512) : Dev :=
  d.onCmd 0 ch c.k fun x =>
    { (x.reach w) with flights := x.flights ++ [startFlight c w (((d.descFetch c w).map Prod.snd).getD [])] }

section
variable {d y : Dev} {ch here : Nat} {c : EngCmd} {w : BitVec 512} (hnext : d.nextDesc ch = some (c, here, .ok w, y))
include hnext

/-- A descriptor that is reached is checked first. -/
theorem Dev.porterNext_refused {st : Nat} {a : At} (hcheck : y.pCheck c w here = some (st, a)) :
    d.porterNext ch (pOP w) = some ((y.onCmd 0 ch c.k fun x => x.reach w).failDesc 0 ch c.k (mkFail c.count w st a)) := by
  unfold Dev.porterNext
  simp only [hnext, hcheck, ne_eq, not_true, false_and, if_false]

variable (hcheck : y.pCheck c w here = none)
include hcheck

theorem Dev.porterNext_fence (hop : pOP w = 5) : d.porterNext ch 5 =
    some (if y.chanBusy ch then y.onCmd 0 ch c.k fun x => { x with started := true, fencing := true, lastTag := pTAG w }
      else y.onCmd 0 ch c.k fun x => x.reach w) := by
  unfold Dev.porterNext
  simp only [hnext, hcheck, hop, ne_eq, not_true, false_and, if_false, if_true]

/-- Any other descriptor starts. One whose source lies in a peer asks for its lines. -/
theorem Dev.porterNext_asks {dev : Nat} {ls : List Nat} (hop : pOP w ≠ 5)
    (hfetch : ((y.choose 2).2.startDesc ch c w).descFetch c w = some (dev, ls)) : d.porterNext ch (pOP w) =
      some (((y.choose 2).2.startDesc ch c w).addRems 0 ch (ls.map fun l =>
        ((y.choose 2).2.startDesc ch c w).mkRem 0 ch c c.count dev 3 0 0 (128 * l) 0 0 0 false (pTAG w))) := by
  unfold Dev.startDesc startFlight at *
  unfold Dev.porterNext
  simp only [hnext, hcheck, hop, hfetch, ne_eq, not_true, false_and, if_false]
/-- One that needs none is performed at once, or later (R284). -/
theorem Dev.porterNext_starts (hop : pOP w ≠ 5) (hfetch : ((y.choose 2).2.startDesc ch c w).descFetch c w = none) :
    d.porterNext ch (pOP w) =
      some (if (y.choose 2).1 = 1 ∨ ((y.choose 2).2.startDesc ch c w).stoneHeld ch c c.count w = true then (y.choose 2).2.startDesc ch c w
        else ((y.choose 2).2.startDesc ch c w).land ch c (startFlight c w [])) := by
  unfold Dev.startDesc startFlight at *
  unfold Dev.porterNext
  simp only [hnext, hcheck, hop, hfetch, ne_eq, not_true, false_and, if_false]

end

end Sys2Proof.Machine
end

section
namespace Sys2Proof.Machine

/-! ## A descriptor that has started is performed (R215, R287, R296) -/

/-- A started descriptor leaves its command. -/
def Dev.takeFlight (d : Dev) (ch : Nat) (c : EngCmd) (f : Flight) : Dev :=
  d.onCmd 0 ch c.k fun x => { x with flights := x.flights.filter fun y => decide (y.pos ≠ f.pos) }

section
variable {d : Dev} {ch : Nat} {c : EngCmd} {f : Flight}

/-- One that has lost a partition fails with the check's status. -/
theorem Dev.land_unmapped {st : Nat} {a : At} (hgone : ∃ l ∈ (d.descLines c f.desc).1 ++ (d.descLines c f.desc).2, d.partAt (lineAddr l) = none)
    (hcheck : d.pCheck c f.desc 0 = some (st, a)) :
    d.land ch c f = ((d.takeFlight ch c f).failDesc 0 ch c.k (mkFail f.pos f.desc st a)).pumpDie 0 ch := by
  have hany : (((d.descLines c f.desc).1 ++ (d.descLines c f.desc).2).any fun l => (d.partAt (lineAddr l)).isNone) = true :=
    List.any_eq_true.2 (hgone.imp fun l h => ⟨h.1, by rw [h.2]; rfl⟩)
  unfold Dev.land Dev.takeFlight
  simp only [hany, hcheck, if_true]
/-- One whose lines are mapped and free, and whose source does not heal, is performed, and the requests that waited behind it go on. -/
theorem Dev.land_performs (hmap : ∀ l ∈ (d.descLines c f.desc).1 ++ (d.descLines c f.desc).2, d.partAt (lineAddr l) ≠ none)
    (hheal : d.rangesHeal (d.srcRanges c f.desc) = none) (hfree : d.heldLines ((d.descLines c f.desc).1 ++ (d.descLines c f.desc).2) = none) :
    d.land ch c f = ((d.takeFlight ch c f).doDesc ch c f.pos f.desc f.got).pumpDie 0 ch := by
  have hany : (((d.descLines c f.desc).1 ++ (d.descLines c f.desc).2).any fun l => (d.partAt (lineAddr l)).isNone) = false :=
    List.any_eq_false.2 fun l hl => by rw [Option.isNone_iff_eq_none]; exact hmap l hl
  unfold Dev.land Dev.takeFlight
  simp only [hany, hheal, hfree, Bool.false_eq_true, if_false]

end

section
variable (d : Dev) (ch : Nat) (c : EngCmd) (pos : Nat) {w : BitVec 512} (got : List (Nat × LineData))

theorem Dev.doDesc_copy (h : pOP w = 1) : d.doDesc ch c pos w got = d.doCopy ch c pos w got := if_pos h
theorem Dev.doDesc_fill (h : pOP w = 2) : d.doDesc ch c pos w got = d.doFill ch c pos w := by simp [Dev.doDesc, h]
theorem Dev.doDesc_writeImm (h : pOP w = 3) : d.doDesc ch c pos w got = d.doWriteImm ch c pos w := by simp [Dev.doDesc, h]
theorem Dev.doDesc_reduce (h : pOP w = 4) : d.doDesc ch c pos w got = d.doReduce ch c pos w got := by simp [Dev.doDesc, h]

end

end Sys2Proof.Machine
end

section
namespace Sys2Proof.Machine

/-! ## Engine commands end (R292, R295, R296) -/

section
variable {s : State} {ch k : Nat} {c : EngCmd} (hrun : s.dev.pwr.stopped = false)
include hrun

theorem exec_porterCommandComplete (hch : chOk 0 ch = true) (hcmd : s.dev.engCmd 0 ch k = some c) (hstart : c.started = true)
    (hnext : c.next = none) (hab : c.abandoned = false) (hidle : s.dev.cmdIdle 0 ch c = true) :
    exec (.porterCommandComplete ch k) s = s.gives fun d => d.endCmd 0 ch c := by
  refine (runDie_gives hch hrun ?_ : execPorterCommandComplete ch k s = _)
  simp only [hcmd, hstart, hnext, hab, hidle, Option.isNone_none, Bool.not_false, Bool.and_self, if_true]

section
variable (hch : chOk 1 ch = true) (hcmd : s.dev.engCmd 1 ch k = some c) (hstart : c.started = true) (hnext : c.next = none)
  (hab : c.abandoned = false) (hidle : s.dev.cmdIdle 1 ch c = true)
include hch hcmd hstart hnext hab hidle

theorem exec_gatherComplete_failed (hfails : c.fails ≠ []) : exec (.gatherComplete ch k) s = s.gives fun d => d.endCmd 1 ch c := by
  refine (runDie_gives hch hrun ?_ : execGatherComplete ch k s = _)
  simp only [hcmd, hstart, hnext, hab, hidle, Option.isSome_none, Bool.not_true, Bool.or_self, Bool.false_eq_true, if_false]
  exact if_pos (by simpa using hfails)
/-- The output rows of a pooling command are written, each from the rows of its bag. -/
theorem exec_gatherComplete_pools {sp : MSpace} (hfails : c.fails = []) (hfree : s.dev.heldLines (s.dev.gLines c).2 = none)
    (hpool : gPOOL c.record ≠ 0) (hsp : (s.dev.spaceOf c (gOutSpace c.record).1 (gOutSpace c.record).2).mem? = some sp) :
    exec (.gatherComplete ch k) s = s.gives fun d =>
      (((List.range (gOutRows c.record)).foldl (fun d r => (d.engPut (some c) sp (pADDR (gOUT c.record) + r * gOUT_STRIDE c.record)
        ((poolRow c.record c.seed r (c.bagRows r)).map some)).2) d).endCmd 1 ch c).gRun ch := by
  refine (runDie_gives hch hrun ?_ : execGatherComplete ch k s = _)
  simp only [hcmd, hstart, hnext, hab, hidle, hfails, hfree, hpool, hsp, Option.isSome_none, List.isEmpty_nil, Bool.not_true, Bool.or_self,
    Bool.false_eq_true, if_false]

end

/-- What remains of an abandoned command. -/
def EngCmd.stopped (c : EngCmd) : EngCmd :=
  { c with next := none, flights := [], todo := [], fetch := [], rows := [], healing := none, fencing := false }
/-- An abandoned command's unsent requests are dropped, and what waited for it goes on. -/
def Dev.abandonCmd (d : Dev) (eng ch k : Nat) (c : EngCmd) : Dev :=
  let y := ((d.onChan eng ch fun x => { x with unsent := x.unsent.filter fun r => decide (r.k ≠ k) }).onCmd eng ch k
    fun _ => c.stopped).pumpDie eng ch
  if eng = 1 then y.gRun ch else y

section
variable {e : Engine} (hch : chOk (engNo e) ch = true) (hcmd : s.dev.engCmd (engNo e) ch k = some c)
include hch hcmd

section
variable (hab : c.abandoned = true)
include hab

theorem exec_engineAbandon_idle (hidle : (s.dev.abandonCmd (engNo e) ch k c).cmdIdle (engNo e) ch c.stopped = true) :
    exec (.engineAbandon e ch k) s = s.gives fun d =>
      ((d.abandonCmd (engNo e) ch k c).onChan (engNo e) ch fun x => { x with cmds := x.cmds.filter fun y => decide (y.k ≠ k) }).tokenDone c
        (engStatus (engNo e) 0x3B) := by
  refine (runDie_gives hch hrun ?_ : execEngineAbandon e ch k s = _)
  dsimp only
  rw [hcmd]
  exact (if_neg (by rw [hab]; decide)).trans (if_pos hidle)
theorem exec_engineAbandon_busy (hbusy : (s.dev.abandonCmd (engNo e) ch k c).cmdIdle (engNo e) ch c.stopped = false) :
    exec (.engineAbandon e ch k) s = s.gives fun d => d.abandonCmd (engNo e) ch k c := by
  refine (runDie_gives hch hrun ?_ : execEngineAbandon e ch k s = _)
  dsimp only
  rw [hcmd]
  exact (if_neg (by rw [hab]; decide)).trans (if_neg (Bool.eq_false_iff.1 hbusy))

end
end
end

/-! ## A wait for a line's healing ends (R296) -/

section
variable {s : State} {ch k l : Nat} {c : EngCmd} {healed : Bool} (hrun : s.dev.pwr.stopped = false)
include hrun

section
variable {f : Flight} (hch : chOk 0 ch = true) (hcmd : s.dev.engCmd 0 ch k = some c)
  (hf : c.flights.find? (fun f => f.heal.isSome) = some f) (hl : f.heal = some l)
include hch hcmd hf hl

/-- The descriptor goes on: its line has healed, or no word of its own there is uncorrectable. -/
theorem exec_sourceHealWaitEnd_porter_goes
    (hgood : healed = true ∧ s.dev.healing l = false ∨ healed = false ∧ s.dev.rangesBad l (s.dev.srcRanges c f.desc) = none) :
    exec (.sourceHealWaitEnd .porter ch k healed) s = s.gives fun d => d.onFlight ch k f.pos fun y => { y with heal := none } := by
  refine (runDie_gives hch hrun ?_ : execSourceHealWaitEnd .porter ch k healed s = _)
  obtain ⟨rfl, hhealed⟩ | ⟨rfl, hwords⟩ := hgood
  · simp only [engNo, hcmd, hf, hl, hhealed, Option.getD_some, if_true, Bool.and_false, Bool.false_eq_true, if_false]
  · simp only [engNo, hcmd, hf, hl, hwords, Option.getD_some, Bool.false_and, Bool.false_eq_true, if_false]
theorem exec_sourceHealWaitEnd_porter_fails {a : Nat} (hbad : s.dev.rangesBad l (s.dev.srcRanges c f.desc) = some a) :
    exec (.sourceHealWaitEnd .porter ch k false) s = s.gives fun d =>
      (d.failAt ch c f.desc (mkFail f.pos f.desc 0x35 ⟨a, 0, 2⟩)).pumpDie 0 ch := by
  refine (runDie_gives hch hrun ?_ : execSourceHealWaitEnd .porter ch k false s = _)
  simp only [engNo, hcmd, hf, hl, hbad, Option.getD_some, Bool.false_eq_true, if_false]

end

/-- The ranges that a gather command reads while it waits: its lists before it starts, its rows afterwards. -/
def EngCmd.healRanges (c : EngCmd) : List (Nat × Nat) :=
  if c.next.isSome then gRanges c.record else c.fetch.map fun i => (c.rowAddr i, gROW_BYTES c.record)

section
variable (hch : chOk 1 ch = true) (hcmd : s.dev.engCmd 1 ch k = some c) (hl : c.healing = some l)
include hch hcmd hl

theorem exec_sourceHealWaitEnd_gather_goes
    (hgood : healed = true ∧ s.dev.healing l = false ∨ healed = false ∧ s.dev.rangesBad l c.healRanges = none) :
    exec (.sourceHealWaitEnd .gather ch k healed) s = s.gives fun d => (d.onCmd 1 ch k fun x => { x with healing := none }).gRun ch := by
  refine (runDie_gives hch hrun ?_ : execSourceHealWaitEnd .gather ch k healed s = _)
  unfold EngCmd.healRanges at hgood
  obtain ⟨rfl, hhealed⟩ | ⟨rfl, hwords⟩ := hgood
  · simp only [engNo, hcmd, hl, hhealed, if_true, Bool.and_false, Bool.false_eq_true, if_false]
  · simp only [engNo, hcmd, hl, hwords, Bool.false_and, Bool.false_eq_true, if_false]
theorem exec_sourceHealWaitEnd_gather_fails {a : Nat} (hbad : s.dev.rangesBad l c.healRanges = some a) :
    exec (.sourceHealWaitEnd .gather ch k false) s = s.gives fun d =>
      ((d.onCmd 1 ch k fun x => { x with count := 1 }).failDesc 1 ch k (gFail c 0x46 ⟨a, 0, 2⟩)).gRun ch := by
  refine (runDie_gives hch hrun ?_ : execSourceHealWaitEnd .gather ch k false s = _)
  unfold EngCmd.healRanges at hbad
  simp only [engNo, hcmd, hl, hbad, Bool.false_eq_true, if_false]

end
end

end Sys2Proof.Machine
end

section
namespace Sys2Proof.Machine

/-! ## A gather command starts (R301, R302) -/

/-- A gather command starts. -/
def Dev.gStart (d : Dev) (ch : Nat) (c : EngCmd) : Dev := d.onCmd 1 ch c.k fun x =>
  { x with started := true, next := none, count := 1, lastTag := gTAG c.record, healing := none }

section
variable {s : State} {ch : Nat} {c : EngCmd} (hch : chOk 1 ch = true) (hrun : s.dev.pwr.stopped = false) (hfull : s.dev.full = true)
  (hlt : ch < s.dev.chanCount 1) (hnext : s.dev.nextCmd 1 ch = some c) (hheal : c.healing = none)
include hch hrun hfull hlt hnext hheal

theorem exec_gather_badRecord (hbad : gBad c.record s.dev.part.clusters = true) :
    exec (.gather ch) s = s.gives fun d => (d.gStart ch c).failDesc 1 ch c.k (gFail c 0x40 ⟨c.addr, 0, 0⟩) := by
  refine (runDie_gives hch hrun ?_ : execGather ch s = _)
  simp only [hfull, hlt, hnext, hheal, hbad, decide_true, Bool.and_self, Bool.not_true, Option.isSome_none, Bool.false_eq_true, if_false,
    if_true]
  rfl

variable (hgood : gBad c.record s.dev.part.clusters = false)
include hgood

theorem exec_gather_misaligned {a : At} (hmis : gMisaligned c.record = some a) :
    exec (.gather ch) s = s.gives fun d => (d.gStart ch c).failDesc 1 ch c.k (gFail c 0x42 a) := by
  refine (runDie_gives hch hrun ?_ : execGather ch s = _)
  simp only [hfull, hlt, hnext, hheal, hgood, hmis, decide_true, Bool.and_self, Bool.not_true, Option.isSome_none, Bool.false_eq_true,
    if_false]
  rfl

variable (hmis : gMisaligned c.record = none) (hreach : s.dev.gReach c c.record = []) (hwell : s.dev.rangesHeal (gRanges c.record) = none)
  (hfree : s.dev.heldLines ((s.dev.gLines c).1 ++ (s.dev.gLines c).2) = none)
include hmis hreach hwell hfree

theorem exec_gather_begins (hpool : gPOOL c.record = 0) : exec (.gather ch) s = s.gives fun d => (d.gStart ch c).gBegin ch c := by
  refine (runDie_gives hch hrun ?_ : execGather ch s = _)
  simp only [hfull, hlt, hnext, hheal, hgood, hmis, hreach, hwell, hfree, hpool, decide_true, Bool.and_self, Bool.not_true,
    Option.isSome_none, List.find?_nil, List.head?_nil, true_or, Bool.false_eq_true, if_false, if_true]
  rfl
/-- The offsets of a pooling command are read before it begins (R302). -/
theorem exec_gather_offsets {bs : List Byte} {y : Dev} (hpool : gPOOL c.record ≠ 0)
    (hrow : s.dev.rowReach c (coreSpace (gOFS c.record)) 0 (gOFS c.record) (4 * (gNBAGS c.record + 1)) false = none)
    (hread : s.dev.readList c (gOFS c.record) (4 * (gNBAGS c.record + 1)) = (.ok bs, y)) :
    exec (.gather ch) s = s.gives fun _ =>
      if offsetsOk (gNIDX c.record) (natsOf 4 bs) then (y.gStart ch c).gBegin ch c
      else (y.gStart ch c).failDesc 1 ch c.k (gFail c 0x45 ⟨c.addr, 0, 0⟩) := by
  refine (runDie_gives hch hrun ?_ : execGather ch s = _)
  simp only [hfull, hlt, hnext, hheal, hgood, hmis, hreach, hwell, hfree, hpool, hrow, hread, decide_true, Bool.and_self, Bool.not_true,
    Option.isSome_none, List.find?_nil, List.head?_nil, or_self, Bool.false_eq_true, if_false]
  cases offsetsOk (gNIDX c.record) (natsOf 4 bs) <;> rfl

end

/-! ## A row arrives (R303, R304) -/

/-- A row that has come is kept with its place. -/
def Dev.takeRow (d : Dev) (ch k i : Nat) (bs : List Byte) : Dev :=
  (d.onCmd 1 ch k fun x =>
    { x with fetch := x.fetch.filter fun j => decide (j ≠ i)
             flights := x.flights.filter fun f => decide (f.pos ≠ i)
             rows := x.rows ++ [(i, bs)] }).gRun ch
/-- With ORDERED, an early row waits while the reorder store is full. -/
def Dev.rowWaits (d : Dev) (ch : Nat) (c : EngCmd) (i : Nat) : Prop :=
  (gFLAGS c.record).testBit 0 = true ∧ c.isEarly i = true ∧ d.reorderFull (chanDie 1 ch) c = true

section
variable {s : State} {ch k i : Nat} {c : EngCmd} {row : List (BitVec 8)} (hch : chOk 1 ch = true) (hrun : s.dev.pwr.stopped = false)
  (hcmd : s.dev.engCmd 1 ch k = some c) (hfetch : c.fetch.contains i = true) (hheal : c.healing = none)
include hch hrun hcmd

theorem exec_rowFetchReturn_waits (hwait : s.dev.rowWaits ch c i) : exec (.rowFetchReturn ch k i row false) s = s.gives id := by
  refine (runDie_gives hch hrun ?_ : execRowFetchReturn ch k i row false s = _)
  dsimp only
  rw [hcmd]
  exact if_pos (.inr (.inr hwait))

include hfetch hheal
variable (hgo : ¬s.dev.rowWaits ch c i)
include hgo

theorem exec_rowFetchReturn_host {f : Nat} (hsp : s.dev.spaceOf c (gTSPACE c.record) (pID (gTABLE c.record)) = .host f) :
    exec (.rowFetchReturn ch k i row false) s = s.gives fun d =>
      d.takeRow ch k i ((List.range (gROW_BYTES c.record)).map fun j => row.getD j 0) := by
  unfold Dev.rowWaits at hgo
  refine (runDie_gives hch hrun ?_ : execRowFetchReturn ch k i row false s = _)
  simp only [hcmd, hfetch, hheal, hgo, hsp, Bool.not_true, Option.isSome_none, Bool.false_eq_true, or_self, if_false]
  rfl
theorem exec_rowFetchReturn_peer {dev : Nat} {f : Flight} {bs : List (Option Byte)} {y : Dev}
    (hsp : s.dev.spaceOf c (gTSPACE c.record) (pID (gTABLE c.record)) = .peer dev)
    (hf : c.flights.find? (fun f => decide (f.pos = i) && f.need.isEmpty) = some f)
    (hread : s.dev.engRead (.peer dev) f.got (c.rowAddr i) (gROW_BYTES c.record) = (bs, none, y)) :
    exec (.rowFetchReturn ch k i row false) s = s.gives fun _ => y.takeRow ch k i (bs.map fun b => b.getD 0) := by
  unfold Dev.rowWaits at hgo
  refine (runDie_gives hch hrun ?_ : execRowFetchReturn ch k i row false s = _)
  simp only [hcmd, hfetch, hheal, hgo, hsp, hf, hread, Bool.not_true, Option.isSome_none, Bool.false_eq_true, or_self, if_false]
  rfl
theorem exec_rowFetchReturn_commons {bs : List (Option Byte)} {y : Dev}
    (hsp : s.dev.spaceOf c (gTSPACE c.record) (pID (gTABLE c.record)) = .com)
    (hwell : s.dev.rangesHeal [(c.rowAddr i, gROW_BYTES c.record)] = none)
    (hfree : s.dev.heldLines ((linesOf (c.rowAddr i) (gROW_BYTES c.record)).map fun l => lineOf (128 * l)) = none)
    (hread : s.dev.engRead .com [] (c.rowAddr i) (gROW_BYTES c.record) = (bs, none, y)) :
    exec (.rowFetchReturn ch k i row false) s = s.gives fun _ => y.takeRow ch k i (bs.map fun b => b.getD 0) := by
  unfold Dev.rowWaits at hgo
  refine (runDie_gives hch hrun ?_ : execRowFetchReturn ch k i row false s = _)
  simp only [hcmd, hfetch, hheal, hgo, hsp, hwell, hfree, hread, Bool.not_true, Option.isSome_none, Bool.false_eq_true, or_self, if_false]
  rfl

end

end Sys2Proof.Machine
end

section
namespace Sys2Proof.Machine

/-! ## The rows of the copy engines complete -/

/-- Settles O38: a queued command, a descriptor, a row and an engine command's end each have the effect of their case. That a
descriptor is performed in one step, and which of two rows comes first, is the model's choice (log entry 32). -/
theorem enginesComplete : Obligations.EnginesComplete := by
  refine ⟨fun s hrun => ⟨?queue, fun e ch hlt hch => exec_clear hrun hlt hch⟩, ?reach, ⟨?land, ?row⟩, ?ends, ?gather⟩
  case queue =>
    intro n k o hn ho eng ch hahead hroom
    cases hhalt : s.dev.rb (oChan eng ch + 4) 0 with
    | false =>
      refine ⟨_, exec_engineCommandDequeue_joins hrun hn ho hahead hroom hhalt, fun _ => ⟨s.dev.outq_leaveQueue n k, _,
        s.dev.cmds_joinChan n k o, rfl, rfl, rfl, rfl, rfl, rfl, s.dev.tokens_leaveQueue n k⟩, nofun⟩
    | true =>
      refine ⟨_, exec_engineCommandDequeue_halted hrun hn ho hahead hroom hhalt, nofun, fun _ htok halias hcalm => ?_⟩
      obtain ⟨hchans, hdone⟩ := Dev.leaveQueue_halted k (s.dev.chan eng ch).nextK htok halias hcalm
      exact ⟨congrArg (fun m => (NMap.get m Channel.empty (chKey eng ch)).cmds) hchans, hdone⟩
  case reach =>
    intro s ch op here c w y i hch hfull hrun hlt hnone hnext hop hi
    subst hop
    have hi : porterOp i = some (ch, pOP w) := by
      obtain ⟨rfl, h⟩ | ⟨rfl, h⟩ | ⟨rfl, h⟩ | ⟨rfl, h⟩ | ⟨rfl, h⟩ := hi <;> rw [h] <;> rfl
    have hgives {x : Dev} (h : s.dev.porterNext ch (pOP w) = some x) : exec i s = s.gives fun _ => x :=
      exec_porter_reaches hi hch hfull hrun hlt hnone h
    refine ⟨fun st a hcheck => hgives (Dev.porterNext_refused hnext hcheck), fun hcheck => ⟨fun hfence hidle => ?_, fun hfence hbusy => ?_,
      fun hop => ⟨fun dev ls hfetch => hgives (Dev.porterNext_asks hnext hcheck hop hfetch),
        fun hfetch => hgives (Dev.porterNext_starts hnext hcheck hop hfetch)⟩⟩⟩
    · exact hgives (by rw [hfence, Dev.porterNext_fence hnext hcheck hfence, hidle]; rfl)
    · exact hgives (by rw [hfence, Dev.porterNext_fence hnext hcheck hfence, hbusy]; rfl)
  case land =>
    intro d ch c f
    refine ⟨fun st a hgone hcheck => Dev.land_unmapped hgone hcheck, fun hmap hheal hfree => ?_⟩
    have hland := Dev.land_performs (ch := ch) hmap hheal hfree
    refine ⟨fun hop => ?_, fun hop => ?_, fun hop => ?_, fun hop => ?_⟩
    · exact hland.trans (congrArg (·.pumpDie 0 ch) (Dev.doDesc_copy _ ch c f.pos f.got hop))
    · exact hland.trans (congrArg (·.pumpDie 0 ch) (Dev.doDesc_fill _ ch c f.pos f.got hop))
    · exact hland.trans (congrArg (·.pumpDie 0 ch) (Dev.doDesc_writeImm _ ch c f.pos f.got hop))
    · exact hland.trans (congrArg (·.pumpDie 0 ch) (Dev.doDesc_reduce _ ch c f.pos f.got hop))
  case row =>
    intro s ch op i hch hfull hrun hlt hsome hi
    have hi : porterOp i = some (ch, op) := by
      obtain ⟨rfl, rfl⟩ | ⟨rfl, rfl⟩ | ⟨rfl, rfl⟩ | ⟨rfl, rfl⟩ := hi <;> rfl
    exact exec_porter_performs hi hch hfull hrun hlt hsome
  case ends =>
    intro s e ch k c hch hcmd hrun
    refine ⟨fun he hstart hnext hab hidle => ?_, fun he hstart hnext hab hidle => ?_, fun hab => ?_, fun f l he hf hl => ?_, fun l he hl => ?_⟩
    · rw [he] at hch hcmd
      exact exec_porterCommandComplete hrun hch hcmd hstart hnext hab hidle
    · rw [he] at hch hcmd
      exact ⟨exec_gatherComplete_failed hrun hch hcmd hstart hnext hab hidle,
        fun sp hfails hfree hpool hsp => exec_gatherComplete_pools hrun hch hcmd hstart hnext hab hidle hfails hfree hpool hsp⟩
    · exact ⟨exec_engineAbandon_idle hrun hch hcmd hab, exec_engineAbandon_busy hrun hch hcmd hab⟩
    · subst he
      exact ⟨fun h => exec_sourceHealWaitEnd_porter_goes hrun hch hcmd hf hl (.inl ⟨rfl, h⟩),
        fun h => exec_sourceHealWaitEnd_porter_goes hrun hch hcmd hf hl (.inr ⟨rfl, h⟩),
        fun a h => exec_sourceHealWaitEnd_porter_fails hrun hch hcmd hf hl h⟩
    · subst he
      exact ⟨fun h => exec_sourceHealWaitEnd_gather_goes hrun hch hcmd hl (.inl ⟨rfl, h⟩),
        fun h => exec_sourceHealWaitEnd_gather_goes hrun hch hcmd hl (.inr ⟨rfl, h⟩),
        fun a h => exec_sourceHealWaitEnd_gather_fails hrun hch hcmd hl h⟩
  case gather =>
    intro s ch c hch hrun w start
    refine ⟨fun hfull hlt hnext hheal => ⟨exec_gather_badRecord hch hrun hfull hlt hnext hheal,
      fun a hgood hmis => exec_gather_misaligned hch hrun hfull hlt hnext hheal hgood hmis,
      fun hgood hmis hreach hpool hwell hfree => exec_gather_begins hch hrun hfull hlt hnext hheal hgood hmis hreach hwell hfree hpool,
      fun bs y hgood hmis hreach hpool hwell hfree hrow hread => ?_⟩, fun k i row hcmd hfetch hheal => ?_⟩
    · have hoffsets := exec_gather_offsets hch hrun hfull hlt hnext hheal hgood hmis hreach hwell hfree hpool hrow hread
      exact ⟨fun hok => hoffsets.trans (State.gives_congr (if_pos hok)),
        fun hno => hoffsets.trans (State.gives_congr (if_neg (Bool.eq_false_iff.1 hno)))⟩
    · exact ⟨exec_rowFetchReturn_waits hch hrun hcmd, fun hgo ⟨f, hsp⟩ => exec_rowFetchReturn_host hch hrun hcmd hfetch hheal hgo hsp,
        fun dev f bs y hgo hsp hf hread => exec_rowFetchReturn_peer hch hrun hcmd hfetch hheal hgo hsp hf hread,
        fun bs y hgo hsp hwell hfree hread => exec_rowFetchReturn_commons hch hrun hcmd hfetch hheal hgo hsp hwell hfree hread⟩

end Sys2Proof.Machine
end

section
open Sys2Proof Sys2Proof.Machine

/-- Settles O1: a step is a match on the queue. -/
theorem stepRunsFront : Obligations.StepRunsFront := by
  refine fun s => ⟨fun c rest h => ?_, fun h => ?_⟩
  · rw [step, h]
  · rw [step, h]
    exact run_true s _

end

section
namespace Sys2Proof.Machine

/-! ## Sending under credit (R311, R312) -/

/-- The first element of a test and the rest are the list in another order. -/
theorem eraseFirst_perm {α : Type} [DecidableEq α] {l : List α} {x : α} (h : x ∈ l) :
    (eraseFirst l (fun y => decide (y = x)) ++ [x]).Perm l := by
  induction l with
  | nil => cases h
  | cons y l ih =>
    rw [eraseFirst]
    by_cases hy : y = x
    · rw [if_pos (decide_eq_true hy), hy]
      exact List.perm_append_singleton x l
    · rw [if_neg (by simpa using hy)]
      exact (ih ((List.mem_cons.1 h).resolve_left (Ne.symm hy))).cons y

section
variable {x : Link} {w : Sharer} {m : LinkMsg}

/-- The LV1 message whose turn it is waits on the link. -/
theorem Link.turn1_mem (h : x.turn1 w = some m) : m ∈ x.sendq ∧ msgLv m = 1 := by
  unfold Link.turn1 at h
  split at h
  case h_1 y hy =>
    cases h
    have hp := List.find?_some hy
    rw [Bool.and_eq_true, decide_eq_true_eq] at hp
    exact ⟨List.mem_of_find?_eq_some hy, hp.1⟩
  case h_2 => exact ⟨List.mem_of_find?_eq_some h, by simpa using List.find?_some h⟩

/-- A message that is ready waits on the link, and its credit is held. -/
theorem Link.ready_spec {lv : Nat} (h : x.ready w lv = some m) : m ∈ x.sendq ∧ msgLv m = lv ∧ msgSize m ≤ x.credit lv := by
  unfold Link.ready at h
  split at h
  case h_1 y hy =>
    split_ifs at h with hcr
    cases h
    split_ifs at hy with hlv
    · obtain ⟨hmem, h1⟩ := Link.turn1_mem hy
      exact ⟨hmem, h1.trans hlv.symm, hcr⟩
    · exact ⟨List.mem_of_find?_eq_some hy, by simpa using List.find?_some hy, hcr⟩
  case h_2 => cases h

/-- The message that is sent next waits on the link, and its credit is held. -/
theorem Link.pick_spec (h : x.pick w = some m) : m ∈ x.sendq ∧ msgSize m ≤ x.credit (msgLv m) := by
  have hready : ∃ lv, x.ready w lv = some m := by
    unfold Link.pick at h
    cases h0 : x.ready w 0 <;> cases h1 : x.ready w 1 <;> rw [h0, h1] at h <;> grind
  obtain ⟨lv, hlv⟩ := hready
  obtain ⟨hmem, rfl, hcr⟩ := Link.ready_spec hlv
  exact ⟨hmem, hcr⟩
end

/-- Units that a list of messages takes of the credit of LV1. -/
def units1 (ms : List LinkMsg) : Nat := ((ms.filter fun m => decide (msgLv m = 1)).map msgSize).sum
/-- The messages that frames carry. -/
def framed (fs : List TxFrame) : List LinkMsg := (fs.map TxFrame.msgs).flatten

/-- A link that has sent messages of its queue in frames of one message each, and has paid for those of LV1: the receiving side
is as it was. -/
structure Link.Sends (x y : Link) : Prop where
  rxq : y.rxq = x.rxq
  rxSeq : y.rxSeq = x.rxSeq
  discarding : y.discarding = x.discarding
  part : y.part = x.part
  cr0 : y.cr0 ≤ x.cr0
  cr2 : y.cr2 ≤ x.cr2
  sent : ∃ fs : List TxFrame, y.replay = x.replay ++ fs ∧ (y.sendq ++ framed fs).Perm x.sendq ∧
    units1 (framed fs) + y.cr1 = x.cr1 ∧ ∀ f ∈ fs, f.msgs.length = 1

theorem Link.Sends.refl (x : Link) : x.Sends x :=
  ⟨rfl, rfl, rfl, rfl, le_rfl, le_rfl, [], by simp [framed, units1]⟩

theorem Link.Sends.trans {x y z : Link} (h : x.Sends y) (k : y.Sends z) : x.Sends z := by
  obtain ⟨fs, hreplay, hperm, hpaid, hone⟩ := h.sent
  obtain ⟨gs, kreplay, kperm, kpaid, kone⟩ := k.sent
  refine ⟨k.rxq.trans h.rxq, k.rxSeq.trans h.rxSeq, k.discarding.trans h.discarding, k.part.trans h.part, k.cr0.trans h.cr0,
    k.cr2.trans h.cr2, fs ++ gs, by rw [kreplay, hreplay, List.append_assoc], ?_, ?_, ?_⟩
  · calc (z.sendq ++ framed (fs ++ gs)).Perm (z.sendq ++ framed gs ++ framed fs) := by
          simpa [framed] using List.perm_append_comm.append_left z.sendq
      _ |>.Perm (y.sendq ++ framed fs) := kperm.append_right _
      _ |>.Perm x.sendq := hperm
  · have hsum : units1 (framed (fs ++ gs)) = units1 (framed fs) + units1 (framed gs) := by simp [units1, framed]
    omega
  · intro f hf
    exact (List.mem_append.1 hf).elim (hone f) (kone f)

/-- Counting what a function has sent in a round changes its share only. -/
theorem Link.shared_eq (x : Link) (w : Sharer) (m : LinkMsg) : ∃ s, x.shared w m = { x with share := s } := by
  unfold Link.shared
  split
  · exact ⟨_, rfl⟩
  · exact ⟨_, rfl⟩

/-- A frame leaves with its message and enters the replay buffer. -/
theorem Link.frame_eq (x : Link) (w : Sharer) (m : LinkMsg) : ∃ (s : NMap Nat) (run : Nat) (f : TxFrame), f.msgs = [m] ∧
    x.frame w m = { x.setCredit (msgLv m) (x.credit (msgLv m) - msgSize m) with
      share := s, lv0run := run, sendq := eraseFirst x.sendq fun y => decide (y = m), replay := x.replay ++ [f], txSeq := x.txSeq + 1,
      last := some f, ret0 := x.ret0 - 1023, ret1 := x.ret1 - 1023, ret2 := x.ret2 - 1023 } := by
  obtain ⟨s, hs⟩ := x.shared_eq w m
  rw [Link.frame, hs]
  unfold Link.setCredit
  split_ifs <;> exact ⟨_, _, _, rfl, rfl⟩

theorem msgLv_cases (m : LinkMsg) : msgLv m = 0 ∨ msgLv m = 1 ∨ msgLv m = 2 := by
  unfold msgLv
  dsimp only
  split_ifs <;> simp

/-- A frame takes its message from the queue, and its credit. -/
theorem Link.Sends.frame {x : Link} (w : Sharer) {m : LinkMsg} (hm : m ∈ x.sendq) (hcr : msgSize m ≤ x.credit (msgLv m)) :
    x.Sends (x.frame w m) := by
  obtain ⟨s, run, f, hf, heq⟩ := x.frame_eq w m
  have hperm := eraseFirst_perm hm
  rw [heq]
  obtain h | h | h := msgLv_cases m
  all_goals
    rw [h] at hcr
    refine ⟨?_, ?_, ?_, ?_, ?_, ?_, [f], ?_, ?_, ?_, ?_⟩ <;> simp_all [Link.setCredit, Link.credit, units1, framed]

theorem Link.replay_frame (x : Link) (w : Sharer) (m : LinkMsg) : (x.frame w m).replay.length = x.replay.length + 1 := by
  obtain ⟨s, run, f, -, heq⟩ := x.frame_eq w m
  rw [heq, List.length_append, List.length_singleton]

/-- Pumping a link sends. -/
theorem Link.Sends.pump (w : Sharer) (n : Nat) (x : Link) : x.Sends (x.pump w n) := by
  induction n generalizing x with
  | zero => exact .refl x
  | succ n ih =>
    rw [Link.pump]
    split
    · exact .refl x
    · split
      case h_1 m hm =>
        obtain ⟨hmem, hcr⟩ := Link.pick_spec hm
        exact (Link.Sends.frame w hmem hcr).trans (ih _)
      case h_2 => exact .refl x

/-- The replay buffer does not overflow. -/
theorem Link.replay_pump_le (w : Sharer) (n : Nat) {x : Link} (h : x.replay.length ≤ 256) : (x.pump w n).replay.length ≤ 256 := by
  induction n generalizing x with
  | zero => exact h
  | succ n ih =>
    rw [Link.pump]
    split
    case isTrue => exact h
    case isFalse hroom =>
      split
      case h_1 m _ =>
        refine ih ?_
        rw [x.replay_frame w m]
        omega
      case h_2 => exact h

/-- Settles O42, by induction on the frames sent: each carries one message that waited and that credit allows. -/
theorem sendingKeepsCredit : Obligations.SendingKeepsCredit := by
  intro x w k hroom y
  have h := Link.Sends.pump w k x
  obtain ⟨fs, hreplay, hperm, hpaid, hone⟩ := h.sent
  exact ⟨Link.replay_pump_le w k hroom, h.cr0, Nat.le.intro ((Nat.add_comm _ _).trans hpaid), h.cr2, h.rxq, h.rxSeq, fs, hreplay, hperm, Nat.eq_sub_of_add_eq hpaid, hone⟩

end Sys2Proof.Machine
end

section
namespace Sys2Proof.Machine

/-! ## The receiving side of a link (R310, R312) -/

/-- What a link has received: the SEQ it has come to, whether it discards, the message that continues, and the messages that wait. -/
def Link.rx (x : Link) : BitVec 12 × Bool × Option LinkMsg × List LinkMsg := (x.rxSeq, x.discarding, x.part, x.rxq)
/-- What every link of the device has received. -/
def Dev.rx (d : Dev) : Nat → BitVec 12 × Bool × Option LinkMsg × List LinkMsg := fun k => (d.link k).rx

theorem Dev.link_setLink (d : Dev) (l : Nat) (x : Link) (k : Nat) : (d.setLink l x).link k = if k = l then x else d.link k :=
  NMap.get_put _ _ _ _ _
@[simp] theorem Dev.link_setLink_same (d : Dev) (l : Nat) (x : Link) : (d.setLink l x).link l = x := NMap.get_put_same _ _ _ _
theorem Dev.link_setLink_ne (d : Dev) {l k : Nat} (x : Link) (h : k ≠ l) : (d.setLink l x).link k = d.link k := NMap.get_put_ne _ _ _ h
@[simp] theorem Dev.link_onLink_same (d : Dev) (l : Nat) (f : Link → Link) : (d.onLink l f).link l = f (d.link l) := d.link_setLink_same _ _
theorem Dev.link_onLink_ne (d : Dev) {l k : Nat} (f : Link → Link) (h : k ≠ l) : (d.onLink l f).link k = d.link k := d.link_setLink_ne _ h
/-- A device with the same link block has the same links. -/
theorem Dev.link_congr {d e : Dev} (h : e.links = d.links) (k : Nat) : e.link k = d.link k := by rw [Dev.link, Dev.link, h]
theorem Dev.onlyReports.links {d e : Dev} (h : d.onlyReports e) : e.links = d.links := by
  obtain ⟨⟨_, _, _, rfl⟩, -⟩ := h
  rfl
@[simp] theorem Dev.link_setReg (d : Dev) (o : Nat) (v : Word) (k : Nat) : (d.setReg o v).link k = d.link k := rfl
@[simp] theorem Dev.links_fault (d : Dev) (org : BitVec 32) (kind sub : Nat) (rep : BitVec 32) (wit : Nat) (addr det : Word) :
    (d.fault org kind sub rep wit addr det).links = d.links := (d.onlyReports_refl.fault _ _ _ _ _ _ _).links
@[simp] theorem Dev.links_linkEvent (d : Dev) (l k : Nat) : (d.linkEvent l k).links = d.links := by
  unfold Dev.linkEvent
  split
  · rfl
  · exact Dev.links_fault _ _ _ _ _ _ _ _

/-- A change of a link that is not one of its receiving side. -/
theorem Dev.rx_onLink {d : Dev} {l : Nat} {f : Link → Link} (h : ∀ x, (f x).rx = x.rx) : (d.onLink l f).rx = d.rx := by
  funext k
  by_cases hk : k = l
  · rw [hk, Dev.rx, Dev.link_onLink_same, h]
    rfl
  · rw [Dev.rx, Dev.link_onLink_ne _ _ hk]
    rfl
theorem Dev.rx_congr {d e : Dev} (h : e.links = d.links) : e.rx = d.rx := funext fun k => congrArg Link.rx (Dev.link_congr h k)

theorem Link.Sends.rx {x y : Link} (h : x.Sends y) : y.rx = x.rx := by
  rw [Link.rx, Link.rx, h.rxq, h.rxSeq, h.discarding, h.part]
theorem Link.Sends.idle (x : Link) : x.Sends x.idle :=
  ⟨rfl, rfl, rfl, rfl, le_rfl, le_rfl, [], by simp [Link.idle, Link.form, framed, units1]⟩
/-- A run of a link sends what waits, or an idle frame. -/
theorem Link.Sends.run (w : Sharer) (x : Link) : x.Sends (x.run w) := by
  have hpump := Link.Sends.pump w x.sendq.length x
  unfold Link.run
  dsimp only
  split
  · exact hpump.trans (.idle _)
  · exact hpump
/-- Pumping a link of the device sends on it, if anything. -/
theorem Dev.link_pumpLink_same (d : Dev) (l : Nat) : (d.link l).Sends ((d.pumpLink l).link l) := by
  unfold Dev.pumpLink
  split
  · rw [Dev.link_onLink_same]
    exact .run _ _
  · exact .refl _
theorem Dev.link_pumpLink_ne (d : Dev) {l k : Nat} (h : k ≠ l) : (d.pumpLink l).link k = d.link k := by
  unfold Dev.pumpLink
  split
  · exact Dev.link_onLink_ne _ _ h
  · rfl

@[simp] theorem Dev.rx_pumpLink (d : Dev) (l : Nat) : (d.pumpLink l).rx = d.rx := by
  unfold Dev.pumpLink
  split
  · exact Dev.rx_onLink fun x => (Link.Sends.run _ x).rx
  · rfl
@[simp] theorem Dev.rx_onWire (d : Dev) (l : Nat) (m : LinkMsg) : (d.onWire l m).rx = d.rx :=
  (Dev.rx_pumpLink _ _).trans (Dev.rx_onLink fun _ => rfl)
@[simp] theorem Dev.rx_sendMsg (d : Dev) (m : LinkMsg) : (d.sendMsg m).rx = d.rx := by
  unfold Dev.sendMsg
  split
  · exact Dev.rx_onWire _ _ _
  · rfl
@[simp] theorem Dev.rx_forward (d : Dev) (m : LinkMsg) : (d.forward m).rx = d.rx := by
  unfold Dev.forward
  split
  · exact Dev.rx_onWire _ _ _
  · split
    · exact Dev.rx_sendMsg _ _
    · rfl
@[simp] theorem Dev.rx_relay (d : Dev) (l : Nat) (m : LinkMsg) : (d.relay l m).rx = d.rx := by
  unfold Dev.relay
  dsimp only
  split
  · exact Dev.rx_forward _ _
  · split
    · exact Dev.rx_sendMsg _ _
    · rfl
@[simp] theorem Dev.rx_fault (d : Dev) (org : BitVec 32) (kind sub : Nat) (rep : BitVec 32) (wit : Nat) (addr det : Word) :
    (d.fault org kind sub rep wit addr det).rx = d.rx := Dev.rx_congr (Dev.links_fault _ _ _ _ _ _ _ _)
@[simp] theorem Dev.rx_onGrpRt (d : Dev) (g : Nat) (f : GrpRt → GrpRt) : (d.onGrpRt g f).rx = d.rx := rfl
@[simp] theorem Dev.rx_collSay (d : Dev) (g i what x : Nat) : (d.collSay g i what x).rx = d.rx := by
  unfold Dev.collSay
  split
  · exact Dev.rx_sendMsg _ _
  · rfl
@[simp] theorem Dev.rx_collAll (d : Dev) (g what x : Nat) (but : Option Nat) : (d.collAll g what x but).rx = d.rx := by
  refine foldl_keeps Dev.rx (fun e i => ?_) _ d
  split
  · rfl
  · exact Dev.rx_collSay _ _ _ _ _
@[simp] theorem Dev.rx_headAbandons (d : Dev) (g seq : Nat) (who : Option Nat) : (d.headAbandons g seq who).rx = d.rx :=
  Dev.rx_collAll _ _ _ _ _
/-- Collective control changes no link's receiving side. -/
@[simp] theorem Dev.rx_takeColl (d : Dev) (l : Nat) (m : LinkMsg) : (d.takeColl l m).rx = d.rx := by
  unfold Dev.takeColl
  dsimp only
  simp only [apply_ite Dev.rx, Dev.rx_relay, Dev.lostReport, Dev.rx_fault, Dev.rx_headAbandons, Dev.rx_onGrpRt, ite_self]

@[simp] theorem Link.rx_giveBack (x : Link) (m : LinkMsg) : (x.giveBack m).rx = x.rx := by
  unfold Link.giveBack
  dsimp only
  split_ifs <;> rfl

/-! ## The messages of an accepted frame -/

/-- A message that waits in the receive queue for the link agent: it keeps to the protocol and is no collective control. -/
def msgQueued (m : LinkMsg) : Bool := !msgBad m && decide (m.kind ≠ 0xB)
/-- One message of an accepted frame. -/
def Dev.takeMsg (d : Dev) (l : Nat) (m : LinkMsg) : Dev :=
  if msgBad m then (d.linkEvent l 3).onLink l fun x => x.giveBack m
  else if m.kind = 0xB then (d.onLink l fun x => x.giveBack m).takeColl l m
  else d.onLink l fun x => { x with rxq := x.rxq ++ [m] }
theorem Dev.takeMsgs_cons (d : Dev) (l : Nat) (m : LinkMsg) (ms : List LinkMsg) :
    d.takeMsgs l (m :: ms) = (d.takeMsg l m).takeMsgs l ms := rfl

/-- A message that is queued joins the link's receive queue, and any other leaves what has been received. -/
theorem Dev.rx_takeMsg (d : Dev) (l : Nat) (m : LinkMsg) : (d.takeMsg l m).rx l =
    ((d.link l).rxSeq, (d.link l).discarding, (d.link l).part, (d.link l).rxq ++ [m].filter msgQueued) := by
  unfold Dev.takeMsg
  split_ifs with hbad hcoll
  · rw [Dev.rx_onLink fun x => x.rx_giveBack m, Dev.rx_congr (d.links_linkEvent l 3)]
    simp [Dev.rx, Link.rx, msgQueued, hbad]
  · rw [Dev.rx_takeColl, Dev.rx_onLink fun x => x.rx_giveBack m]
    simp [Dev.rx, Link.rx, msgQueued, hcoll]
  · have hqueued : msgQueued m = true := by
      rw [msgQueued, Bool.eq_false_iff.2 hbad, decide_eq_true hcoll]
      rfl
    simp [Dev.rx, Link.rx, hqueued]
/-- The messages of a frame: those that are queued join the receive queue in order. -/
theorem Dev.rx_takeMsgs (d : Dev) (l : Nat) (ms : List LinkMsg) : (d.takeMsgs l ms).rx l =
    ((d.link l).rxSeq, (d.link l).discarding, (d.link l).part, (d.link l).rxq ++ ms.filter msgQueued) := by
  induction ms generalizing d with
  | nil => simp [Dev.takeMsgs, Dev.rx, Link.rx]
  | cons m ms ih =>
    have h := d.rx_takeMsg l m
    simp only [Dev.rx, Link.rx, Prod.mk.injEq] at h
    obtain ⟨hseq, hdisc, hpart, hq⟩ := h
    rw [Dev.takeMsgs_cons, ih, hseq, hdisc, hpart, hq, List.append_assoc, ← List.filter_append, List.singleton_append]
/-- Without collective control the messages of a frame change no other link. -/
theorem Dev.link_takeMsgs_ne {d : Dev} {l k : Nat} {ms : List LinkMsg} (h : ∀ m ∈ ms, m.kind ≠ 0xB) (hk : k ≠ l) :
    (d.takeMsgs l ms).link k = d.link k := by
  induction ms generalizing d with
  | nil => rfl
  | cons m ms ih =>
    rw [Dev.takeMsgs_cons, ih fun y hy => h y (List.mem_cons_of_mem _ hy)]
    unfold Dev.takeMsg
    split_ifs with hbad hcoll
    · rw [Dev.link_onLink_ne _ _ hk, Dev.link_congr (d.links_linkEvent l 3)]
    · exact absurd hcoll (h m (List.mem_cons_self ..))
    · exact Dev.link_onLink_ne _ _ hk

/-! ## Data frames -/

theorem Dev.link_countFec (d : Dev) (l : Nat) (f : Frame) (k : Nat) : (d.countFec l f).link k = d.link k := by
  unfold Dev.countFec
  split <;> rfl
theorem Dev.link_ackFrames_ne (d : Dev) {l k : Nat} (ack : BitVec 12) (h : k ≠ l) : (d.ackFrames l ack).link k = d.link k := by
  unfold Dev.ackFrames
  dsimp only
  split
  · rfl
  · exact d.link_setLink_ne _ h
theorem Dev.rx_ackFrames (d : Dev) (l : Nat) (ack : BitVec 12) : (d.ackFrames l ack).rx = d.rx := by
  unfold Dev.ackFrames
  dsimp only
  split
  · rfl
  · exact Dev.rx_onLink (f := fun x => { x with replay := x.replay.drop _ }) fun _ => rfl
/-- Credit and ACK of a frame leave what has been received. -/
theorem Dev.rx_frameHead (d : Dev) (l : Nat) (f : Frame) : (d.frameHead l f).rx = d.rx :=
  (Dev.rx_ackFrames _ _ _).trans (Dev.rx_onLink fun _ => rfl)
theorem Dev.link_frameHead_ne (d : Dev) {l k : Nat} (f : Frame) (h : k ≠ l) : (d.frameHead l f).link k = d.link k :=
  (Dev.link_ackFrames_ne _ _ h).trans (Dev.link_onLink_ne _ _ h)

/-- What a discarded frame leaves of its link: from then on the link discards, once the NAK has room in the replay buffer. -/
theorem Link.discard_fields (x : Link) : (x.discard.rxSeq = x.rxSeq ∧ x.discard.rxq = x.rxq ∧ x.discard.part = x.part) ∧
    (x.discard.cr0 = x.cr0 ∧ x.discard.cr1 = x.cr1 ∧ x.discard.cr2 = x.cr2) ∧
    (x.discard.discarding = true ↔ x.discarding = true ∨ x.replay.length < 256) := by
  unfold Link.discard Link.sendNak
  split_ifs with hdisc hroom
  · simp [hdisc]
  · simp [Link.keep, Link.form, hroom]
  · simp [hdisc, hroom]

theorem Link.Sends.cr1 {x y : Link} (h : x.Sends y) : y.cr1 ≤ x.cr1 := by
  obtain ⟨fs, -, -, hpaid, -⟩ := h.sent
  omega

/-- The effect of a data frame that is accepted. -/
def Dev.dataAccepted (d : Dev) (l : Nat) (f : Frame) : Dev :=
  ((((d.countFec l f).frameHead l f).onLink l fun x => { x with rxSeq := f.seq, discarding := false, part := ((d.link l).whole f).2 }).takeMsgs l
    ((d.link l).whole f).1).pumpLink l
/-- The effect of a frame that is not the next one. -/
def Dev.frameDiscarded (d : Dev) (l : Nat) (f : Frame) : Dev := ((d.countFec l f).onLink l Link.discard).pumpLink l

section
variable {s : State} {l : Nat} {f : Frame} (hl : l < 66) (hrun : s.dev.pwr.stopped = false) (hlive : s.dev.linkLive l = true)
  (hgood : f.good = true)
include hl hrun hlive hgood

theorem exec_dataFrame_accepts (hseq : f.seq = (s.dev.link l).rxSeq + 1) (hroom : (s.dev.link l).room f.msgs = true) :
    exec (.dataFrame l f) s = s.gives fun d => d.dataAccepted l f := by
  refine (runDie_gives (decide_eq_true hl) hrun ?_ : execDataFrame l f s = _)
  simp only [hlive, hgood, hroom, Bool.not_true, Bool.false_eq_true, if_false, if_pos hseq]
  rfl
theorem exec_dataFrame_overruns (hseq : f.seq = (s.dev.link l).rxSeq + 1) (hroom : (s.dev.link l).room f.msgs = false) :
    exec (.dataFrame l f) s = s.gives id := by
  refine (runDie_gives (decide_eq_true hl) hrun ?_ : execDataFrame l f s = _)
  simp only [hlive, hgood, hroom, Bool.not_true, Bool.not_false, Bool.false_eq_true, if_false, if_pos hseq, if_true, id]
theorem exec_dataFrame_discards (hseq : f.seq ≠ (s.dev.link l).rxSeq + 1) :
    exec (.dataFrame l f) s = s.gives fun d => d.frameDiscarded l f := by
  refine (runDie_gives (decide_eq_true hl) hrun ?_ : execDataFrame l f s = _)
  simp only [hlive, hgood, Bool.not_true, Bool.false_eq_true, if_false, if_neg hseq]
  rfl

end

theorem State.link_onDev (s : State) (f : Dev → Dev) (k : Nat) : (s.onDev f).dev.link k = (f s.dev).link k := rfl

/-- What an accepted frame leaves of its link. -/
theorem Dev.rx_dataAccepted (d : Dev) (l : Nat) (f : Frame) : (d.dataAccepted l f).rx l =
    (f.seq, false, ((d.link l).whole f).2, (d.link l).rxq ++ ((d.link l).whole f).1.filter msgQueued) := by
  have hq : (((d.countFec l f).frameHead l f).link l).rxq = (d.link l).rxq := by
    have h := congrArg (fun r => (r l).2.2.2) (Dev.rx_frameHead (d.countFec l f) l f)
    exact h.trans (congrArg Link.rxq (d.link_countFec l f l))
  rw [Dev.dataAccepted, Dev.rx_pumpLink, Dev.rx_takeMsgs]
  simp [hq]
theorem Dev.link_dataAccepted_ne {d : Dev} {l k : Nat} {f : Frame} (h : ∀ m ∈ ((d.link l).whole f).1, m.kind ≠ 0xB) (hk : k ≠ l) :
    (d.dataAccepted l f).link k = d.link k := by
  rw [Dev.dataAccepted, Dev.link_pumpLink_ne _ hk, Dev.link_takeMsgs_ne h hk, Dev.link_onLink_ne _ _ hk,
    Dev.link_frameHead_ne _ _ hk, Dev.link_countFec]
theorem Dev.link_frameDiscarded_ne (d : Dev) {l k : Nat} (f : Frame) (hk : k ≠ l) : (d.frameDiscarded l f).link k = d.link k := by
  rw [Dev.frameDiscarded, Dev.link_pumpLink_ne _ hk, Dev.link_onLink_ne _ _ hk, Dev.link_countFec]
/-- A discarded frame and what is sent after it. -/
theorem Dev.link_frameDiscarded_same (d : Dev) (l : Nat) (f : Frame) :
    (d.link l).discard.Sends ((d.frameDiscarded l f).link l) := by
  have h := ((d.countFec l f).onLink l Link.discard).link_pumpLink_same l
  rwa [Dev.link_onLink_same, Dev.link_countFec] at h

/-- Settles O41: the next frame is accepted if it has room, and has no effect without; any other is discarded. -/
theorem framesInOrder : Obligations.FramesInOrder := by
  intro s l f hl hrun hlive hgood x
  by_cases hseq : f.seq = x.rxSeq + 1
  case neg =>
    have hsends := s.dev.link_frameDiscarded_same l f
    obtain ⟨⟨hrxSeq, hrxq, hpart⟩, ⟨h0, h1, h2⟩, hdisc⟩ := x.discard_fields
    refine ⟨_, exec_dataFrame_discards hl hrun hlive hgood hseq, fun h => absurd h hseq, fun _ => ?_, fun _ k hk =>
      s.dev.link_frameDiscarded_ne f hk⟩
    rw [State.link_onDev]
    exact ⟨hsends.rxSeq.trans hrxSeq, hsends.rxq.trans hrxq, hsends.part.trans hpart, hsends.cr0.trans h0.le, hsends.cr1.trans h1.le,
      hsends.cr2.trans h2.le, by rw [hsends.discarding, hdisc]⟩
  case pos =>
    cases hroom : x.room f.msgs with
    | true =>
      have hrx := s.dev.rx_dataAccepted l f
      simp only [Dev.rx, Link.rx, Prod.mk.injEq] at hrx
      obtain ⟨hrxSeq, hdisc, hpart, hrxq⟩ := hrx
      exact ⟨_, exec_dataFrame_accepts hl hrun hlive hgood hseq hroom, fun _ _ => ⟨hrxSeq, hdisc, hpart, hrxq⟩,
        fun h => absurd hseq h, fun hcoll k hk => s.dev.link_dataAccepted_ne hcoll hk⟩
    | false =>
      exact ⟨_, exec_dataFrame_overruns hl hrun hlive hgood hseq hroom, fun _ => nofun, fun h => absurd hseq h, fun _ _ _ => rfl⟩

end Sys2Proof.Machine
end

section
namespace Sys2Proof.Machine

/-! ## Frames on a live link (R309 to R312) -/

section
variable {s : State} {l : Nat} {f : Frame} (hl : l < 66) (hrun : s.dev.pwr.stopped = false) (hlive : s.dev.linkLive l = true)
include hl hrun hlive

/-- A frame that is not good, of whatever type. -/
theorem exec_badFrame (hbad : f.good = false) :
    ∀ c ∈ [Instr.dataFrame l f, .idleFrame l f, .nakFrame l f], exec c s = s.gives fun d => d.badFrame l f := by
  have hdata : execDataFrame l f s = s.gives fun d => d.badFrame l f :=
    runDie_gives (decide_eq_true hl) hrun (by simp only [hlive, hbad]; rfl)
  have hidle : execIdleFrame l f s = s.gives fun d => d.badFrame l f :=
    runDie_gives (decide_eq_true hl) hrun (by simp only [hlive, hbad]; rfl)
  have hnak : execNakFrame l f s = s.gives fun d => d.badFrame l f :=
    runDie_gives (decide_eq_true hl) hrun (by simp only [hlive, hbad]; rfl)
  simpa only [List.forall_mem_cons, List.not_mem_nil, false_imp_iff, implies_true, and_true] using ⟨hdata, hidle, hnak⟩

variable (hgood : f.good = true)
include hgood

theorem exec_idleFrame : exec (.idleFrame l f) s = s.gives fun _ => ((s.dev.countFec l f).frameHead l f).pumpLink l := by
  refine (runDie_gives (decide_eq_true hl) hrun ?_ : execIdleFrame l f s = _)
  simp only [hlive, hgood]
  rfl
/-- A NAK frame that is out of order is discarded as a data frame is. -/
theorem exec_nakFrame_discards (hseq : f.seq ≠ (s.dev.link l).rxSeq + 1) :
    exec (.nakFrame l f) s = s.gives fun d => d.frameDiscarded l f := by
  refine (runDie_gives (decide_eq_true hl) hrun ?_ : execNakFrame l f s = _)
  simp only [hlive, hgood, Bool.not_true, Bool.false_eq_true, if_false, if_pos hseq]
  rfl
/-- How many NAK frames in a row name one frame, with this one. -/
def Link.nakRuns (x : Link) (f : Frame) : Nat := if x.nakRun > 0 ∧ x.nakAck = f.ack then x.nakRun + 1 else 1
/-- A NAK frame is recorded and counted, and with it the frames that go out again. -/
def Dev.nakTaken (d : Dev) (l : Nat) (f : Frame) : Dev :=
  let x := d.link l
  ((d.setLink l { x with nakAck := f.ack, nakRun := (if x.nakRuns f ≥ 8 then 0 else x.nakRuns f), rxSeq := f.seq, discarding := false }).bumpRf
    (oLink l + 0x18) 31 0 1).bumpRf (oLink l + 0x18) 63 32 x.replay.length
theorem exec_nakFrame_inOrder (hseq : f.seq = (s.dev.link l).rxSeq + 1) : exec (.nakFrame l f) s = s.gives fun _ =>
    let h := (s.dev.countFec l f).frameHead l f
    if (h.link l).nakRuns f ≥ 8 then (h.nakTaken l f).startRetrain l else (h.nakTaken l f).pumpLink l := by
  refine (runDie_gives (decide_eq_true hl) hrun ?_ : execNakFrame l f s = _)
  simp only [hlive, hgood, Bool.not_true, Bool.false_eq_true, if_false, if_neg (not_not.2 hseq)]
  rfl

end

/-! ## Training (R307, R308, R314, R315) -/

section
variable {s : State} {l : Nat} (hl : l < 66) (hrun : s.dev.pwr.stopped = false)
include hl hrun

theorem exec_frameLockLost (hlive : s.dev.linkLive l = true) : exec (.frameLockLost l) s = s.gives fun d => d.startRetrain l :=
  (runDie_gives (decide_eq_true hl) hrun (if_pos hlive) : execFrameLockLost l s = _)
theorem exec_laneFailed (hlive : s.dev.linkLive l = true) {lane : Nat} (hlane : lane < 4) : exec (.laneFailed l lane) s =
    s.gives fun d => (d.onLink l fun x => { x with badLanes := setBit x.badLanes lane true }).startRetrain l :=
  (runDie_gives (by simp [linkOk, hl, hlane]) hrun (if_pos hlive) : execLaneFailed l lane s = _)

variable (hfull : s.dev.full = true) (hlt : l < s.dev.part.links)
include hfull hlt

theorem exec_trainingRetry (hen : s.dev.rb (oLink l) 0 = true) (hdown : s.dev.linkUp l = false) :
    exec (.trainingRetry l) s = s.gives fun d => d.startRetrain l :=
  (runDie_gives (decide_eq_true hl) hrun (if_pos (by simp [hfull, hlt, hen, hdown])) : execTrainingRetry l s = _)

variable (htr : s.dev.linkTraining l = true)
include htr

/-- The first training frame of the far end reports it. -/
theorem exec_trainingFrame (t : Training) (hen : s.dev.rb (oLink l) 0 = true) (hfirst : (s.dev.link l).trained = false) :
    exec (.trainingFrame l t) s = s.gives fun d =>
      let o := oLink l + 4
      ((((d.setRf o 21 10 (if t.switch then 0 else t.peer.toNat)).setRf o 27 22 (if t.switch then 0 else t.peerLink.toNat)).setRb o 28
        t.switch).setRf o 9 6 (t.working &&& ~~~(s.dev.link l).badLanes).toNat).onLink l fun x =>
          { x with farRate := some t.rateMax.toNat, trained := true } := by
  refine (runDie_gives (decide_eq_true hl) hrun ?_ : execTrainingFrame l t s = _)
  simp only [hfull, hlt, hen, htr, hfirst, decide_true, Bool.and_self, Bool.not_true, Bool.false_eq_true, if_false, Bool.false_and]

variable {w : BitVec 4}

/-- A training with no working lane, or with no report of the far end. -/
theorem exec_retrainComplete_fails (hnone : lanesUsed (w &&& ~~~(s.dev.link l).badLanes) = 0 ∨ (s.dev.link l).farRate = none) :
    exec (.retrainComplete l w) s = s.gives fun d =>
      let d := d.setRf (oLink l + 4) 9 6 (w &&& ~~~(s.dev.link l).badLanes).toNat
      if s.dev.linkUp l then (d.linkDown l true).gRunAll else d.setRb (oLink l + 4) 29 false := by
  refine (runDie_gives (decide_eq_true hl) hrun ?_ : execRetrainComplete l w s = _)
  have hfar : (if lanesUsed (w &&& ~~~(s.dev.link l).badLanes) = 0 then none else (s.dev.link l).farRate) = none := by
    split
    · rfl
    · exact hnone.resolve_left ‹_›
  simp only [hfull, hlt, htr, decide_true, Bool.and_self, Bool.not_true, Bool.false_eq_true, if_false, hfar]

/-- A peer that trains a link with this device is lost no longer, and what waits is sent. -/
def Dev.peerBack (d : Dev) (l : Nat) : Dev :=
  (if d.rb (oLink l + 4) 28 then d else d.onLinks fun b =>
    { b with lost := b.lost.filter fun p => decide (p ≠ d.rf (oLink l + 4) 21 10) }).pumpLink l
/-- LNK_CFG and LNK_STS of a link that has trained on some lanes, at the rate that both ends have. -/
def Dev.trainedAt (d : Dev) (l rate : Nat) (ok : BitVec 4) : Dev :=
  let o := oLink l + 4
  ((((d.setRb o 0 true).setRf o 2 1 (min rate (d.rf (oLink l) 2 1))).setRf o 5 3 (lanesUsed ok)).setRf o 9 6 ok.toNat).setRb o 29 false
/-- A training with a working lane and a report of the far end. -/
theorem exec_retrainComplete_trains {r : Nat} (hlanes : lanesUsed (w &&& ~~~(s.dev.link l).badLanes) ≠ 0)
    (hfar : (s.dev.link l).farRate = some r) : exec (.retrainComplete l w) s = s.gives fun d =>
      let x := s.dev.link l
      let ok := w &&& ~~~x.badLanes
      let y := d.trainedAt l r ok
      let z := if s.dev.linkUp l then (y.setLink l { x with badLanes := ~~~ok }).bumpRf (oLink l + 0x18) 63 32 x.replay.length
        else y.freshLink l (~~~ok)
      (if s.dev.linkUp l && decide (lanesUsed ok < d.rf (oLink l + 4) 5 3) then z.linkEvent l 0 else z).peerBack l := by
  refine (runDie_gives (decide_eq_true hl) hrun ?_ : execRetrainComplete l w s = _)
  simp only [hfull, hlt, htr, decide_true, Bool.and_self, Bool.not_true, Bool.false_eq_true, if_false, if_neg hlanes, hfar]
  rfl

end

/-- Settles O40: each clause is the branch of its row that the hypotheses name. -/
theorem linksComplete : Obligations.LinksComplete := by
  refine ⟨?frames, ?training⟩
  case frames =>
    intro s l f hl hrun hlive k x next
    refine ⟨exec_badFrame hl hrun hlive, fun hgood => ⟨exec_idleFrame hl hrun hlive hgood,
      exec_dataFrame_accepts hl hrun hlive hgood, exec_dataFrame_overruns hl hrun hlive hgood, fun hseq => ?_,
      exec_nakFrame_inOrder hl hrun hlive hgood⟩⟩
    simpa only [List.forall_mem_cons, List.not_mem_nil, false_imp_iff, implies_true, and_true] using
      ⟨exec_dataFrame_discards hl hrun hlive hgood hseq, exec_nakFrame_discards hl hrun hlive hgood hseq⟩
  case training =>
    intro s l hl hrun o d x
    refine ⟨fun t hfull hlt hen htr => exec_trainingFrame hl hrun hfull hlt htr t hen, fun w hfull hlt htr => ?_,
      exec_trainingRetry hl hrun, fun hlive => ⟨exec_frameLockLost hl hrun hlive, fun lane => exec_laneFailed hl hrun hlive⟩⟩
    refine ⟨fun hnone => ?fails, fun r hlanes hfar => ?trains⟩
    case fails =>
      have h := exec_retrainComplete_fails hl hrun hfull hlt htr hnone
      exact ⟨fun hdown => h.trans (State.gives_congr (if_neg (Bool.eq_false_iff.1 hdown))), fun hup => h.trans (State.gives_congr (if_pos hup))⟩
    case trains =>
      have h := exec_retrainComplete_trains hl hrun hfull hlt htr hlanes hfar
      refine ⟨fun hdown => h.trans (State.gives_congr ?_), fun hup => h.trans (State.gives_congr ?_)⟩
      · have hdown : s.dev.linkUp l = false := hdown
        simp only [hdown, Bool.false_and, Bool.false_eq_true, if_false]
        rfl
      · have hup : s.dev.linkUp l = true := hup
        simp only [hup, Bool.true_and, if_true, decide_eq_true_eq]
        rfl

end Sys2Proof.Machine
end

section
namespace Sys2Proof.Machine

/-! ## Messages of peers (R313, R318, R322 to R324) -/

/-- A message that leaves the receive queue changes its link only. -/
theorem Dev.takeRx_eq {d x : Dev} {l kind : Nat} {m : LinkMsg} (h : d.takeRx l m kind = some x) : ∃ y, x = d.setLink l y := by
  unfold Dev.takeRx at h
  dsimp only at h
  split at h
  · exact ⟨_, (Option.some.inj h).symm⟩
  · cases h

/-- The partitions, and whether a line heals or is free, are not read from the links. -/
theorem Dev.partAt_setLink (d : Dev) (l : Nat) (y : Link) (a : Nat) : (d.setLink l y).partAt a = d.partAt a := rfl
theorem Dev.quiet_setLink (d : Dev) (l : Nat) (y : Link) (line : Nat) : (d.setLink l y).quiet line = d.quiet line := rfl
theorem Dev.needsHeal_setLink (d : Dev) (l : Nat) (y : Link) (line : Nat) : (d.setLink l y).needsHeal line = d.needsHeal line := rfl
theorem Dev.healing_setLink (d : Dev) (l : Nat) (y : Link) (line : Nat) : (d.setLink l y).healing line = d.healing line := rfl

theorem Dev.partAt_takeRx {d x : Dev} {l kind a : Nat} {m : LinkMsg} (hrx : d.takeRx l m kind = some x)
    (hpart : (d.partAt a).isSome = true) : (x.partAt a).isNone = false := by
  obtain ⟨y, hy⟩ := Dev.takeRx_eq hrx
  rw [hy, Dev.partAt_setLink, Option.isNone_eq_false_iff, hpart]

theorem Dev.heldLines_eq_none {d : Dev} {ls : List Nat} : d.heldLines ls = none ↔ ∀ line ∈ ls, d.quiet line = true := by
  simp [Dev.heldLines]
theorem Dev.rxHeld_eq_none {d : Dev} {l line : Nat} :
    d.rxHeld l line = none ↔ d.healHold (.link l) line = none ∧ d.quiet line = true := by
  unfold Dev.rxHeld
  cases d.healHold (.link l) line <;> simp [Dev.heldLines_eq_none]
theorem Dev.rxHeld_setLink {d : Dev} {l line : Nat} (y : Link) (h : d.rxHeld l line = none) : (d.setLink l y).rxHeld l line = none := by
  rw [Dev.rxHeld_eq_none, Dev.healHold_eq_none] at h ⊢
  rwa [Dev.quiet_setLink, Dev.needsHeal_setLink, Dev.healing_setLink]

/-! ## What becomes of a message -/

section
variable {d x : Dev} {l kind : Nat} {m : LinkMsg} (f : Dev → Option Dev) (hfull : d.full = true) (hlt : l < d.part.links)
  (hrx : d.takeRx l m kind = some x)
include hfull hlt hrx

/-- A message for another device is relayed, over the twin links none. -/
theorem Dev.onRx_elsewhere (hdst : m.dst.toNat ≠ d.ownId) :
    d.onRx l m kind f = if l < 64 then (x.relay l m).pumpLink l else x.pumpLink l := by
  unfold Dev.onRx
  rw [hfull, decide_eq_true hlt, hrx]
  by_cases hl : l < 64
  · have hcarry : d.twinCarries l m = true := by simp [Dev.twinCarries, hl]
    simp [hcarry, hdst, hl]
  · simp [hdst, hl]

variable (hdst : m.dst.toNat = d.ownId) (hid : d.idValid = true) (hcarry : d.twinCarries l m = true)
include hdst hid hcarry

/-- A message for this device that can be taken. -/
theorem Dev.onRx_takes {y : Dev} (hf : f x = some y) : d.onRx l m kind f = y.pumpLink l := by
  unfold Dev.onRx
  rw [hfull, decide_eq_true hlt, hrx]
  simp [hcarry, hdst, hid, hf]

end

/-- Each row of a message takes the same way with one for another device. -/
theorem exec_message_elsewhere {s : State} {l kind : Nat} {m : LinkMsg} {c : Instr} {x : Dev} (hl : l < 66)
    (hrun : s.dev.pwr.stopped = false) (hfull : s.dev.full = true) (hlt : l < s.dev.part.links)
    (hc : c = Instr.wr l m ∧ kind = 1 ∨ c = .linkAtm l m ∧ kind = 2 ∨ c = .rd l m ∧ kind = 3 ∨ c = .milestone l m ∧ kind = 4 ∨
      c = .close l m ∧ kind = 5 ∨ c = .abort l m ∧ kind = 6 ∨ c = .rdData l m ∧ kind = 7 ∨ c = .wack l m ∧ kind = 8 ∨
      c = .nakUndeliv l m ∧ kind = 9 ∨ c = .nakBusy l m ∧ kind = 0xA)
    (hrx : s.dev.takeRx l m kind = some x) (hdst : m.dst.toNat ≠ s.dev.ownId) :
    exec c s = s.gives fun _ => if l < 64 then (x.relay l m).pumpLink l else x.pumpLink l := by
  have hplain (f : Dev → Option Dev) : runDie (linkOk l) s (fun d => d.onRx l m kind f) =
      s.gives fun _ => if l < 64 then (x.relay l m).pumpLink l else x.pumpLink l :=
    runDie_gives (decide_eq_true hl) hrun (Dev.onRx_elsewhere f hfull hlt hrx hdst)
  have hrow (act : Dev → Bool × Dev) : requestRow l m kind s act =
      s.gives fun _ => if l < 64 then (x.relay l m).pumpLink l else x.pumpLink l := by
    refine runDie_gives (decide_eq_true hl) hrun ?_
    simp only [decide_eq_false hdst, Bool.and_false, Bool.false_and, Bool.false_eq_true, if_false]
    exact Dev.onRx_elsewhere _ hfull hlt hrx hdst
  obtain ⟨rfl, rfl⟩ | ⟨rfl, rfl⟩ | ⟨rfl, rfl⟩ | ⟨rfl, rfl⟩ | ⟨rfl, rfl⟩ | ⟨rfl, rfl⟩ | ⟨rfl, rfl⟩ | ⟨rfl, rfl⟩ | ⟨rfl, rfl⟩ | ⟨rfl, rfl⟩ := hc
  case inl => exact hrow _
  case inr.inl =>
    change execLinkAtm l m s = _
    unfold execLinkAtm
    split
    · exact hplain _
    · exact hrow _
  case inr.inr.inl =>
    refine (runDie_gives (decide_eq_true hl) hrun ?_ : execRd l m s = _)
    simp only [decide_eq_false hdst, Bool.and_false, Bool.false_and, Bool.false_eq_true, if_false]
    exact Dev.onRx_elsewhere _ hfull hlt hrx hdst
  all_goals exact hplain _

/-! ## Requests of a peer (R310, R322, R323) -/

/-- What a request of a peer leaves behind: the answer with the error indication where a word was uncorrectable, else its number
recorded and acknowledged, and the milestones that waited for it. -/
def Dev.peerAnswered (l : Nat) (m : LinkMsg) (r : Option Nat × Dev) : Dev :=
  if r.1.isSome then r.2.reply l m 7 1 0 0 else (r.2.performed l m).release m

section
variable {s : State} {l : Nat} {m : LinkMsg} {x y : Dev} (hl : l < 66) (hrun : s.dev.pwr.stopped = false) (hfull : s.dev.full = true)
  (hlt : l < s.dev.part.links) (hdst : m.dst.toNat = s.dev.ownId) (hid : s.dev.idValid = true) (hcarry : s.dev.twinCarries l m = true)
include hl hrun hfull hlt hdst hid hcarry

/-- A row that takes its message at once. -/
theorem runDie_onRx_takes {kind : Nat} {z : Dev} (hrx : s.dev.takeRx l m kind = some x) {f : Dev → Option Dev} (hf : f x = some z) :
    runDie (linkOk l) s (fun d => d.onRx l m kind f) = s.gives fun _ => z.pumpLink l :=
  runDie_gives (decide_eq_true hl) hrun (Dev.onRx_takes f hfull hlt hrx hdst hid hcarry hf)

/-- A reduction of a peer whose AOP is not assigned breaks the protocol. -/
theorem exec_linkAtm_unassigned (hrx : s.dev.takeRx l m 2 = some x) (haop : redBytes m.aop.toNat = 0) :
    exec (.linkAtm l m) s = s.gives fun _ => (x.linkEvent l 3).pumpLink l := by
  change execLinkAtm l m s = _
  rw [execLinkAtm, if_pos haop]
  exact runDie_onRx_takes hl hrun hfull hlt hdst hid hcarry hrx rfl

variable (hpart : (s.dev.partAt m.addr.toNat).isSome = true)
include hpart

theorem requestRow_performs {kind : Nat} (hrx : s.dev.takeRx l m kind = some x) (hy : x.withTally m.src.toNat m.chan.toNat = some y)
    (hheld : s.dev.rxHeld l (msgLineNo m) = none) {act : Dev → Bool × Dev} {r : Option Nat × Dev}
    (hact : act (y.healServed (.link l) (msgLineNo m)) = (r.1.isSome, r.2)) :
    requestRow l m kind s act = s.gives fun _ => (Dev.peerAnswered l m r).pumpLink l := by
  refine runDie_gives (decide_eq_true hl) hrun ?_
  rw [hrx, hdst, hpart]
  simp only [Option.isSome_some, decide_true, Bool.and_self, if_true, hheld]
  refine Dev.onRx_takes _ hfull hlt hrx hdst hid hcarry ?_
  obtain ⟨z, hz⟩ := Dev.takeRx_eq hrx
  have hxheld : x.rxHeld l (msgLineNo m) = none := hz ▸ Dev.rxHeld_setLink z hheld
  unfold Dev.request Dev.peerAnswered
  rw [Dev.partAt_takeRx hrx hpart, hxheld, hy]
  simp only [Bool.false_eq_true, if_false]
  rw [hact]
  obtain ⟨_ | _, z⟩ := r <;> rfl

/-- A write of a peer. -/
theorem exec_wr (hrx : s.dev.takeRx l m 1 = some x) (hy : x.withTally m.src.toNat m.chan.toNat = some y)
    (hheld : s.dev.rxHeld l (msgLineNo m) = none) : exec (.wr l m) s = s.gives fun _ =>
      let line := msgLineNo m
      (Dev.peerAnswered l m (((((y.healServed (.link l) line).killResv line).recallAll line false).notePage line).putWords8 .com (wrWords m))).pumpLink l :=
  requestRow_performs hl hrun hfull hlt hdst hid hcarry hpart hrx hy hheld rfl
/-- A reduction of a peer over a whole line. -/
theorem exec_linkAtm (hrx : s.dev.takeRx l m 2 = some x) (hy : x.withTally m.src.toNat m.chan.toNat = some y)
    (hheld : s.dev.rxHeld l (msgLineNo m) = none) (haop : redBytes m.aop.toNat ≠ 0) (hlen : m.dlen = 2) :
    exec (.linkAtm l m) s = s.gives fun _ =>
      (Dev.peerAnswered l m ((y.healServed (.link l) (msgLineNo m)).reduceAt (msgLineNo m) m.aop.toNat [(BitVec.allOnes 128, m.data)])).pumpLink l := by
  change execLinkAtm l m s = _
  rw [execLinkAtm, if_neg haop]
  refine requestRow_performs hl hrun hfull hlt hdst hid hcarry hpart hrx hy hheld ?_
  simp [hlen]
/-- A read of a peer, and a refetch of the twin. -/
theorem exec_rd (hlink : l < 64) (hrx : s.dev.takeRx l m 3 = some x) (hy : x.withTally m.src.toNat m.chan.toNat = some y)
    (hheld : s.dev.rxHeld l (msgLineNo m) = none) : exec (.rd l m) s = s.gives fun _ =>
      let r := (y.healServed (.link l) (msgLineNo m)).syncRead (msgLineNo m)
      let w := r.2.onTally m.src.toNat m.chan.toNat fun t => { t with performed := (m.req.toNat :: t.performed).take 4096 }
      ((if r.1.poison = 0 then w.reply l m 7 0 2 r.1.v else w.reply l m 7 1 0 0).release m).pumpLink l := by
  refine (runDie_gives (decide_eq_true hl) hrun ?_ : execRd l m s = _)
  simp only [hrx, hdst, hpart, Option.isSome_some, decide_true, Bool.and_self, if_true, hheld]
  refine Dev.onRx_takes _ hfull hlt hrx hdst hid hcarry ?_
  rw [Dev.partAt_takeRx hrx hpart, if_neg Bool.false_ne_true, if_neg (by omega), hy]
theorem exec_rd_twin (hlink : 64 ≤ l) (hrx : s.dev.takeRx l m 3 = some x) (hheld : s.dev.rxHeld l (msgLineNo m) = none) :
    exec (.rd l m) s = s.gives fun _ =>
      let r := (x.healServed (.link l) (msgLineNo m)).syncRead (msgLineNo m)
      (if r.1.poison = 0 then r.2.reply l m 7 0 2 r.1.v else r.2.reply l m 7 1 0 0).pumpLink l := by
  refine (runDie_gives (decide_eq_true hl) hrun ?_ : execRd l m s = _)
  simp only [hrx, hdst, hpart, Option.isSome_some, decide_true, Bool.and_self, if_true, hheld]
  refine Dev.onRx_takes _ hfull hlt hrx hdst hid hcarry ?_
  rw [Dev.partAt_takeRx hrx hpart, if_neg Bool.false_ne_true, if_pos hlink]
/-- A milestone of a peer is held. -/
theorem exec_milestone (hrx : s.dev.takeRx l m 4 = some x) (hy : x.withTally m.src.toNat m.chan.toNat = some y) :
    exec (.milestone l m) s = s.gives fun _ =>
      ((y.onTally m.src.toNat m.chan.toNat fun t => { t with held := t.held ++ [(l, m)] }).release m).pumpLink l := by
  refine (runDie_gives (decide_eq_true hl) hrun ?_ : execMilestone l m s = _)
  refine Dev.onRx_takes _ hfull hlt hrx hdst hid hcarry ?_
  rw [Dev.partAt_takeRx hrx hpart, if_neg Bool.false_ne_true, hy]

end

/-! ## Requests of this device that wait for an answer (R319, R323) -/

section
variable {s : State} {chan dst req : Nat} {r : RemReq} (hrun : s.dev.pwr.stopped = false) (hchan : chan < 256) (hdst : dst < 4096)
  (hreq : req < 65536) (hr : s.dev.findRem chan dst req = some r)
include hrun hchan hdst hreq hr

theorem exec_attemptTimeout : exec (.attemptTimeout chan dst req) s =
    s.gives fun d => d.endRem r (if d.remStatus r = 0x38 then 0x38 else linkError r.eng) := by
  refine (runDie_gives (by simp [hchan, hdst, hreq]) hrun ?_ : execAttemptTimeout chan dst req s = _)
  simp only [hr]

/-- A request that was refused goes again, unless its channel has stopped or no route is left. -/
theorem exec_nakBusyResend (hrefused : r.refused = true) {f : Dev → Dev}
    (hf : (if r.msg.kind = 4 ∧ (s.dev.chan r.eng r.ch).bad.contains r.dst then s.dev.endRem r 0x38
      else ((s.dev.routeOf r.dst (msgLine r.msg) r.chan [] false).map fun k => (s.dev.onRem fun rs => rs.map fun y =>
        if y = r then { r with refused := false, link := some k.1, relayed := k.2 } else y).onWire k.1 r.msg).getD
          (s.dev.endRem r (s.dev.remStatus r))) = f s.dev) : exec (.nakBusyResend chan dst req) s = s.gives f := by
  refine (runDie_gives (by simp [hchan, hdst, hreq]) hrun ?_ : execNakBusyResend chan dst req s = _)
  simp only [hr, hrefused, Bool.not_true, Bool.false_eq_true, if_false, ← hf]
  cases s.dev.routeOf r.dst (msgLine r.msg) r.chan [] false <;> rfl

end

/-- Settles O43: a request at the head of its channel that waits for nothing is performed, and every other message is taken at
once (a message that a twin link may not carry is discarded: log entry 97). -/
theorem peersComplete : Obligations.PeersComplete := by
  refine ⟨?requests, ?others⟩
  case requests =>
    intro s l m x y hl hrun hfull hlt line src chan mine row held z ends
    have hends (r : Option Nat × Dev) : (s.gives fun _ => (Dev.peerAnswered l m r).pumpLink l) = ends r := by
      obtain ⟨_ | _, z⟩ := r <;> rfl
    refine ⟨?wr, ?atm, ?atmBad, ?rd, ?refetch, ?stone, ?elsewhere⟩
    case wr =>
      rintro ⟨hrx, ⟨hdst, hid, hcarry⟩, hpart, hy⟩ hheld
      exact (exec_wr hl hrun hfull hlt hdst hid hcarry hpart hrx hy hheld).trans (hends _)
    case atm =>
      rintro ⟨hrx, ⟨hdst, hid, hcarry⟩, hpart, hy⟩ hheld haop hlen
      rw [← hends (z.reduceAt line m.aop.toNat [(BitVec.allOnes 128, m.data)])]
      exact exec_linkAtm hl hrun hfull hlt hdst hid hcarry hpart hrx hy hheld haop hlen
    case atmBad =>
      rintro ⟨hrx, ⟨hdst, hid, hcarry⟩, -, -⟩ haop
      exact exec_linkAtm_unassigned hl hrun hfull hlt hdst hid hcarry hrx haop
    case rd =>
      rintro hlink ⟨hrx, ⟨hdst, hid, hcarry⟩, hpart, hy⟩ hheld
      exact exec_rd hl hrun hfull hlt hdst hid hcarry hpart hlink hrx hy hheld
    case refetch =>
      rintro hlink hrx ⟨hdst, hid, hcarry⟩ hpart - hheld
      exact exec_rd_twin hl hrun hfull hlt hdst hid hcarry hpart hlink hrx hheld
    case stone =>
      rintro ⟨hrx, ⟨hdst, hid, hcarry⟩, hpart, hy⟩
      exact exec_milestone hl hrun hfull hlt hdst hid hcarry hpart hrx hy
    case elsewhere =>
      intro c kind hc hrx hdst
      have h := exec_message_elsewhere hl hrun hfull hlt hc hrx hdst
      exact ⟨fun hlink => h.trans (State.gives_congr (if_pos hlink)), fun hlink => h.trans (State.gives_congr (if_neg (by omega)))⟩
  case others =>
    intro s l m x hl hrun src chan row ends
    have htakes {kind : Nat} {f : Dev → Option Dev} {z : Dev} (hrow : row kind) (hf : f x = some z) :
        runDie (linkOk l) s (fun d => d.onRx l m kind f) = ends z := by
      obtain ⟨hfull, hlt, hrx, hdst, hid, hcarry⟩ := hrow
      exact runDie_onRx_takes hl hrun hfull hlt hdst hid hcarry hrx hf
    refine ⟨fun h => htakes h rfl, fun h => htakes h rfl, fun h => htakes h rfl, fun h => htakes h rfl, fun r hr => ⟨fun h => ?undeliv,
      fun hlink h herr => ?error, fun hlink h hdata => ?data⟩, fun hlink h => ⟨fun herr => ?twinError, fun hdata => ?twinData⟩, ?waiting⟩
    case undeliv =>
      refine htakes h ?_
      simp only [src, chan] at hr
      rw [hr]
    case error =>
      refine htakes h ?_
      simp only [src, chan] at hr
      rw [if_neg (by omega), hr]
      simp only [herr, if_true]
    case data =>
      refine htakes h ?_
      simp only [src, chan] at hr
      rw [if_neg (by omega), hr]
      simp only [hdata, Bool.false_eq_true, if_false]
    case twinError =>
      refine htakes h ?_
      rw [if_pos hlink, herr, if_pos rfl]
    case twinData =>
      refine htakes h ?_
      rw [if_pos hlink, hdata, if_neg Bool.false_ne_true]
    case waiting =>
      intro dst req r hchan hdst hreq hr stopped
      refine ⟨exec_attemptTimeout hrun hchan hdst hreq hr, fun hrefused hstop => ?_, fun hrefused hstop hroute => ?_,
        fun k rel hrefused hstop hroute => ?_⟩
      · exact exec_nakBusyResend hrun hchan hdst hreq hr hrefused (if_pos hstop)
      · exact exec_nakBusyResend hrun hchan hdst hreq hr hrefused (by rw [if_neg hstop, hroute]; rfl)
      · exact exec_nakBusyResend hrun hchan hdst hreq hr hrefused (by rw [if_neg hstop, hroute]; rfl)

end Sys2Proof.Machine
end

section
namespace Sys2Proof.Machine

theorem Dev.rf_congr {d e : Dev} {o : Nat} (h : e.reg o = d.reg o) (hi lo : Nat) : e.rf o hi lo = d.rf o hi lo := by
  rw [Dev.rf, h, Dev.rf]
theorem Dev.rb_congr {d e : Dev} {o : Nat} (h : e.reg o = d.reg o) (k : Nat) : e.rb o k = d.rb o k := by
  rw [Dev.rb, h, Dev.rb]

/-! ## Control of collectives (R330, R333, R334) -/

section
variable {s : State} {g : Nat} (hg : g < 64) (hrun : s.dev.pwr.stopped = false) (hfull : s.dev.full = true)
include hg hrun hfull

theorem exec_collReady {member : Nat} {r : CollKey} (hkind : s.dev.grpKind g ≠ 0) (hhead : s.dev.isHead g = true)
    (hsize : member < s.dev.grpSize g) (hmember : member < 4096) (hself : member ≠ s.dev.grpSelf g) (hlost : (s.dev.grpRt g).lost = []) :
    exec (.collReady g member r) s = s.gives fun d => d.addReady g member r :=
  (runDie_gives (by simp [grpOk, hg, hmember]) hrun (if_pos (by simp [hfull, hkind, hhead, hsize, hself, hlost])) :
    execCollReady g member r s = _)
theorem exec_collGo {seq : Nat} (hkind : s.dev.grpKind g ≠ 0) (hhead : s.dev.isHead g = false) : exec (.collGo g seq) s =
    s.gives fun d => d.onGrpRt g fun x =>
      { x with colls := x.colls.map fun c => if c.status.isNone ∧ c.seq = seq then { c with going := true } else c } :=
  (runDie_gives (decide_eq_true hg) hrun (if_pos (by simp [hfull, hkind, hhead])) : execCollGo g seq s = _)
theorem exec_barrier {c : Coll} (hc : (s.dev.grpRt g).running 5 = some c) :
    exec (.barrier g) s = s.gives fun d => d.collEnd g c 0 := by
  refine (runDie_gives (decide_eq_true hg) hrun ?_ : execBarrier g s = _)
  simp only [hfull, hc, Bool.not_true, Bool.false_eq_true, if_false]
/-- The collective at the front of a group that has ended well writes its done word. -/
theorem exec_collectiveComplete {c : Coll} {rest : List Coll} (st : BitVec 8) (hc : (s.dev.grpRt g).colls = c :: rest)
    (hst : c.status = some 0) (hmap : (s.dev.commonsMapped (s.dev.grpFunc g) c.doneAt 8).isSome = true) (hal : c.doneAt % 8 = 0)
    (hfree : s.dev.heldLines ((linesOf c.doneAt 8).map fun l => lineOf (128 * l)) = none) :
    exec (.collectiveComplete g st) s = s.gives fun d => ((d.onGrpRt g fun y => { y with colls := rest }).engPut none .com c.doneAt
      ((toBytes 8 (setFld (setFld (setFld (0 : Word) 63 32 c.seq) 31 16 c.tag) 7 0 0)).map some)).2 := by
  refine (runDie_gives (decide_eq_true hg) hrun ?_ : execCollectiveComplete g st s = _)
  simp only [hfull, hc, hst, hmap, hal, Bool.not_true, Bool.false_eq_true, if_false, decide_true, Bool.and_self, if_true, ne_eq,
    not_true_eq_false, decide_false, Bool.false_and, List.append_nil, hfree, true_or]

end

/-! ## A lost peer (R325) -/

/-- LNK_LOST shows a lost peer, and the device holds it lost. -/
def Dev.noteLost (d : Dev) (dev : Nat) : Dev :=
  (if d.rb 0x480004 0 then d else (d.setRf 0x480004 12 1 dev).setRb 0x480004 0 true).onLinks fun b =>
    { b with lost := if b.lost.contains dev then b.lost else b.lost ++ [dev] }
theorem Dev.lost_noteLost (d : Dev) (dev p : Nat) : p ∈ (d.noteLost dev).links.lost ↔ p ∈ d.links.lost ∨ p = dev := by
  have h : (d.noteLost dev).links.lost = if d.links.lost.contains dev then d.links.lost else d.links.lost ++ [dev] := by
    unfold Dev.noteLost
    split <;> rfl
  rw [h]
  split
  case isTrue hmem => exact ⟨.inl, fun hp => hp.elim id fun he => he ▸ List.contains_iff_mem.1 hmem⟩
  case isFalse => simp
theorem Dev.link_noteLost (d : Dev) (dev k : Nat) : (d.noteLost dev).link k = d.link k := by
  unfold Dev.noteLost
  split <;> rfl
theorem Dev.reg_noteLost_ne (d : Dev) (dev : Nat) {o : Nat} (h : o ≠ 0x480004) : (d.noteLost dev).reg o = d.reg o := by
  unfold Dev.noteLost
  split
  · rfl
  · exact (Dev.reg_setRb_ne _ _ _ h).trans (Dev.reg_setRf_ne _ _ _ _ h)
theorem Dev.part_noteLost (d : Dev) (dev : Nat) : (d.noteLost dev).part = d.part := by
  unfold Dev.noteLost
  split <;> rfl
theorem Dev.reg_onLinks (d : Dev) (f : Links → Links) (o : Nat) : (d.onLinks f).reg o = d.reg o := rfl
/-- LNK_LOST keeps the peer that it shows. -/
theorem Dev.noteLost_shown {d : Dev} (dev : Nat) (h : d.rb 0x480004 0 = true) : (d.noteLost dev).reg 0x480004 = d.reg 0x480004 := by
  unfold Dev.noteLost
  rw [if_pos h, Dev.reg_onLinks]
theorem Dev.noteLost_shows (d : Dev) (dev : Nat) : (d.noteLost dev).rb 0x480004 0 = true ∧
    (d.rb 0x480004 0 = false → dev < 4096 → (d.noteLost dev).rf 0x480004 12 1 = dev) := by
  cases h : d.rb 0x480004 0 with
  | true => exact ⟨by rw [Dev.rb, Dev.noteLost_shown dev h]; exact h, nofun⟩
  | false =>
    have hnote : ∀ o, (d.noteLost dev).reg o = ((d.setRf 0x480004 12 1 dev).setRb 0x480004 0 true).reg o := fun o => by
      unfold Dev.noteLost
      rw [h]
      rfl
    refine ⟨?_, fun _ hlt => ?_⟩
    · rw [Dev.rb, hnote]
      exact Dev.rb_setRb_same _ _ _ (by decide)
    · rw [Dev.rf, hnote]
      refine (Dev.rf_setRf_disjoint _ _ _ (by decide) (.inr (by decide))).trans ((Dev.rf_setRf_same _ _ _ _ (by decide)).trans ?_)
      omega

/-- A span whose present members all lie after this device has it at its head, whoever is lost besides. -/
theorem Dev.spanHead_none_of {d e : Dev} (h : d.spanHead = none) (hlost : ∀ p, p ∈ d.links.lost → p ∈ e.links.lost)
    (hlink : ∀ k, e.link k = d.link k) (hreg : ∀ o, o ≠ 0x480004 → o ≠ 0x708004 → o ≠ 0x708008 → e.reg o = d.reg o) :
    e.spanHead = none := by
  have hid : e.reg oDevId = d.reg oDevId := hreg _ (by decide) (by decide) (by decide)
  have hsize : max 1 (d.rf oDevId 24 19) ≤ 64 := by
    have : d.rf oDevId 24 19 < 64 := by
      unfold Dev.rf fld
      exact Nat.mod_lt _ (by decide)
    omega
  have hpeer (j : Nat) : e.spanPeer j = d.spanPeer j := by
    have hmod := Nat.mod_lt (j + 2 * max 1 (d.rf oDevId 24 19) - d.rf oDevId 18 13 - 1) (show 0 < max 1 (d.rf oDevId 24 19) by omega)
    unfold Dev.spanPeer
    rw [Dev.rf, Dev.rf, hid, ← Dev.rf, ← Dev.rf]
    simp only [hlink]
    refine Option.map_congr fun k hk => ?_
    have hk2 : k < 128 := by
      have hmem := List.mem_of_find?_eq_some hk
      simp only [List.mem_cons, List.not_mem_nil, or_false] at hmem
      omega
    rw [Dev.rf, Dev.rf, hreg _ (by unfold oLink; omega) (by unfold oLink; omega) (by unfold oLink; omega)]
  unfold Dev.spanHead at h ⊢
  rw [List.findSome?_eq_none_iff] at h ⊢
  intro j hj
  rw [Dev.rf, hid, ← Dev.rf] at hj
  have hd := h j hj
  simp only [hpeer] at hd ⊢
  cases hp : d.spanPeer j with
  | none => rfl
  | some p =>
    rw [hp] at hd
    simp only [ite_eq_left_iff, reduceCtorEq, imp_false, not_not, List.contains_iff_mem] at hd ⊢
    exact hlost p hd

theorem Dev.onlyReports.part {d e : Dev} (h : d.onlyReports e) : e.part = d.part := by
  obtain ⟨⟨_, _, _, rfl⟩, -⟩ := h
  rfl

/-- The record of a lost peer (Table 14.7). -/
def Dev.recordLost (d : Dev) (dev : Nat) : Dev :=
  let l := d.rf (oRoute dev) 6 0
  let die := if l < 64 then linkDie l else 0
  d.fault (origin 9 dev) 9 0 (origin 4 die) die 0 0
/-- The head of the span, and the groups that the lost peer is a member of, learn of the loss (R325, R330). -/
def Dev.tellLost (d : Dev) (dev : Nat) : Dev :=
  let d := match d.spanHead with
    | some h => d.sendMsg (plainMsg 0xB 0 h d.ownId (5 + 256 * dev) 0)
    | none => d
  (List.range 64).foldl (fun d g =>
    if d.grpKind g = 0 then d
    else match (List.range (d.grpRt g).members.length).find? fun i =>
        decide ((d.grpRt g).device i = some dev) && decide (i ≠ d.grpSelf g) with
      | some i => d.memberLost g i
      | none => d) d
theorem Dev.tellLost_eq_self {d : Dev} (dev : Nat) (hhead : d.spanHead = none) (hgrp : ∀ k, k < 64 → d.grpKind k = 0) :
    d.tellLost dev = d := by
  unfold Dev.tellLost
  simp only [hhead]
  exact foldl_eq_self _ _ _ fun k hk => if_pos (hgrp k (List.mem_range.1 hk))
theorem execPeerLost_eq (dev : Nat) (s : State) : execPeerLost dev s = runDie (decide (dev < 4096)) s fun d =>
    if !d.full || !(d.rb (oRoute dev) 27) then d else ((d.noteLost dev).recordLost dev).tellLost dev := rfl
/-- The loss of a peer that is in no group, on the device at the head of its span: LNK_LOST and one record. -/
theorem exec_peerLost {s : State} {dev : Nat} (hrun : s.dev.pwr.stopped = false) (hfull : s.dev.full = true) (hdev : dev < 4096)
    (hroute : s.dev.rb (oRoute dev) 27 = true) (hgrp : ∀ k, k < 64 → s.dev.grpKind k = 0) (hhead : s.dev.spanHead = none) :
    exec (.peerLost dev) s = s.gives fun d => (d.noteLost dev).recordLost dev := by
  have he : (s.dev.noteLost dev).onlyReports ((s.dev.noteLost dev).recordLost dev) := Dev.onlyReports_refl _ |>.fault _ _ _ _ _ _ _
  have hreg (o : Nat) (h1 : o ≠ 0x480004) (h2 : o ≠ 0x708004) (h3 : o ≠ 0x708008) :
      ((s.dev.noteLost dev).recordLost dev).reg o = s.dev.reg o :=
    (he.2 o h2 h3).trans (s.dev.reg_noteLost_ne dev h1)
  have hspan := Dev.spanHead_none_of hhead (fun p hp => by rw [he.links, Dev.lost_noteLost]; exact .inl hp)
    (fun k => (Dev.link_congr he.links k).trans (s.dev.link_noteLost dev k)) hreg
  have hkind (k : Nat) (hk : k < 64) : ((s.dev.noteLost dev).recordLost dev).grpKind k = 0 := by
    rw [Dev.grpKind, Dev.rf, hreg _ (by unfold oGrp; omega) (by unfold oGrp; omega) (by unfold oGrp; omega)]
    exact hgrp k hk
  refine (execPeerLost_eq dev s).trans (runDie_gives (decide_eq_true hdev) hrun ?_)
  rw [hfull, hroute, if_neg (by decide)]
  exact Dev.tellLost_eq_self dev hspan hkind

/-! ## The data of a collective (R335, R336) -/

/-- Every member's input has the length that the record gives it; this device reads its own, and BROADCAST needs the root's. -/
def Coll.inputsFit (c : Coll) (op n self : Nat) (inputs : List (List Byte)) : Prop :=
  inputs.length = n ∧
    ∀ k, k < n → k = self ∨ (op = 4 ∧ k ≠ c.root) ∨ (inputs.getD k []).length = (c.input n k).2
/-- The members' inputs, with this device's own bytes as it has read them. -/
def collIns (self : Nat) (own : List (Option Byte)) (inputs : List (List Byte)) (k : Nat) : List Byte :=
  if k = self then own.map fun b => b.getD 0 else inputs.getD k []
/-- The output of a collective, and the device that has formed it. -/
def Dev.collOutput (d : Dev) (g op : Nat) (c : Coll) (n self : Nat) (ins : Nat → List Byte) : List Byte × Dev :=
  if op = 1 then (List.range n).foldl (fun (acc : List Byte × Dev) j =>
    let r := acc.2.collReduce g c ins (c.shardBytes n j).1 (c.shardBytes n j).2; (acc.1 ++ r.1, r.2)) ([], d)
  else if op = 2 then d.collReduce g c ins (c.shardBytes n self).1 (c.shardBytes n self).2
  else if op = 3 then (((List.range n).map ins).flatten, d)
  else (ins c.root, d)
/-- The output is written where the collective's DST names, and the collective ends. -/
def Dev.collWritten (g op : Nat) (c : Coll) (n self : Nat) (r : List Byte × Dev) : Dev :=
  let out := c.outLines n self
  let k := c.shard n (self + 1) - c.shard n self
  let first := if op = 1 then c.shard n self else 0
  let w := if op ≤ 2 then r.2.collAtm (c.dst + 128 * first) k n ((r.1.drop (128 * first)).take (128 * k)) else r.2
  let e := if op = 2 then w
    else if op = 1 then (w.collPut c.dst first (r.1.take (128 * first))).collPut (c.dst + 128 * (first + k)) (out - (first + k))
      (r.1.drop (128 * (first + k)))
    else w.collPut c.dst out r.1
  e.collEnd g c 0

/-- The data of a running collective move: no check refuses its record, its lines are free, and this device's input reads well. -/
theorem Dev.collMove_moves {d y : Dev} {g op : Nat} {c : Coll} {inputs : List (List Byte)} {own : List (Option Byte)} {e : Option (Nat × Nat)}
    (hc : (d.grpRt g).running op = some c) (hfit : c.inputsFit op (d.grpSize g) (d.grpSelf g) inputs) (hgood : d.collBad g c = false)
    (hfree : d.heldLines ((linesOf c.src (c.input (d.grpSize g) (d.grpSelf g)).2 ++
      linesOf c.dst (128 * c.outLines (d.grpSize g) (d.grpSelf g))).map fun l => lineOf (128 * l)) = none)
    (hread : d.engRead .com [] c.src (if op = 4 ∧ d.grpSelf g ≠ c.root then 0 else (c.input (d.grpSize g) (d.grpSelf g)).2) = (own, e, y))
    (hown : ∀ b ∈ own, b.isSome = true) :
    d.collMove g op inputs = Dev.collWritten g op c (d.grpSize g) (d.grpSelf g)
      (y.collOutput g op c (d.grpSize g) (d.grpSelf g) (collIns (d.grpSelf g) own inputs)) := by
  obtain ⟨hlen, heach⟩ := hfit
  have hall : ((List.range (d.grpSize g)).all fun i => decide (i = d.grpSelf g) || (decide (op = 4) && decide (i ≠ c.root)) ||
      decide ((inputs.getD i []).length = (c.input (d.grpSize g) i).2)) = true := by
    rw [List.all_eq_true]
    intro k hk
    simpa [or_assoc] using heach k (List.mem_range.1 hk)
  have hnone : own.any Option.isNone = false := by
    rw [List.any_eq_false]
    intro b hb
    simpa [Option.isSome_iff_ne_none] using hown b hb
  unfold Dev.collMove
  simp only [hc, hlen, hall, hgood, hfree, hread, hnone, not_not.2 rfl, Bool.not_true, Bool.false_eq_true, or_self, if_false]
  rfl

/-- The rows of the four collectives that carry data. -/
theorem exec_collMove {s : State} {y : Dev} {g op : Nat} {c : Coll} {inputs : List (List Byte)} {own : List (Option Byte)} {i : Instr}
    (hrow : exec i s = runDie (grpOk g) s fun d => if d.full then d.collMove g op inputs else d)
    (hg : g < 64) (hrun : s.dev.pwr.stopped = false) (hfull : s.dev.full = true) (hc : (s.dev.grpRt g).running op = some c)
    (hfit : c.inputsFit op (s.dev.grpSize g) (s.dev.grpSelf g) inputs) (hgood : s.dev.collBad g c = false)
    (hfree : s.dev.heldLines ((linesOf c.src (c.input (s.dev.grpSize g) (s.dev.grpSelf g)).2 ++
      linesOf c.dst (128 * c.outLines (s.dev.grpSize g) (s.dev.grpSelf g))).map fun l => lineOf (128 * l)) = none)
    (hread : ∃ e, s.dev.engRead .com [] c.src
      (if op = 4 ∧ s.dev.grpSelf g ≠ c.root then 0 else (c.input (s.dev.grpSize g) (s.dev.grpSelf g)).2) = (own, e, y))
    (hown : ∀ b ∈ own, b.isSome = true) :
    exec i s = s.gives fun _ => Dev.collWritten g op c (s.dev.grpSize g) (s.dev.grpSelf g)
      (y.collOutput g op c (s.dev.grpSize g) (s.dev.grpSelf g) (collIns (s.dev.grpSelf g) own inputs)) := by
  obtain ⟨e, hread⟩ := hread
  exact hrow.trans (runDie_gives (decide_eq_true hg) hrun ((if_pos hfull).trans (Dev.collMove_moves hc hfit hgood hfree hread hown)))

/-- Settles O44: a row of the control is its own case of the table, and the four that carry data share one movement, which reads
this member's input, forms the output that the operation names and writes it (R335, R336). -/
theorem collectivesComplete : Obligations.CollectivesComplete := by
  refine ⟨?control, ?data⟩
  case control =>
    intro s g hg hrun hfull
    refine ⟨fun _ _ => exec_collReady hg hrun hfull, fun _ => exec_collGo hg hrun hfull, fun _ => exec_barrier hg hrun hfull,
      fun _ _ st => exec_collectiveComplete hg hrun hfull st, fun dev hdev hroute hgrp hhead => ?_⟩
    have he : (s.dev.noteLost dev).onlyReports ((s.dev.noteLost dev).recordLost dev) := Dev.onlyReports_refl _ |>.fault _ _ _ _ _ _ _
    have hreg := he.2 0x480004 (by decide) (by decide)
    obtain ⟨hvalid, hpeer⟩ := s.dev.noteLost_shows dev
    have hpart := State.onDev_dev_of_part (s := s) (f := fun d => (d.noteLost dev).recordLost dev) (he.part.trans (s.dev.part_noteLost dev))
    refine ⟨_, exec_peerLost hrun hfull hdev hroute hgrp hhead, ?_, ?_, fun hnone => ?_, fun hsome => ?_⟩ <;> rw [hpart]
    · exact he.links ▸ (s.dev.lost_noteLost dev dev).2 (.inr rfl)
    · rw [Dev.rb_congr hreg, hvalid]
    · rw [Dev.rf_congr hreg, hpeer hnone hdev]
    · rw [Dev.rf_congr (hreg.trans (Dev.noteLost_shown dev hsome))]
  case data =>
    intro s g op c inputs own y i hg hrun hfull hc n self out len hlen heach hgood hfree hread hown ins first k ends
    have hmove (hrow : exec i s = runDie (grpOk g) s fun d => if d.full then d.collMove g op inputs else d) :=
      exec_collMove hrow hg hrun hfull hc ⟨hlen, heach⟩ hgood hfree hread hown
    refine ⟨?allReduce, ?reduceScatter, ?allGather, ?broadcast⟩ <;> (rintro rfl rfl; exact hmove rfl)

end Sys2Proof.Machine
end

section
namespace Sys2Proof.Machine

/-! ## The acceptance of a command (R350, R351) -/

theorem Dev.win_setWin_same (d : Dev) (f n : Nat) (w : Window) : (d.setWin f n w).win f n = w := NMap.get_put_same _ _ _ _
theorem Dev.win_setWin_ne (d : Dev) {f g m n : Nat} (w : Window) (hn : n < 8) (hm : m < 8) (h : f ≠ g ∨ n ≠ m) :
    (d.setWin g m w).win f n = d.win f n :=
  NMap.get_put_ne _ _ _ (by omega)

/-- The command that a write brings, as its window's next. -/
def Dev.cmdOf (d : Dev) (w : WinWrite) (c : HostCmd) : CmdRec :=
  { op := c.op.toNat, c := c, func := w.func, win := w.win, slot := w.slot, port := w.port, seq := (d.win w.func w.win).seq,
    ctx := d.winCtx w.func w.win, waitNs := 0, reissued := false, acc := (d.readDur 100).1,
    mirrored := !((d.readDur 100).2.mirrors && (d.readDur 100).2.primary (d.winCtx w.func w.win)), atTwin := false }
/-- The device once the command has a credit and its SEQ. -/
def Dev.cmdTaken (d : Dev) (w : WinWrite) : Dev :=
  (d.readDur 100).2.setWin w.func w.win
    { d.win w.func w.win with credits := (d.win w.func w.win).credits - 1, seq := (d.win w.func w.win).seq + 1 }

theorem Dev.recs_cmdTaken (d : Dev) (w : WinWrite) : (d.cmdTaken w).recs = d.recs := rfl
theorem Dev.win_cmdTaken_same (d : Dev) (w : WinWrite) : (d.cmdTaken w).win w.func w.win =
    { d.win w.func w.win with credits := (d.win w.func w.win).credits - 1, seq := (d.win w.func w.win).seq + 1 } :=
  Dev.win_setWin_same _ _ _ _
theorem Dev.win_cmdTaken_ne (d : Dev) (w : WinWrite) {f n : Nat} (hn : n < 8) (hw : w.win < 8) (h : f ≠ w.func ∨ n ≠ w.win) :
    (d.cmdTaken w).win f n = d.win f n :=
  Dev.win_setWin_ne _ _ hn hw h

theorem Dev.acceptCmd_eq (d : Dev) (w : WinWrite) (h : HostCmd) : d.acceptCmd w h = ((d.cmdTaken w).cmdCheck (d.cmdOf w h)).elim
    (let e := (d.cmdTaken w).onWin w.func w.win fun y => { y with waiting := y.waiting ++ [d.cmdOf w h] }
     if h.op.toNat ≠ 1 ∧ e.mayStart (d.cmdOf w h) = true then e.startOther (d.cmdOf w h) else e)
    fun st => { d.cmdTaken w with recs := d.recs ++ [(d.cmdOf w h).plainRec st] } := by
  change (match (d.cmdTaken w).cmdCheck (d.cmdOf w h) with
    | some st => _
    | none => _) = _
  cases (d.cmdTaken w).cmdCheck (d.cmdOf w h) <;> rfl

section
variable {d : Dev} {w : WinWrite} {h : HostCmd}

/-- A command whose contents are wrong gets its record at once. -/
theorem Dev.acceptCmd_refused {st : Nat} (hst : (d.cmdTaken w).cmdCheck (d.cmdOf w h) = some st) :
    d.acceptCmd w h = { d.cmdTaken w with recs := d.recs ++ [(d.cmdOf w h).plainRec st] } := by
  rw [Dev.acceptCmd_eq, hst, Option.elim_some]
/-- A RUN whose contents are good waits in its window. -/
theorem Dev.acceptCmd_waits (hok : (d.cmdTaken w).cmdCheck (d.cmdOf w h) = none) (hop : h.op = 1) :
    d.acceptCmd w h = (d.cmdTaken w).onWin w.func w.win fun y => { y with waiting := y.waiting ++ [d.cmdOf w h] } := by
  rw [Dev.acceptCmd_eq, hok, Option.elim_none]
  exact if_neg fun hstart => hstart.1 (congrArg BitVec.toNat hop)

end

theorem Dev.cmdCheck_unassigned (d : Dev) {q : CmdRec} (h : opAssigned q.op = false) : d.cmdCheck q = some 4 := by
  unfold Dev.cmdCheck
  simp only [h, Bool.not_false, Bool.or_true, if_true]
theorem Dev.cmdCheck_unbounded (d : Dev) {q : CmdRec} (hop : q.op = 1) (h : q.c.maxDur = 0) : d.cmdCheck q = some 4 := by
  unfold Dev.cmdCheck
  simp only [hop, h, decide_true, if_true, Bool.or_true, Bool.true_or]
/-- The status of a RUN that is turned away: BAD_COMMAND, an ended context, or one that is off. -/
theorem Dev.cmdCheck_run (d : Dev) {q : CmdRec} {st : Nat} (hop : q.op = 1) (h : d.cmdCheck q = some st) : st = 4 ∨ st = 5 ∨ st = 6 := by
  have hmgmt : isMgmt q.op = false := by rw [hop]; decide
  unfold Dev.cmdCheck at h
  simp only [hmgmt, Bool.false_eq_true, and_false, if_false, ite_eq_iff, Option.some.injEq, reduceCtorEq] at h
  grind

/-- Settles O48: the credit and the SEQ are taken first; the check of the contents then decides between a record and a place at the
end of the window (R350, R351, log entry 44). -/
theorem acceptedRun : Obligations.AcceptedRun := by
  intro d w h x e y
  have hrefused {st : Nat} (hst : (d.cmdTaken w).cmdCheck (d.cmdOf w h) = some st) :
      ∃ r, e.recs = d.recs ++ [r] ∧ r.status = st ∧ r.seq = x.seq ∧ r.tag = h.tag :=
    ⟨_, congrArg Dev.recs (Dev.acceptCmd_refused hst), rfl, rfl, rfl⟩
  refine ⟨fun hop => hrefused (Dev.cmdCheck_unassigned _ hop), fun hop => ?_⟩
  have hone : (d.cmdOf w h).op = 1 := congrArg BitVec.toNat hop
  have hunbounded (hmax : h.maxDur = 0) : ∃ r, e.recs = d.recs ++ [r] ∧ r.status = 4 := by
    obtain ⟨r, hr, hst, -⟩ := hrefused (Dev.cmdCheck_unbounded _ hone hmax)
    exact ⟨r, hr, hst⟩
  cases hcheck : (d.cmdTaken w).cmdCheck (d.cmdOf w h) with
  | some st =>
    have he : e = _ := Dev.acceptCmd_refused hcheck
    have hwin (f n : Nat) : e.win f n = (d.cmdTaken w).win f n := by rw [he]; rfl
    have hy : y = _ := (hwin w.func w.win).trans (d.win_cmdTaken_same w)
    obtain ⟨r, hr, hst, hseq⟩ := hrefused hcheck
    exact ⟨by rw [hy], by rw [hy], by rw [hy], by rw [hy], .inr ⟨by rw [hy], r, hr, hst ▸ Dev.cmdCheck_run _ hone hcheck, hseq⟩,
      hunbounded, fun f n hn hw hne => (hwin f n).trans (d.win_cmdTaken_ne w hn hw hne)⟩
  | none =>
    have he : e = _ := Dev.acceptCmd_waits hcheck hop
    have hy : y = { (d.cmdTaken w).win w.func w.win with waiting := ((d.cmdTaken w).win w.func w.win).waiting ++ [d.cmdOf w h] } :=
      (congrArg (Dev.win · w.func w.win) he).trans (Dev.win_setWin_same _ _ _ _)
    rw [d.win_cmdTaken_same w] at hy
    exact ⟨by rw [hy], by rw [hy], by rw [hy], by rw [hy], .inl ⟨d.cmdOf w h, by rw [hy], by rw [he]; rfl, hone, rfl, rfl, rfl⟩,
      hunbounded, fun f n hn hw hne => (congrArg (Dev.win · f n) he).trans ((Dev.win_setWin_ne _ _ hn hw hne).trans (d.win_cmdTaken_ne w hn hw hne))⟩

end Sys2Proof.Machine
end

section
namespace Sys2Proof.Machine

/-! ## A report at the aggregator (R400 to R404) -/

@[simp] theorem Dev.errs_raise (d : Dev) (f kind : Nat) (x : BitVec 448) : (d.raise f kind x).errs = d.errs := by
  unfold Dev.raise
  dsimp only
  split <;> rfl
@[simp] theorem Dev.errs_markFull (d : Dev) : d.markFull.errs = d.errs := by
  unfold Dev.markFull
  split <;> rfl

/-- The record that a report makes (R403). -/
def Errs.made (e : Errs) (r : Report) (key : ErrKey) (addr det : Word) : ErrRec :=
  { key := key, witness := min 65535 r.rep, reporter := r.reporter, seq := BitVec.ofNat 32 (NMap.get e.seqs 0 r.reporter.toNat),
    arrival := e.arrival, map := setBit 0 r.wit true, addr := addr, detail := det }
theorem Dev.recs_newRec (d : Dev) (k : Nat) (key : ErrKey) (r : Report) (addr det : Word) :
    (d.newRec k key r addr det).errs.recs = NMap.put d.errs.recs k (d.errs.made r key addr det) :=
  congrArg Errs.recs (Dev.errs_raise _ _ _ _)
theorem Dev.errs_witness {d : Dev} {k : Nat} {x : ErrRec} (h : NMap.find d.errs.recs k = some x) (r : Report) (cnt : Nat) :
    (d.witness k r cnt).errs = { d.errs with recs := NMap.put d.errs.recs k { x with
        witness := satAdd 65535 x.witness r.rep, map := setBit x.map r.wit true, detail := x.detail + BitVec.ofNat 64 cnt } } := by
  unfold Dev.witness Dev.onErrs
  simp only [h]

/-- A report is counted for its reporter (R406). -/
def Dev.countReport (d : Dev) (r : Report) : Dev := d.onErrs fun e =>
  { e with seqs := NMap.put e.seqs r.reporter.toNat (NMap.get e.seqs 0 r.reporter.toNat + 1) }
theorem Dev.aggregate_known {d : Dev} {r : Report} {k : Nat} (h : d.errs.findKey (fun x => decide (x.key = r.key)) = some k) :
    d.aggregate r = (d.countReport r).witness k r 0 := by
  have hkey : (d.countReport r).errs.findKey (fun x => decide (x.key = r.key)) = some k := h
  unfold Dev.aggregate
  rw [← Dev.countReport]
  dsimp only
  rw [hkey]
theorem Dev.aggregate_new {d : Dev} {r : Report} {k : Nat} (h : d.errs.findKey (fun x => decide (x.key = r.key)) = none)
    (hfree : d.errs.freeIdx = some k) (hroom : (d.errs.recs.filter fun x => decide (x.2.key.origin = r.key.origin) &&
      decide (x.2.key.kind ≠ 0xFE) && decide (x.2.key.kind ≠ 0xFF)).length < 8) :
    d.aggregate r = ((d.countReport r).newRec k r.key r r.addr r.detail).markFull := by
  have hkey : (d.countReport r).errs.findKey (fun x => decide (x.key = r.key)) = none := h
  have hidx : (d.countReport r).errs.freeIdx = some k := hfree
  unfold Dev.aggregate
  rw [← Dev.countReport]
  dsimp only
  rw [hkey]
  dsimp only
  rw [hidx]
  exact if_pos hroom

theorem Errs.freeIdx_spec {e : Errs} {k : Nat} (h : e.freeIdx = some k) : k < 255 ∧ NMap.find e.recs k = none :=
  ⟨List.mem_range.1 (List.mem_of_find?_eq_some h), Option.isNone_iff_eq_none.1 (List.find?_some (p := fun k => (NMap.find e.recs k).isNone) h)⟩

theorem exec_errorReport {s : State} (r : Report) (h : s.dev.stage ≠ 0) : exec (.errorReport r) s = s.gives fun d => d.aggregate r :=
  (run_gives rfl (if_neg h) : execErrorReport r s = _)

/-- Settles O54: the report's key decides whether its record is found and witnessed or made at the lowest free index. -/
theorem reportsMakeRecords : Obligations.ReportsMakeRecords := by
  intro s r hstage
  refine ⟨_, exec_errorReport r hstage, fun k x hkey hx => ?known, fun k hkey hfree hroom => ?new⟩
  case known =>
    have herrs : (s.onDev fun d => d.aggregate r).dev.errs = _ :=
      (congrArg Dev.errs (Dev.aggregate_known hkey)).trans (Dev.errs_witness (d := s.dev.countReport r) hx r 0)
    rw [herrs]
    simp only [NMap.find_put]
    exact ⟨by simp [satAdd], fun j hj => if_neg hj, rfl⟩
  case new =>
    have hrecs : (s.onDev fun d => d.aggregate r).dev.errs.recs = _ :=
      (congrArg (·.errs.recs) (Dev.aggregate_new hkey hfree hroom)).trans
        ((congrArg Errs.recs (Dev.errs_markFull _)).trans (Dev.recs_newRec _ _ _ _ _ _))
    obtain ⟨hk, hnone⟩ := Errs.freeIdx_spec hfree
    simp only [hrecs, NMap.find_put]
    exact ⟨hk, hnone, ⟨_, if_pos trivial, rfl, rfl, rfl, rfl, rfl, rfl, rfl⟩, fun j hj => if_neg hj⟩

end Sys2Proof.Machine
end

section
namespace Sys2Proof.Machine

/-! ## The commands of contexts (R372, R381) -/

/-- A write of the manager to a block that acts while the host is answered. -/
theorem run_mgr {ok : Bool} {s : State} {f : Dev → Dev} (hok : ok = true) (h : s.dev.hostAlive = true) :
    run ok s (fun d => d.mgr f) = s.gives f :=
  run_gives hok (Dev.mgr_of_hostAlive h f)

section
variable {d : Dev} {c : Nat} {v : Word}

/-- What SCH_CTX_CFG holds after the write of a value. -/
def Dev.ctxCfgWord (d : Dev) (c : Nat) (v : Word) : Word := setFld (setFld (d.reg (oCtx c)) 8 0 (fld v 8 0)) 31 16 (fld v 31 16)
/-- An active context keeps its FUNC. -/
def Dev.keepsFunc (d : Dev) (c : Nat) (v : Word) : Prop := d.ctxActive c = true → fld v 8 1 = d.rf (oCtx c) 8 1

theorem Dev.writeCtxCfg_moved (h : ¬d.keepsFunc c v) : d.writeCtxCfg c v = d.ctxCfgErr c 5 :=
  if_pos (Classical.not_imp.1 h)
theorem Dev.writeCtxCfg_enables (h : d.keepsFunc c v) (hv : bitAt v 0 = true) (hoff : d.ctxOn c = false) :
    d.writeCtxCfg c v = match d.enableCode c (fld v 8 1) (d.maskOf c) with
      | some k => d.ctxCfgErr c k
      | none => (d.setReg (oCtx c) (d.ctxCfgWord c v)).enableCtx c :=
  (if_neg (not_and_not_right.2 h)).trans (if_pos ⟨hv, by simp [hoff]⟩)
theorem Dev.writeCtxCfg_disables (h : d.keepsFunc c v) (hv : bitAt v 0 = false) (hon : d.ctxOn c = true) :
    d.writeCtxCfg c v = (d.setReg (oCtx c) (d.ctxCfgWord c v)).disableCtx c :=
  (if_neg (not_and_not_right.2 h)).trans ((if_neg (by simp [hv])).trans (if_pos ⟨hon, by simp [hv]⟩))
theorem Dev.writeCtxCfg_sets (h : d.keepsFunc c v) (hv : bitAt v 0 = d.ctxOn c) :
    d.writeCtxCfg c v = d.setReg (oCtx c) (d.ctxCfgWord c v) :=
  (if_neg (not_and_not_right.2 h)).trans ((if_neg (by simp [hv])).trans (if_neg (by simp [hv])))

/-- The clusters that a write of a mask word adds. -/
def Dev.addedClusters (d : Dev) (c w : Nat) (v : Word) : List Nat :=
  ((List.range 32).filter fun b => bitAt v b && !(d.rb (oCtx c + 0x20 + 4 * w) b)).map fun b => 32 * w + b
theorem Dev.addedClusters_zext (d : Dev) (c w : Nat) (v : BitVec 32) : d.addedClusters c w (zext v) =
    ((List.range 32).filter fun b => v.getLsbD b && !(d.rb (oCtx c + 0x20 + 4 * w) b)).map fun b => 32 * w + b := by
  refine congrArg (List.map _) (List.filter_congr fun b hb => ?_)
  rw [bitAt_zext v (by have := List.mem_range.1 hb; omega)]
theorem Dev.writeCtxClu_puts {w : Nat} (h : d.ctxActive c = false ∨ d.addedClusters c w v = [] ∨
    d.enableCode c (d.rf (oCtx c) 8 1) (d.addedClusters c w v) = none) : d.writeCtxClu c w v = d.putMask c w v := by
  unfold Dev.writeCtxClu
  rw [← Dev.addedClusters]
  rcases h with h | h | h <;> simp [h]
theorem Dev.writeCtxClu_refused {w k : Nat} (hact : d.ctxActive c = true) (hadd : d.addedClusters c w v ≠ [])
    (hcode : d.enableCode c (d.rf (oCtx c) 8 1) (d.addedClusters c w v) = some k) : d.writeCtxClu c w v = d.ctxCfgErr c k := by
  unfold Dev.writeCtxClu
  rw [← Dev.addedClusters]
  simp [hact, hadd, hcode]

end

section
variable {s : State} (h : s.dev.hostAlive = true) {c : Nat} (hc : c < 64)
include h hc

theorem exec_schCtxCfgWrite (v : BitVec 32) : exec (.schCtxCfgWrite c v) s = s.gives fun d => d.writeCtxCfg c (zext v) :=
  (run_mgr (decide_eq_true hc) h : execSchCtxCfgWrite c v s = _)
theorem exec_schCtxCluWrite {w : Nat} (hw : w < 12) (v : BitVec 32) :
    exec (.schCtxCluWrite c w v) s = s.gives fun d => d.writeCtxClu c w (zext v) :=
  (run_mgr (by simp [hc, hw]) h : execSchCtxCluWrite c w v s = _)
theorem exec_rtReq : exec (.rtReq c) s = s.gives fun d => d.reqRt c := (run_mgr (decide_eq_true hc) h : execRtReq c s = _)
theorem exec_rtDrop : exec (.rtDrop c) s = s.gives fun d => d.dropRt c := (run_mgr (decide_eq_true hc) h : execRtDrop c s = _)
theorem exec_clearErr : exec (.clearErr c) s = s.gives fun d => d.clearErr c := (run_mgr (decide_eq_true hc) h : execClearErr c s = _)

end

/-! ## Turns and bounds (R375 to R377) -/

theorem exec_sliceExpiry {s : State} {n : Nat} {t : Turn} {r : RunCmd} (hn : n < 384) (ht : (s.dev.cl n).turn = some t)
    (hr : (s.dev.cl n).run = some r) (hexp : t.expired = false) (hctx : r.q.ctx = t.ctx) (hleft : t.left ≤ 1000 * equivNs) :
    exec (.sliceExpiry n) s = s.gives fun d => d.onCl n fun c =>
      { c with turn := some { t with left := 0, past := 0, expired := true }, s := { c.s with yield := true } } := by
  refine (run_gives (decide_eq_true hn) ?_ : execSliceExpiry n s = _)
  simp only [ht, hr]
  exact if_neg (by simp [hexp, hctx, hleft])
theorem exec_timeoutCheck {s : State} {n : Nat} (hn : n < 384) (hrun : s.dev.running n = true) :
    exec (.timeoutCheck n) s = s.gives fun d => d.timeoutCheck n :=
  (run_gives (decide_eq_true hn) (if_pos hrun) : execTimeoutCheck n s = _)
theorem Dev.enterGuest_of_none {d : Dev} {n : Nat} (h : (d.cl n).run = none) : d.enterGuest n = d := by
  unfold Dev.enterGuest
  simp only [h]
theorem Dev.run_tickCl_of_none {d : Dev} {n : Nat} (h : (d.cl n).run = none) : ((d.tickCl n).cl n).run = none := by
  unfold Dev.tickCl
  have hrecs (u : Nat) : ((d.tickRecs n u).cl n).run = none := h
  simp [hrecs]
theorem Dev.timeoutCheck_of_none {d : Dev} {n : Nat} (h : (d.cl n).run = none) : d.timeoutCheck n = d.tickCl n := by
  unfold Dev.timeoutCheck
  simp only [Dev.enterGuest_of_none h, Dev.run_tickCl_of_none h]
theorem Dev.timeoutCheck_within {d : Dev} {n : Nat} {r : RunCmd} (h : (((d.enterGuest n).tickCl n).cl n).run = some r)
    (hle : r.ns * 16 ≤ r.q.c.maxDur.toNat * 1000 * equivNs * ((d.enterGuest n).tickCl n).tol) :
    d.timeoutCheck n = (d.enterGuest n).tickCl n := by
  unfold Dev.timeoutCheck
  simp only [h]
  exact if_neg (by omega)
/-- The end of a command that has exceeded its bound: its record says TIMEOUT, and its context is in error. -/
def Dev.timeOut (d : Dev) (n : Nat) (r : RunCmd) : Dev :=
  let x := d.terminate n r
  let left := ((x.cl n).run).getD r
  ({ x with recs := x.recs ++ [x.runRec n left 2 0 0 0 0 0] }.leaveCmd n left).ctxError left.q.ctx 1 left.q.win left.q.seq
theorem Dev.timeoutCheck_over {d : Dev} {n : Nat} {r : RunCmd} (h : (((d.enterGuest n).tickCl n).cl n).run = some r)
    (hgt : r.q.c.maxDur.toNat * 1000 * equivNs * ((d.enterGuest n).tickCl n).tol < r.ns * 16) :
    d.timeoutCheck n = ((d.enterGuest n).tickCl n).timeOut n r := by
  unfold Dev.timeoutCheck
  simp only [h, gt_iff_lt, hgt, if_true]
  generalize (d.enterGuest n).tickCl n = y
  unfold Dev.timeOut
  cases hrun : ((y.terminate n r).cl n).run <;> simp only [hrun, Option.getD_some, Option.getD_none]

/-! ## Moves (R361 to R363, R373) -/

theorem Dev.shareMet_iff (d : Dev) (c n : Nat) :
    d.shareMet c n = true ↔ ∃ x, x < 64 ∧ x ≠ c ∧ d.holdsShare x n = true ∧ d.sharesMeet c x = true := by
  simp [Dev.shareMet, and_assoc]
/-- What R373 asks of a move. -/
theorem Dev.mayMove_iff (d : Dev) (c a b : Nat) : d.mayMove c a b = true ↔
    d.full = true ∧ d.ctxOn c = true ∧ a < 384 ∧ b < 384 ∧ d.maskHas c a = true ∧ d.maskHas c b = false ∧ (d.cl b).runs c = false ∧
      d.present b = true ∧ ∀ x, x < 64 → x ≠ c → ¬(d.holdsShare x b = true ∧ d.sharesMeet c x = true) := by
  have hmet : d.shareMet c b = false ↔ ∀ x, x < 64 → x ≠ c → ¬(d.holdsShare x b = true ∧ d.sharesMeet c x = true) := by
    rw [← Bool.not_eq_true, Dev.shareMet_iff]
    simp only [not_exists, not_and]
  unfold Dev.mayMove
  simp only [Bool.and_eq_true, Bool.not_eq_true', decide_eq_true_eq, and_assoc, hmet]

/-- Whether a move may be made does not hang on SCH_MOVE itself. -/
theorem Dev.mayMove_congr {d e : Dev} (hreg : ∀ o, o ≠ 0x608010 → e.reg o = d.reg o) (hcl : e.clusters = d.clusters)
    (hmv : e.move = d.move) {c a b : Nat} (hc : c < 64) (ha : a < 512) (hb : b < 512) : e.mayMove c a b = d.mayMove c a b := by
  have hctx (x k : Nat) (hx : x < 64) (hk : k < 0x100) : e.reg (oCtx x + k) = d.reg (oCtx x + k) := hreg _ (by unfold oCtx; omega)
  have hon (x : Nat) (hx : x < 64) : e.ctxOn x = d.ctxOn x := Dev.rb_congr (hctx x 0 hx (by decide)) 0
  have hmask (x n : Nat) (hx : x < 64) (hn : n < 512) : e.maskHas x n = d.maskHas x n :=
    Dev.rb_congr (by rw [Nat.add_assoc]; exact hctx x _ hx (by omega)) _
  have hholds (x : Nat) (hx : x < 64) : e.holdsShare x b = d.holdsShare x b := by
    rw [Dev.holdsShare, hon x hx, hmask x b hx hb, Dev.cl_congr hcl, hmv]; rfl
  have hshare (x : Nat) (hx : x < 64) : e.share x = d.share x := by
    have hr := hctx x 4 hx (by decide)
    simp only [Dev.share, Dev.rf_congr hr]
  have hmeet (x : Nat) (hx : x < 64) : e.sharesMeet c x = d.sharesMeet c x := by
    simp only [Dev.sharesMeet, hshare c hc, hshare x hx]
  have hpres : e.present b = d.present b := Dev.rb_congr (hreg _ (by unfold oClu; omega)) 20
  rw [Bool.eq_iff_iff, Dev.mayMove_iff, Dev.mayMove_iff, Dev.full_congr (hreg 0x10000 (by decide)), hon c hc, hmask c a hc ha,
    hmask c b hc hb, Dev.cl_congr hcl, hpres]
  refine and_congr_right' (and_congr_right' (and_congr_right' (and_congr_right' (and_congr_right' (and_congr_right'
    (and_congr_right' (and_congr_right' (forall₂_congr fun x hx => ?_))))))))
  rw [hholds x hx, hmeet x hx]

section
variable {s : State} (h : s.dev.hostAlive = true)
include h

/-- GO with no move under way: the move is begun, or it is an error. -/
theorem exec_schMoveGo {v : BitVec 32} (hgo : v.getLsbD 24 = true) (hidle : s.dev.rb 0x608010 25 = false) :
    exec (.schMoveGo v) s = s.gives fun d =>
      let e := d.setRf 0x608010 23 0 (v.toNat % 2 ^ 24)
      if d.mayMove (v.toNat / 2 ^ 18 % 64) (v.toNat % 512) (v.toNat / 512 % 512) = true then
        ({ (e.setRb 0x608010 25 true) with
            move := some { from_ := v.toNat % 512, to_ := v.toNat / 512 % 512, ctx := v.toNat / 2 ^ 18 % 64 } } : Dev).recall
          fun n q => decide (n = v.toNat % 512) && decide (q.ctx = v.toNat / 2 ^ 18 % 64)
      else e.setRb 0x608010 26 true := by
  have hfld : fld (zext v) 23 0 = v.toNat % 2 ^ 24 := by rw [fld_zext]; simp
  have hsrc : fld (zext v) 8 0 = v.toNat % 512 := by rw [fld_zext]; simp
  have hdst : fld (zext v) 17 9 = v.toNat / 512 % 512 := fld_zext v 17 9
  have hctx : fld (zext v) 23 18 = v.toNat / 2 ^ 18 % 64 := fld_zext v 23 18
  have hbusy : (s.dev.setRf 0x608010 23 0 (v.toNat % 2 ^ 24)).rb 0x608010 25 = false :=
    (Dev.rb_setRf_disjoint _ _ _ (by decide) (.inr (by decide))).trans hidle
  have hmay := Dev.mayMove_congr (d := s.dev) (e := s.dev.setRf 0x608010 23 0 (v.toNat % 2 ^ 24))
    (fun o ho => Dev.reg_setRf_ne _ _ _ _ ho) rfl rfl (Nat.mod_lt (v.toNat / 2 ^ 18) (by decide : 0 < 64))
    (Nat.mod_lt v.toNat (by decide : 0 < 512)) (Nat.mod_lt (v.toNat / 512) (by decide : 0 < 512))
  refine (run_mgr rfl h : execSchMoveGo v s = _).trans (State.gives_congr ?_)
  unfold Dev.moveGo
  simp only [hfld, hsrc, hdst, hctx, bitAt_zext v (by decide : 24 < 64), hgo, hbusy, hmay]
  simp only [Bool.not_true, Bool.false_eq_true, or_self, if_false]
  cases s.dev.mayMove (v.toNat / 2 ^ 18 % 64) (v.toNat % 512) (v.toNat / 512 % 512) <;> rfl

end

theorem Dev.regs_raise (d : Dev) (f kind : Nat) (x : BitVec 448) : (d.raise f kind x).regs = d.regs := by
  unfold Dev.raise
  dsimp only
  split <;> rfl
theorem Dev.aliases_raise (d : Dev) (f kind : Nat) (x : BitVec 448) : (d.raise f kind x).aliases = d.aliases := by
  unfold Dev.raise
  dsimp only
  split <;> rfl

/-- The work of a context goes to the new placement: its share, its epoch, its late requests and its seed (R361, R362, R373). -/
def Dev.carry (d : Dev) (m : Move) : Dev :=
  let sh := d.share m.ctx
  let seed := NMap.get (d.cl m.from_).seeds 0 m.ctx
  let d := d.setMem (.loc m.to_) ((d.mem (.loc m.from_)).copyRange (d.mem (.loc m.to_)) sh.1 sh.2)
  let d := (d.moveCtx m.ctx 1 m.from_ (d.posOf m.from_) m.to_).lateReqs m.ctx m.from_ m.to_
  let d := d.onCl m.to_ fun c => { c with seeds := NMap.set c.seeds 0 m.ctx seed }
  d.onCl m.from_ fun c => { c with seeds := NMap.del c.seeds m.ctx }
/-- The bit of a cluster in a context's mask. -/
def Dev.setMask (d : Dev) (c n : Nat) (b : Bool) : Dev := d.setRb (oCtx c + 0x20 + 4 * (n / 32)) (n % 32) b

theorem Dev.reg_carry (d : Dev) (m : Move) (o : Nat) : (d.carry m).reg o = d.reg o :=
  Dev.reg_congr (Dev.regs_raise _ _ _ _) (Dev.raise_part _ _ _ _) o
theorem Dev.part_carry (d : Dev) (m : Move) : (d.carry m).part = d.part := Dev.raise_part _ _ _ _
theorem Dev.aliases_carry (d : Dev) (m : Move) : (d.carry m).aliases.length = d.aliases.length + 1 :=
  (congrArg List.length (Dev.aliases_raise _ _ _ _)).trans List.length_append
theorem Dev.maskHas_setMask (d : Dev) (c n k : Nat) (b : Bool) : (d.setMask c n b).maskHas c k = if k = n then b else d.maskHas c k := by
  by_cases hk : k = n
  · rw [if_pos hk, hk]
    exact Dev.rb_setRb_same _ _ _ (by omega)
  · rw [if_neg hk]
    by_cases hword : k / 32 = n / 32
    · rw [Dev.maskHas, Dev.maskHas, Dev.setMask, hword]
      exact Dev.rb_setRf_disjoint _ _ _ (by omega) (by omega)
    · exact Dev.rb_congr (Dev.reg_setRb_ne _ _ _ (by omega)) _
/-- A move that has completed. -/
def Dev.moved (d : Dev) (m : Move) : Dev :=
  { (((((d.carry m).setMask m.ctx m.from_ false).setMask m.ctx m.to_ true).setRb 0x608010 25 false).setRb 0x518000 7 false) with
    move := none }
theorem Dev.part_moved (d : Dev) (m : Move) : (d.moved m).part = d.part := d.part_carry m
theorem Dev.maskHas_moved (d : Dev) (m : Move) {k : Nat} (hk : k < 384) :
    (d.moved m).maskHas m.ctx k = if k = m.to_ then true else if k = m.from_ then false else d.maskHas m.ctx k := by
  have hregs : (d.moved m).reg (oCtx m.ctx + 0x20 + 4 * (k / 32)) =
      (((d.carry m).setMask m.ctx m.from_ false).setMask m.ctx m.to_ true).reg (oCtx m.ctx + 0x20 + 4 * (k / 32)) :=
    (Dev.reg_setRb_ne _ _ _ (by unfold oCtx; omega)).trans (Dev.reg_setRb_ne _ _ _ (by unfold oCtx; omega))
  rw [Dev.maskHas, Dev.rb_congr hregs, ← Dev.maskHas, Dev.maskHas_setMask, Dev.maskHas_setMask]
  exact congrArg _ (congrArg _ (Dev.rb_congr (d.reg_carry m _) _))
theorem Dev.rb_moved (d : Dev) (m : Move) : (d.moved m).rb 0x608010 25 = false :=
  (Dev.rb_congr (Dev.reg_setRb_ne (p := 0x608010) _ 7 false (by decide)) 25).trans (Dev.rb_setRb_same _ _ _ (by decide))
theorem Dev.aliases_moved (d : Dev) (m : Move) : (d.moved m).aliases.length = d.aliases.length + 1 := d.aliases_carry m

section
variable {s : State} {m : Move} (hm : s.dev.move = some m)
include hm

theorem exec_moveComplete_givesUp (hmay : Dev.mayMove { s.dev with move := none } m.ctx m.from_ m.to_ = false) :
    exec .moveComplete s = s.gives fun d =>
      { ((d.setRb 0x608010 25 false).setRb 0x608010 26 true).setRb 0x518000 7 false with move := none } := by
  refine (run_gives rfl ?_ : execMoveComplete s = _)
  simp only [hm]
  exact if_pos (by simp [hmay])
theorem exec_moveComplete_waits (hmay : Dev.mayMove { s.dev with move := none } m.ctx m.from_ m.to_ = true)
    (hwait : (s.dev.cl m.from_).runs m.ctx = true ∨ 64 ≤ s.dev.aliases.length ∨ s.dev.aliasTo m.ctx m.from_ = true) :
    exec .moveComplete s = s.gives fun d => d.setRb 0x518000 7 (decide (64 ≤ d.aliases.length)) := by
  refine (run_gives rfl ?_ : execMoveComplete s = _)
  simp only [hm]
  exact (if_neg (by simp [hmay])).trans (if_pos hwait)
theorem exec_moveComplete_moves (hmay : Dev.mayMove { s.dev with move := none } m.ctx m.from_ m.to_ = true)
    (hrun : (s.dev.cl m.from_).runs m.ctx = false) (hfree : s.dev.aliases.length < 64) (hto : s.dev.aliasTo m.ctx m.from_ = false) :
    exec .moveComplete s = s.gives fun d => d.moved m := by
  refine (run_gives rfl ?_ : execMoveComplete s = _)
  simp only [hm]
  exact (if_neg (by simp [hmay])).trans (if_neg (by simp [hrun, hfree, hto]))

end

theorem exec_aliasRelease {s : State} {k : Nat} {f : Fwd} (hk : k < 64) (hf : s.dev.aliases[k]? = some f) (hidle : s.dev.placementIdle f = true) :
    exec (.aliasRelease k) s = s.gives fun d => { d with aliases := d.aliases.eraseIdx k } := by
  refine (run_gives (decide_eq_true hk) ?_ : execAliasRelease k s = _)
  simp only [hf]
  exact if_pos hidle

/-- Settles O45: the manager's writes act since the host is answered, and each command then takes the branch that its case names;
a move gives way to a later refusal as log entry 106 chooses. -/
theorem schedulerComplete : Obligations.SchedulerComplete := by
  intro s halive
  refine ⟨?contexts, ?rt, fun n t r => exec_sliceExpiry, ?timeout, ?moveGo, ?moveComplete, fun k f => exec_aliasRelease⟩
  case contexts =>
    intro c v hc x o new fixed
    have hcfg := exec_schCtxCfgWrite halive hc v
    have hbit : bitAt x 0 = v.getLsbD 0 := bitAt_zext v (by decide)
    refine ⟨fun hmoved => ?_, fun hfix hv hoff => ⟨fun hcode => ?_, fun k hcode => ?_⟩, fun hfix hv hon => ?_, fun hfix hv => ?_, ?_⟩
    · exact hcfg.trans (State.gives_congr (Dev.writeCtxCfg_moved hmoved))
    · exact hcfg.trans (State.gives_congr ((Dev.writeCtxCfg_enables hfix (hbit.trans hv) hoff).trans (by rw [hcode]; rfl)))
    · exact hcfg.trans (State.gives_congr ((Dev.writeCtxCfg_enables hfix (hbit.trans hv) hoff).trans (by rw [hcode])))
    · exact hcfg.trans (State.gives_congr (Dev.writeCtxCfg_disables hfix (hbit.trans hv) hon))
    · exact hcfg.trans (State.gives_congr (Dev.writeCtxCfg_sets hfix (hbit.trans hv)))
    · intro w hw r added code
      have hclu := exec_schCtxCluWrite halive hc hw v
      have hadded : s.dev.addedClusters c w (zext v) = added := Dev.addedClusters_zext _ _ _ _
      refine ⟨fun hputs => ?_, fun k hact hadd hcode => ?_⟩
      · exact hclu.trans (State.gives_congr (Dev.writeCtxClu_puts (hadded ▸ hputs)))
      · exact hclu.trans (State.gives_congr (Dev.writeCtxClu_refused hact (hadded ▸ hadd) (hadded ▸ hcode)))
  case rt =>
    intro c hc step
    refine ⟨fun hadm => ?_, fun hadm => ?_, exec_rtDrop halive hc, exec_clearErr halive hc⟩
    · exact (exec_rtReq halive hc).trans (State.gives_congr (if_pos hadm))
    · exact (exec_rtReq halive hc).trans (State.gives_congr (if_neg (Bool.not_eq_true _ ▸ hadm)))
  case timeout =>
    intro n hn hrun
    have hcheck := exec_timeoutCheck hn hrun
    refine ⟨fun hnone => hcheck.trans (State.gives_congr (Dev.timeoutCheck_of_none hnone)), fun r hr => ⟨fun hle => ?_, fun hgt => ?_⟩⟩
    · exact hcheck.trans (State.gives_congr (Dev.timeoutCheck_within hr hle))
    · exact hcheck.trans (State.gives_congr (g := fun _ => ((s.dev.enterGuest n).tickCl n).timeOut n r) (Dev.timeoutCheck_over hr hgt))
  case moveGo =>
    intro v hgo hidle src dst c good
    have hgood : good ↔ s.dev.mayMove c src dst = true := (Dev.mayMove_iff _ _ _ _).symm
    refine ⟨fun hyes => ?_, fun hno => ?_⟩
    · exact (exec_schMoveGo halive hgo hidle).trans (State.gives_congr (if_pos (hgood.1 hyes)))
    · exact (exec_schMoveGo halive hgo hidle).trans (State.gives_congr (if_neg fun hmay => hno (hgood.2 hmay)))
  case moveComplete =>
    intro m hm _ may
    refine ⟨exec_moveComplete_givesUp hm, exec_moveComplete_waits hm, fun hmay hruns hfree hto => ?_⟩
    obtain ⟨-, -, hfrom, hto384, hhas, hnot, -⟩ := (Dev.mayMove_iff _ _ _ _).1 hmay
    have hne : m.from_ ≠ m.to_ := fun heq => Bool.false_ne_true (hnot.symm.trans (heq ▸ hhas))
    have hdev := State.onDev_dev_of_part (s := s) (f := fun d => d.moved m) (Dev.part_moved _ _)
    refine ⟨_, exec_moveComplete_moves hm hmay hruns hfree hto, rfl, ?_, ?_, fun k hk hf ht => ?_, ?_, ?_⟩ <;> rw [hdev]
    · rw [Dev.maskHas_moved _ m hfrom, if_neg hne, if_pos rfl]
    · rw [Dev.maskHas_moved _ m hto384, if_pos rfl]
    · rw [Dev.maskHas_moved _ m hk, if_neg ht, if_neg hf]
    · exact Dev.rb_moved _ _
    · exact Dev.aliases_moved _ _

end Sys2Proof.Machine
end

section
namespace Sys2Proof.Machine

/-! ## What the Ledger leaves alone (R365 to R367) -/

/-- A device that differs from another only in what the writing of Ledger entries, and of host memory, can change. -/
def Dev.onlyLedger (d e : Dev) : Prop :=
  (∃ free regs host fns stopped q recent, e = { d with
    free := free, regs := regs, host := host, fns := fns, ldgStopped := stopped, ldgQ := q, ldgRecent := recent }) ∧
    ∀ o, o ≠ 0x510010 → o ≠ 0x51001C → e.reg o = d.reg o
theorem Dev.onlyLedger_refl (d : Dev) : d.onlyLedger d := ⟨⟨_, _, _, _, _, _, _, rfl⟩, fun _ _ _ => rfl⟩

section
variable {d e : Dev} (h : d.onlyLedger e)
include h

theorem Dev.onlyLedger.part : e.part = d.part := by
  obtain ⟨⟨_, _, _, _, _, _, _, rfl⟩, -⟩ := h
  rfl
theorem Dev.onlyLedger.setEntries (q : List Word) : d.onlyLedger { e with ldgQ := q } := by
  obtain ⟨⟨_, _, _, _, _, _, _, rfl⟩, hr⟩ := h
  exact ⟨⟨_, _, _, _, _, _, _, rfl⟩, hr⟩
theorem Dev.onlyLedger.stop : d.onlyLedger { e with ldgStopped := true, ldgQ := [] } := by
  obtain ⟨⟨_, _, _, _, _, _, _, rfl⟩, hr⟩ := h
  exact ⟨⟨_, _, _, _, _, _, _, rfl⟩, hr⟩
theorem Dev.onlyLedger.setRecent (x : NMap (List Nat)) : d.onlyLedger { e with ldgRecent := x } := by
  obtain ⟨⟨_, _, _, _, _, _, _, rfl⟩, hr⟩ := h
  exact ⟨⟨_, _, _, _, _, _, _, rfl⟩, hr⟩
theorem Dev.onlyLedger.choose (n : Nat) : d.onlyLedger (e.choose n).2 := by
  obtain ⟨⟨_, _, _, _, _, _, _, rfl⟩, hr⟩ := h
  exact ⟨⟨_, _, _, _, _, _, _, rfl⟩, hr⟩
theorem Dev.onlyLedger.setPtr (hi lo x : Nat) : d.onlyLedger (e.setRf 0x510010 hi lo x) := by
  obtain ⟨⟨_, _, _, _, _, _, _, rfl⟩, hr⟩ := h
  exact ⟨⟨_, _, _, _, _, _, _, rfl⟩, fun o h1 h2 => (Dev.reg_setRf_ne _ _ _ _ h1).trans (hr o h1 h2)⟩
theorem Dev.onlyLedger.setStatus (hi lo x : Nat) : d.onlyLedger (e.setRf 0x51001C hi lo x) := by
  obtain ⟨⟨_, _, _, _, _, _, _, rfl⟩, hr⟩ := h
  exact ⟨⟨_, _, _, _, _, _, _, rfl⟩, fun o h1 h2 => (Dev.reg_setRf_ne _ _ _ _ h2).trans (hr o h1 h2)⟩
theorem Dev.onlyLedger.hostPut (f addr : Nat) (bs : List Byte) : d.onlyLedger (e.hostPut f addr bs) := by
  obtain ⟨⟨_, _, _, _, _, _, _, rfl⟩, hr⟩ := h
  exact ⟨⟨_, _, _, _, _, _, _, rfl⟩, hr⟩
theorem Dev.onlyLedger.raise (f kind : Nat) (x : BitVec 448) : d.onlyLedger (e.raise f kind x) := by
  obtain ⟨⟨_, _, _, _, _, _, _, rfl⟩, hr⟩ := h
  unfold Dev.raise
  dsimp only
  split <;> exact ⟨⟨_, _, _, _, _, _, _, rfl⟩, hr⟩
theorem Dev.onlyLedger.ledgerWrite (entry : Word) : d.onlyLedger (e.ledgerWrite entry) := by
  unfold Dev.ledgerWrite
  dsimp only
  split
  · exact h
  · split
    · exact ((((h.setPtr _ _ _).hostPut _ _ _).setStatus 0 0 (bit true)).stop).raise _ _ _
    · split
      · exact ((h.setPtr _ _ _).hostPut _ _ _).setStatus _ _ _
      · exact (h.setPtr _ _ _).hostPut _ _ _
omit h in
theorem Dev.onlyLedger.foldl_ledgerWrite (l : List Word) {d e : Dev} (h : d.onlyLedger e) :
    d.onlyLedger (l.foldl (fun d x => d.ledgerWrite x) e) := by
  induction l generalizing e with
  | nil => exact h
  | cons x l ih => exact ih (h.ledgerWrite x)
theorem Dev.onlyLedger.ledgerFlush : d.onlyLedger e.ledgerFlush := by
  unfold Dev.ledgerFlush
  split
  · exact (h.setEntries []).foldl_ledgerWrite _
  · exact h
theorem Dev.onlyLedger.ledgerPush (entry : Word) : d.onlyLedger (e.ledgerPush entry) := by
  unfold Dev.ledgerPush
  split
  · exact h
  · exact (h.setEntries _).ledgerFlush
theorem Dev.onlyLedger.hostWrite (f addr : Nat) (bs : List Byte) : d.onlyLedger (e.hostWrite f addr bs) := by
  unfold Dev.hostWrite
  dsimp only
  refine Dev.onlyLedger.hostPut ?_ _ _ _
  split
  · split <;> split
    · exact h.choose 2
    · exact ((h.choose 2).setRecent _).ledgerPush _
    · exact h
    · exact (h.setRecent _).ledgerPush _
  · exact h

end

end Sys2Proof.Machine
end

section
namespace Sys2Proof.Machine

/-! ## Settings of functions, windows and vectors (R344, R346, R350, R357, R360) -/

/-- What R346 accepts in the function table (log entry 34 for the two bounds). -/
def Dev.vfTblGood (d : Dev) (f : Nat) (x : Word) : Prop :=
  ((List.range 256).map fun g => if g = f then fld x 4 1 else d.windowsOf g).sum ≤ 512 ∧
    (fld x 4 1 = d.windowsOf f ∨ d.anyWindow f = false) ∧ fld x 4 1 ≤ 8 ∧ fld x 10 5 ≤ 32 ∧
    (f = 0 ∨ bitAt x 0 = false ∨ d.rb (oFunc f) 0 = true ∨ d.full = true)
theorem Dev.writeVfTbl_good {d : Dev} {f : Nat} {x : Word} (h : d.vfTblGood f x) :
    d.writeVfTbl f x = d.setReg (oFunc f) (BitVec.ofNat 64 (fld (setBit x 0 (decide (f = 0 ∨ bitAt x 0 = true))) 17 0)) := by
  have henable : (if f = 0 then true else bitAt x 0) = decide (f = 0 ∨ bitAt x 0 = true) := by
    by_cases hf : f = 0 <;> simp [hf]
  unfold Dev.writeVfTbl
  simp only [henable]
  refine if_neg fun hbad => ?_
  simp only [Bool.or_eq_true, Bool.and_eq_true, decide_eq_true_eq, Bool.not_eq_true', gt_iff_lt] at hbad
  unfold Dev.vfTblGood at h
  generalize List.sum (α := Nat) _ = total at h hbad
  grind
theorem Dev.writeVfTbl_bad {d : Dev} {f : Nat} {x : Word} (h : ¬d.vfTblGood f x) :
    d.writeVfTbl f x = d.setRb (oFunc f + 4) 0 true := by
  unfold Dev.writeVfTbl
  refine if_pos ?_
  simp only [Bool.or_eq_true, Bool.and_eq_true, decide_eq_true_eq, Bool.not_eq_true', gt_iff_lt]
  unfold Dev.vfTblGood at h
  generalize List.sum (α := Nat) _ = total at h ⊢
  grind

section
variable {s : State} (h : s.dev.hostAlive = true)
include h

theorem exec_hifVfTblWrite {f : Nat} (hf : f < 256) (v : BitVec 32) :
    exec (.hifVfTblWrite f v) s = s.gives fun d => d.writeVfTbl f (zext v) :=
  (run_mgr (decide_eq_true hf) h : execHifVfTblWrite f v s = _)
theorem exec_vfEnableWrite (enable : Bool) {num : Nat} (hn : num ≤ 255) :
    exec (.vfEnableWrite enable num) s = s.gives fun d => { d with vfEnable := enable, numVfs := num } :=
  (run_mgr (decide_eq_true hn) h : execVfEnableWrite enable num s = _)

section
variable {f : Nat} (hf : f < 256) (hex : s.dev.funcExists f = true)
include hf hex

theorem exec_hifFnRingCfgWrite {n : Nat} (hn : n < 8) (v : BitVec 32) :
    exec (.hifFnRingCfgWrite f n v) s = s.gives fun d => d.writeRingCfg f n v :=
  (run_mgr (by simp [winOk, hf, hn]) h : execHifFnRingCfgWrite f n v s = _).trans (State.gives_congr (if_pos hex))
theorem exec_hifFnEvtCfgWrite (v : BitVec 32) : exec (.hifFnEvtCfgWrite f v) s = s.gives fun d => d.writeEvtCfg f v :=
  (run_mgr (decide_eq_true hf) h : execHifFnEvtCfgWrite f v s = _).trans (State.gives_congr (if_pos hex))
theorem exec_hifFnEvtHeadWrite (v : BitVec 32) : exec (.hifFnEvtHeadWrite f v) s = s.gives fun d => d.writeEvtHead f v :=
  (run_mgr (decide_eq_true hf) h : execHifFnEvtHeadWrite f v s = _).trans (State.gives_congr (if_pos hex))

end

end

/-- A window takes what a function makes of its own state. -/
theorem Dev.onWin_congr {d : Dev} {f n : Nat} {g k : Window → Window} (h : g (d.win f n) = k (d.win f n)) : d.onWin f n g = d.onWin f n k := by
  rw [Dev.onWin, h, Dev.onWin]
theorem Dev.writeRingCfg_enables {d : Dev} {f n : Nat} {v : Half} (hv : v.getLsbD 0 = true) (hoff : (d.win f n).enabled = false) :
    d.writeRingCfg f n v = d.onWin f n fun w =>
      { w with ringCfg := v &&& 0xFFFF, enabled := true, credits := 64, ringPos := 0, phase := true, seq := 0, waiting := [] } :=
  Dev.onWin_congr ((if_pos hv).trans (if_neg (by simp [hoff])))
theorem Dev.writeRingCfg_enabled {d : Dev} {f n : Nat} {v : Half} (hv : v.getLsbD 0 = true) (hon : (d.win f n).enabled = true) :
    d.writeRingCfg f n v = d.onWin f n id :=
  Dev.onWin_congr ((if_pos hv).trans (if_pos hon))
theorem Dev.writeRingCfg_disables {d : Dev} {f n : Nat} {v : Half} (hv : v.getLsbD 0 = false) :
    d.writeRingCfg f n v = d.onWin f n fun w => { w with ringCfg := v &&& 0xFFFF, enabled := w.enabled && decide (w.credits < 64) } :=
  Dev.onWin_congr (if_neg (by rw [hv]; exact Bool.false_ne_true))

theorem Dev.vec_onVec (d : Dev) (f k : Nat) (g : Vec → Vec) : (d.onVec f k g).vec f k = g (d.vec f k) := NMap.get_put_same _ _ _ _
theorem State.vec_onDev (s : State) (g : Dev → Dev) (f k : Nat) : (s.onDev g).dev.vec f k = (g s.dev).vec f k := rfl
theorem exec_msixVectorUnmask {s : State} {f k : Nat} (hf : f < 256) (hk : k < 32) (hex : s.dev.funcExists f = true) :
    exec (.msixVectorUnmask f k) s = s.gives fun d => d.maskVec f k false :=
  (run_gives (by simp [hf, hk]) (if_pos hex) : execMsixVectorUnmask f k s = _)
theorem exec_msixMessage {s : State} {f k : Nat} (hf : f < 256) (hk : k < 32) (hsend : s.dev.canSend f = true) :
    exec (.msixMessage f k) s = s.gives fun d => d.sendVec f k :=
  (run_gives (by simp [hf, hk]) (if_pos hsend) : execMsixMessage f k s = _)

/-! ## Ports (R338, R342, R410) -/

/-- A port that has left its trained state, before its record: its lines are released and its functions have moved. -/
def Dev.portLeft (d : Dev) (p : Nat) : Dev :=
  let d := d.setRf (0x520004 + 0x100 * p) 17 0 0
  let moved := (List.range 256).filter fun f => decide (f ≠ 0) && d.rb (oFunc f) 0 && decide (d.portOf f = p)
  let d := { d with
    hostTrk := d.hostTrk.filter fun t => decide (t.port ≠ p)
    hostCache := d.hostCache.filter fun x => decide (x.1 ≠ p)
    ats := d.ats.filter fun x => decide (x.1 ≠ p) }
  moved.foldl (fun (d : Dev) f => d.setRf (oFunc f) 11 11 (1 - p)) d

theorem Dev.reg_foldl_setRf_ne {l : List Nat} {o : Nat} (h : ∀ g ∈ l, o ≠ oFunc g) (d : Dev) (x : Nat) :
    (l.foldl (fun (d : Dev) f => d.setRf (oFunc f) 11 11 x) d).reg o = d.reg o := by
  induction l generalizing d with
  | nil => rfl
  | cons g l ih =>
    exact (ih (fun k hk => h k (List.mem_cons_of_mem g hk)) _).trans (Dev.reg_setRf_ne _ _ _ _ (h g List.mem_cons_self))
theorem Dev.portOf_foldl_setRf (l : List Nat) (d : Dev) {x : Nat} (hx : x < 2) (f : Nat) :
    (l.foldl (fun (d : Dev) g => d.setRf (oFunc g) 11 11 x) d).portOf f = if f ∈ l then x else d.portOf f := by
  induction l generalizing d with
  | nil => rfl
  | cons g l ih =>
    rw [List.foldl_cons, ih]
    by_cases hl : f ∈ l
    · rw [if_pos hl, if_pos (List.mem_cons_of_mem g hl)]
    · rw [if_neg hl]
      by_cases hg : f = g
      · rw [if_pos (hg ▸ List.mem_cons_self), hg]
        exact (Dev.rf_setRf_same _ _ _ _ (by decide)).trans (Nat.mod_eq_of_lt hx)
      · rw [if_neg (by simp [hg, hl])]
        exact Dev.rf_congr (Dev.reg_setRf_ne _ _ _ _ (by unfold oFunc; omega)) _ _

section
variable (d : Dev) {p : Nat} (hp : p < 2)

theorem Dev.part_portLeft : (d.portLeft p).part = d.part := foldl_keeps Dev.part (f := fun (d : Dev) f => d.setRf (oFunc f) 11 11 (1 - p)) (fun _ _ => rfl) _ _
theorem Dev.hostTrk_portLeft : (d.portLeft p).hostTrk = d.hostTrk.filter fun t => decide (t.port ≠ p) :=
  foldl_keeps Dev.hostTrk (f := fun (d : Dev) f => d.setRf (oFunc f) 11 11 (1 - p)) (fun _ _ => rfl) _ _
theorem Dev.hostCache_portLeft : (d.portLeft p).hostCache = d.hostCache.filter fun x => decide (x.1 ≠ p) :=
  foldl_keeps Dev.hostCache (f := fun (d : Dev) f => d.setRf (oFunc f) 11 11 (1 - p)) (fun _ _ => rfl) _ _
theorem Dev.portUp_portLeft : (d.portLeft p).portUp p = false := by
  have hreg : (d.portLeft p).reg (0x520004 + 0x100 * p) = (d.setRf (0x520004 + 0x100 * p) 17 0 0).reg (0x520004 + 0x100 * p) :=
    Dev.reg_foldl_setRf_ne (fun g hg => by have := List.mem_range.1 (List.mem_of_mem_filter hg); unfold oFunc; omega) _ _
  rw [Dev.portUp, Dev.rb_congr hreg, Dev.rb, Dev.setRf, Dev.reg_setReg_same, bitAt, getLsbD_setFld _ _ _ _ _ (by decide)]
  rfl
include hp in
/-- The functions that were bound to the port are bound to the other. -/
theorem Dev.portOf_portLeft {f : Nat} (hf : f < 256) : (d.portLeft p).portOf f =
    if f ≠ 0 ∧ d.rb (oFunc f) 0 = true ∧ d.portOf f = p then 1 - p else d.portOf f := by
  have hreg : (d.setRf (0x520004 + 0x100 * p) 17 0 0).reg (oFunc f) = d.reg (oFunc f) :=
    Dev.reg_setRf_ne _ _ _ _ (by unfold oFunc; omega)
  have hport : (d.setRf (0x520004 + 0x100 * p) 17 0 0).portOf f = d.portOf f := Dev.rf_congr hreg _ _
  refine (Dev.portOf_foldl_setRf _ _ (by omega) f).trans (if_congr ?_ rfl hport)
  rw [List.mem_filter, List.mem_range, Bool.and_eq_true, Bool.and_eq_true, decide_eq_true_eq, decide_eq_true_eq, Dev.rb_congr hreg, hport,
    and_assoc]
  exact and_iff_right hf

end

section
variable {s : State} {p : Nat} (hp : p < 2)
include hp

omit hp in
theorem Dev.onlyReports_portDown (d : Dev) (hup : d.portUp p = true) : (d.portLeft p).onlyReports (d.portDown p) := by
  have hne : ¬(!d.portUp p) = true := by rw [hup]; decide
  unfold Dev.portDown
  rw [if_neg hne, Dev.portLeft]
  exact (Dev.onlyReports_refl _).fault _ _ _ _ _ _ _

/-- A port that was up leaves its trained state, and one record says so. -/
theorem exec_portLeaves (hup : s.dev.portUp p = true) {c : Instr} (hc : c ∈ [Instr.portDown p, .perstAssert p]) :
    ∃ e, (s.dev.portLeft p).onlyReports e ∧ exec c s = s.gives fun _ => e := by
  have hrow : exec c s = s.gives fun d => d.portDown p := by
    simp only [List.mem_cons, List.not_mem_nil, or_false] at hc
    rcases hc with rfl | rfl
    · exact (run_gives (g := fun d => d.portDown p) (decide_eq_true hp) rfl : execPortDown p s = _)
    · exact (run_gives (g := fun d => d.portDown p) (decide_eq_true hp) rfl : execPerstAssert p s = _)
  exact ⟨s.dev.portDown p, s.dev.onlyReports_portDown hup, hrow.trans (State.gives_congr rfl)⟩

omit hp in
/-- UP and WIDTH of a port that has trained. -/
theorem Dev.portStatus_trained (d : Dev) (o : Nat) {w pbr : Nat} (hw : w ≤ 16) (hpbr : pbr < 4096) :
    (d.setRf o 17 0 (1 + 2 * w + 64 * pbr)).rb o 0 = true ∧ (d.setRf o 17 0 (1 + 2 * w + 64 * pbr)).rf o 5 1 = w := by
  have hlow := Dev.rf_setRf_same d o 0 (1 + 2 * w + 64 * pbr) (show 17 < 64 by decide)
  unfold Dev.rb Dev.rf at *
  generalize (d.setRf o 17 0 (1 + 2 * w + 64 * pbr)).reg o = y at *
  have hy : y.toNat % 262144 = 1 + 2 * w + 64 * pbr := by
    rw [fld_word_low] at hlow
    omega
  refine ⟨?_, ?_⟩
  · rw [bitAt, ← BitVec.testBit_toNat, Nat.testBit_zero]
    exact decide_eq_true (by omega)
  · rw [fld, Nat.shiftRight_eq_div_pow]
    omega

/-- A port that trains, at the width that X8 allows, lets the entries of the Ledger leave. -/
theorem exec_portLinkTrained (halive : s.dev.hostAlive = true) {width pbr : Nat} (h1 : 1 ≤ width) (h16 : width ≤ 16) (hpbr : pbr < 4096) :
    exec (.portLinkTrained p width pbr) s = s.gives fun d => (d.setRf (0x520004 + 0x100 * p) 17 0
      (1 + 2 * (if d.rb (0x520000 + 0x100 * p) 0 then min width 8 else width) + 64 * pbr)).ledgerFlush := by
  refine (run_gives (by simp [hp, h1, h16, hpbr]) ?_ : execPortLinkTrained p width pbr s = _)
  simp only [halive, Bool.not_true, Bool.false_eq_true, if_false]

end

theorem Dev.onlyReports.hostCache {d e : Dev} (h : d.onlyReports e) : e.hostCache = d.hostCache := by
  obtain ⟨⟨_, _, _, rfl⟩, -⟩ := h
  rfl

/-- Settles O46: each setting is its row's write; a port's loss is followed through its functions and its record, which a report of
it leaves as they are. -/
theorem hostSettingsComplete : Obligations.HostSettingsComplete := by
  intro s f n v hf hn halive
  refine ⟨?table, fun enable num hnum => exec_vfEnableWrite halive enable hnum, fun hex => ?function, fun k hk hsend hdue => ?message,
    fun p hp => ⟨fun hup c hc => ?leaves, fun width pbr h1 h16 hpbr => ?trains⟩⟩
  case table =>
    intro x total en good
    have hbit : bitAt x 0 = v.getLsbD 0 := bitAt_zext v (by decide)
    have hgood : good ↔ s.dev.vfTblGood f x := by unfold Dev.vfTblGood; rw [hbit]
    refine ⟨fun h => ?_, fun h => ?_⟩
    · refine (exec_hifVfTblWrite halive hf v).trans (State.gives_congr ((Dev.writeVfTbl_good (hgood.1 h)).trans ?_))
      simp only [hbit]
      rfl
    · exact (exec_hifVfTblWrite halive hf v).trans (State.gives_congr (Dev.writeVfTbl_bad fun hx => h (hgood.2 hx)))
  case function =>
    have hring := exec_hifFnRingCfgWrite halive hf hex hn v
    refine ⟨fun hv hoff => hring.trans (State.gives_congr (Dev.writeRingCfg_enables hv hoff)),
      fun hv hon => hring.trans (State.gives_congr (Dev.writeRingCfg_enabled hv hon)),
      fun hv => hring.trans (State.gives_congr (Dev.writeRingCfg_disables hv)), ?_, ?_, fun k hk => ?_⟩
    · refine (exec_hifFnEvtCfgWrite halive hf hex v).trans (State.gives_congr ?_)
      unfold Dev.writeEvtCfg
      rw [show fld v 5 1 = v.toNat / 2 % 32 from congrArg (· % 32) (Nat.shiftRight_eq_div_pow _ 1)]
    · refine (exec_hifFnEvtHeadWrite halive hf hex v).trans (State.gives_congr ?_)
      unfold Dev.writeEvtHead
      rw [show fld v 6 0 = v.toNat % 128 from rfl]
    · refine ⟨_, exec_msixVectorUnmask hf hk hex, ?_⟩
      rw [State.vec_onDev, Dev.maskVec, Dev.vec_onVec]
      cases (s.dev.vec f k).pend <;> simp
  case message =>
    refine ⟨_, exec_msixMessage hf hk hsend, ?_⟩
    rw [State.vec_onDev, Dev.sendVec, Dev.vec_onVec]
    cases (s.dev.vec f k).masked <;> simp [hdue]
  case leaves =>
    obtain ⟨e, he, hexec⟩ := exec_portLeaves hp hup hc
    have hdev := State.onDev_dev_of_part (s := s) (f := fun _ => e) (he.part.trans s.dev.part_portLeft)
    have hreg (o : Nat) (h : o < 0x700000) : e.reg o = (s.dev.portLeft p).reg o := he.2 o (by omega) (by omega)
    have hport : e.portOf f = (s.dev.portLeft p).portOf f := Dev.rf_congr (hreg _ (by unfold oFunc; omega)) _ _
    refine ⟨_, hexec, ?_⟩
    rw [hdev, hport, s.dev.portOf_portLeft hp hf]
    refine ⟨?_, fun x hx => ?_, fun x hx => ?_, fun h0 hen hat => if_pos ⟨h0, hen, hat⟩, fun h => if_neg fun hb => ?_⟩
    · exact (Dev.rb_congr (hreg _ (by omega)) 0).trans s.dev.portUp_portLeft
    · rw [he.hostTrk, s.dev.hostTrk_portLeft] at hx
      exact of_decide_eq_true (List.mem_filter.1 hx).2
    · rw [he.hostCache, s.dev.hostCache_portLeft] at hx
      exact of_decide_eq_true (List.mem_filter.1 hx).2
    · obtain ⟨h0, hen, -⟩ := hb
      exact h.elim h0 fun hoff => Bool.false_ne_true (hoff.symm.trans hen)
  case trains =>
    refine ⟨_, exec_portLinkTrained hp halive h1 h16 hpbr, ?_⟩
    generalize hw : (if s.dev.rb (0x520000 + 0x100 * p) 0 then min width 8 else width) = w
    have hw16 : w ≤ 16 := by rw [← hw]; split <;> omega
    have hflush := (Dev.onlyLedger_refl (s.dev.setRf (0x520004 + 0x100 * p) 17 0 (1 + 2 * w + 64 * pbr))).ledgerFlush
    have hreg := hflush.2 (0x520004 + 0x100 * p) (by omega) (by omega)
    have hdev := State.onDev_dev_of_part (s := s) (f := fun d => (d.setRf (0x520004 + 0x100 * p) 17 0
      (1 + 2 * (if d.rb (0x520000 + 0x100 * p) 0 then min width 8 else width) + 64 * pbr)).ledgerFlush)
      (by simp only [hw]; exact hflush.part)
    rw [hdev]
    simp only [hw]
    rw [Dev.portUp, Dev.rb_congr hreg, Dev.rf_congr hreg]
    exact s.dev.portStatus_trained _ hw16 hpbr

end Sys2Proof.Machine
end

section
namespace Sys2Proof.Machine

/-! ## Writes to a command window (R347, R350) -/

section
variable {d : Dev} {w : WinWrite} {h : HostCmd} (hup : d.portUp w.port = true) (hex : d.funcExists w.func = true)

/-- The window is one of the function's own, on its port. -/
def Dev.ownWindow (d : Dev) (w : WinWrite) : Prop := d.onPort w.func w.port = true ∧ w.win < d.windowsOf w.func
/-- The write is one aligned write of 64 B, and the window is enabled and has a credit. -/
def Dev.takesWrite (d : Dev) (w : WinWrite) : Prop :=
  w.len = 64 ∧ w.aligned = true ∧ w.single = true ∧ (d.win w.func w.win).en = true ∧ (d.win w.func w.win).credits ≠ 0
/-- The window's context stands by for the partner's (R417). -/
def Dev.windowStandsBy (d : Dev) (w : WinWrite) : Prop :=
  d.rb (oFunc w.func + 0x40 + 4 * w.win) 6 = true ∧ d.standby (d.rf (oFunc w.func + 0x40 + 4 * w.win) 5 0) = true

include hup hex
theorem Dev.windowWrite_elsewhere (hown : ¬d.ownWindow w) : d.windowWrite w h = d.bumpRf (oFunc w.func + 8) 31 0 1 := by
  unfold Dev.ownWindow at hown
  refine (if_neg (by simp [hup, hex])).trans (if_pos ?_)
  simpa [Classical.or_iff_not_imp_left] using hown
theorem Dev.windowWrite_drops (hown : d.ownWindow w) (hbad : ¬d.takesWrite w ∨ d.windowStandsBy w) :
    d.windowWrite w h = d.onWin w.func w.win fun y => { y with drop := satAdd (2 ^ 32 - 1) y.drop 1 } := by
  obtain ⟨hport, hwin⟩ := hown
  refine (if_neg (by simp [hup, hex])).trans ((if_neg (by simp [hport, hwin])).trans ?_)
  by_cases hgood : d.takesWrite w
  · obtain ⟨hlen, hal, hone, hen, hcr⟩ := hgood
    obtain ⟨hrow, hst⟩ := hbad.resolve_left (not_not.2 ⟨hlen, hal, hone, hen, hcr⟩)
    exact (if_neg (by simp [hlen, hal, hone, hen, hcr])).trans (if_pos (by simp [hrow, hst]))
  · unfold Dev.takesWrite at hgood
    exact if_pos (by simpa [Classical.or_iff_not_imp_left] using hgood)
theorem Dev.windowWrite_accepts (hown : d.ownWindow w) (hgood : d.takesWrite w) (hst : ¬d.windowStandsBy w) :
    d.windowWrite w h = d.acceptCmd w h := by
  obtain ⟨hport, hwin⟩ := hown
  obtain ⟨hlen, hal, hone, hen, hcr⟩ := hgood
  refine (if_neg (by simp [hup, hex])).trans ((if_neg (by simp [hport, hwin])).trans ?_)
  exact (if_neg (by simp [hlen, hal, hone, hen, hcr])).trans (if_neg (by simpa [Dev.windowStandsBy] using hst))

end

/-- The row of an OP writes the window, with that OP or one that is not assigned (log entry 109). -/
theorem exec_windowRow {s : State} {w : WinWrite} {op : Nat} {h : HostCmd} {c : Instr} (hw : winWriteOk w = true)
    (hc : c = .run w h ∧ op = 1 ∨ c = .nop w h ∧ op = 2 ∨ c = .fnQuiesce w h ∧ op = 0x90 ∨ c = .fnCopy w h ∧ op = 0x91 ∨
      c = .fnExport w h ∧ op = 0x92 ∨ c = .fnImport w h ∧ op = 0x93 ∨ c = .fnResume w h ∧ op = 0x94)
    (hop : h.op.toNat = op ∨ opAssigned h.op.toNat = false) : exec c s = s.gives fun d => d.windowWrite w h := by
  have hrow : rowOk w h op = true := by
    rw [rowOk, hw]
    rcases hop with hop | hop <;> simp [hop]
  have hrun : run (rowOk w h op) s (fun d => d.windowWrite w h) = s.gives fun d => d.windowWrite w h := by rw [hrow, run_true]
  rcases hc with ⟨rfl, rfl⟩ | ⟨rfl, rfl⟩ | ⟨rfl, rfl⟩ | ⟨rfl, rfl⟩ | ⟨rfl, rfl⟩ | ⟨rfl, rfl⟩ | ⟨rfl, rfl⟩
  · exact (hrun : execRun w h s = _)
  · exact (hrun : execNop w h s = _)
  · exact (hrun : execFnQuiesce w h s = _)
  · exact (hrun : execFnCopy w h s = _)
  · exact (hrun : execFnExport w h s = _)
  · exact (hrun : execFnImport w h s = _)
  · exact (hrun : execFnResume w h s = _)

/-- Settles O47: every row writes the window alike, and the write is counted, discarded or accepted as the window stands. -/
theorem windowWritesComplete : Obligations.WindowWritesComplete := by
  intro s w op h c hw hc hop hup hex x r own good stands
  have hrow := exec_windowRow (s := s) hw hc hop
  exact ⟨fun hown => hrow.trans (State.gives_congr (Dev.windowWrite_elsewhere hup hex hown)),
    fun hown hbad => hrow.trans (State.gives_congr (Dev.windowWrite_drops hup hex hown hbad)),
    fun hown hgood hst => hrow.trans (State.gives_congr (Dev.windowWrite_accepts hup hex hown hgood hst))⟩

end Sys2Proof.Machine
end

section
namespace Sys2Proof.Machine

/-! ## What does not look at the host writes that wait -/

/-- The device with other host writes waiting. -/
def Dev.setQ (d : Dev) (q : List HostPend) : Dev := { d with hostQ := q }

section
variable (d : Dev) (q : List HostPend)

theorem Dev.foldl_setQ {α : Type} {f : Dev → α → Dev} (h : ∀ d x, f (d.setQ q) x = (f d x).setQ q) (l : List α) :
    l.foldl f (d.setQ q) = (l.foldl f d).setQ q :=
  List.foldl_hom (Dev.setQ · q) h
theorem Dev.raise_setQ (f kind : Nat) (x : BitVec 448) : (d.setQ q).raise f kind x = (d.raise f kind x).setQ q := by
  simp only [Dev.raise, apply_ite (Dev.setQ · q)]
  rfl
theorem Dev.newRec_setQ (k : Nat) (key : ErrKey) (r : Report) (addr det : Word) :
    (d.setQ q).newRec k key r addr det = (d.newRec k key r addr det).setQ q := by
  simp only [Dev.newRec, ← Dev.raise_setQ]
  rfl
theorem Dev.witness_setQ (k : Nat) (r : Report) (cnt : Nat) : (d.setQ q).witness k r cnt = (d.witness k r cnt).setQ q := rfl
theorem Dev.markFull_setQ : (d.setQ q).markFull = d.markFull.setQ q := by
  simp only [Dev.markFull, apply_ite (Dev.setQ · q)]
  rfl
theorem Dev.overflowReport_setQ (r : Report) : (d.setQ q).overflowReport r = (d.overflowReport r).setQ q := by
  unfold Dev.overflowReport
  change (match NMap.find d.errs.recs 255 with | some _ => _ | none => _) =
    (match NMap.find d.errs.recs 255 with | some _ => _ | none => _ : Dev).setQ q
  cases NMap.find d.errs.recs 255 with
  | none => exact ((d.bump 0x708008 0xFFFFFFFF 1).setRb 0x708004 9 true).newRec_setQ q _ _ _ _ _
  | some _ => rfl
theorem Dev.aggregate_setQ (r : Report) : (d.setQ q).aggregate r = (d.aggregate r).setQ q := by
  have hcount : (d.setQ q).countReport r = (d.countReport r).setQ q := rfl
  have herrs : ((d.countReport r).setQ q).errs = (d.countReport r).errs := rfl
  unfold Dev.aggregate
  rw [← Dev.countReport, ← Dev.countReport, hcount]
  dsimp only
  simp only [herrs, Dev.witness_setQ, Dev.overflowReport_setQ, Dev.newRec_setQ, Dev.markFull_setQ]
  split
  · rfl
  · split
    · rfl
    · split
      · rfl
      · split <;> rfl
theorem Dev.report_setQ (r : Report) : (d.setQ q).report r = (d.report r).setQ q := by
  simp only [Dev.report, apply_ite (Dev.setQ · q), ← Dev.aggregate_setQ]
  rfl
theorem Dev.memFault_setQ (sp : MSpace) (w sub : Nat) : (d.setQ q).memFault sp w sub = (d.memFault sp w sub).setQ q := by
  unfold Dev.memFault Dev.fault
  rw [← Dev.report_setQ]
  cases sp <;> rfl
theorem Dev.mergeW_setQ (sp : MSpace) (w : Nat) (mask : BitVec 8) (v : Word) : (d.setQ q).mergeW sp w mask v = (d.mergeW sp w mask v).setQ q := by
  unfold Dev.mergeW
  have hmem : (d.setQ q).mem sp = d.mem sp := by cases sp <;> rfl
  rw [hmem]
  cases (d.mem sp).mergeW sp.id w mask v with
  | mk m first => cases first with
    | none => cases sp <;> rfl
    | some b =>
      have hset : (d.setQ q).setMem sp m = (d.setMem sp m).setQ q := by cases sp <;> rfl
      simp only [hset, apply_ite (Dev.setQ · q)]
      rw [Dev.memFault_setQ]
theorem Dev.writeLine_setQ (sp : MSpace) (addr : Nat) (mask : Mask) (data : Line) :
    (d.setQ q).writeLine sp addr mask data = (d.writeLine sp addr mask data).setQ q :=
  Dev.foldl_setQ _ _ (fun e _ => e.mergeW_setQ q _ _ _ _) _

theorem Dev.ledgerWrite_setQ (entry : Word) : (d.setQ q).ledgerWrite entry = (d.ledgerWrite entry).setQ q := by
  simp only [Dev.ledgerWrite, apply_ite (Dev.setQ · q), ← Dev.raise_setQ]
  rfl
theorem Dev.ledgerFlush_setQ : (d.setQ q).ledgerFlush = d.ledgerFlush.setQ q := by
  simp only [Dev.ledgerFlush, apply_ite (Dev.setQ · q), ← Dev.foldl_setQ _ q (fun e x => e.ledgerWrite_setQ q x)]
  rfl
theorem Dev.ledgerPush_setQ (entry : Word) : (d.setQ q).ledgerPush entry = (d.ledgerPush entry).setQ q := by
  simp only [Dev.ledgerPush, apply_ite (Dev.setQ · q), ← Dev.ledgerFlush_setQ]
  rfl
/-- The shadow bit of a written page (R421). -/
def Dev.markShadow (d : Dev) (page : Nat) : Dev :=
  if d.part.twin then { d with twin := { d.twin with shadow := NMap.set d.twin.shadow false page true } } else d
theorem Dev.markShadow_setQ (page : Nat) : (d.setQ q).markShadow page = (d.markShadow page).setQ q := by
  simp only [Dev.markShadow, apply_ite (Dev.setQ · q)]
  rfl
theorem Dev.notePage_setQ (line : Nat) : (d.setQ q).notePage line = (d.notePage line).setQ q := by
  unfold Dev.notePage
  dsimp only
  rw [← Dev.markShadow, ← Dev.markShadow, Dev.markShadow_setQ]
  generalize d.markShadow (line / 512) = e
  change (if NMap.get e.dirty false (line / 512) = true then e.setQ q else match e.partAt (commonsBase + line / 512 * 0x10000) with
      | none => _
      | some p => if e.ledgerOn (e.partFunc p) = true then _ else _) =
    (if NMap.get e.dirty false (line / 512) = true then e else match e.partAt (commonsBase + line / 512 * 0x10000) with
      | none => _
      | some p => if e.ledgerOn (e.partFunc p) = true then _ else _ : Dev).setQ q
  split
  · rfl
  · cases e.partAt (commonsBase + line / 512 * 0x10000) with
    | none => rfl
    | some p =>
      dsimp only
      split
      · exact Dev.ledgerPush_setQ { e with dirty := NMap.put e.dirty (line / 512) true } q _
      · rfl
theorem Dev.killResv_setQ (line : Nat) : (d.setQ q).killResv line = (d.killResv line).setQ q := by
  have hsend (e : Dev) (h : Nat) (a : Agent) :
      (e.setQ q).send h (dieOf a.cluster) line a.cluster (.kill a) = (e.send h (dieOf a.cluster) line a.cluster (.kill a)).setQ q := by
    simp only [Dev.send, Dev.stamp, ite_self]
    rfl
  have hfold := Dev.foldl_setQ d q (f := fun e r => e.send (d.homeDie line) (dieOf r.a.cluster) line r.a.cluster (.kill r.a)) (fun e (r : HomeResv) => hsend e (d.homeDie line) r.a) (d.coh.resv.filter fun r => decide (r.line = line))
  unfold Dev.killResv
  exact congrArg (Dev.onCoh · fun c => { c with resv := c.resv.filter fun r => decide (r.line ≠ line) }) hfold

end

end Sys2Proof.Machine
end

section
namespace Sys2Proof.Machine

/-! ## Waiting commands (R352, R374) -/

section
variable {s : State} {f n : Nat} {seq : BitVec 32} {q : CmdRec} (hf : f < 256) (hn : n < 8)
  (hq : (s.dev.win f n).waiting.find? (fun q => decide (q.seq = seq)) = some q) (hmay : s.dev.mayStart q = true)
include hf hn hq hmay

theorem exec_commandPlacement : exec (.commandPlacement f n seq) s = s.gives fun d => if q.op = 1 then d.placeRun q else d.startOther q := by
  refine (run_gives (by simp [winOk, hf, hn]) ?_ : execCommandPlacement f n seq s = _)
  simp only [hq, hmay, Bool.not_true, Bool.false_eq_true, if_false]

end
theorem Dev.placeRun_refused {d : Dev} {q : CmdRec} {st : Nat} (h : d.headStatus q = some st) :
    d.placeRun q = { d.unqueue q with recs := d.recs ++ [q.plainRec st] } := by
  unfold Dev.placeRun
  simp only [h]
theorem Dev.placeRun_goes {d : Dev} {q : CmdRec} {k : Nat} (h : d.headStatus q = none) (hopen : d.blocked = false)
    (hk : d.pickCluster q = some k) (hnormal : d.rtAdmitted q.ctx = false) :
    d.placeRun q = ((d.settleTurn k).unqueue q).onCl k fun c => { c with cmdq := c.cmdq ++ [q] } := by
  unfold Dev.placeRun
  simp only [h, hopen, hk, hnormal, Bool.false_eq_true, false_and, if_false]

/-! ## Records and events (R356, R357) -/

/-- What the writing of a record leaves beside its window and its place among the records. -/
def Dev.hostSide (d : Dev) : Part × NMap Window × List Rec × Twin := (d.part, d.wins, d.recs, d.twin)
theorem Dev.onlyLedger.hostSide {d e : Dev} (h : d.onlyLedger e) : e.hostSide = d.hostSide := by
  obtain ⟨⟨_, _, _, _, _, _, _, rfl⟩, -⟩ := h
  rfl
theorem Dev.hostSide_account (d : Dev) (r : Rec) : (d.account r).hostSide = d.hostSide := by
  unfold Dev.account
  split
  · rfl
  · dsimp only
    split <;> rfl
theorem Dev.hostSide_msix (d : Dev) (f v : Nat) : (d.msix f v).hostSide = d.hostSide := by
  unfold Dev.msix
  split <;> rfl
theorem Dev.handProgress_idle {d : Dev} (h : d.twin.handing = false) : d.handProgress = d := if_pos (.inl (by simp [h]))

/-- With no handover, the interrupt of a record changes none of it. -/
theorem Dev.hostSide_interrupted {d e : Dev} (irq : Bool) (f v : Nat) (hside : e.hostSide = d.hostSide) (h : d.twin.handing = false) :
    (if irq then e.msix f v else e).handProgress.hostSide = d.hostSide := by
  have hirq : (if irq then e.msix f v else e).hostSide = d.hostSide := by
    split
    · exact (e.hostSide_msix f v).trans hside
    · exact hside
  have htwin : (if irq then e.msix f v else e).twin = d.twin := congrArg (·.2.2.2) hirq
  rw [Dev.handProgress_idle (htwin ▸ h), hirq]

/-- A window whose record has been written. -/
def Window.recorded (w : Window) : Window :=
  { w with
    credits := w.credits + 1
    ringPos := (w.ringPos + 1) % 64
    phase := if w.ringPos = 63 then !w.phase else w.phase
    enabled := w.en || decide (w.credits + 1 < 64) }
theorem Dev.writeRec_writes {d : Dev} {f n : Nat} {r : Rec} (hsend : d.canSend f = true) (hr : d.nextRec f n = some r)
    (hidle : d.twin.handing = false) : (d.writeRec f n).hostSide = (d.part, NMap.put d.wins (8 * f + n) (d.win f n).recorded,
      eraseFirst d.recs fun x => decide (x = r), d.twin) := by
  unfold Dev.writeRec
  simp only [hsend, Bool.not_true, Bool.false_eq_true, if_false, hr]
  have hside (e : Dev) (a : Nat) (bs : List Byte) : ((e.hostWrite f a bs).account r).hostSide = e.hostSide :=
    (Dev.hostSide_account _ _).trans ((Dev.onlyLedger_refl e).hostWrite f a bs).hostSide
  exact Dev.hostSide_interrupted _ _ _ (hside _ _ _) hidle

theorem Dev.fn_raise_ne (d : Dev) {f g : Nat} (kind : Nat) (x : BitVec 448) (h : f ≠ g) : (d.raise g kind x).fn f = d.fn f := by
  unfold Dev.raise
  dsimp only
  split <;> exact NMap.get_put_ne _ _ _ h
/-- The Ledger's event goes to function 0. -/
theorem Dev.fn_ledgerWrite {f : Nat} (hf : f ≠ 0) (d : Dev) (entry : Word) : (d.ledgerWrite entry).fn f = d.fn f := by
  unfold Dev.ledgerWrite
  dsimp only
  split
  · rfl
  · split
    · exact Dev.fn_raise_ne _ _ _ hf
    · split <;> rfl
theorem Dev.fn_ledgerPush {f : Nat} (hf : f ≠ 0) (d : Dev) (entry : Word) : (d.ledgerPush entry).fn f = d.fn f := by
  unfold Dev.ledgerPush Dev.ledgerFlush
  split
  · rfl
  · split
    · exact foldl_keeps (Dev.fn · f) (fun e x => e.fn_ledgerWrite hf x) _ _
    · rfl
theorem Dev.fn_hostWrite {d : Dev} {f : Nat} (h : f ≠ 0 ∨ d.ledgerOn f = false) (addr : Nat) (bs : List Byte) :
    (d.hostWrite f addr bs).fn f = d.fn f := by
  unfold Dev.hostWrite
  dsimp only
  split
  case isTrue hon =>
    have hf : f ≠ 0 := h.resolve_right (by simp [hon])
    split <;> split
    · rfl
    · exact Dev.fn_ledgerPush hf _ _
    · rfl
    · exact Dev.fn_ledgerPush hf _ _
  case isFalse => rfl
theorem Dev.fn_msix (d : Dev) (f v k : Nat) : (d.msix f v).fn k = d.fn k := by
  unfold Dev.msix
  split <;> rfl
theorem Dev.fn_writeEvent {d : Dev} {f : Nat} {e : Event} {rest : List Event} (hsend : d.canSend f = true) (hen : (d.fn f).evtEn = true)
    (hroom : (d.fn f).unread < 64) (hpend : (d.fn f).pend = e :: rest) (hledger : f ≠ 0 ∨ d.ledgerOn 0 = false) :
    (d.writeEvent f).fn f = { d.fn f with pend := rest, count := ((d.fn f).count + 1) % 128, evSeq := (d.fn f).evSeq + 1 } := by
  have hroom' : ¬64 ≤ (d.fn f).unread := by omega
  unfold Dev.writeEvent
  simp only [hsend, hen, ge_iff_le, hroom', hpend, Bool.not_true, Bool.false_eq_true, or_self, if_false]
  refine (Dev.fn_msix _ _ _ _).trans ((Dev.fn_hostWrite ?_ _ _).trans (NMap.get_put_same _ _ _ _))
  by_cases hf : f = 0
  · exact .inr (hf ▸ hledger.resolve_left (not_not.2 hf))
  · exact .inl hf

theorem exec_completionRecord {s : State} {f n : Nat} (hf : f < 256) (hn : n < 8) :
    exec (.completionRecord f n) s = s.gives fun d => d.writeRec f n :=
  (run_gives (g := fun d => d.writeRec f n) (by simp [winOk, hf, hn]) rfl : execCompletionRecord f n s = _)
theorem exec_eventWrite {s : State} {f : Nat} (hf : f < 256) : exec (.eventWrite f) s = s.gives fun d => d.writeEvent f :=
  (run_gives (g := fun d => d.writeEvent f) (decide_eq_true hf) rfl : execEventWrite f s = _)

/-! ## Host writes, snoops and back-invalidations (R339, R341, R342) -/

theorem exec_hostGo {s : State} {k : Nat} {w : HostWr} (hk : s.dev.hostWr[k]? = some w) (hup : s.dev.portUp w.port = true)
    (hsent : s.dev.hostSent k w = true) : exec (.hostGo k) s = s.gives fun d =>
      let y := (Dev.pumpDie { d with hostWr := d.hostWr.eraseIdx k } w.eng w.ch).hostWrite w.func w.addr w.bytes
      let line := hostKey w.func w.addr / 64
      if w.bytes.length < 64 then y.cacheHost w.port line
      else { y with hostCache := y.hostCache.filter fun x => !(decide (x.1 = w.port) && decide (x.2.1 = line)) } := by
  refine (run_gives rfl ?_ : execHostGo k s = _)
  simp only [hk, hup, hsent, Bool.not_true, Bool.or_self, Bool.false_eq_true, if_false]

section
variable {s : State} {p line : Nat} (hp : p < 2)
include hp

theorem exec_hostSnoop_absent (inval : Bool) (hup : s.dev.portUp p = true)
    (hx : s.dev.hostCache.find? (fun x => decide (x.1 = p) && decide (x.2.1 = line)) = none) :
    exec (.hostSnoop p line inval) s = s.gives fun d => { d with hostAns := some (.snoop p false false) } := by
  refine (run_gives (decide_eq_true hp) ?_ : execHostSnoop p line inval s = _)
  simp only [hup, hx, Bool.not_true, Bool.false_eq_true, if_false]
theorem exec_hostSnoop_held {x : Nat × Nat × Bool} (hup : s.dev.portUp p = true)
    (hx : s.dev.hostCache.find? (fun x => decide (x.1 = p) && decide (x.2.1 = line)) = some x) (inval : Bool) :
    exec (.hostSnoop p line inval) s = s.gives fun d =>
      let e := { d with hostAns := some (.snoop p true x.2.2) }
      if inval then { e with hostCache := d.hostCache.filter fun y => decide (y ≠ x) }
      else { e with hostCache := d.hostCache.map fun y => if y = x then (x.1, x.2.1, false) else y } := by
  refine (run_gives (decide_eq_true hp) ?_ : execHostSnoop p line inval s = _)
  simp only [hup, hx, Bool.not_true, Bool.false_eq_true, if_false]

/-- The modified data that a back-invalidation brings home. -/
def homeData (p line : Nat) (v : BitVec 512) : HostPend := { resp := true, port := p, addr := commonsBase + 64 * line, size := 64, data := v }
/-- The port holds a line no longer. -/
def Dev.letGo (d : Dev) (p line : Nat) : Dev :=
  { d with hostTrk := eraseFirst d.hostTrk fun t => decide (t.port = p) && decide (t.line = line) }

variable (hline : line < 2 ^ 30) (htrk : (s.dev.hostTrk.any fun t => decide (t.port = p) && decide (t.line = line) && t.snoop) = true)
  (hnew : (s.dev.hostQ.any fun x => x.resp && decide (x.port = p) && decide (x.addr = commonsBase + 64 * line)) = false)
include hline htrk hnew

theorem exec_bisnpinvResponse_clean : exec (.bisnpinvResponse p line none) s = s.gives fun d => d.letGo p line := by
  refine (run_gives (by rw [decide_eq_true hp, decide_eq_true hline]; rfl) ?_ : execBisnpinvResponse p line none s = _)
  simp only [htrk, hnew, Bool.not_false, Bool.and_self, if_true]
  rfl
theorem exec_bisnpinvResponse_dirty (v : BitVec 512) : exec (.bisnpinvResponse p line (some v)) s = s.gives fun d =>
    Dev.pumpHost { d with hostQ := d.hostQ ++ [homeData p line v] } p := by
  refine (run_gives (by rw [decide_eq_true hp, decide_eq_true hline]; rfl) ?_ : execBisnpinvResponse p line (some v) s = _)
  simp only [htrk, hnew, Bool.not_false, Bool.and_self, if_true]
  rfl

end

/-- Modified data come home. -/
def Dev.homeWrite (d : Dev) (p line : Nat) (v : BitVec 512) : Dev :=
  (((d.letGo p line).killResv (line / 2)).notePage (line / 2)).writeLine .com (lineAddr (line / 2))
    (BitVec.ofNat 128 ((2 ^ 64 - 1) * 2 ^ (line % 2 * 64))) (BitVec.ofNat 1024 (v.toNat * 256 ^ (line % 2 * 64)))
theorem Dev.homeWrite_setQ (d : Dev) (p line : Nat) (v : BitVec 512) (q : List HostPend) :
    (d.setQ q).homeWrite p line v = (d.homeWrite p line v).setQ q := by
  have hgo : (d.setQ q).letGo p line = (d.letGo p line).setQ q := rfl
  rw [Dev.homeWrite, hgo, Dev.killResv_setQ, Dev.notePage_setQ, Dev.writeLine_setQ, Dev.homeWrite]
theorem Dev.hostResponds_homeData (d : Dev) (p line : Nat) (v : BitVec 512) : d.hostResponds (homeData p line v) = d.homeWrite p line v := by
  have hhost : (commonsBase + 64 * line - commonsBase) / 64 = line := by omega
  have hline : lineOf (commonsBase + 64 * line) = line / 2 := by unfold lineOf; omega
  have hofs : (commonsBase + 64 * line) % 128 = line % 2 * 64 := by unfold commonsBase; omega
  have hmask : (homeData p line v).mask = BitVec.ofNat 128 ((2 ^ 64 - 1) * 2 ^ (line % 2 * 64)) := by
    rw [HostPend.mask, homeData, hofs]
  have hbytes : 256 ^ 64 = 2 ^ 512 := by rw [show 256 = 2 ^ 8 from rfl, ← pow_mul]
  have hdata : (homeData p line v).line = BitVec.ofNat 1024 (v.toNat * 256 ^ (line % 2 * 64)) := by
    rw [HostPend.line, homeData, hofs, hbytes, Nat.mod_eq_of_lt v.isLt]
  unfold Dev.hostResponds
  rw [hmask, hdata]
  simp only [homeData, hhost, hline]
  rfl
/-- Data that come home at a port where nothing waits are written at once. -/
theorem Dev.pumpHost_homeData {d : Dev} {p : Nat} (line : Nat) (v : BitVec 512) (hidle : ∀ q ∈ d.hostQ, q.port ≠ p) :
    Dev.pumpHost { d with hostQ := d.hostQ ++ [homeData p line v] } p = d.homeWrite p line v := by
  have hwrite : (d.setQ (d.hostQ ++ [homeData p line v])).hostResponds (homeData p line v) =
      (d.homeWrite p line v).setQ (d.hostQ ++ [homeData p line v]) := by
    rw [Dev.hostResponds_homeData, Dev.homeWrite_setQ]
  have hq : (d.homeWrite p line v).setQ d.hostQ = d.homeWrite p line v := (Dev.homeWrite_setQ d p line v d.hostQ).symm
  have htry : (d.setQ (d.hostQ ++ [homeData p line v])).hostTry (homeData p line v) =
      (true, (d.homeWrite p line v).setQ (d.hostQ ++ [homeData p line v])) := by
    rw [← hwrite]
    unfold Dev.hostTry
    exact if_pos rfl
  refine (Dev.pumpHost_performs (d := d.setQ (d.hostQ ++ [homeData p line v])) (find?_append_newest (w := homeData p line v) hidle) htry
    (eraseFirst_append_newest (w := homeData p line v) hidle) hidle).trans hq

/-! ## The Ledger's registers (R365, R366) -/

theorem Dev.writeLdgCfg_zext (d : Dev) (v : BitVec 32) : d.writeLdgCfg (zext v) =
    { d.setReg 0x510000 (BitVec.ofNat 64 (v.toNat % 128)) with ldgStopped := d.ldgStopped && !(v.getLsbD 0) } := by
  unfold Dev.writeLdgCfg
  rw [fld_low, bitAt_zext v (by decide)]
  cases v.getLsbD 0 with
  | true => rw [Bool.not_true, Bool.and_false]; rfl
  | false => rw [Bool.not_false, Bool.and_true]; rfl

/-- Settles O49: each row is followed to the part of the device that its clause names; the writing of host memory keeps to the Ledger
and to host memory, and data that come home do not look at the host writes that wait. -/
theorem hostTrafficComplete : Obligations.HostTrafficComplete := by
  intro s f n hf hn
  refine ⟨fun q seq hq hmay => ?placement, fun r hsend hr hidle => ?record, fun e rest hsend hen hroom hpend hledger => ?event,
    fun k w => exec_hostGo, fun p line hp => ?host, fun halive => ?ledger⟩
  case placement =>
    have hrow := exec_commandPlacement hf hn hq hmay
    refine ⟨fun st hop hst => ?_, fun k hop hst hopen hk hnormal => ?_, fun hop => ?_⟩
    · exact hrow.trans (State.gives_congr ((if_pos hop).trans (Dev.placeRun_refused hst)))
    · exact hrow.trans (State.gives_congr ((if_pos hop).trans (Dev.placeRun_goes hst hopen hk hnormal)))
    · exact hrow.trans (State.gives_congr (if_neg hop))
  case record =>
    have hside := Dev.writeRec_writes hsend hr hidle
    have hpart : (s.dev.writeRec f n).part = s.dev.part := congrArg Prod.fst hside
    have hdev := State.onDev_dev_of_part (f := fun d => d.writeRec f n) hpart
    have hwin : (s.dev.writeRec f n).win f n = (s.dev.win f n).recorded := by
      rw [Dev.win, show (s.dev.writeRec f n).wins = _ from congrArg (·.2.1) hside]
      exact NMap.get_put_same _ _ _ _
    refine ⟨_, exec_completionRecord hf hn, ?_⟩
    rw [hdev, hwin]
    exact ⟨rfl, rfl, rfl, congrArg (·.2.2.1) hside⟩
  case event =>
    refine ⟨_, exec_eventWrite hf, ?_⟩
    have hfn : (s.onDev fun d => d.writeEvent f).dev.fn f = _ := Dev.fn_writeEvent hsend hen hroom hpend hledger
    rw [hfn]
    exact ⟨rfl, rfl, rfl, rfl⟩
  case host =>
    refine ⟨fun inval => exec_hostSnoop_absent hp inval, fun x hup hx => ⟨exec_hostSnoop_held hp hup hx true, exec_hostSnoop_held hp hup hx false⟩,
      fun hline htrk hnew => ?_⟩
    refine ⟨exec_bisnpinvResponse_clean hp hline htrk hnew, fun v => ?_⟩
    have hrow := exec_bisnpinvResponse_dirty hp hline htrk hnew v
    exact ⟨hrow, fun hidle => hrow.trans (State.gives_congr (Dev.pumpHost_homeData line v hidle))⟩
  case ledger =>
    exact ⟨fun v => (run_mgr rfl halive : execHifLdgCfgWrite v s = _).trans (State.gives_congr (Dev.writeLdgCfg_zext _ v)),
      (run_mgr (decide_eq_true hf) halive : execLedgerRearm f s = _), (run_mgr (decide_eq_true hf) halive : execLedgerMark f s = _)⟩

end Sys2Proof.Machine
end

section
namespace Sys2Proof.Machine

/-! ## Records, folds and scrubbers (R391 to R393, R402, R404) -/

theorem Dev.mgrFull_of_full {d : Dev} (h : d.full = true) (f : Dev → Dev) : d.mgrFull f = f d := if_pos h
theorem Dev.hostAlive_of_full {d : Dev} (h : d.full = true) : d.hostAlive = true := by
  simp [Dev.hostAlive, Dev.stage_of_full h]

section
variable {s : State} (hfull : s.dev.full = true)

theorem exec_reportFoldEnd (reporter : BitVec 32) (key : ErrKey) :
    exec (.reportFoldEnd reporter key) s = s.gives fun d => d.foldEnd reporter key := rfl

include hfull

theorem exec_free {k : Nat} (hk : k < 256) :
    exec (.free k) s = s.gives fun d => (d.setReg 0x708000 (BitVec.ofNat 64 k)).freeRec k :=
  (run_gives (decide_eq_true hk) (Dev.mgrFull_of_full hfull _) : execFree k s = _)
theorem exec_scrubRead {die : Nat} (h8 : die < 8) (hdie : die < s.dev.part.dies) (hen : s.dev.rb (0x70A000 + 0x40 * die) 0 = true) :
    exec (.scrubRead die) s = s.gives fun d => d.scrubRead die :=
  (run_gives (decide_eq_true h8) (if_pos (by simp [hfull, hdie, hen])) : execScrubRead die s = _)
theorem exec_scrCtlWrite {die : Nat} (h8 : die < 8) (hdie : die < s.dev.part.dies) (v : BitVec 32) :
    exec (.scrCtlWrite die v) s = s.gives fun d => d.writeScrCtl die (zext v) :=
  (run_gives (decide_eq_true h8) ((if_pos hdie).trans (Dev.mgrFull_of_full hfull _)) : execScrCtlWrite die v s = _)

end

theorem Dev.writeScrCtl_zext (d : Dev) (die : Nat) (v : BitVec 32) : d.writeScrCtl die (zext v) =
    let x := d.setReg (0x70A000 + 0x40 * die) (BitVec.ofNat 64 (v.toNat % 1024))
    if v.getLsbD 0 then x else x.setRb (0x70A010 + 0x40 * die) 0 false := by
  unfold Dev.writeScrCtl
  dsimp only
  rw [fld_low, bitAt_zext v (by decide), show 0x70A000 + 0x40 * die + 0x10 = 0x70A010 + 0x40 * die by omega]
  simp only [Nat.reduceAdd, Nat.reducePow]
section
variable {d : Dev} {reporter : BitVec 32} {key : ErrKey} {x : Fold}
  (hx : d.errs.folds.find? (fun x : Fold => decide (x.r.reporter = reporter) && decide (x.r.key = key)) = some x)
include hx

theorem Dev.foldEnd_empty (h0 : x.folded = 0) : d.foldEnd reporter key = d.onErrs fun e =>
    { e with folds := eraseFirst e.folds fun x : Fold => decide (x.r.reporter = reporter) && decide (x.r.key = key) } := by
  unfold Dev.foldEnd
  simp only [hx]
  exact if_pos h0
theorem Dev.foldEnd_sends (h0 : x.folded ≠ 0) : d.foldEnd reporter key = (d.onErrs fun e => { e with
    folds := updFirst e.folds (fun x : Fold => decide (x.r.reporter = reporter) && decide (x.r.key = key))
      fun y => { y with folded := 0 } }).aggregate { x.r with rep := x.folded } := by
  unfold Dev.foldEnd
  simp only [hx]
  exact if_neg h0

end

/-! ## The vote over three copies (R386) -/

/-- A word takes the majority of its copies. -/
def Dev.fixWord (d : Dev) (o : Nat) (v : Word) : Dev := if d.reg o = v then d else d.setReg o v
theorem Dev.reg_fixWord (d : Dev) (o : Nat) (v : Word) : (d.fixWord o v).reg o = v := by
  unfold Dev.fixWord
  split
  case isTrue h => exact h
  case isFalse => exact Dev.reg_setReg_same _ _ _
theorem Dev.reg_fixWord_ne (d : Dev) {o p : Nat} (v : Word) (h : p ≠ o) : (d.fixWord o v).reg p = d.reg p := by
  unfold Dev.fixWord
  split
  · rfl
  · exact Dev.reg_setReg_ne _ _ h
theorem Dev.part_fixWord (d : Dev) (o : Nat) (v : Word) : (d.fixWord o v).part = d.part := by
  unfold Dev.fixWord
  split <;> rfl

theorem Part.dies_le (k : Part) : k.dies ≤ 8 := by
  unfold Part.dies
  cases k.code <;> decide
/-- The die of a triplicated word: naming it makes at most a free choice. -/
theorem Dev.wordDieOf_spec (d : Dev) {o : Nat} (ho : o < 0x2000000) :
    (d.wordDieOf o).1 < 0x1000 ∧ ∃ free, (d.wordDieOf o).2 = { d with free := free } := by
  have hdies := d.part.dies_le
  unfold Dev.wordDieOf
  split
  · exact ⟨by dsimp only; omega, _, rfl⟩
  · split
    · exact ⟨by unfold dieOf; dsimp only; omega, _, rfl⟩
    · refine ⟨?_, _, rfl⟩
      have : Config.freeChoice d.free % max d.part.dies 1 < max d.part.dies 1 := Nat.mod_lt _ (by omega)
      exact lt_of_lt_of_le this (by omega)

section
variable {d : Dev} {o : Nat} {x : Safe} (hx : d.safeOf o = some x)
include hx

theorem Dev.vote_same (v : Word) : d.vote o v v v = (d.wordDieOf o).2.fixWord o v := by
  unfold Dev.vote
  simp only [hx, and_self, if_true]
  rfl
/-- With two copies that agree and one that does not, the two stand, and the mended copy is counted. -/
theorem Dev.vote_majority {v w : Word} (h : w ≠ v) {c0 c1 c2 : Word} (hc : (c0, c1, c2) ∈ [(v, v, w), (v, w, v), (w, v, v)]) :
    d.vote o c0 c1 c2 = ((d.wordDieOf o).2.fixWord o v).bumpRf (0x709008 + 0x20 * (d.wordDieOf o).1) 63 32 1 := by
  have h' : v ≠ w := h.symm
  unfold Dev.vote
  simp only [List.mem_cons, Prod.mk.injEq, List.not_mem_nil, or_false] at hc
  rcases hc with ⟨rfl, rfl, rfl⟩ | ⟨rfl, rfl, rfl⟩ | ⟨rfl, rfl, rfl⟩
  · simp only [hx, h', and_false, if_false, true_or, if_true]
    rfl
  · simp only [hx, h', false_and, or_true, if_false, if_true]
    rfl
  · simp only [hx, h, false_and, or_self, if_false, if_true]
    rfl

end

theorem exec_triplicateCheck {s : State} (hfull : s.dev.full = true) {o : Nat} (ho : o < 0x2000000) (c0 c1 c2 : Word) :
    exec (.triplicateCheck o c0 c1 c2) s = s.gives fun d => d.vote o c0 c1 c2 :=
  (run_gives (decide_eq_true ho) (if_pos (Dev.hostAlive_of_full hfull)) : execTriplicateCheck o c0 c1 c2 s = _)

/-! ## Healing (R299, R396 to R399) -/

theorem Dev.healing_congr {d e : Dev} (h : e.heals = d.heals) (line : Nat) : e.healing line = d.healing line := by
  rw [Dev.healing, h, Dev.healing]
theorem Dev.heals_onWire (d : Dev) (l : Nat) (m : LinkMsg) : (d.onWire l m).heals = d.heals := by
  unfold Dev.onWire Dev.pumpLink
  split <;> rfl
theorem Dev.failed_healSource (d : Dev) (line : Nat) : (d.healSource line).failed = false := by
  unfold Dev.healSource
  split <;> rfl
theorem Dev.healing_of_put {d e : Dev} {line : Nat} {h : Heal} (he : e.heals = NMap.put d.heals line h) (x : Nat) :
    e.healing x = if x = line then !h.failed else d.healing x := by
  rw [Dev.healing, he, NMap.find_put]
  by_cases hx : x = line
  · rw [if_pos hx, if_pos hx]
  · rw [if_neg hx, if_neg hx, Dev.healing]
/-- Asking the twin for a line changes which lines heal in nothing. -/
theorem Dev.healing_askTwin (d : Dev) (line x : Nat) : (d.askTwin line).healing x = d.healing x := by
  unfold Dev.askTwin
  split
  case h_2 => rfl
  case h_1 h l hh _ =>
    split
    · rfl
    · refine (Dev.healing_of_put (d := d) (Dev.heals_onWire _ _ _) x).trans ?_
      split
      case isTrue hx => rw [hx, Dev.healing, hh]
      case isFalse => rfl
theorem Dev.onlyReports.heals {d e : Dev} (h : d.onlyReports e) : e.heals = d.heals := by
  obtain ⟨⟨_, _, _, rfl⟩, -⟩ := h
  rfl
theorem Dev.heals_readW (d : Dev) (w sub : Nat) : (d.readW .com w sub).2.heals = d.heals :=
  Dev.readW_keeps (fun _ _ => rfl) (fun _ _ h => h.heals) d w sub
/-- A line whose Porter has room heals from then on, and no other does that did not. -/
theorem Dev.healing_startHeal {d : Dev} {line : Nat}
    (hroom : (d.heals.filter fun h => !h.2.failed && decide (d.homeDie h.1 = d.homeDie line)).length < 64) (x : Nat) :
    (d.startHeal line).healing x = if x = line then true else d.healing x := by
  unfold Dev.startHeal
  rw [if_neg (by omega)]
  dsimp only
  rw [Dev.healing_askTwin]
  have hread (bad : List Nat) : (bad.foldl (fun (d : Dev) k => (d.readW .com (lineAddr line / 8 + k) 0).2) d).heals = d.heals :=
    foldl_keeps Dev.heals (fun e k => e.heals_readW _ 0) bad d
  refine (Dev.healing_of_put (d := d) (h := Dev.healSource _ line) (congrArg (NMap.put · line _) ?_) x).trans ?_
  · split
    · exact hread _
    · exact ((Dev.onlyReports_memFault _ _ _ _).heals).trans (hread _)
  · rw [Dev.failed_healSource]
    rfl

theorem exec_healRequest {s : State} (hfull : s.dev.full = true) {line : Nat} (hline : line < 2 ^ 28) (hneed : s.dev.needsHeal line = true) :
    exec (.healRequest line) s = s.gives fun d => d.startHeal line :=
  (run_gives (decide_eq_true hline) (if_pos (by rw [hfull, hneed]; rfl)) : execHealRequest line s = _)

section
variable {s : State} (hfull : s.dev.full = true) {line : Nat} (hline : line < 2 ^ 28) (hheal : s.dev.healing line = true)
include hfull hline hheal

theorem exec_healComplete {h : Heal} (hh : NMap.find s.dev.heals line = some h) {data x : BitVec 1024}
    (hx : (if h.kind = 2 then h.got else some data) = some x) : exec (.healComplete line data) s = s.gives fun d =>
      Dev.healEnd { (d.putLine .com (lineAddr line) { v := x, poison := 0 }) with heals := NMap.del d.heals line } line 0 := by
  refine (run_gives (decide_eq_true hline) ?_ : execHealComplete line data s = _)
  simp only [hfull, hheal, hh, hx, Bool.and_self, if_true, Option.getD_some]
theorem exec_healComplete_waits {h : Heal} (hh : NMap.find s.dev.heals line = some h) (data : BitVec 1024) (hkind : h.kind = 2)
    (hgot : h.got = none) : exec (.healComplete line data) s = s.gives id := by
  refine (run_gives (decide_eq_true hline) ?_ : execHealComplete line data s = _)
  simp only [hfull, hheal, hh, hkind, hgot, Bool.and_self, if_true, Option.getD_some]
  rfl
theorem exec_healTimeout (failed : Bool) : exec (.healTimeout line failed) s = s.gives fun d =>
    (Dev.healEnd { d with heals := NMap.put d.heals line { (d.healSource line) with failed := true } } line (if failed then 2 else 3)).healOver
      line :=
  (run_gives (decide_eq_true hline) (if_pos (by rw [hfull, hheal]; rfl)) : execHealTimeout line failed s = _)

end

/-! ## The stop of a device (R411) -/

theorem exec_dieOut {s : State} {edge : Option Nat} (hedge : ∀ e, edge = some e → e < 4) {die : Nat} (h8 : die < 8) :
    exec (.dieOut edge die) s = s.gives fun d => d.dieOut edge die := by
  refine (run_gives (g := fun d => d.dieOut edge die) ?_ rfl : execDieOut edge die s = _)
  cases edge with
  | none => simp [h8]
  | some e => simp [h8, hedge e rfl]

section
variable (d : Dev)

theorem Dev.part_notify (cause : Nat) : (d.notify cause).part = d.part := by
  unfold Dev.notify
  split <;> rfl
theorem Dev.bist_notify (cause : Nat) : (d.notify cause).bist = d.bist := by
  unfold Dev.notify
  split <;> rfl
theorem Dev.bist_refreshStep : d.refreshStep.bist = d.bist := by simp [Dev.refreshStep]
/-- No slice runs any more, and none waits for its die. -/
def Dev.endSlices (d : Dev) : Dev := { d with bist := { d.bist with slices := [], want := none } }.setRb 0x800008 0 false
theorem Dev.dieStop_eq : d.dieStop =
    (((d.endSlices.notify 1).onPwr fun p => { p with stopped := true, drain := none }).refreshStep).setStage 3 := rfl
theorem Dev.part_dieStop : d.dieStop.part = d.part := by
  rw [Dev.dieStop_eq, Dev.setStage_part, Dev.refreshStep_part, Dev.onPwr_part, Dev.part_notify, Dev.endSlices, Dev.setRb_part]
theorem Dev.stage_dieStop : d.dieStop.stage = 3 := by
  rw [Dev.dieStop_eq]
  exact Dev.rf_setRf_same _ _ _ _ (by decide)
theorem Dev.stopped_dieStop : d.dieStop.pwr.stopped = true := by
  rw [Dev.dieStop_eq, Dev.setStage, Dev.setRf_pwr, Dev.refreshStep_pwr, Dev.onPwr_pwr]
theorem Dev.slices_dieStop : d.dieStop.bist.slices = [] := by
  rw [Dev.dieStop_eq, Dev.setStage, Dev.setRf_bist, Dev.bist_refreshStep, Dev.onPwr_bist, Dev.bist_notify, Dev.endSlices, Dev.setRb_bist]

end

/-- Settles O55: each command of a full device takes the branch of its case; the vote's word is its majority, whatever the die that
is named, and what starts to heal is looked up in the table of healings. SCR_CTL follows log entry 53, the stop log entry 47. -/
theorem errorsComplete : Obligations.ErrorsComplete := by
  intro s hfull
  refine ⟨fun k hk => ?free, fun reporter key => ?fold, fun die h8 hdie => ⟨exec_scrubRead hfull h8 hdie, fun v => ?scrub⟩,
    fun o v w ho hsafe => ?vote, fun line hline => ⟨fun hneed hroom => ?heals, fun hheal data failed => ?healed⟩, fun die h8 hdie => ?dieOut⟩
  case free =>
    refine ⟨_, exec_free hfull hk, ?_, fun j hj => ?_⟩
    · exact (NMap.find_del _ _ _).trans (if_pos rfl)
    · exact (NMap.find_del _ _ _).trans (if_neg hj)
  case fold =>
    intro here x hx
    exact ⟨fun h0 => (exec_reportFoldEnd reporter key).trans (State.gives_congr (Dev.foldEnd_empty hx h0)),
      fun h0 => (exec_reportFoldEnd reporter key).trans (State.gives_congr (Dev.foldEnd_sends hx h0))⟩
  case scrub => exact (exec_scrCtlWrite hfull h8 hdie v).trans (State.gives_congr (Dev.writeScrCtl_zext _ _ _))
  case vote =>
    obtain ⟨x, hx⟩ := Option.isSome_iff_exists.1 hsafe
    obtain ⟨hdie, free, hfree⟩ := s.dev.wordDieOf_spec ho
    have hrow := exec_triplicateCheck hfull ho
    have hpart (v : Word) : ((s.dev.wordDieOf o).2.fixWord o v).part = s.dev.part := by rw [Dev.part_fixWord, hfree]
    have hsame (v : Word) : (s.onDev fun d => d.vote o v v v).dev = (s.dev.wordDieOf o).2.fixWord o v := by
      rw [State.onDev_congr s _ (fun _ => (s.dev.wordDieOf o).2.fixWord o v) (Dev.vote_same hx v), State.onDev_dev_of_part (hpart v)]
    refine ⟨⟨_, hrow v v v, ?_⟩, fun c0 c1 c2 hc => ⟨_, hrow c0 c1 c2, fun hout => ?_⟩⟩
    · rw [hsame]
      refine ⟨Dev.reg_fixWord _ _ _, fun p hp => ?_⟩
      rw [Dev.reg_fixWord_ne _ v hp, hfree]
      rfl
    · by_cases hw : w = v
      · have hall : c0 = v ∧ c1 = v ∧ c2 = v := by
          simp only [hw, List.mem_cons, Prod.mk.injEq, List.not_mem_nil, or_false, or_self] at hc
          exact hc
        obtain ⟨rfl, rfl, rfl⟩ := hall
        rw [hsame, Dev.reg_fixWord]
      · have hne : o ≠ 0x709008 + 0x20 * (s.dev.wordDieOf o).1 := by omega
        have hmend := Dev.vote_majority hx hw hc
        rw [State.onDev_congr s _ (fun _ => ((s.dev.wordDieOf o).2.fixWord o v).bumpRf (0x709008 + 0x20 * (s.dev.wordDieOf o).1) 63 32 1)
          hmend, State.onDev_dev_of_part (hpart v)]
        exact (Dev.reg_setRf_ne _ _ _ _ hne).trans (Dev.reg_fixWord _ _ _)
  case heals =>
    refine ⟨_, exec_healRequest hfull hline hneed, ?_, fun x hx => ?_⟩
    · exact (Dev.healing_startHeal hroom line).trans (if_pos rfl)
    · exact (Dev.healing_startHeal hroom x).trans (if_neg hx)
  case healed =>
    exact ⟨fun h hh x hx => exec_healComplete hfull hline hheal hh hx, fun h hh => exec_healComplete_waits hfull hline hheal hh data,
      exec_healTimeout hfull hline hheal failed⟩
  case dieOut =>
    have hok : ¬((!s.dev.full) = true ∨ die ≥ s.dev.part.dies) := by rw [hfull]; simpa using hdie
    have hnone : exec (.dieOut none die) s = s.gives fun d =>
        ((d.fault (origin 4 die) 4 6 (origin 4 die) die 0 0).fault (origin 4 die) 7 1 (origin 4 die) die 0 0).dieStop :=
      (exec_dieOut (fun _ he => by cases he) h8).trans (State.gives_congr (if_neg hok))
    refine ⟨hnone, ⟨_, hnone, ?_⟩, fun e he => ?_⟩
    · rw [State.onDev_dev_of_part (by simp only [Dev.part_dieStop, Dev.fault_part])]
      exact ⟨Dev.stage_dieStop _, Dev.stopped_dieStop _, Dev.slices_dieStop _⟩
    · exact (exec_dieOut (fun k hk => by cases hk; exact he) h8).trans (State.gives_congr (if_neg hok))

end Sys2Proof.Machine
end

section
namespace Sys2Proof.Machine

/-! ## A handover with a command that the partner lacks (R428, log entry 105) -/

/-- A command of context 0 that its window holds as mirrored and that the partner's mirror store does not hold: one that waited
when the twins paired. -/
def unsentCmd : CmdRec :=
  { op := 1, c := default, func := 0, win := 0, slot := 0, port := 0, seq := 0, ctx := 0, waitNs := 0, reissued := false, acc := 0,
    mirrored := true, atTwin := false }
/-- The paired twin that serves context 0, with that command waiting. -/
def unsentTwin : Dev :=
  (((Dev.reset.setStage 8).setRf 0x14004 2 0 2).setReg 0x14010 1).setWin 0 0 { Window.reset with waiting := [unsentCmd] }
theorem unsentTwin_pairs : unsentTwin.part.twin = true ∧ unsentTwin.hostAlive = true ∧ unsentTwin.twinState = 2 ∧
    unsentTwin.twin.handing = false := by decide +kernel
/-- Whether the commands of window 0 need no mirroring. -/
def Dev.mirroredCmds (d : Dev) : List Bool := (d.win 0 0).waiting.map CmdRec.mirrored
/-- The handover asks for the mirroring of the command first. -/
theorem unsentTwin_asks : unsentTwin.startHandover.mirroredCmds = [false] := by decide +kernel
theorem unsentTwin_keeps : ((unsentTwin.onTwin fun t => { t with handing := true }).handProgress).mirroredCmds = [true] := by
  decide +kernel
theorem State.mirroredCmds_onDev (s : State) (f : Dev → Dev) : (s.onDev f).dev.mirroredCmds = (f s.dev).mirroredCmds := rfl

theorem exec_handover {s : State} (h : s.dev.hostAlive = true) : exec .handover s = s.gives fun d => d.startHandover :=
  (run_mgr rfl h : execHandover s = _)

/-- Refutes O56: HANDOVER first has the commands mirrored that the partner's mirror store lacks (log entry 105), which its clause
leaves out, as with one command that waited before the twins paired. -/
theorem not_twinComplete : ¬ Obligations.TwinComplete := by
  intro h
  obtain ⟨hpaired, -⟩ := h
  obtain ⟨htwin, halive, hstate, hidle⟩ := unsentTwin_pairs
  obtain ⟨-, -, -, -, -, -, -, hclause, -⟩ := hpaired { State.reset with dev := unsentTwin } htwin
  have hsame := (exec_handover halive).symm.trans (hclause halive hstate hidle)
  have hcmds := congrArg (fun t : State => t.dev.mirroredCmds) (Host.Outcome.next.inj hsame)
  simp only [State.mirroredCmds_onDev, unsentTwin_asks, unsentTwin_keeps] at hcmds
  exact absurd hcmds (by decide)

end Sys2Proof.Machine
end

section
namespace Sys2Proof.Machine

/-! ## Power-on, restart, rest and wake (R434 to R438, R453 to R455) -/

section
variable {s : State}

theorem runStart_starts {f g : Dev → Dev} (h : f s.dev = g s.dev) : runStart s f = s.starts g := by rw [runStart, h]
theorem runStart_idle {f : Dev → Dev} (h : f s.dev = s.dev) : runStart s f = .next s := by rw [runStart, h]

theorem Dev.switchOn_starts {d : Dev} (p : PowerOn) (h : d.ltn.found = none) : d.switchOn p =
    (d.onLtn fun l => { l with present := true, switchOn := true, indicator := false, boardTest := !p.bstEn }).startUp p true := by
  unfold Dev.switchOn
  exact if_neg (by simp [h])
theorem Dev.switchOn_powered {d : Dev} (p : PowerOn) (h : d.ltn.found.isSome = true) : d.switchOn p = d := if_pos h
theorem exec_powerOn (p : PowerOn) : exec (.powerOn p) s = runStart s fun d => d.switchOn p := rfl
theorem exec_restart_starts {p : PowerOn} (halive : s.dev.hostAlive = true) (h : s.dev.stage = 11) :
    exec (.restart p) s = s.starts fun d => (d.onErrs fun e => { e with arrival := 1 }).startUp p false := by
  refine (runStart_starts ?_ : execRestart p s = _)
  rw [halive, h]
  rfl
theorem exec_restart_refused {p : PowerOn} (h : s.dev.hostAlive = false ∨ s.dev.stage ≠ 11) : exec (.restart p) s = .next s := by
  refine (runStart_idle ?_ : execRestart p s = _)
  exact if_neg (by rcases h with h | h <;> simp [h])

/-- A row that leaves the device leaves the state. -/
theorem run_idle {ok : Bool} {f : Dev → Dev} (hok : ok = true) (h : f s.dev = s.dev) : run ok s f = .next s := by
  rw [hok, run_true]
  exact State.gives_congr (g := id) h
theorem exec_rest (halive : s.dev.hostAlive = true) : exec .rest s = s.gives fun d => d.goToRest := (run_mgr rfl halive : execRest s = _)
theorem exec_wake {p : PowerOn} (h : s.dev.stage = 9) : exec (.wake p) s = s.gives fun d => d.wakeUp p :=
  (run_gives rfl (if_pos h) : execWake p s = _)
theorem exec_wake_ignored {p : PowerOn} (h : s.dev.stage ≠ 9) : exec (.wake p) s = .next s :=
  (run_idle rfl (if_neg h) : execWake p s = _)
theorem exec_rest_ignored (h : s.dev.hostAlive = false ∨ (s.dev.stage = 9 ∧ s.dev.inUse = false)) : exec .rest s = .next s := by
  refine (run_idle rfl ?_ : execRest s = _)
  rcases h with h | ⟨h9, huse⟩
  · exact if_neg (by simp [h])
  · unfold Dev.mgr
    split
    · exact (if_neg (by simp [h9, huse])).trans (if_pos h9)
    · rfl

end

section
variable {d : Dev}

theorem Dev.goToRest_refused (h : d.inUse = true ∨ d.stage = 11) : d.goToRest = d.setRb 0x10004 3 true := if_pos h
theorem Dev.goToRest_full (hfull : d.full = true) (huse : d.inUse = false) :
    d.goToRest = if (d.beginDrain 5).pwr.drain = some 5 then (d.beginDrain 5).enterRest else d.beginDrain 5 := by
  have h8 := Dev.stage_of_full hfull
  exact (if_neg (by simp [h8, huse])).trans ((if_neg (by simp [h8])).trans (if_pos hfull))
theorem Dev.goToRest_below (huse : d.inUse = false) (h8 : d.stage ≠ 8) (h9 : d.stage ≠ 9) (h11 : d.stage ≠ 11) :
    d.goToRest = (d.onLtn fun l => { l with starting := none }).enterRest :=
  (if_neg (by simp [h11, huse])).trans ((if_neg h9).trans (if_neg (by simp [Dev.full, h8])))

end

/-! ## What rest leaves (R453) -/

/-- The value that a register holds, where it was written. -/
def Dev.written (d : Dev) (o : Nat) : Option Word := NMap.find d.regs o
theorem Dev.written_setReg_ne (d : Dev) {o p : Nat} (v : Word) (h : p ≠ o) : (d.setReg o v).written p = d.written p :=
  (NMap.find_put _ _ _ _).trans (if_neg h)
theorem Dev.written_setRb_ne (d : Dev) {o p : Nat} (k : Nat) (b : Bool) (h : p ≠ o) : (d.setRb o k b).written p = d.written p :=
  d.written_setReg_ne _ h
theorem Dev.written_onPwr (d : Dev) (f : Pwr → Pwr) (o : Nat) : (d.onPwr f).written o = d.written o := rfl
theorem Dev.written_refreshStep (d : Dev) {o : Nat} (h : o ≠ 0x20004) : d.refreshStep.written o = d.written o := by
  simp [Dev.refreshStep, Dev.written_setRb_ne _ _ _ h, Dev.written_onPwr]
theorem Dev.written_coreOff (d : Dev) : d.coreOff.written 0x10000 = d.written 0x10000 := by
  rw [Dev.coreOff, Dev.written_refreshStep _ (by decide), Dev.written_onPwr, Dev.setRf, Dev.written_setReg_ne _ _ (by decide)]
  exact foldl_keeps (fun x : Dev => x.written 0x10000) (fun x _ => x.written_setReg_ne 0 (by omega)) _ d
/-- An index that is listed reads its value, whatever the default. -/
theorem NMap.get_of_find {α : Type} {m : NMap α} {k : Nat} {v : α} (h : NMap.find m k = some v) (x : α) : NMap.get m x k = v := by
  induction m with
  | nil => cases h
  | cons e m ih =>
    obtain ⟨i, w⟩ := e
    rw [NMap.get]
    rw [NMap.find] at h
    split at h
    case isTrue hi => rw [if_pos hi, Option.some.inj h]
    case isFalse hi => rw [if_neg hi, ih h]
theorem Dev.reg_of_written {d : Dev} {o : Nat} {v : Word} (h : d.written o = some v) : d.reg o = v := NMap.get_of_find h _
theorem Dev.written_setLtn (d : Dev) (l : Lantern) (o : Nat) : Dev.written { d with ltn := l } o = d.written o := rfl
theorem Dev.written_setStage (d : Dev) (k : Nat) : (d.setStage k).written 0x10000 = some (setFld (d.reg 0x10000) 3 0 k) :=
  (NMap.find_put _ _ _ _).trans (if_pos rfl)
/-- A module that is about to rest: drained and reset, with the scrubbers and the links off. -/
def Dev.quietened (d : Dev) : Dev :=
  let d := d.drainAll.resetDies.loseLocals
  let d := (List.range 8).foldl (fun (d : Dev) k =>
    let o := 0x70A000 + 0x40 * k
    if k < d.part.dies then (d.setRb o 0 false).setRb (o + 0x10) 0 false else d) d
  (List.range d.part.links).foldl (fun (d : Dev) l => d.setRb (0x400000 + 0x1000 * l) 0 false) d
/-- A module whose engines are idle rests, and keeps the Commons. -/
theorem Dev.enterRest_rests {d : Dev} (h : d.enginesIdle = true) :
    d.enterRest = { (d.quietened.setStage 9).coreOff with ltn := { (d.quietened.setStage 9).coreOff.ltn with retained := true } } := by
  unfold Dev.enterRest
  rw [if_neg (by simp [h]), Dev.quietened]
theorem Dev.written_enterRest {d : Dev} (h : d.enginesIdle = true) :
    d.enterRest.written 0x10000 = some (setFld (d.quietened.reg 0x10000) 3 0 9) := by
  rw [Dev.enterRest_rests h, Dev.written_setLtn, Dev.written_coreOff, Dev.written_setStage]
theorem Dev.retained_enterRest {d : Dev} (h : d.enginesIdle = true) : d.enterRest.ltn.retained = true := by
  rw [Dev.enterRest_rests h]

/-! ## Insertion, removal and flash (R440, R477 to R480) -/

section
variable {s : State}

theorem exec_insertion : exec .insertion s = s.gives fun d => d.onLtn fun l => { l with present := true, switchOn := true, indicator := false } :=
  rfl
theorem exec_presentNHigh : exec .presentNHigh s = s.gives fun d => d.powerOff.onLtn fun l => { l with present := false } := rfl
theorem exec_removalDischarge (h3 : s.dev.stage = 3) (hs : s.dev.pwr.stopped = true) (hon : s.dev.ltn.switchOn = true) :
    exec .removalDischarge s = s.gives fun d => d.powerOff.onLtn fun l => { l with indicator := true } :=
  (run_gives rfl (if_pos ⟨h3, hs, hon⟩) : execRemovalDischarge s = _)
theorem exec_removalDischarge_ignored (h : s.dev.stage ≠ 3 ∨ s.dev.pwr.stopped = false ∨ s.dev.ltn.switchOn = false) :
    exec .removalDischarge s = s.gives id :=
  (run_gives (g := id) rfl (if_neg (by rcases h with h | h | h <;> simp [h])) : execRemovalDischarge s = _)
theorem exec_inputSwitchOvercurrent {k : SwitchFault} (hk : k = .overcurrent ∨ k = .railShort) :
    exec (.inputSwitchOvercurrent k) s = s.gives fun d => if d.ltn.switchOn then d.powerOff else d := by
  rcases hk with rfl | rfl <;> rfl
theorem exec_flashUpdateWrite {keeper slot : Bool} (image : FlashImage) (h2 : 2 ≤ s.dev.stage) (hidle : s.dev.slotRuns keeper slot = false)
    (hrec : ¬(s.dev.stage = 10 ∧ keeper = true)) : exec (.flashUpdateWrite keeper slot image) s = s.gives fun d =>
      d.onLtn fun l => { l with flash := NMap.put l.flash (2 * bit keeper + bit slot) image } :=
  (run_gives rfl (if_neg (by rw [hidle]; simp only [Bool.false_eq_true, false_or, not_or]; exact ⟨by omega, hrec⟩)) :
    execFlashUpdateWrite keeper slot image s = _)
theorem exec_flashUpdateWrite_ignored {keeper slot : Bool} (image : FlashImage)
    (h : s.dev.stage < 2 ∨ s.dev.slotRuns keeper slot = true ∨ (s.dev.stage = 10 ∧ keeper = true)) :
    exec (.flashUpdateWrite keeper slot image) s = s.gives id :=
  (run_gives (g := id) rfl (if_pos h) : execFlashUpdateWrite keeper slot image s = _)

/-! ## SPDM (R444 to R446) -/

theorem exec_spdmRequest {port : Option Nat} (r : SpdmReq) (hport : ∀ p, port = some p → p < 2) :
    exec (.spdmRequest port r) s = s.gives fun d => if d.spdmReached port then d.spdm r else d := by
  refine (run_gives (g := fun d => if d.spdmReached port then d.spdm r else d) ?_ rfl : execSpdmRequest port r s = _)
  cases port with
  | none => rfl
  | some p => exact decide_eq_true (hport p rfl)
theorem Dev.spdm_unagreed {d : Dev} {r : SpdmReq} (h : d.ltn.spdmAlg = false) (hr : (∃ k, r = .challenge k) ∨ r = .getDigests) :
    d.spdm r = d.spdmError 4 := by
  rcases hr with ⟨k, rfl⟩ | rfl
  · exact if_neg (by simp [h])
  · exact if_neg (by simp [h])
theorem Dev.spdm_noSlot {d : Dev} {k : Nat} (h : d.ltn.spdmAlg = true) (hk : k ≠ 0) : d.spdm (.challenge k) = d.spdmError 1 :=
  (if_pos h).trans (if_pos hk)

/-! ## The TAP (R469, R470) -/

theorem exec_tapInstruction_unpowered (h : s.dev.ltn.found = none) (i : TapInstr) : exec (.tapInstruction i) s = s.gives id :=
  (run_gives (g := id) rfl (if_pos (by simp [h])) : execTapInstruction i s = _)

section
variable (h : s.dev.ltn.found.isSome = true)
include h

theorem exec_tapInstruction_idcode : exec (.tapInstruction .idcode) s = s.gives fun d =>
    d.onLtn fun l => { l with tap := .idcode, tapOut := d.idcodes } := by
  refine (run_gives rfl ((if_neg (by simpa using Option.isSome_iff_ne_none.1 h)).trans ?_) : execTapInstruction .idcode s = _)
  rfl
/-- Outside board test each die of the chain takes BYPASS, and shifts one bit. -/
theorem exec_tapInstruction_bypass {i : TapInstr} (hi : i ≠ .idcode) (htest : s.dev.ltn.boardTest = false) :
    exec (.tapInstruction i) s = s.gives fun d => d.onLtn fun l => { l with tap := .bypass, tapOut := List.replicate d.chain 0 } := by
  refine (run_gives rfl ((if_neg (by simpa using Option.isSome_iff_ne_none.1 h)).trans ?_) : execTapInstruction i s = _)
  simp only [hi, htest, Bool.false_eq_true, or_self, if_false]
/-- In board test every die takes the instruction; what its pins supply is open (log entry 57). -/
theorem exec_tapInstruction_boardTest (i : TapInstr) (htest : s.dev.ltn.boardTest = true) :
    ∃ free out, exec (.tapInstruction i) s = s.gives fun d =>
      Dev.onLtn { d with free := free } fun l => { l with tap := i, tapOut := out } := by
  have hok : ¬s.dev.ltn.found.isNone = true := by simpa using Option.isSome_iff_ne_none.1 h
  cases i
  case idcode => exact ⟨s.dev.free, s.dev.idcodes, exec_tapInstruction_idcode h⟩
  case bypass | clamp | highz =>
    refine ⟨s.dev.free, List.replicate s.dev.chain 0, (run_gives rfl ((if_neg hok).trans ?_) : execTapInstruction _ s = _)⟩
    simp only [htest, or_true, if_true]
  case samplePreload | extest | extestPulse | extestTrain =>
    refine ⟨s.dev.free + 1, [Config.freeWord s.dev.free], (run_gives rfl ((if_neg hok).trans ?_) : execTapInstruction _ s = _)⟩
    simp only [htest, or_true, if_true]
    rfl

end

end

theorem Dev.stage_powerOff_onLtn (d : Dev) (f : Lantern → Lantern) : (d.powerOff.onLtn f).stage = 0 :=
  (Dev.rf_congr (Dev.reg_onLtn _ f _) 3 0).trans d.powerOff_stage
theorem Dev.length_idcodes (d : Dev) : d.idcodes.length = 1 + d.part.dies := by
  rw [Dev.idcodes, List.length_cons, List.length_replicate, Nat.add_comm]
theorem State.ltn_onDev (s : State) (f : Dev → Dev) : (s.onDev f).dev.ltn = (f s.dev).ltn := rfl
/-- LTN_STAGE, once written, does not hang on the part. -/
theorem State.stage_onDev {s : State} {f : Dev → Dev} {w : Word} (h : (f s.dev).written 0x10000 = some w) :
    (s.onDev f).dev.stage = fld w 3 0 := by
  rw [Dev.stage, Dev.rf, Dev.reg_of_written (d := (s.onDev f).dev) h]

/-- Settles O57: starts, rest and wake take the branch of their stage, rest is read off the register that it writes, and the module's
other commands change the Lantern's own state or remove the power. REST in SAFE_FAULT follows log entry 108, the SPDM codes are
those of log entry 61, the flash slots log entry 56. -/
theorem moduleLifeComplete : Obligations.ModuleLifeComplete := by
  refine ⟨fun s p => ?starts, fun s => ?module⟩
  case starts =>
    intro d
    refine ⟨fun h => ?_, fun h => ?_, exec_restart_starts, exec_restart_refused, fun halive h => ?_, fun hfull huse => ?full,
      fun halive huse h8 h9 h11 => ?_, exec_rest_ignored, exec_wake, exec_wake_ignored⟩
    · exact (exec_powerOn p).trans (runStart_starts (Dev.switchOn_starts p h))
    · exact (exec_powerOn p).trans (runStart_idle (Dev.switchOn_powered p h))
    · exact (exec_rest halive).trans (State.gives_congr (Dev.goToRest_refused h))
    case full =>
      have hrow := exec_rest (Dev.hostAlive_of_full hfull)
      have hrests (h5 : (s.dev.beginDrain 5).pwr.drain = some 5) : exec .rest s = s.gives fun d => (d.beginDrain 5).enterRest :=
        hrow.trans (State.gives_congr ((Dev.goToRest_full hfull huse).trans (if_pos h5)))
      refine ⟨hrests, fun h5 => ?_, fun h5 hidle => ⟨_, hrests h5, ?_⟩⟩
      · exact hrow.trans (State.gives_congr ((Dev.goToRest_full hfull huse).trans (if_neg h5)))
      · have hstage : (s.onDev fun d => (d.beginDrain 5).enterRest).dev.stage = 9 :=
          (State.stage_onDev (f := fun d => (d.beginDrain 5).enterRest) (Dev.written_enterRest hidle)).trans (fld_setFld_same _ _ _ (by decide))
        have hltn : (s.onDev fun d => (d.beginDrain 5).enterRest).dev.ltn = (s.dev.beginDrain 5).enterRest.ltn := s.ltn_onDev _
        exact ⟨hstage, hltn ▸ Dev.retained_enterRest hidle, by rw [Dev.full, hstage]; rfl⟩
    · exact (exec_rest halive).trans (State.gives_congr (Dev.goToRest_below huse h8 h9 h11))
  case module =>
    intro d
    refine ⟨exec_insertion, exec_presentNHigh, ⟨_, exec_presentNHigh, ?_⟩, fun h3 hs hon => ⟨_, exec_removalDischarge h3 hs hon, ?_⟩,
      exec_removalDischarge_ignored, rfl, fun k hk => ⟨fun hon => ⟨_, exec_inputSwitchOvercurrent hk, ?_⟩, fun hoff => ?_⟩,
      fun keeper slot image => ⟨fun h2 hidle hrec => ⟨_, exec_flashUpdateWrite image h2 hidle hrec, ?_⟩, exec_flashUpdateWrite_ignored image⟩,
      fun port r hport => ⟨fun hno => ?_, fun hyes => ⟨?_, fun halg hr => ?_, fun k halg hr hk => ?_⟩⟩,
      exec_tapInstruction_unpowered, fun hfound => ⟨⟨_, exec_tapInstruction_idcode hfound, ?_⟩,
        fun i hi htest => ⟨_, exec_tapInstruction_bypass hfound hi htest, ?_⟩, fun i htest => ?_⟩⟩
    · rw [State.onDev_dev_of_part (f := fun d => d.powerOff.onLtn fun l => { l with present := false }) rfl]
      exact ⟨rfl, rfl, s.dev.stage_powerOff_onLtn _, rfl, rfl, rfl⟩
    · rw [State.onDev_dev_of_part (f := fun d => d.powerOff.onLtn fun l => { l with indicator := true }) rfl]
      exact ⟨rfl, s.dev.stage_powerOff_onLtn _, rfl⟩
    · have hoff : (s.onDev fun d => if d.ltn.switchOn then d.powerOff else d) = s.onDev Dev.powerOff := State.onDev_congr _ _ _ (if_pos hon)
      rw [hoff, State.onDev_dev_of_part (f := Dev.powerOff) rfl]
      exact ⟨rfl, s.dev.powerOff_stage⟩
    · exact (exec_inputSwitchOvercurrent hk).trans (State.gives_congr (g := id) (if_neg (Bool.eq_false_iff.1 hoff)))
    · exact ⟨(NMap.find_put _ _ _ _).trans (if_pos rfl), fun j hj => (NMap.find_put _ _ _ _).trans (if_neg hj), rfl⟩
    · exact (exec_spdmRequest r hport).trans (State.gives_congr (g := id) (if_neg (Bool.eq_false_iff.1 hno)))
    · exact (exec_spdmRequest r hport).trans (State.gives_congr (if_pos hyes))
    · refine ⟨_, (exec_spdmRequest r hport).trans (State.gives_congr (g := fun d => d.spdmError 4) ?_), rfl⟩
      exact (if_pos hyes).trans (Dev.spdm_unagreed halg hr)
    · refine ⟨_, (exec_spdmRequest r hport).trans (State.gives_congr (g := fun d => d.spdmError 1) ?_), rfl⟩
      exact (if_pos hyes).trans (hr ▸ Dev.spdm_noSlot halg hk)
    · exact ⟨by rw [State.ltn_onDev]; exact s.dev.length_idcodes, rfl⟩
    · rfl
    · obtain ⟨free, out, hrow⟩ := exec_tapInstruction_boardTest hfound i htest
      exact ⟨_, hrow, rfl, rfl⟩

end Sys2Proof.Machine
end
